-- ==== Sys2Proof/Word.lean ====
section
/-!
DEFINITION. The word types of the VX-16K and the sparse map in one canonical form that memory,
register tables and the other numbered collections of the machine are held in.
-/

namespace Sys2Proof

/-- A byte of memory. -/
abbrev Byte := BitVec 8

/-- A scalar register (64 bits, R320). -/
abbrev Word := BitVec 64

/-- A vector register (512 bits, R136). -/
abbrev VWord := BitVec 512

/-- A scalar register number, x0 to x31 (R315). -/
abbrev Reg := BitVec 5

/-- A vector register number, v0 to v31. -/
abbrev VReg := BitVec 5

/-- A collection by number: pairs of a key and a value with strictly rising keys, no pair holding the
default that an unlisted key reads as. -/
abbrev SMap (β : Type) := List (Nat × β)

end Sys2Proof
end

