-- ==== Sys2Proof/Syntax.lean ====
section
/-!
DEFINITION. The operations of the machine, one constructor of `Instr` for each row of
spec/opcode_table.json: rows 0 to 195 are the encoded instructions (and the two events that stand among
them), rows 196 to 315 the events, services, commands and resets of the device.
-/

namespace Sys2Proof

/-- Branch conditions (Table 20.3). -/
inductive Cond | eq | ne | lt | ge | ltu | geu
  deriving DecidableEq, Repr

/-- Domains and scopes (Table 2.1, R10); code 7 has no name here, so no instruction holds it. -/
inductive Scope | hart | core | clus | dist | die | pkg | sys
  deriving DecidableEq, Repr

/-- The code of a scope (Table 2.1). -/
def Scope.code : Scope → BitVec 3
  | .hart => 0 | .core => 1 | .clus => 2 | .dist => 3 | .die => 4 | .pkg => 5 | .sys => 6

/-- Orders of the ORD word (R113). -/
inductive Order | relaxed | acq | rel | acqrel | seq
  deriving DecidableEq, Repr

/-- Load sizes (Table 20.3). -/
inductive LdSize | b | h | w | d | bu | hu | wu
  deriving DecidableEq, Repr

/-- Store sizes (Table 20.3). -/
inductive StSize | b | h | w | d
  deriving DecidableEq, Repr

/-- Atomic operations (Table 21.1). -/
inductive AmoOp | add | and | or | xor | min | max | minu | maxu | swap | cas | fadd
  deriving DecidableEq, Repr

/-- Atomic sizes (R332). -/
inductive AmoSize | w | d
  deriving DecidableEq, Repr

/-- The n of GANG (R353). -/
inductive GangSize | eight | sixteen
  deriving DecidableEq, Repr

/-- Output types of MDRN (R366). -/
inductive DrainType | f32 | bf16 | e4m3 | i32
  deriving DecidableEq, Repr

/-- The fields of the V format (Table 20.2). -/
structure VFmt where
  lub : Bool
  lua : Bool
  z : Bool
  mask : BitVec 3
  vb : BitVec 5
  va : BitVec 5
  vd : BitVec 5
  et : BitVec 3
  deriving DecidableEq, Repr

/-- The fields of the VM format (Table 20.2). -/
structure VmFmt where
  lu : Bool
  z : Bool
  mask : BitVec 3
  idx : BitVec 5
  base : BitVec 5
  vd : BitVec 5
  et : BitVec 3
  deriving DecidableEq, Repr

/-- What an ATS Translation Completion says (R216): the page is absent or the access kind denied, or a
host page of `size` bytes with the permissions named. -/
inductive AtsReply
  | denied
  | granted (size : Nat) (read write : Bool)
  deriving DecidableEq, Repr

/-- One request of a DRAM controller (R278): pseudo-channel, row, direction and the tenant charged. -/
structure DramRequest where
  channel : Nat
  row : Nat
  write : Bool
  tenant : Option Nat
  lpddr : Bool
  /-- The number of the operation or engine command that waits for it, 0 for none. -/
  waiter : Nat
  deriving DecidableEq, Repr

/-- An incoming CXL.mem request (R265, R283): the host identity, the device physical address, and the
bytes written, or none for a read of 64 bytes. -/
structure CxlRequest where
  spid : Nat
  addr : Nat
  data : Option (List Byte)
  deriving DecidableEq, Repr

/-- What TENANT_CONFIG writes (R60, R278): a tenant table entry or an occupancy budget. -/
inductive TenantConfig
  | entry (weight : BitVec 8) (slice deadline : BitVec 32)
  | budget (hbm lpddr : BitVec 16)
  deriving DecidableEq, Repr

/-- What GROUP_CONFIG writes (R282): a window table entry or a group-tenant mapping. -/
inductive GroupConfig
  | window (index : Nat) (base : Word) (gib : BitVec 32) (route dev : BitVec 8) (direct : Bool) (target : Word)
  | tenant (dev : Nat) (group : Nat) (tenantOf : Option Nat)
  deriving DecidableEq, Repr

/-- An isolation table entry (R283). -/
structure IsolationConfig where
  spid : Nat
  base : Nat
  size : Nat
  read : Bool
  write : Bool
  deriving DecidableEq, Repr

/-- The three steps of HANDOVER (R288). -/
inductive HandoverStep | quiesce | switch | release
  deriving DecidableEq, Repr

/-- The fields of a key-release request (Table 16.6). -/
structure KeyRequest where
  handle : BitVec 16
  count : BitVec 16
  epoch : BitVec 64
  wrapped : BitVec 320
  measurements : List (BitVec 384)
  deriving DecidableEq, Repr

/-- A firmware image as the checks of R288 see it: its contents' digest, its two signatures, its security
version, its LMS leaf index, the bytes of its walk store (R215), and its configuration block (digest, signatures and
operating-service masks). -/
structure FirmwareImage where
  digest : BitVec 384
  ecdsa : BitVec 768
  lms : List Byte
  version : Nat
  leaf : Nat
  walkStore : List Byte
  config : BitVec 384
  configEcdsa : BitVec 768
  configLms : List Byte
  osMask : List Nat
  deriving DecidableEq, Repr

/-- The parts an engine reset acts on (Table 18.4). -/
inductive CoreUnit | copyEngine | slice | homeDatapath
  deriving DecidableEq, Repr

/-- The operations and events of the machine. -/
inductive Instr
  /-- ADD (R329). Adds two scalar registers modulo 2^64 into x[d]. -/
  | add (d a b : Reg)
  /-- SUB (R396). Subtracts x[b] from x[a] modulo 2^64 into x[d]. -/
  | sub (d a b : Reg)
  /-- AND (R335). Bitwise AND of two scalar registers. -/
  | andR (d a b : Reg)
  /-- OR (R381). Bitwise OR of two scalar registers. -/
  | orR (d a b : Reg)
  /-- XOR (R470). Bitwise XOR of two scalar registers. -/
  | xorR (d a b : Reg)
  /-- SHL (R390). Shifts x[a] left by x[b][5:0], bringing in zeros. -/
  | shl (d a b : Reg)
  /-- SHR (R390). Shifts x[a] right logically by x[b][5:0]. -/
  | shr (d a b : Reg)
  /-- SRA (R393). Shifts x[a] right arithmetically by x[b][5:0]. -/
  | sra (d a b : Reg)
  /-- SLT (R392). Writes 1 when x[a] is below x[b] as signed values, else 0. -/
  | slt (d a b : Reg)
  /-- SLTU (R392). Writes 1 when x[a] is below x[b] as unsigned values, else 0. -/
  | sltu (d a b : Reg)
  /-- MIN (R368). Writes the signed minimum of x[a] and x[b]. -/
  | minS (d a b : Reg)
  /-- MAX (R364). Writes the signed maximum of x[a] and x[b]. -/
  | maxS (d a b : Reg)
  /-- MINU (R368). Writes the unsigned minimum of x[a] and x[b]. -/
  | minu (d a b : Reg)
  /-- MAXU (R364). Writes the unsigned maximum of x[a] and x[b]. -/
  | maxu (d a b : Reg)
  /-- MUL (R378). Writes the low 64 bits of the product of x[a] and x[b]. -/
  | mul (d a b : Reg)
  /-- MULH (R378). Writes the high 64 bits of the signed product. -/
  | mulh (d a b : Reg)
  /-- MULHU (R378). Writes the high 64 bits of the unsigned product. -/
  | mulhu (d a b : Reg)
  /-- DIV (R348). Signed division truncated towards zero, with the edge cases of Table 8.5. -/
  | div (d a b : Reg)
  /-- DIVU (R348). Unsigned division, all ones for a zero divisor. -/
  | divu (d a b : Reg)
  /-- REM (R387). Signed remainder taking the sign of the dividend. -/
  | rem (d a b : Reg)
  /-- REMU (R387). Unsigned remainder; a zero divisor gives the dividend. -/
  | remu (d a b : Reg)
  /-- CLZ (R342). Counts leading zero bits of x[a]. -/
  | clz (d a : Reg)
  /-- CTZ (R347). Counts trailing zero bits of x[a]. -/
  | ctz (d a : Reg)
  /-- POPC (R385). Counts set bits of x[a]. -/
  | popc (d a : Reg)
  /-- BSWAP (R341). Reverses the byte order of x[a]. -/
  | bswap (d a : Reg)
  /-- ADDI (R330). Adds a sign-extended 14-bit immediate to x[a]. -/
  | addi (d a : Reg) (imm : BitVec 14)
  /-- ANDI (R336). ANDs x[a] with a sign-extended immediate. -/
  | andi (d a : Reg) (imm : BitVec 14)
  /-- ORI (R383). ORs x[a] with a sign-extended immediate. -/
  | ori (d a : Reg) (imm : BitVec 14)
  /-- XORI (R471). XORs x[a] with a sign-extended immediate. -/
  | xori (d a : Reg) (imm : BitVec 14)
  /-- SHLI (R390). Shifts x[a] left by an immediate count 0 to 63. -/
  | shli (d a : Reg) (sh : BitVec 6)
  /-- SHRI (R390). Shifts x[a] right logically by an immediate count. -/
  | shri (d a : Reg) (sh : BitVec 6)
  /-- SRAI (R393). Shifts x[a] right arithmetically by an immediate count. -/
  | srai (d a : Reg) (sh : BitVec 6)
  /-- SLTI (R392). Signed compare of x[a] against a sign-extended immediate. -/
  | slti (d a : Reg) (imm : BitVec 14)
  /-- SLTUI (R392). Unsigned compare of x[a] against a sign-extended immediate. -/
  | sltui (d a : Reg) (imm : BitVec 14)
  /-- LUI (R363). Loads imm19 shifted left by 13, sign-extended from bit 31. -/
  | lui (d : Reg) (imm : BitVec 19)
  /-- EXTU (R351). Extracts a bit field of x[a] zero-extended. -/
  | extu (d a : Reg) (pos len1 : BitVec 6)
  /-- EXTS (R351). Extracts a bit field of x[a] sign-extended. -/
  | exts (d a : Reg) (pos len1 : BitVec 6)
  /-- INS (R356). Inserts the low bits of x[a] into a field of x[d]. -/
  | ins (d a : Reg) (pos len1 : BitVec 6)
  /-- ADDPC (R331). Writes PC plus imm19 times 8,192 to x[d]. -/
  | addpc (d : Reg) (imm : BitVec 19)
  /-- B_COND (R337). Conditional branch comparing x[a] and x[b] by cond. -/
  | bcond (c : Cond) (a b : Reg) (off : BitVec 11)
  /-- JAL (R357). Jumps PC-relative and links PC + 4 in x[d]. -/
  | jal (d : Reg) (off : BitVec 19)
  /-- JALR (R358). Jumps to x[a] plus immediate with bit 0 cleared and links. -/
  | jalr (d a : Reg) (imm : BitVec 14)
  /-- YIELD (R472). Makes the context not ready until another context issues or 8 cycles pass. -/
  | yield
  /-- WFI (R467). Waits until an interrupt, engine fault, message count or pre-emption request is pending. -/
  | wfi
  /-- ERET (R350). Returns from a trap in S mode, or from a U engine-fault handler. -/
  | eret
  /-- EBREAK (R349). Raises BREAKPOINT. -/
  | ebreak
  /-- MFSR (R367). Reads a special register into x[d]. -/
  | mfsr (d : Reg) (n : BitVec 12)
  /-- MTSR (R377). Writes x[a] to a special register, with each register's own effect. -/
  | mtsr (n : BitVec 12) (a : Reg)
  /-- SAFEPT (R389). Safe point: no effect unless a pre-emption request is pending, then a stop with map n. -/
  | safept (n : BitVec 12)
  /-- HALT (R355). Completes any sub-tile, powers bank j down, increments GEN and frees the context. -/
  | halt
  /-- HALT_RETAIN (R46). Halts while lending bank j intact to the hart named in x[a]. -/
  | haltRetain (a : Reg)
  /-- LD (R362). Loads 1 to 8 bytes, sign- or zero-extended, into x[d]. -/
  | ld (sz : LdSize) (d a : Reg) (off : BitVec 11)
  /-- ST (R394). Stores the low bytes of x[s] to memory. -/
  | st (sz : StSize) (s a : Reg) (off : BitVec 11)
  /-- AMO (R333). Sends an atomic read-modify-write to the line's home core. -/
  | amo (op : AmoOp) (sz : AmoSize) (d a b : Reg)
  /-- ORD (R382). Prefix giving the next instruction an order at a scope. -/
  | ord (o : Order) (sc : Scope)
  /-- FENCE (R352). Orders earlier accesses of selected classes before later ones at a scope. -/
  | fence (kinds : BitVec 4) (sc : Scope)
  /-- MSEND (R372). Sends an active message to run handler n for the hart named by x[a]. -/
  | msend (d a b : Reg) (n : BitVec 4)
  /-- MWAIT (R379). Waits until MPEND is nonzero, then reads and clears it with an acquire. -/
  | mwait (d : Reg)
  /-- MRET (R371). Ends a handler: releases, increments MPEND, returns DONE. -/
  | mret
  /-- MPOLL (R370). Reads and clears MPEND without waiting. -/
  | mpoll (d : Reg)
  /-- QPUSH (R386). Appends x[b] to a queue register, blocking while full. -/
  | qpush (q b : Reg)
  /-- QPOP (R386). Removes the oldest queue entry into x[d], blocking while empty. -/
  | qpop (d q : Reg)
  /-- QPEEK (R386). Copies the oldest queue entry into x[d], blocking while empty. -/
  | qpeek (d q : Reg)
  /-- QCNT (R386). Returns the number of entries of the caller's world in a queue. -/
  | qcnt (d q : Reg)
  /-- TFETCH (R43). Completes any held sub-tile and takes the next sub-tile of the node. -/
  | tfetch (d : Reg)
  /-- TSPAWN (R47). Adds a node descriptor to the launch and returns its index. -/
  | tspawn (d a : Reg)
  /-- TDONE (R44). Completes the held sub-tile and releases the hart's writes. -/
  | tdone
  /-- SVC (R275). Releases at pkg and places a service request in the die ring. -/
  | svc (d a : Reg) (n : BitVec 14)
  /-- SVC_STATUS_RETURN (R275). The service writes its status and the waiting caller acquires at pkg and receives it. -/
  | svcStatusReturn (h : Nat)
  /-- SIGC (R70). Releases and atomically adds to a fence counter, re-testing its waiters. -/
  | sigc (d a b : Reg) (sc : Scope)
  /-- WAITC (R466). Waits until a fence counter reaches a target, then acquires. -/
  | waitc (d a b : Reg) (sc : Scope)
  /-- BAR (R339). Barrier over the node's started harts in a scope instance. -/
  | bar (sc : Scope)
  /-- GANG (R178). Gathers gang members at the wired barrier for the next joint instruction. -/
  | gang (n : GangSize)
  /-- GANG_GATHER_COMPLETE (R178). All members have arrived with free queue entries; checks and queues the joint command. -/
  | gangGatherComplete (clus gather : Nat)
  /-- GRANT (R221). Installs rights over a range for a grantee owner. -/
  | grant (a b : Reg)
  /-- REVOKE (R222). Removes rights transitively and starts the lookaside shootdown. -/
  | revoke (a b : Reg)
  /-- PGREQ (R237). Sends a page request for a host or translated page and waits for the response. -/
  | pgreq (d a b : Reg)
  /-- CPCMD (R344). Queues a copy-engine command and returns its tag. -/
  | cpcmd (d a b : Reg) (acq rel : Option Scope)
  /-- CPCMD_RESUME (R99). Restarts a faulted copy command under the same tag with a remainder. -/
  | cpcmdResume (d a b : Reg)
  /-- CPSTAT (R345). Reads the state of an engine tag without waiting. -/
  | cpstat (d a : Reg)
  /-- TWAIT (R406). Waits until a tag is not outstanding, then acquires at its release scope. -/
  | twait (a : Reg)
  /-- BKCMD (R340). Queues a bulk-engine command and returns its tag. -/
  | bkcmd (d a b : Reg) (acq rel : Option Scope)
  /-- BKCMD_RESUME (R99). Restarts a faulted bulk command under the same tag. -/
  | bkcmdResume (d a b : Reg)
  /-- COLCMD (R343). Submits a collective descriptor and joins a round. -/
  | colcmd (d a : Reg) (sc : Scope)
  /-- CROT (R346). Rotates a SELF tile around the cluster at the wired barrier. -/
  | crot (a b : Reg)
  /-- TDEF (R398). Installs a tensor record and returns its TID. -/
  | tdef (d a : Reg)
  /-- TVER (R405). Advances a tensor's VERSION after accesses under the old version complete. -/
  | tver (d a : Reg)
  /-- TKILL (R403). Invalidates a tensor record, keeping its version. -/
  | tkill (a : Reg)
  /-- MCFG (R365). Waits for the matrix queue to empty and sets the slice configuration. -/
  | mcfg (a b : Reg)
  /-- MLDW (R369). Queues a fill of the shadow weight plane. -/
  | mldw (a : Reg)
  /-- MSWAP (R376). Queues an exchange of the active and shadow planes. -/
  | mswap
  /-- MSTR (R375). Joint command streaming activation rows past the gang's planes. -/
  | mstr (a b : Reg)
  /-- MDRN (R366). Joint command draining each member's accumulator block to its SELF. -/
  | mdrn (t : DrainType) (a : Reg)
  /-- MZERO (R380). Joint command clearing every member's accumulators. -/
  | mzero
  /-- MSTAT (R374). Reads the slice status; QCOUNT 0 acquires at core. -/
  | mstat (d : Reg)
  /-- WINIT (R468). Initialises a window accumulator header at its home. -/
  | winit (a b : Reg)
  /-- WPUSH (R468). Pushes a value into a window accumulator and returns the new SEQ. -/
  | wpush (d a b : Reg)
  /-- WREAD (R468). Reads the window aggregate and sets the read latch. -/
  | wread (d a : Reg)
  /-- WFLIP (R468). Flips the back stack to the front when the front is empty. -/
  | wflip (d a : Reg)
  /-- WRESET (R468). Expires every contribution, keeping SEQ. -/
  | wreset (d a : Reg)
  /-- WSTAT (R468). Returns SEQ and counts from the home, or the latch when a is x0. -/
  | wstat (d a : Reg)
  /-- VADD (R411). Wrapping integer vector add. -/
  | vadd (f : VFmt)
  /-- VSUB (R462). Wrapping integer vector subtract. -/
  | vsub (f : VFmt)
  /-- VMUL (R442). Low half of the integer element product. -/
  | vmul (f : VFmt)
  /-- VMULH (R443). High half of the signed element product. -/
  | vmulh (f : VFmt)
  /-- VMIN (R441). Signed element minimum. -/
  | vmin (f : VFmt)
  /-- VMAX (R441). Signed element maximum. -/
  | vmax (f : VFmt)
  /-- VMINU (R441). Unsigned element minimum. -/
  | vminu (f : VFmt)
  /-- VMAXU (R441). Unsigned element maximum. -/
  | vmaxu (f : VFmt)
  /-- VAND (R412). Element bitwise AND. -/
  | vand (f : VFmt)
  /-- VOR (R446). Element bitwise OR. -/
  | vor (f : VFmt)
  /-- VXOR (R465). Element bitwise XOR. -/
  | vxor (f : VFmt)
  /-- VSHL (R457). Per-lane left shift. -/
  | vshl (f : VFmt)
  /-- VSHR (R457). Per-lane logical right shift. -/
  | vshr (f : VFmt)
  /-- VSRA (R457). Per-lane arithmetic right shift. -/
  | vsra (f : VFmt)
  /-- VSADD (R453). Saturating signed element add. -/
  | vsadd (f : VFmt)
  /-- VSSUB (R453). Saturating signed element subtract. -/
  | vssub (f : VFmt)
  /-- VFADD (R425). Float element add rounded once RNE. -/
  | vfadd (f : VFmt)
  /-- VFSUB (R425). Float element subtract rounded once RNE. -/
  | vfsub (f : VFmt)
  /-- VFMUL (R425). Float element multiply rounded once RNE. -/
  | vfmul (f : VFmt)
  /-- VFMA (R428). Fused multiply-add va·vb + vd. -/
  | vfma (f : VFmt)
  /-- VFNMA (R428). Fused vd - va·vb. -/
  | vfnma (f : VFmt)
  /-- VFMIN (R429). Float element minimum, NaN-avoiding. -/
  | vfmin (f : VFmt)
  /-- VFMAX (R429). Float element maximum, NaN-avoiding. -/
  | vfmax (f : VFmt)
  /-- VFDIV (R425). Float element divide rounded once RNE. -/
  | vfdiv (f : VFmt)
  /-- VABS (R410). Integer element absolute value. -/
  | vabs (f : VFmt)
  /-- VNEG (R445). Integer element negation. -/
  | vneg (f : VFmt)
  /-- VFABS (R424). Clears the sign bit of each float element. -/
  | vfabs (f : VFmt)
  /-- VFNEG (R424). Inverts the sign bit of each float element. -/
  | vfneg (f : VFmt)
  /-- VFSQRT (R432). Correctly rounded float square root. -/
  | vfsqrt (f : VFmt)
  /-- VRCP (R450). Reciprocal rounded to reduced precision. -/
  | vrcp (f : VFmt)
  /-- VRSQ (R452). Reciprocal square root rounded to reduced precision. -/
  | vrsq (f : VFmt)
  /-- VEXP2 (R422). Base-2 exponential rounded to reduced precision. -/
  | vexp2 (f : VFmt)
  /-- VLOG2 (R440). Base-2 logarithm rounded to reduced precision. -/
  | vlog2 (f : VFmt)
  /-- VSIN (R458). Exact sine rounded to reduced precision. -/
  | vsin (f : VFmt)
  /-- VCOS (R415). Exact cosine rounded to reduced precision. -/
  | vcos (f : VFmt)
  /-- VCMPEQ (R414). Integer equality compare writing a mask. -/
  | vcmpeq (f : VFmt)
  /-- VCMPLT (R414). Signed less-than compare writing a mask. -/
  | vcmplt (f : VFmt)
  /-- VCMPLTU (R414). Unsigned less-than compare writing a mask. -/
  | vcmpltu (f : VFmt)
  /-- VFCMPEQ (R427). Float equality compare writing a mask. -/
  | vfcmpeq (f : VFmt)
  /-- VFCMPLT (R427). Float less-than compare writing a mask, NV on NaN. -/
  | vfcmplt (f : VFmt)
  /-- VFCMPLE (R427). Float less-or-equal compare writing a mask, NV on NaN. -/
  | vfcmple (f : VFmt)
  /-- VFCMPUN (R427). Float unordered test writing a mask. -/
  | vfcmpun (f : VFmt)
  /-- VCVT (R417). Converts float elements between formats with a rounding mode. -/
  | vcvt (f : VFmt)
  /-- VPERM (R448). Permutes va by indices in vb. -/
  | vperm (f : VFmt)
  /-- VSEL (R456). Selects va or vb per lane by a required mask. -/
  | vsel (f : VFmt)
  /-- VCVTI (R419). Converts between signed integers and floats. -/
  | vcvti (f : VFmt)
  /-- VCVTIU (R419). Converts between unsigned integers and floats. -/
  | vcvtiu (f : VFmt)
  /-- VREDSUM (R451). Wrapping integer sum of lanes into lane 0. -/
  | vredsum (f : VFmt)
  /-- VREDMAX (R451). Signed maximum of lanes into lane 0. -/
  | vredmax (f : VFmt)
  /-- VREDMIN (R451). Signed minimum of lanes into lane 0. -/
  | vredmin (f : VFmt)
  /-- VFREDSUM (R431). Pairwise-tree float sum of lanes into lane 0. -/
  | vfredsum (f : VFmt)
  /-- VFREDMAX (R430). Float maximum of lanes into lane 0. -/
  | vfredmax (f : VFmt)
  /-- VSCAN (R454). Inclusive scan from lane 0 upward. -/
  | vscan (f : VFmt)
  /-- VDOT (R421). INT8 dot product of four bytes accumulated into INT32 lanes. -/
  | vdot (f : VFmt)
  /-- VTDOT (R463). Ternary-weight select-add accumulated into INT32 lanes. -/
  | vtdot (f : VFmt)
  /-- VUNPK3 (R464). Unpacks 12 T3 bytes of a group into INT8 weights. -/
  | vunpk3 (f : VFmt)
  /-- VPACK3 (R447). Packs INT8 ternary lanes into 12 T3 bytes of a group. -/
  | vpack3 (f : VFmt)
  /-- VHAD (R436). Signed 32-point Hadamard transform of BF16 lanes. -/
  | vhad (f : VFmt)
  /-- VQNT (R449). Quantises 32 BF16 lanes into one block-scaled block image. -/
  | vqnt (f : VFmt)
  /-- VLD (R438). Loads one aligned 64-byte line into a vector register. -/
  | vld (f : VmFmt)
  /-- VST (R460). Stores selected elements to one aligned line. -/
  | vst (f : VmFmt)
  /-- VLDS (R439). Strided vector load. -/
  | vlds (f : VmFmt)
  /-- VSTS (R461). Strided vector store. -/
  | vsts (f : VmFmt)
  /-- VGTH (R435). Gathers elements from base plus vector indices. -/
  | vgth (f : VmFmt)
  /-- VSCT (R455). Scatters elements to base plus vector indices. -/
  | vsct (f : VmFmt)
  /-- VBCAST (R413). Broadcasts a scalar register into every selected lane. -/
  | vbcast (f : VFmt)
  /-- VINS (R437). Inserts a scalar into one lane of vd. -/
  | vins (f : VFmt)
  /-- VEXT (R423). Extracts one lane into a scalar register. -/
  | vext (f : VFmt)
  /-- VSLUP (R459). Slides lanes up by a scalar count. -/
  | vslup (f : VFmt)
  /-- VSLDN (R459). Slides lanes down by a scalar count. -/
  | vsldn (f : VFmt)
  /-- VCPRS (R416). Compresses selected elements to the low lanes. -/
  | vcprs (f : VFmt)
  /-- KAND (R359). Mask AND of vd and va. -/
  | kand (f : VFmt)
  /-- KOR (R359). Mask OR of vd and va. -/
  | kor (f : VFmt)
  /-- KXOR (R359). Mask XOR of vd and va. -/
  | kxor (f : VFmt)
  /-- KANDN (R359). Mask vd AND NOT va. -/
  | kandn (f : VFmt)
  /-- KNOT (R359). Mask NOT of va into vd. -/
  | knot (f : VFmt)
  /-- KCNT (R360). Counts set mask bits of n elements into a scalar. -/
  | kcnt (f : VFmt)
  /-- KFST (R361). Finds the lowest set mask bit among n elements. -/
  | kfst (f : VFmt)
  /-- VDEQ (R420). Dequantises one block image into 32 BF16 lanes. -/
  | vdeq (f : VFmt)
  /-- VADD_16 (R426). 16-bit two-address integer add vd + va. -/
  | vadd16 (w : Bool) (d a : VReg)
  /-- VSUB_16 (R462). 16-bit two-address integer subtract vd - va. -/
  | vsub16 (w : Bool) (d a : VReg)
  /-- VMUL_16 (R442). 16-bit two-address integer multiply. -/
  | vmul16 (w : Bool) (d a : VReg)
  /-- VMIN_16 (R441). 16-bit two-address signed minimum. -/
  | vmin16 (w : Bool) (d a : VReg)
  /-- VMAX_16 (R441). 16-bit two-address signed maximum. -/
  | vmax16 (w : Bool) (d a : VReg)
  /-- VAND_16 (R412). 16-bit two-address 512-bit AND. -/
  | vand16 (d a : VReg)
  /-- VOR_16 (R446). 16-bit two-address 512-bit OR. -/
  | vor16 (d a : VReg)
  /-- VXOR_16 (R465). 16-bit two-address 512-bit XOR. -/
  | vxor16 (d a : VReg)
  /-- VFADD_16 (R426). 16-bit two-address float add. -/
  | vfadd16 (w : Bool) (d a : VReg)
  /-- VFSUB_16 (R426). 16-bit two-address float subtract vd - va. -/
  | vfsub16 (w : Bool) (d a : VReg)
  /-- VFMUL_16 (R426). 16-bit two-address float multiply. -/
  | vfmul16 (w : Bool) (d a : VReg)
  /-- VFMIN_16 (R429). 16-bit two-address float minimum. -/
  | vfmin16 (w : Bool) (d a : VReg)
  /-- VFMAX_16 (R429). 16-bit two-address float maximum. -/
  | vfmax16 (w : Bool) (d a : VReg)
  /-- VMV (R444). 16-bit move of all 512 bits of va to vd. -/
  | vmv (d a : VReg)
  /-- VSADD_16 (R453). 16-bit two-address saturating add. -/
  | vsadd16 (w : Bool) (d a : VReg)
  /-- VFABS_16 (R424). 16-bit float absolute value of va into vd. -/
  | vfabs16 (w : Bool) (d a : VReg)
  /-- MEMORY_RESPONSE (R89). Load data or a store acknowledgement returns and frees its in-flight slot. -/
  | memoryResponse (op : Nat)
  /-- HOME_REPLY_ARRIVAL (R48). The result or status of an AMO, MSEND or WACC operation returns to the sender and is written. -/
  | homeReplyArrival (op : Nat)
  /-- AMO_HOME_EXECUTE (R333). The home handler context executes an arrived AMO and replies with the old value. -/
  | amoHomeExecute (core : Nat)
  /-- MESSAGE_ARRIVAL (R48). An active message arrives at the destination core, is judged and its handler started. -/
  | messageArrival (core : Nat)
  /-- HANDLER_BUDGET_EXHAUSTED (R50). A handler reaching 4,096 instructions without MRET ends with status FAILED. -/
  | handlerBudgetExhausted (core : Nat)
  /-- WACC_HOME_EXECUTE (R198). The home executes an arrived WACC operation on the object. -/
  | waccHomeExecute (core : Nat)
  /-- WACC_FLIP_COMPLETE (R203). A background flip finishes and waiting operations on the object proceed. -/
  | waccFlipComplete (core : Nat) (header : Nat)
  /-- REMOTE_WRITE_APPLY (R121). A write from another die is applied in this die's view once its causal stamp is met. -/
  | remoteWriteApply (flight : Nat)
  /-- SETTLE_WRITE (R123). The home die sends its last value to a die whose view ends differently. -/
  | settleWrite (die : Nat) (key : Nat)
  /-- HART_START (R42). A cluster starts a hart of a node on a free context in the state of Table 3.6. -/
  | hartStart (core ctx : Nat)
  /-- DISPATCH_ARBITRATION (R63). A free work-queue slot triggers arbitration and dispatch of a ready node to the cluster. -/
  | dispatchArbitration (clus : Nat)
  /-- NODE_AGING (R62). A node waiting 100 us in the pool rises one priority level. -/
  | nodeAging (die : Nat)
  /-- EVENT_RECORD_TAKE (R66). The cluster control core takes an event record and releases successors. -/
  | eventRecordTake (clus : Nat)
  /-- LAUNCH_END_SWEEP (R54). The 500 ns reduction sweep of counts and idle states, declaring a launch ended. -/
  | launchEndSweep (launch : Nat)
  /-- WORLD_RETIRE (R259). A world's handle is refused, messages bounce and its engine commands stop. -/
  | worldRetire (launch : Nat)
  /-- WORLD_RETIRE_SCRUB (R259). After admitted accesses complete, the world's state is scrubbed and its key destroyed. -/
  | worldRetireScrub (launch : Nat)
  /-- SLICE_END (R75). A tenant's slice expires while other work waits, stopping hand-out of its sub-tiles. -/
  | sliceEnd (clus tenant row : Nat)
  /-- DEADLINE_EXPIRY (R76). The drain deadline passes and remaining harts stop at their next stop point. -/
  | deadlineExpiry (clus tenant row : Nat)
  /-- FORCED_STOP (R77). A hart issuing 65,536 instructions after the deadline without a stop point is stopped. -/
  | forcedStop (h : Nat)
  /-- CONTEXT_RELEASE (R83). A completed save releases the context as HALT does, keeping the bank in the record. -/
  | contextRelease (h : Nat)
  /-- HART_RESUME (R86). A saved hart is restored into its own context and returned by ERET. -/
  | hartResume (core ctx : Nat)
  /-- INTERRUPT_TAKE (R231). A pending interrupt is taken into S mode at EVEC. -/
  | interruptTake (h : Nat)
  /-- ENGINE_FAULT_DELIVERY (R234). The oldest queued engine fault is written at SELF + EFR and delivered to U or S. -/
  | engineFaultDelivery (h : Nat)
  /-- ENGINE_COMMAND_START (R96). An engine starts the next queued command with its acquire. -/
  | engineCommandStart (core tag : Nat)
  /-- ENGINE_PIECE (R244). A copy piece is checked and moved; a failed check stops the command. -/
  | enginePiece (core tag : Nat)
  /-- BULK_CHUNK_SELECT (R101). At a chunk boundary the die's bulk engines choose the next chunk to run. -/
  | bulkChunkSelect (die : Nat)
  /-- ENGINE_COMMAND_COMPLETE (R131). After the last write the command releases, posts its event record, completes its tag and queue post. -/
  | engineCommandComplete (core tag : Nat)
  /-- MLDW_EXECUTE (R175). A queued MLDW fills the shadow plane from the weight tensor. -/
  | mldwExecute (core : Nat)
  /-- MSWAP_EXECUTE (R176). A queued MSWAP exchanges the planes. -/
  | mswapExecute (core : Nat)
  /-- MSTR_EXECUTE (R180). A joint stream starts, checks, and accumulates rows on all members. -/
  | mstrExecute (gang : Nat)
  /-- MZERO_EXECUTE (R181). A joint MZERO clears all members' accumulators. -/
  | mzeroExecute (gang : Nat)
  /-- MDRN_EXECUTE (R181). A joint MDRN writes each member's block to its SELF. -/
  | mdrnExecute (gang : Nat)
  /-- MATRIX_COMMAND_COMPLETE (R188). A running matrix command completes and frees its queue entry. -/
  | matrixCommandComplete (core : Nat)
  /-- PAGE_WALK_COMPLETE (R215). A page walker returns a leaf or refusal for a missed translation. -/
  | pageWalkComplete (h : Nat)
  /-- PLB_SHOOTDOWN (R223). A lookaside buffer receives a shootdown and drops stale entries. -/
  | plbShootdown (core shoot : Nat)
  /-- PLB_SHOOTDOWN_ACK (R223). A core acknowledges once its admitted accesses complete. -/
  | plbShootdownAck (core shoot : Nat)
  /-- ATS_TRANSLATION_COMPLETION (R216). An ATS Translation Completion from the host fills or denies a translation. -/
  | atsTranslationCompletion (die tenant : Nat) (page : Nat) (reply : AtsReply)
  /-- ATS_INVALIDATION_REQUEST (R239). A host ATS invalidation removes matching entries from every die's cache. -/
  | atsInvalidationRequest (tenant : Nat) (page len : Nat)
  /-- ATS_INVALIDATION_COMPLETION (R239). The completion is sent once outstanding requests using the entries have returned. -/
  | atsInvalidationCompletion (inval : Nat)
  /-- PAGE_REQUEST_RESPONSE (R237). A page request response arrives and the waiting PGREQ receives its status. -/
  | pageRequestResponse (h : Nat) (code : BitVec 4)
  /-- PGREQ_TIMEOUT (R237). No page request response within 20 ms gives TIMEOUT. -/
  | pgreqTimeout (h : Nat)
  /-- COMPLETION_TIMEOUT (R274). A host read or ATS request without completion in time ends its command with DEVICE_ERROR. -/
  | completionTimeout (core tag : Nat)
  /-- DRAM_REQUEST_ISSUE (R278). A DRAM controller issues a request and charges occupancy units to its tenant. -/
  | dramRequestIssue (req : DramRequest)
  /-- BUDGET_REFRESH (R279). At every us boundary budgets refresh less carried debt and suspended bulk commands resume. -/
  | budgetRefresh
  /-- KRYTUK_FLIT_RECEIVE (R280). A Krytuk flit arrives, its CRC is checked and slots delivered in sequence. -/
  | krytukFlitReceive (port : Nat) (flit : List Byte)
  /-- REMOTE_REQUEST_EXECUTE (R281). A peer request executes at the local home core under the local rights tables. -/
  | remoteRequestExecute (req : Nat)
  /-- CXL_MEM_REQUEST (R283). An incoming CXL.mem request is checked against the isolation table or poisoned. -/
  | cxlMemRequest (req : CxlRequest)
  /-- LAUNCH (R38). Host command that checks a launch record and starts the launch. -/
  | hostLaunch (tenant : Nat)
  /-- SIGNAL (R267). Host command adding to a fence counter as SIGC at sys scope. -/
  | hostSignal (tenant : Nat)
  /-- ABORT (R267). Host command ending a named launch as R41 does, state ABORTED. -/
  | hostAbort (tenant : Nat)
  /-- HOST_FENCE (R267). Host command done once every earlier command is final or running. -/
  | hostFence (tenant : Nat)
  /-- HOSTMAP (R268). Host command allocating a host-window range and granting an owner R and W. -/
  | hostMap (tenant : Nat)
  /-- HOSTUNMAP (R268). Host command freeing a host-window range. -/
  | hostUnmap (tenant : Nat)
  /-- PROXY_REPLY (R273). Host command completing a waiting proxied service call. -/
  | proxyReply (tenant : Nat)
  /-- COMMAND_WAIT_RELEASE (R268). A held command whose WAITCTR test passes is taken with its window. -/
  | commandWaitRelease (tenant : Nat)
  /-- COMPLETION_RECORD (R269). A completion record is written when ring room exists and MSI-X sent if asked. -/
  | completionRecord (tenant : Nat)
  /-- PROXY_TIMEOUT (R273). No proxy reply within 20 ms: status TIMEOUT and the entry ABORTED. -/
  | proxyTimeout (tenant : Nat) (jseq : Nat)
  /-- NOP (R284). Service returning status 0. -/
  | svcNop (slot : Nat)
  /-- CONSOLE (R273). Proxied write of a buffer to the host console. -/
  | console (slot : Nat)
  /-- FILE_OPEN (R273). Proxied file open returning a handle. -/
  | fileOpen (slot : Nat)
  /-- FILE_READ (R273). Proxied file read into the caller's buffer. -/
  | fileRead (slot : Nat)
  /-- FILE_WRITE (R273). Proxied file write from the caller's buffer. -/
  | fileWrite (slot : Nat)
  /-- FILE_CLOSE (R273). Proxied file close. -/
  | fileClose (slot : Nat)
  /-- RANGE_ALLOC (R241). Allocates a range with its tag and grants OWN R, W, A and G. -/
  | rangeAlloc (slot : Nat)
  /-- RANGE_FREE (R241). Revokes all grants on a range, raises its tag and frees it. -/
  | rangeFree (slot : Nat)
  /-- PAGE_MAP (R284). Installs a leaf under a translation shootdown. -/
  | pageMap (slot : Nat)
  /-- PAGE_UNMAP (R284). Removes a leaf under a translation shootdown. -/
  | pageUnmap (slot : Nat)
  /-- RESIDENCY (R284). Makes a translated page resident for a PGREQ. -/
  | residency (h : Nat) (status : BitVec 4)
  /-- MIGRATE (R229). Moves a page line by line and commits with a shootdown. -/
  | migrate (slot : Nat)
  /-- COUNTER_ALLOC (R473). Assigns a free fence counter of the caller's die to its tenant. -/
  | counterAlloc (slot : Nat)
  /-- COUNTER_FREE (R473). Withdraws a counter; its waiters wake with RIGHTS_DENIED. -/
  | counterFree (slot : Nat)
  /-- KEY_DESTROY (R284). Destroys a shared handle's key. -/
  | keyDestroy (slot : Nat)
  /-- CONN_OPEN (R273). Proxied network connection open. -/
  | connOpen (slot : Nat)
  /-- CONN_SEND (R273). Proxied network send. -/
  | connSend (slot : Nat)
  /-- CONN_RECV (R273). Proxied network receive. -/
  | connRecv (slot : Nat)
  /-- CONN_CLOSE (R273). Proxied network connection close. -/
  | connClose (slot : Nat)
  /-- LAUNCH_SUBMIT (R284). Submits a launch record from device memory. -/
  | launchSubmit (slot : Nat)
  /-- LAUNCH_ABORT (R473). Aborts a launch as command kind ABORT does. -/
  | launchAbort (slot : Nat)
  /-- TENANT_CONFIG (R60). Writes a tenant table entry or an occupancy budget. -/
  | tenantConfig (tenant : Nat) (cfg : TenantConfig)
  /-- GROUP_CONFIG (R282). Writes the window table and the group-tenant map. -/
  | groupConfig (cfg : GroupConfig)
  /-- PERF_READ (R284). Copies the performance counters of the caller's cluster or half-array. -/
  | perfRead (slot : Nat)
  /-- TIME_READ (R473). Returns TIME and its offset from host time. -/
  | timeRead (slot : Nat)
  /-- TRAP_REPORT (R286). Journals a trap record for the host. -/
  | trapReport (slot : Nat)
  /-- COUNTER_ASSIGN (R284). Assigns a counter to a named tenant. -/
  | counterAssign (ctr tenant : Nat)
  /-- ISOLATION_SET (R283). Writes an isolation table entry and advances the layout epoch. -/
  | isolationSet (entry : Nat) (cfg : IsolationConfig)
  /-- LAYOUT_SET (R263). Changes a logical-device partition and advances the layout epoch. -/
  | layoutSet (tenant : Nat) (base size : Nat) (va : Word)
  /-- HANDOVER (R288). Quiesces the rings, switches to the new firmware bank and releases. -/
  | handover (step : HandoverStep)
  /-- GET_VERSION (R262). SPDM request answered by the security engine. -/
  | getVersion
  /-- GET_CAPABILITIES (R262). SPDM capabilities request. -/
  | getCapabilities
  /-- NEGOTIATE_ALGORITHMS (R262). SPDM algorithm negotiation, offering ECDSA P-384 and SHA-384 only. -/
  | negotiateAlgorithms (asym hash : Bool)
  /-- GET_DIGESTS (R262). SPDM certificate digests request. -/
  | getDigests
  /-- GET_CERTIFICATE (R262). SPDM certificate request. -/
  | getCertificate (offset len : Nat)
  /-- CHALLENGE (R262). SPDM challenge, signed with ECDSA and LMS. -/
  | challenge (nonce : BitVec 256)
  /-- GET_MEASUREMENTS (R262). SPDM measurements request returning the blocks of Table 16.5. -/
  | getMeasurements (index : BitVec 8) (tenant : Nat) (jseq : Nat)
  /-- KEY_EXCHANGE (R262). SPDM key exchange opening a secure session. -/
  | keyExchange (exch : BitVec 768)
  /-- FINISH (R262). SPDM finish completing a secure session. -/
  | finish (verify : BitVec 384)
  /-- KEY_RELEASE (R264). Installs a shared key under a policy if the layout epoch is current. -/
  | keyRelease (req : List Byte)
  /-- FIRMWARE_IMAGE_RECEIVE (R288). Ocarina receives a PLDM firmware image into the inactive bank. -/
  | firmwareImageReceive (image : FirmwareImage)
  /-- FIRMWARE_ACTIVATE (R288). Activation request verifying the image and starting handover. -/
  | firmwareActivate
  /-- FIRMWARE_SELFTEST_FAIL (R289). A failed start-up self-test reloads the old bank and reports the update failed. -/
  | firmwareSelftestFail
  /-- SENSOR_READ (R290). PLDM request reading a sensor of Table 18.3. -/
  | sensorRead (id : BitVec 16) (inst : Nat)
  /-- SENSOR_UPDATE (R290). A sensor's periodic update interval expires and its value refreshes. -/
  | sensorUpdate (id : BitVec 16) (inst : Nat)
  /-- COLD_RESET (R291). Clears the whole package, DRAM and keys. -/
  | coldReset
  /-- WARM_RESET (R291). Clears cores, SRAM, vaults, engines, tables and keys. -/
  | warmReset
  /-- DIE_RESET (R291). Clears one die's cores, SRAM, vaults, engines, walkers and counters. -/
  | dieReset (die : Nat)
  /-- CLUSTER_RESET (R291). Clears one cluster's cores, vault, joint array and queues. -/
  | clusterReset (clus : Nat)
  /-- CORE_RESET (R291). Clears one core's contexts, SRAM, pool, slice, queues and buffers. -/
  | coreReset (core : Nat)
  /-- ENGINE_RESET (R291). Resets one copy engine, slice or home datapath; queued commands fault. -/
  | engineReset (core : Nat) (unit : CoreUnit)
  /-- BULK_RESET (R291). Resets one bulk engine; its commands fault DEVICE_ERROR. -/
  | bulkReset (die unit : Nat)
  /-- WALKER_RESET (R291). Resets one page walker; its walks restart elsewhere. -/
  | walkerReset (die unit : Nat)
  /-- LINK_RESET (R291). Resets one Krytuk port; its outstanding requests give DEVICE_ERROR. -/
  | linkReset (port : Nat)
  /-- TENANT_RESET (R277). Stops a tenant's work, retires its worlds, clears counters and restarts its window. -/
  | tenantReset (tenant : Nat)
  /-- THERMAL_THROTTLE (R292). A junction at 105 °C or an unholdable cap steps the clock down. -/
  | thermalThrottle (steps : Nat)
  /-- POWER_CAP_SET (R292). Ocarina sets a power cap, pacing matrix issue. -/
  | powerCapSet (watts : Nat)
  /-- CLUSTER_IDLE_ENTRY (R292). A cluster without context, command or node for 10 us is power-gated. -/
  | clusterIdleEntry (clus : Nat)
  /-- CLUSTER_WAKE (R292). Dispatch or a home operation wakes an Idle cluster within 2 us. -/
  | clusterWake (clus : Nat)
  /-- RIGHTS_REQUEST_ARRIVAL (R217). A GRANT or REVOKE reaches the rights and protection unit of the owner's die, which serialises it in arrival order, changes the table and replies or starts the shootdown. -/
  | rightsRequestArrival (die : Nat)
  /-- TENSOR_TABLE_OPERATION (R400). A TDEF, TVER or TKILL is serialised at the tensor table, applied to all four copies once the accesses it waits for complete, and its result returns to the waiting hart. -/
  | tensorTableOperation
  /-- SERVICE_TIMER_EXPIRY (R326). One of Shaten's service timers runs out and raises the TIMER interrupt on an operating-service core. -/
  | serviceTimerExpiry (h : Nat)
  /-- LINK_TRAINING (R18). Krytuk Link training completes and sets the DEV field of every HID to the device's number in the group. -/
  | linkTraining (dev : BitVec 6) (grouped : Bool)
  deriving DecidableEq, Repr

end Sys2Proof
end

