-- ==== Sys2Proof/WellFormed.lean ====
section
/-!
DEFINITION. Well-formed instructions: the limits on field values that the spec gives each encoding. An
encoding that breaks one raises ILLEGAL_INSTRUCTION (R322), so the decoder answers none for it.
-/

namespace Sys2Proof

/-- Z = 1 needs a mask (R316). -/
def VFmt.maskOk (f : VFmt) : Bool := !(f.z && decide (f.mask = 0))

/-- The fields of an instruction with two vector sources and an et from 0 to 3 (R316, R409, R434). -/
def VFmt.twoSource (f : VFmt) : Bool := f.maskOk && decide (f.et.toNat < 4)

/-- The fields of an instruction whose only vector source is va: vb and LUb are 0 (R410), and et lies
below `n`. -/
def VFmt.unary (f : VFmt) (n : Nat) : Bool :=
  f.maskOk && !f.lub && decide (f.vb = 0) && decide (f.et.toNat < n)

/-- As `unary`, with mask and Z zero as well (R359, R360, R447, R449). -/
def VFmt.unmaskedUnary (f : VFmt) (n : Nat) : Bool :=
  !f.lub && !f.z && decide (f.mask = 0) && decide (f.vb = 0) && decide (f.et.toNat < n)

/-- The fields of a reduction or scan: LUb and Z are 0 (R430, R451, R454). -/
def VFmt.reduction (f : VFmt) : Bool := !f.lub && !f.z && decide (f.et.toNat < 4)

/-- vb[2:0], the destination or float code of VCVT, VCVTI and VCVTIU (Table 20.7). -/
def VFmt.code (f : VFmt) : BitVec 3 := f.vb.extractLsb' 0 3

/-- Z = 1 needs a mask (R316). -/
def VmFmt.maskOk (f : VmFmt) : Bool := !(f.z && decide (f.mask = 0))

/-- The special register numbers of Table 20.8. -/
def specialNumbers : List (BitVec 12) :=
  [0x000, 0x001, 0x002, 0x003, 0x004, 0x008, 0x009, 0x00A, 0x00B, 0x010, 0x011, 0x012, 0x013, 0x014,
   0x015, 0x018, 0x019, 0x01A, 0x020, 0x021, 0x030]

/-- A number that Table 20.8 assigns (R324). -/
def assignedRegister (n : BitVec 12) : Bool := specialNumbers.contains n

/-- The scopes COLCMD takes (R343). -/
def collectiveScope : Scope → Bool
  | .clus | .dist | .die | .pkg => true
  | .hart | .core | .sys => false

/-- The limits of every instruction; an event has none. -/
def wellFormed : Instr → Bool
  | .add _ _ _ => true
  | .sub _ _ _ => true
  | .andR _ _ _ => true
  | .orR _ _ _ => true
  | .xorR _ _ _ => true
  | .shl _ _ _ => true
  | .shr _ _ _ => true
  | .sra _ _ _ => true
  | .slt _ _ _ => true
  | .sltu _ _ _ => true
  | .minS _ _ _ => true
  | .maxS _ _ _ => true
  | .minu _ _ _ => true
  | .maxu _ _ _ => true
  | .mul _ _ _ => true
  | .mulh _ _ _ => true
  | .mulhu _ _ _ => true
  | .div _ _ _ => true
  | .divu _ _ _ => true
  | .rem _ _ _ => true
  | .remu _ _ _ => true
  | .clz _ _ => true
  | .ctz _ _ => true
  | .popc _ _ => true
  | .bswap _ _ => true
  | .addi _ _ _ => true
  | .andi _ _ _ => true
  | .ori _ _ _ => true
  | .xori _ _ _ => true
  | .shli _ _ _ => true
  | .shri _ _ _ => true
  | .srai _ _ _ => true
  | .slti _ _ _ => true
  | .sltui _ _ _ => true
  | .lui _ _ => true
  | .extu _ _ pos len1 => decide (pos.toNat + len1.toNat < 64)
  | .exts _ _ pos len1 => decide (pos.toNat + len1.toNat < 64)
  | .ins _ _ pos len1 => decide (pos.toNat + len1.toNat < 64)
  | .addpc _ _ => true
  | .bcond _ _ _ _ => true
  | .jal _ _ => true
  | .jalr _ _ _ => true
  | .yield => true
  | .wfi => true
  | .eret => true
  | .ebreak => true
  | .mfsr _ n => assignedRegister n
  | .mtsr n _ => assignedRegister n
  | .safept _ => true
  | .halt => true
  | .haltRetain _ => true
  | .ld _ _ _ _ => true
  | .st _ _ _ _ => true
  | .amo op _ _ _ b => !(decide (op = .cas) && decide (b = 31))
  | .ord _ _ => true
  | .fence kinds _ => decide (kinds ≠ 0)
  | .msend _ _ _ _ => true
  | .mwait _ => true
  | .mret => true
  | .mpoll _ => true
  | .qpush q _ => decide (q.toNat < 8)
  | .qpop _ q => decide (q.toNat < 8)
  | .qpeek _ q => decide (q.toNat < 8)
  | .qcnt _ q => decide (q.toNat < 8)
  | .tfetch d => decide (d ≠ 0) && decide (d ≠ 31)
  | .tspawn _ _ => true
  | .tdone => true
  | .svc _ _ n => !n.msb
  | .svcStatusReturn _ => true
  | .sigc _ _ _ _ => true
  | .waitc _ _ _ _ => true
  | .bar sc => decide (sc ≠ .hart)
  | .gang _ => true
  | .gangGatherComplete _ _ => true
  | .grant _ _ => true
  | .revoke _ _ => true
  | .pgreq _ _ _ => true
  | .cpcmd d _ _ acq rel => decide (d ≠ 0) && decide (acq ≠ some .hart) && decide (rel ≠ some .hart)
  | .cpcmdResume d _ _ => decide (d ≠ 0)
  | .cpstat _ _ => true
  | .twait _ => true
  | .bkcmd d _ _ acq rel => decide (d ≠ 0) && decide (acq ≠ some .hart) && decide (rel ≠ some .hart)
  | .bkcmdResume d _ _ => decide (d ≠ 0)
  | .colcmd d _ sc => decide (d ≠ 0) && collectiveScope sc
  | .crot _ _ => true
  | .tdef _ _ => true
  | .tver _ _ => true
  | .tkill _ => true
  | .mcfg _ _ => true
  | .mldw _ => true
  | .mswap => true
  | .mstr _ _ => true
  | .mdrn _ _ => true
  | .mzero => true
  | .mstat _ => true
  | .winit _ _ => true
  | .wpush _ _ _ => true
  | .wread _ _ => true
  | .wflip _ _ => true
  | .wreset _ _ => true
  | .wstat d _ => !d.getLsbD 0
  | .vadd f => f.twoSource
  | .vsub f => f.twoSource
  | .vmul f => f.twoSource
  | .vmulh f => f.twoSource
  | .vmin f => f.twoSource
  | .vmax f => f.twoSource
  | .vminu f => f.twoSource
  | .vmaxu f => f.twoSource
  | .vand f => f.twoSource
  | .vor f => f.twoSource
  | .vxor f => f.twoSource
  | .vshl f => f.twoSource
  | .vshr f => f.twoSource
  | .vsra f => f.twoSource
  | .vsadd f => f.twoSource
  | .vssub f => f.twoSource
  | .vfadd f => f.twoSource
  | .vfsub f => f.twoSource
  | .vfmul f => f.twoSource
  | .vfma f => f.twoSource
  | .vfnma f => f.twoSource
  | .vfmin f => f.twoSource
  | .vfmax f => f.twoSource
  | .vfdiv f => f.twoSource
  | .vabs f => f.unary 4
  | .vneg f => f.unary 4
  | .vfabs f => f.unary 4
  | .vfneg f => f.unary 4
  | .vfsqrt f => f.unary 4
  | .vrcp f => f.unary 2
  | .vrsq f => f.unary 2
  | .vexp2 f => f.unary 2
  | .vlog2 f => f.unary 2
  | .vsin f => f.unary 2
  | .vcos f => f.unary 2
  | .vcmpeq f => f.twoSource
  | .vcmplt f => f.twoSource
  | .vcmpltu f => f.twoSource
  | .vfcmpeq f => f.twoSource
  | .vfcmplt f => f.twoSource
  | .vfcmple f => f.twoSource
  | .vfcmpun f => f.twoSource
  | .vcvt f => f.maskOk && !f.lub && decide (f.et.toNat < 7) && decide (f.code.toNat < 7)
  | .vperm f => f.twoSource
  | .vsel f => !f.z && decide (f.mask ≠ 0) && decide (f.et.toNat < 4)
  | .vcvti f => f.maskOk && !f.lub && decide (f.et.toNat < 4) && decide (f.code.toNat < 4) && !f.vb.getLsbD 4
  | .vcvtiu f => f.maskOk && !f.lub && decide (f.et.toNat < 4) && decide (f.code.toNat < 4) && !f.vb.getLsbD 4
  | .vredsum f => f.reduction && decide (f.vb = 0)
  | .vredmax f => f.reduction && decide (f.vb = 0)
  | .vredmin f => f.reduction && decide (f.vb = 0)
  | .vfredsum f => f.reduction && decide (f.vb = 0)
  | .vfredmax f => f.reduction && decide (f.vb = 0)
  | .vscan f => f.reduction && decide (f.vb.toNat < 2)
  | .vdot f => f.maskOk && decide (f.et = 0)
  | .vtdot f => f.maskOk && decide (f.et = 0)
  | .vunpk3 f => f.unary 5
  | .vpack3 f => f.unmaskedUnary 5
  | .vhad f => f.maskOk && !f.lub && decide (f.et = 1)
  | .vqnt f => f.unmaskedUnary 4
  | .vld f => f.maskOk && !f.lu && decide (f.et.toNat < 4)
  | .vst f => !f.z && decide (f.et.toNat < 4)
  | .vlds f => f.maskOk && !f.lu && decide (f.et.toNat < 4)
  | .vsts f => !f.z && decide (f.et.toNat < 4)
  | .vgth f => f.maskOk && decide (f.et.toNat < 4)
  | .vsct f => !f.z && decide (f.et.toNat < 4)
  | .vbcast f => f.unary 4 && !f.lua
  | .vins f => !f.lub && !f.lua && !f.z && decide (f.mask = 0) && decide (f.et.toNat < 4)
  | .vext f => !f.lub && !f.z && decide (f.mask = 0) && decide (f.et.toNat < 4)
  | .vslup f => f.maskOk && !f.lub && decide (f.et.toNat < 4)
  | .vsldn f => f.maskOk && !f.lub && decide (f.et.toNat < 4)
  | .vcprs f => f.unary 4
  | .kand f => f.unmaskedUnary 1
  | .kor f => f.unmaskedUnary 1
  | .kxor f => f.unmaskedUnary 1
  | .kandn f => f.unmaskedUnary 1
  | .knot f => f.unmaskedUnary 1
  | .kcnt f => f.unmaskedUnary 4
  | .kfst f => f.unmaskedUnary 4
  | .vdeq f => f.unary 4
  | .vadd16 w d a => !(!w && decide (d = 0) && decide (a = 0))
  | .vsub16 _ _ _ => true
  | .vmul16 _ _ _ => true
  | .vmin16 _ _ _ => true
  | .vmax16 _ _ _ => true
  | .vand16 _ _ => true
  | .vor16 _ _ => true
  | .vxor16 _ _ => true
  | .vfadd16 _ _ _ => true
  | .vfsub16 _ _ _ => true
  | .vfmul16 _ _ _ => true
  | .vfmin16 _ _ _ => true
  | .vfmax16 _ _ _ => true
  | .vmv _ _ => true
  | .vsadd16 _ _ _ => true
  | .vfabs16 _ _ _ => true
  | .memoryResponse _ => true
  | .homeReplyArrival _ => true
  | .amoHomeExecute _ => true
  | .messageArrival _ => true
  | .handlerBudgetExhausted _ => true
  | .waccHomeExecute _ => true
  | .waccFlipComplete _ _ => true
  | .remoteWriteApply _ => true
  | .settleWrite _ _ => true
  | .hartStart _ _ => true
  | .dispatchArbitration _ => true
  | .nodeAging _ => true
  | .eventRecordTake _ => true
  | .launchEndSweep _ => true
  | .worldRetire _ => true
  | .worldRetireScrub _ => true
  | .sliceEnd _ _ _ => true
  | .deadlineExpiry _ _ _ => true
  | .forcedStop _ => true
  | .contextRelease _ => true
  | .hartResume _ _ => true
  | .interruptTake _ => true
  | .engineFaultDelivery _ => true
  | .engineCommandStart _ _ => true
  | .enginePiece _ _ => true
  | .bulkChunkSelect _ => true
  | .engineCommandComplete _ _ => true
  | .mldwExecute _ => true
  | .mswapExecute _ => true
  | .mstrExecute _ => true
  | .mzeroExecute _ => true
  | .mdrnExecute _ => true
  | .matrixCommandComplete _ => true
  | .pageWalkComplete _ => true
  | .plbShootdown _ _ => true
  | .plbShootdownAck _ _ => true
  | .atsTranslationCompletion _ _ _ _ => true
  | .atsInvalidationRequest _ _ _ => true
  | .atsInvalidationCompletion _ => true
  | .pageRequestResponse _ _ => true
  | .pgreqTimeout _ => true
  | .completionTimeout _ _ => true
  | .dramRequestIssue _ => true
  | .budgetRefresh => true
  | .krytukFlitReceive _ _ => true
  | .remoteRequestExecute _ => true
  | .cxlMemRequest _ => true
  | .hostLaunch _ => true
  | .hostSignal _ => true
  | .hostAbort _ => true
  | .hostFence _ => true
  | .hostMap _ => true
  | .hostUnmap _ => true
  | .proxyReply _ => true
  | .commandWaitRelease _ => true
  | .completionRecord _ => true
  | .proxyTimeout _ _ => true
  | .svcNop _ => true
  | .console _ => true
  | .fileOpen _ => true
  | .fileRead _ => true
  | .fileWrite _ => true
  | .fileClose _ => true
  | .rangeAlloc _ => true
  | .rangeFree _ => true
  | .pageMap _ => true
  | .pageUnmap _ => true
  | .residency _ _ => true
  | .migrate _ => true
  | .counterAlloc _ => true
  | .counterFree _ => true
  | .keyDestroy _ => true
  | .connOpen _ => true
  | .connSend _ => true
  | .connRecv _ => true
  | .connClose _ => true
  | .launchSubmit _ => true
  | .launchAbort _ => true
  | .tenantConfig _ _ => true
  | .groupConfig _ => true
  | .perfRead _ => true
  | .timeRead _ => true
  | .trapReport _ => true
  | .counterAssign _ _ => true
  | .isolationSet _ _ => true
  | .layoutSet _ _ _ _ => true
  | .handover _ => true
  | .getVersion => true
  | .getCapabilities => true
  | .negotiateAlgorithms _ _ => true
  | .getDigests => true
  | .getCertificate _ _ => true
  | .challenge _ => true
  | .getMeasurements _ _ _ => true
  | .keyExchange _ => true
  | .finish _ => true
  | .keyRelease _ => true
  | .firmwareImageReceive _ => true
  | .firmwareActivate => true
  | .firmwareSelftestFail => true
  | .sensorRead _ _ => true
  | .sensorUpdate _ _ => true
  | .coldReset => true
  | .warmReset => true
  | .dieReset _ => true
  | .clusterReset _ => true
  | .coreReset _ => true
  | .engineReset _ _ => true
  | .bulkReset _ _ => true
  | .walkerReset _ _ => true
  | .linkReset _ => true
  | .tenantReset _ => true
  | .thermalThrottle _ => true
  | .powerCapSet _ => true
  | .clusterIdleEntry _ => true
  | .clusterWake _ => true
  | .rightsRequestArrival _ => true
  | .tensorTableOperation => true
  | .serviceTimerExpiry _ => true
  | .linkTraining _ _ => true

/-- The instructions an encoding stands for (R322, R328). -/
abbrev WellFormed (i : Instr) : Prop := wellFormed i = true

end Sys2Proof
end

