-- ==== Sys2Proof/Decode.lean ====
section
/-!
DEFINITION. The encoder, written from the formats of Table 20.2 and the opcode map of Tables 20.4 to 20.7,
and the decoder. The decoder reads the fields and then asks that the instruction found encodes to the very
word it was read from, so a nonzero bit in a field the spec shows as zero is never an instruction (R322).
-/

namespace Sys2Proof

/-- Branch condition codes (Table 20.3). -/
def Cond.code : Cond → BitVec 3
  | .eq => 0 | .ne => 1 | .lt => 2 | .ge => 3 | .ltu => 4 | .geu => 5

def condOf (c : BitVec 3) : Option Cond :=
  match c.toNat with
  | 0 => some .eq | 1 => some .ne | 2 => some .lt | 3 => some .ge | 4 => some .ltu | 5 => some .geu
  | _ => none

def scopeOf (c : BitVec 3) : Option Scope :=
  match c.toNat with
  | 0 => some .hart | 1 => some .core | 2 => some .clus | 3 => some .dist | 4 => some .die
  | 5 => some .pkg | 6 => some .sys
  | _ => none

/-- Order codes (R113). -/
def Order.code : Order → BitVec 3
  | .relaxed => 0 | .acq => 1 | .rel => 2 | .acqrel => 3 | .seq => 4

def orderOf (c : BitVec 3) : Option Order :=
  match c.toNat with
  | 0 => some .relaxed | 1 => some .acq | 2 => some .rel | 3 => some .acqrel | 4 => some .seq
  | _ => none

/-- Load size codes (R362). -/
def LdSize.code : LdSize → BitVec 3
  | .b => 0 | .h => 1 | .w => 2 | .d => 3 | .bu => 4 | .hu => 5 | .wu => 6

def ldSizeOf (c : BitVec 3) : Option LdSize :=
  match c.toNat with
  | 0 => some .b | 1 => some .h | 2 => some .w | 3 => some .d | 4 => some .bu | 5 => some .hu | 6 => some .wu
  | _ => none

/-- Store size codes (R394). -/
def StSize.code : StSize → BitVec 3
  | .b => 0 | .h => 1 | .w => 2 | .d => 3

def stSizeOf (c : BitVec 3) : Option StSize :=
  match c.toNat with
  | 0 => some .b | 1 => some .h | 2 => some .w | 3 => some .d
  | _ => none

/-- Atomic operation codes, fn[3:0] (Table 21.1). -/
def AmoOp.code : AmoOp → BitVec 4
  | .add => 0 | .and => 1 | .or => 2 | .xor => 3 | .min => 4 | .max => 5 | .minu => 6 | .maxu => 7
  | .swap => 8 | .cas => 9 | .fadd => 10

def amoOpOf (c : BitVec 4) : Option AmoOp :=
  match c.toNat with
  | 0 => some .add | 1 => some .and | 2 => some .or | 3 => some .xor | 4 => some .min | 5 => some .max
  | 6 => some .minu | 7 => some .maxu | 8 => some .swap | 9 => some .cas | 10 => some .fadd
  | _ => none

/-- Atomic size codes, fn[6:4] (R332). -/
def AmoSize.code : AmoSize → BitVec 3
  | .w => 2 | .d => 3

def amoSizeOf (c : BitVec 3) : Option AmoSize :=
  match c.toNat with
  | 2 => some .w | 3 => some .d
  | _ => none

/-- The immediate of GANG (R353). -/
def GangSize.imm : GangSize → BitVec 14
  | .eight => 8 | .sixteen => 16

/-- Output codes of MDRN, fn[1:0] (R366). -/
def DrainType.code : DrainType → BitVec 2
  | .f32 => 0 | .bf16 => 1 | .e4m3 => 2 | .i32 => 3

def drainOf (c : BitVec 2) : DrainType :=
  match c.toNat with
  | 0 => .f32 | 1 => .bf16 | 2 => .e4m3 | _ => .i32

/-- An engine flag and its scope field (R93): a clear flag needs a zero field, a set one a scope. -/
def flagOf (flag : Bool) (c : BitVec 3) : Option (Option Scope) :=
  if flag then (scopeOf c).map some else some none

def flagCode : Option Scope → BitVec 3
  | none => 0
  | some s => s.code

/-! ### The formats of Table 20.2 -/

def rWord (major : BitVec 7) (fn : BitVec 9) (b a d : BitVec 5) : BitVec 32 := fn ++ b ++ a ++ d ++ major ++ 1#1
def iWord (major : BitVec 7) (imm : BitVec 14) (a d : BitVec 5) : BitVec 32 := imm ++ a ++ d ++ major ++ 1#1
def uWord (major : BitVec 7) (imm : BitVec 19) (d : BitVec 5) : BitVec 32 := imm ++ d ++ major ++ 1#1
/-- The B and M formats, which place their fields alike. -/
def mWord (major : BitVec 7) (off : BitVec 11) (size : BitVec 3) (a d : BitVec 5) : BitVec 32 :=
  off ++ size ++ a ++ d ++ major ++ 1#1
def vWord (major : BitVec 7) (f : VFmt) : BitVec 32 :=
  BitVec.ofBool f.lub ++ BitVec.ofBool f.lua ++ BitVec.ofBool f.z ++ f.mask ++ f.vb ++ f.va ++ f.vd ++ f.et
    ++ major ++ 1#1
def vmWord (major : BitVec 7) (f : VmFmt) : BitVec 32 :=
  0#1 ++ BitVec.ofBool f.lu ++ BitVec.ofBool f.z ++ f.mask ++ f.idx ++ f.base ++ f.vd ++ f.et ++ major ++ 1#1
def eWord (major : BitVec 7) (d : BitVec 5) (sub : BitVec 4) (rel acq : Bool) (scope : BitVec 3) (b a : BitVec 5) :
    BitVec 32 :=
  d ++ sub ++ BitVec.ofBool rel ++ BitVec.ofBool acq ++ scope ++ b ++ a ++ major ++ 1#1
/-- CPCMD and BKCMD (Table 5.1, R93). -/
def engineWord (major : BitVec 7) (d : BitVec 5) (acq rel : Option Scope) (b a : BitVec 5) : BitVec 32 :=
  eWord major d (0#1 ++ flagCode acq) rel.isSome acq.isSome (flagCode rel) b a
/-- The 16-bit format (R313), in the low half of a word. -/
def hWord (op : BitVec 4) (w : BitVec 1) (a d : BitVec 5) : BitVec 32 := 0#16 ++ w ++ a ++ d ++ op ++ 0#1

/-- The same fields with another vb. -/
def VFmt.withVb (f : VFmt) (b : BitVec 5) : VFmt :=
  ⟨f.lub, f.lua, f.z, f.mask, b, f.va, f.vd, f.et⟩

/-- The word of an instruction, a halfword in the low 16 bits; an event has none and reads 0. -/
def encodeWord : Instr → BitVec 32
  | .add d a b => rWord 0x01 0x0 b a d
  | .sub d a b => rWord 0x01 0x1 b a d
  | .andR d a b => rWord 0x01 0x2 b a d
  | .orR d a b => rWord 0x01 0x3 b a d
  | .xorR d a b => rWord 0x01 0x4 b a d
  | .shl d a b => rWord 0x01 0x5 b a d
  | .shr d a b => rWord 0x01 0x6 b a d
  | .sra d a b => rWord 0x01 0x7 b a d
  | .slt d a b => rWord 0x01 0x8 b a d
  | .sltu d a b => rWord 0x01 0x9 b a d
  | .minS d a b => rWord 0x01 0xa b a d
  | .maxS d a b => rWord 0x01 0xb b a d
  | .minu d a b => rWord 0x01 0xc b a d
  | .maxu d a b => rWord 0x01 0xd b a d
  | .mul d a b => rWord 0x01 0x10 b a d
  | .mulh d a b => rWord 0x01 0x11 b a d
  | .mulhu d a b => rWord 0x01 0x12 b a d
  | .div d a b => rWord 0x01 0x14 b a d
  | .divu d a b => rWord 0x01 0x15 b a d
  | .rem d a b => rWord 0x01 0x16 b a d
  | .remu d a b => rWord 0x01 0x17 b a d
  | .clz d a => rWord 0x01 0x18 0 a d
  | .ctz d a => rWord 0x01 0x19 0 a d
  | .popc d a => rWord 0x01 0x1a 0 a d
  | .bswap d a => rWord 0x01 0x1b 0 a d
  | .addi d a imm => iWord 0x2 imm a d
  | .andi d a imm => iWord 0x3 imm a d
  | .ori d a imm => iWord 0x4 imm a d
  | .xori d a imm => iWord 0x5 imm a d
  | .shli d a sh => iWord 0x6 (0#8 ++ sh) a d
  | .shri d a sh => iWord 0x7 (0#8 ++ sh) a d
  | .srai d a sh => iWord 0x8 (0#8 ++ sh) a d
  | .slti d a imm => iWord 0x9 imm a d
  | .sltui d a imm => iWord 0xa imm a d
  | .lui d imm => uWord 0xb imm d
  | .extu d a pos len1 => iWord 0xc (0#2 ++ len1 ++ pos) a d
  | .exts d a pos len1 => iWord 0xd (0#2 ++ len1 ++ pos) a d
  | .ins d a pos len1 => iWord 0xe (0#2 ++ len1 ++ pos) a d
  | .addpc d imm => uWord 0xf imm d
  | .bcond c a b off => mWord 0x10 off c.code b a
  | .jal d off => uWord 0x11 off d
  | .jalr d a imm => iWord 0x12 imm a d
  | .yield => rWord 0x13 0 0 0 0
  | .wfi => rWord 0x13 1 0 0 0
  | .eret => rWord 0x13 2 0 0 0
  | .ebreak => rWord 0x13 3 0 0 0
  | .mfsr d n => iWord 0x14 (0#2 ++ n) 0 d
  | .mtsr n a => iWord 0x15 (0#2 ++ n) a 0
  | .safept n => iWord 0x16 (0#2 ++ n) 0 0
  | .halt => rWord 0x17 0 0 0 0
  | .haltRetain a => rWord 0x17 1 0 a 0
  | .ld sz d a off => mWord 0x18 off sz.code a d
  | .st sz s a off => mWord 0x19 off sz.code a s
  | .amo op sz d a b => rWord 0x1A (0#2 ++ sz.code ++ op.code) b a d
  | .ord o sc => 0#18 ++ sc.code ++ o.code ++ 0x1B#7 ++ 1#1
  | .fence kinds sc => eWord 0x1C 0 kinds false false sc.code 0 0
  | .msend d a b n => eWord 0x1D d n false false 0 b a
  | .mwait d => rWord 0x1E 0 0 0 d
  | .mret => rWord 0x1E 1 0 0 0
  | .mpoll d => rWord 0x1E 2 0 0 d
  | .qpush q b => rWord 0x20 0 b q 0
  | .qpop d q => rWord 0x20 1 0 q d
  | .qpeek d q => rWord 0x20 2 0 q d
  | .qcnt d q => rWord 0x20 3 0 q d
  | .tfetch d => rWord 0x21 0 0 0 d
  | .tspawn d a => rWord 0x22 0 0 a d
  | .tdone => rWord 0x23 0 0 0 0
  | .svc d a n => iWord 0x24 n a d
  | .svcStatusReturn _ => 0
  | .sigc d a b sc => eWord 0x25 d 0 true false sc.code b a
  | .waitc d a b sc => eWord 0x26 d 0 false false sc.code b a
  | .bar sc => eWord 0x27 0 0 false false sc.code 0 0
  | .gang n => iWord 0x28 n.imm 0 0
  | .gangGatherComplete _ _ => 0
  | .grant a b => rWord 0x29 0 b a 0
  | .revoke a b => rWord 0x2A 0 b a 0
  | .pgreq d a b => rWord 0x2B 0 b a d
  | .cpcmd d a b acq rel => engineWord 0x2c d acq rel b a
  | .cpcmdResume d a b => eWord 0x2c d 8 false false 0 b a
  | .cpstat d a => eWord 0x2D d 0 false false 0 0 a
  | .twait a => eWord 0x2E 0 0 false false 0 0 a
  | .bkcmd d a b acq rel => engineWord 0x2f d acq rel b a
  | .bkcmdResume d a b => eWord 0x2f d 8 false false 0 b a
  | .colcmd d a sc => eWord 0x30 d 0 false false sc.code 0 a
  | .crot a b => eWord 0x31 0 0 false false 2 b a
  | .tdef d a => rWord 0x32 0 0 a d
  | .tver d a => rWord 0x33 0 0 a d
  | .tkill a => rWord 0x34 0 0 a 0
  | .mcfg a b => rWord 0x35 0 b a 0
  | .mldw a => rWord 0x36 0 0 a 0
  | .mswap => rWord 0x37 0 0 0 0
  | .mstr a b => rWord 0x38 0 b a 0
  | .mdrn t a => rWord 0x39 (0#7 ++ t.code) 0 a 0
  | .mzero => rWord 0x3A 0 0 0 0
  | .mstat d => rWord 0x3B 0 0 0 d
  | .winit a b => rWord 0x3C 0 b a 0
  | .wpush d a b => rWord 0x3C 1 b a d
  | .wread d a => rWord 0x3C 2 0 a d
  | .wflip d a => rWord 0x3C 3 0 a d
  | .wreset d a => rWord 0x3C 4 0 a d
  | .wstat d a => rWord 0x3C 5 0 a d
  | .vadd f => vWord 0x40 f
  | .vsub f => vWord 0x41 f
  | .vmul f => vWord 0x42 f
  | .vmulh f => vWord 0x43 f
  | .vmin f => vWord 0x44 f
  | .vmax f => vWord 0x45 f
  | .vminu f => vWord 0x46 f
  | .vmaxu f => vWord 0x47 f
  | .vand f => vWord 0x48 f
  | .vor f => vWord 0x49 f
  | .vxor f => vWord 0x4a f
  | .vshl f => vWord 0x4b f
  | .vshr f => vWord 0x4c f
  | .vsra f => vWord 0x4d f
  | .vsadd f => vWord 0x4e f
  | .vssub f => vWord 0x4f f
  | .vfadd f => vWord 0x50 f
  | .vfsub f => vWord 0x51 f
  | .vfmul f => vWord 0x52 f
  | .vfma f => vWord 0x53 f
  | .vfnma f => vWord 0x54 f
  | .vfmin f => vWord 0x55 f
  | .vfmax f => vWord 0x56 f
  | .vfdiv f => vWord 0x57 f
  | .vabs f => vWord 0x58 (f.withVb 0)
  | .vneg f => vWord 0x58 (f.withVb 1)
  | .vfabs f => vWord 0x58 (f.withVb 2)
  | .vfneg f => vWord 0x58 (f.withVb 3)
  | .vfsqrt f => vWord 0x58 (f.withVb 4)
  | .vrcp f => vWord 0x58 (f.withVb 5)
  | .vrsq f => vWord 0x58 (f.withVb 6)
  | .vexp2 f => vWord 0x58 (f.withVb 7)
  | .vlog2 f => vWord 0x58 (f.withVb 8)
  | .vsin f => vWord 0x58 (f.withVb 9)
  | .vcos f => vWord 0x58 (f.withVb 10)
  | .vcmpeq f => vWord 0x59 f
  | .vcmplt f => vWord 0x5a f
  | .vcmpltu f => vWord 0x5b f
  | .vfcmpeq f => vWord 0x5c f
  | .vfcmplt f => vWord 0x5d f
  | .vfcmple f => vWord 0x5e f
  | .vfcmpun f => vWord 0x5f f
  | .vcvt f => vWord 0x60 f
  | .vperm f => vWord 0x61 f
  | .vsel f => vWord 0x62 f
  | .vcvti f => vWord 0x63 f
  | .vcvtiu f => vWord 0x63 (f.withVb (f.vb ||| 16))
  | .vredsum f => vWord 0x64 f
  | .vredmax f => vWord 0x65 f
  | .vredmin f => vWord 0x66 f
  | .vfredsum f => vWord 0x67 f
  | .vfredmax f => vWord 0x68 f
  | .vscan f => vWord 0x69 f
  | .vdot f => vWord 0x6a f
  | .vtdot f => vWord 0x6b f
  | .vunpk3 f => vWord 0x6c f
  | .vpack3 f => vWord 0x6d f
  | .vhad f => vWord 0x6e f
  | .vqnt f => vWord 0x6f f
  | .vld f => vmWord 0x70 f
  | .vst f => vmWord 0x71 f
  | .vlds f => vmWord 0x72 f
  | .vsts f => vmWord 0x73 f
  | .vgth f => vmWord 0x74 f
  | .vsct f => vmWord 0x75 f
  | .vbcast f => vWord 0x76 f
  | .vins f => vWord 0x77 f
  | .vext f => vWord 0x78 f
  | .vslup f => vWord 0x79 f
  | .vsldn f => vWord 0x7a f
  | .vcprs f => vWord 0x7b f
  | .kand f => vWord 0x7C (f.withVb 0)
  | .kor f => vWord 0x7C (f.withVb 1)
  | .kxor f => vWord 0x7C (f.withVb 2)
  | .kandn f => vWord 0x7C (f.withVb 3)
  | .knot f => vWord 0x7C (f.withVb 4)
  | .kcnt f => vWord 0x7d f
  | .kfst f => vWord 0x7e f
  | .vdeq f => vWord 0x7f f
  | .vadd16 w d a => hWord 0 (BitVec.ofBool w) a d
  | .vsub16 w d a => hWord 1 (BitVec.ofBool w) a d
  | .vmul16 w d a => hWord 2 (BitVec.ofBool w) a d
  | .vmin16 w d a => hWord 3 (BitVec.ofBool w) a d
  | .vmax16 w d a => hWord 4 (BitVec.ofBool w) a d
  | .vand16 d a => hWord 5 (0#1) a d
  | .vor16 d a => hWord 6 (0#1) a d
  | .vxor16 d a => hWord 7 (0#1) a d
  | .vfadd16 w d a => hWord 8 (BitVec.ofBool w) a d
  | .vfsub16 w d a => hWord 9 (BitVec.ofBool w) a d
  | .vfmul16 w d a => hWord 10 (BitVec.ofBool w) a d
  | .vfmin16 w d a => hWord 11 (BitVec.ofBool w) a d
  | .vfmax16 w d a => hWord 12 (BitVec.ofBool w) a d
  | .vmv d a => hWord 13 (0#1) a d
  | .vsadd16 w d a => hWord 14 (BitVec.ofBool w) a d
  | .vfabs16 w d a => hWord 15 (BitVec.ofBool w) a d
  | .memoryResponse _ => 0
  | .homeReplyArrival _ => 0
  | .amoHomeExecute _ => 0
  | .messageArrival _ => 0
  | .handlerBudgetExhausted _ => 0
  | .waccHomeExecute _ => 0
  | .waccFlipComplete _ _ => 0
  | .remoteWriteApply _ => 0
  | .settleWrite _ _ => 0
  | .hartStart _ _ => 0
  | .dispatchArbitration _ => 0
  | .nodeAging _ => 0
  | .eventRecordTake _ => 0
  | .launchEndSweep _ => 0
  | .worldRetire _ => 0
  | .worldRetireScrub _ => 0
  | .sliceEnd _ _ _ => 0
  | .deadlineExpiry _ _ _ => 0
  | .forcedStop _ => 0
  | .contextRelease _ => 0
  | .hartResume _ _ => 0
  | .interruptTake _ => 0
  | .engineFaultDelivery _ => 0
  | .engineCommandStart _ _ => 0
  | .enginePiece _ _ => 0
  | .bulkChunkSelect _ => 0
  | .engineCommandComplete _ _ => 0
  | .mldwExecute _ => 0
  | .mswapExecute _ => 0
  | .mstrExecute _ => 0
  | .mzeroExecute _ => 0
  | .mdrnExecute _ => 0
  | .matrixCommandComplete _ => 0
  | .pageWalkComplete _ => 0
  | .plbShootdown _ _ => 0
  | .plbShootdownAck _ _ => 0
  | .atsTranslationCompletion _ _ _ _ => 0
  | .atsInvalidationRequest _ _ _ => 0
  | .atsInvalidationCompletion _ => 0
  | .pageRequestResponse _ _ => 0
  | .pgreqTimeout _ => 0
  | .completionTimeout _ _ => 0
  | .dramRequestIssue _ => 0
  | .budgetRefresh => 0
  | .krytukFlitReceive _ _ => 0
  | .remoteRequestExecute _ => 0
  | .cxlMemRequest _ => 0
  | .hostLaunch _ => 0
  | .hostSignal _ => 0
  | .hostAbort _ => 0
  | .hostFence _ => 0
  | .hostMap _ => 0
  | .hostUnmap _ => 0
  | .proxyReply _ => 0
  | .commandWaitRelease _ => 0
  | .completionRecord _ => 0
  | .proxyTimeout _ _ => 0
  | .svcNop _ => 0
  | .console _ => 0
  | .fileOpen _ => 0
  | .fileRead _ => 0
  | .fileWrite _ => 0
  | .fileClose _ => 0
  | .rangeAlloc _ => 0
  | .rangeFree _ => 0
  | .pageMap _ => 0
  | .pageUnmap _ => 0
  | .residency _ _ => 0
  | .migrate _ => 0
  | .counterAlloc _ => 0
  | .counterFree _ => 0
  | .keyDestroy _ => 0
  | .connOpen _ => 0
  | .connSend _ => 0
  | .connRecv _ => 0
  | .connClose _ => 0
  | .launchSubmit _ => 0
  | .launchAbort _ => 0
  | .tenantConfig _ _ => 0
  | .groupConfig _ => 0
  | .perfRead _ => 0
  | .timeRead _ => 0
  | .trapReport _ => 0
  | .counterAssign _ _ => 0
  | .isolationSet _ _ => 0
  | .layoutSet _ _ _ _ => 0
  | .handover _ => 0
  | .getVersion => 0
  | .getCapabilities => 0
  | .negotiateAlgorithms _ _ => 0
  | .getDigests => 0
  | .getCertificate _ _ => 0
  | .challenge _ => 0
  | .getMeasurements _ _ _ => 0
  | .keyExchange _ => 0
  | .finish _ => 0
  | .keyRelease _ => 0
  | .firmwareImageReceive _ => 0
  | .firmwareActivate => 0
  | .firmwareSelftestFail => 0
  | .sensorRead _ _ => 0
  | .sensorUpdate _ _ => 0
  | .coldReset => 0
  | .warmReset => 0
  | .dieReset _ => 0
  | .clusterReset _ => 0
  | .coreReset _ => 0
  | .engineReset _ _ => 0
  | .bulkReset _ _ => 0
  | .walkerReset _ _ => 0
  | .linkReset _ => 0
  | .tenantReset _ => 0
  | .thermalThrottle _ => 0
  | .powerCapSet _ => 0
  | .clusterIdleEntry _ => 0
  | .clusterWake _ => 0
  | .rightsRequestArrival _ => 0
  | .tensorTableOperation => 0
  | .serviceTimerExpiry _ => 0
  | .linkTraining _ _ => 0

/-- The length of an instruction in bytes (R312); an event is fetched from nowhere and has length 0. -/
def instrLength : Instr → Nat
  | .add _ _ _ => 4
  | .sub _ _ _ => 4
  | .andR _ _ _ => 4
  | .orR _ _ _ => 4
  | .xorR _ _ _ => 4
  | .shl _ _ _ => 4
  | .shr _ _ _ => 4
  | .sra _ _ _ => 4
  | .slt _ _ _ => 4
  | .sltu _ _ _ => 4
  | .minS _ _ _ => 4
  | .maxS _ _ _ => 4
  | .minu _ _ _ => 4
  | .maxu _ _ _ => 4
  | .mul _ _ _ => 4
  | .mulh _ _ _ => 4
  | .mulhu _ _ _ => 4
  | .div _ _ _ => 4
  | .divu _ _ _ => 4
  | .rem _ _ _ => 4
  | .remu _ _ _ => 4
  | .clz _ _ => 4
  | .ctz _ _ => 4
  | .popc _ _ => 4
  | .bswap _ _ => 4
  | .addi _ _ _ => 4
  | .andi _ _ _ => 4
  | .ori _ _ _ => 4
  | .xori _ _ _ => 4
  | .shli _ _ _ => 4
  | .shri _ _ _ => 4
  | .srai _ _ _ => 4
  | .slti _ _ _ => 4
  | .sltui _ _ _ => 4
  | .lui _ _ => 4
  | .extu _ _ _ _ => 4
  | .exts _ _ _ _ => 4
  | .ins _ _ _ _ => 4
  | .addpc _ _ => 4
  | .bcond _ _ _ _ => 4
  | .jal _ _ => 4
  | .jalr _ _ _ => 4
  | .yield => 4
  | .wfi => 4
  | .eret => 4
  | .ebreak => 4
  | .mfsr _ _ => 4
  | .mtsr _ _ => 4
  | .safept _ => 4
  | .halt => 4
  | .haltRetain _ => 4
  | .ld _ _ _ _ => 4
  | .st _ _ _ _ => 4
  | .amo _ _ _ _ _ => 4
  | .ord _ _ => 4
  | .fence _ _ => 4
  | .msend _ _ _ _ => 4
  | .mwait _ => 4
  | .mret => 4
  | .mpoll _ => 4
  | .qpush _ _ => 4
  | .qpop _ _ => 4
  | .qpeek _ _ => 4
  | .qcnt _ _ => 4
  | .tfetch _ => 4
  | .tspawn _ _ => 4
  | .tdone => 4
  | .svc _ _ _ => 4
  | .svcStatusReturn _ => 0
  | .sigc _ _ _ _ => 4
  | .waitc _ _ _ _ => 4
  | .bar _ => 4
  | .gang _ => 4
  | .gangGatherComplete _ _ => 0
  | .grant _ _ => 4
  | .revoke _ _ => 4
  | .pgreq _ _ _ => 4
  | .cpcmd _ _ _ _ _ => 4
  | .cpcmdResume _ _ _ => 4
  | .cpstat _ _ => 4
  | .twait _ => 4
  | .bkcmd _ _ _ _ _ => 4
  | .bkcmdResume _ _ _ => 4
  | .colcmd _ _ _ => 4
  | .crot _ _ => 4
  | .tdef _ _ => 4
  | .tver _ _ => 4
  | .tkill _ => 4
  | .mcfg _ _ => 4
  | .mldw _ => 4
  | .mswap => 4
  | .mstr _ _ => 4
  | .mdrn _ _ => 4
  | .mzero => 4
  | .mstat _ => 4
  | .winit _ _ => 4
  | .wpush _ _ _ => 4
  | .wread _ _ => 4
  | .wflip _ _ => 4
  | .wreset _ _ => 4
  | .wstat _ _ => 4
  | .vadd _ => 4
  | .vsub _ => 4
  | .vmul _ => 4
  | .vmulh _ => 4
  | .vmin _ => 4
  | .vmax _ => 4
  | .vminu _ => 4
  | .vmaxu _ => 4
  | .vand _ => 4
  | .vor _ => 4
  | .vxor _ => 4
  | .vshl _ => 4
  | .vshr _ => 4
  | .vsra _ => 4
  | .vsadd _ => 4
  | .vssub _ => 4
  | .vfadd _ => 4
  | .vfsub _ => 4
  | .vfmul _ => 4
  | .vfma _ => 4
  | .vfnma _ => 4
  | .vfmin _ => 4
  | .vfmax _ => 4
  | .vfdiv _ => 4
  | .vabs _ => 4
  | .vneg _ => 4
  | .vfabs _ => 4
  | .vfneg _ => 4
  | .vfsqrt _ => 4
  | .vrcp _ => 4
  | .vrsq _ => 4
  | .vexp2 _ => 4
  | .vlog2 _ => 4
  | .vsin _ => 4
  | .vcos _ => 4
  | .vcmpeq _ => 4
  | .vcmplt _ => 4
  | .vcmpltu _ => 4
  | .vfcmpeq _ => 4
  | .vfcmplt _ => 4
  | .vfcmple _ => 4
  | .vfcmpun _ => 4
  | .vcvt _ => 4
  | .vperm _ => 4
  | .vsel _ => 4
  | .vcvti _ => 4
  | .vcvtiu _ => 4
  | .vredsum _ => 4
  | .vredmax _ => 4
  | .vredmin _ => 4
  | .vfredsum _ => 4
  | .vfredmax _ => 4
  | .vscan _ => 4
  | .vdot _ => 4
  | .vtdot _ => 4
  | .vunpk3 _ => 4
  | .vpack3 _ => 4
  | .vhad _ => 4
  | .vqnt _ => 4
  | .vld _ => 4
  | .vst _ => 4
  | .vlds _ => 4
  | .vsts _ => 4
  | .vgth _ => 4
  | .vsct _ => 4
  | .vbcast _ => 4
  | .vins _ => 4
  | .vext _ => 4
  | .vslup _ => 4
  | .vsldn _ => 4
  | .vcprs _ => 4
  | .kand _ => 4
  | .kor _ => 4
  | .kxor _ => 4
  | .kandn _ => 4
  | .knot _ => 4
  | .kcnt _ => 4
  | .kfst _ => 4
  | .vdeq _ => 4
  | .vadd16 _ _ _ => 2
  | .vsub16 _ _ _ => 2
  | .vmul16 _ _ _ => 2
  | .vmin16 _ _ _ => 2
  | .vmax16 _ _ _ => 2
  | .vand16 _ _ => 2
  | .vor16 _ _ => 2
  | .vxor16 _ _ => 2
  | .vfadd16 _ _ _ => 2
  | .vfsub16 _ _ _ => 2
  | .vfmul16 _ _ _ => 2
  | .vfmin16 _ _ _ => 2
  | .vfmax16 _ _ _ => 2
  | .vmv _ _ => 2
  | .vsadd16 _ _ _ => 2
  | .vfabs16 _ _ _ => 2
  | .memoryResponse _ => 0
  | .homeReplyArrival _ => 0
  | .amoHomeExecute _ => 0
  | .messageArrival _ => 0
  | .handlerBudgetExhausted _ => 0
  | .waccHomeExecute _ => 0
  | .waccFlipComplete _ _ => 0
  | .remoteWriteApply _ => 0
  | .settleWrite _ _ => 0
  | .hartStart _ _ => 0
  | .dispatchArbitration _ => 0
  | .nodeAging _ => 0
  | .eventRecordTake _ => 0
  | .launchEndSweep _ => 0
  | .worldRetire _ => 0
  | .worldRetireScrub _ => 0
  | .sliceEnd _ _ _ => 0
  | .deadlineExpiry _ _ _ => 0
  | .forcedStop _ => 0
  | .contextRelease _ => 0
  | .hartResume _ _ => 0
  | .interruptTake _ => 0
  | .engineFaultDelivery _ => 0
  | .engineCommandStart _ _ => 0
  | .enginePiece _ _ => 0
  | .bulkChunkSelect _ => 0
  | .engineCommandComplete _ _ => 0
  | .mldwExecute _ => 0
  | .mswapExecute _ => 0
  | .mstrExecute _ => 0
  | .mzeroExecute _ => 0
  | .mdrnExecute _ => 0
  | .matrixCommandComplete _ => 0
  | .pageWalkComplete _ => 0
  | .plbShootdown _ _ => 0
  | .plbShootdownAck _ _ => 0
  | .atsTranslationCompletion _ _ _ _ => 0
  | .atsInvalidationRequest _ _ _ => 0
  | .atsInvalidationCompletion _ => 0
  | .pageRequestResponse _ _ => 0
  | .pgreqTimeout _ => 0
  | .completionTimeout _ _ => 0
  | .dramRequestIssue _ => 0
  | .budgetRefresh => 0
  | .krytukFlitReceive _ _ => 0
  | .remoteRequestExecute _ => 0
  | .cxlMemRequest _ => 0
  | .hostLaunch _ => 0
  | .hostSignal _ => 0
  | .hostAbort _ => 0
  | .hostFence _ => 0
  | .hostMap _ => 0
  | .hostUnmap _ => 0
  | .proxyReply _ => 0
  | .commandWaitRelease _ => 0
  | .completionRecord _ => 0
  | .proxyTimeout _ _ => 0
  | .svcNop _ => 0
  | .console _ => 0
  | .fileOpen _ => 0
  | .fileRead _ => 0
  | .fileWrite _ => 0
  | .fileClose _ => 0
  | .rangeAlloc _ => 0
  | .rangeFree _ => 0
  | .pageMap _ => 0
  | .pageUnmap _ => 0
  | .residency _ _ => 0
  | .migrate _ => 0
  | .counterAlloc _ => 0
  | .counterFree _ => 0
  | .keyDestroy _ => 0
  | .connOpen _ => 0
  | .connSend _ => 0
  | .connRecv _ => 0
  | .connClose _ => 0
  | .launchSubmit _ => 0
  | .launchAbort _ => 0
  | .tenantConfig _ _ => 0
  | .groupConfig _ => 0
  | .perfRead _ => 0
  | .timeRead _ => 0
  | .trapReport _ => 0
  | .counterAssign _ _ => 0
  | .isolationSet _ _ => 0
  | .layoutSet _ _ _ _ => 0
  | .handover _ => 0
  | .getVersion => 0
  | .getCapabilities => 0
  | .negotiateAlgorithms _ _ => 0
  | .getDigests => 0
  | .getCertificate _ _ => 0
  | .challenge _ => 0
  | .getMeasurements _ _ _ => 0
  | .keyExchange _ => 0
  | .finish _ => 0
  | .keyRelease _ => 0
  | .firmwareImageReceive _ => 0
  | .firmwareActivate => 0
  | .firmwareSelftestFail => 0
  | .sensorRead _ _ => 0
  | .sensorUpdate _ _ => 0
  | .coldReset => 0
  | .warmReset => 0
  | .dieReset _ => 0
  | .clusterReset _ => 0
  | .coreReset _ => 0
  | .engineReset _ _ => 0
  | .bulkReset _ _ => 0
  | .walkerReset _ _ => 0
  | .linkReset _ => 0
  | .tenantReset _ => 0
  | .thermalThrottle _ => 0
  | .powerCapSet _ => 0
  | .clusterIdleEntry _ => 0
  | .clusterWake _ => 0
  | .rightsRequestArrival _ => 0
  | .tensorTableOperation => 0
  | .serviceTimerExpiry _ => 0
  | .linkTraining _ _ => 0

/-! ### Fields of a word -/

def fD (w : BitVec 32) : BitVec 5 := w.extractLsb' 8 5
def fA (w : BitVec 32) : BitVec 5 := w.extractLsb' 13 5
def fB (w : BitVec 32) : BitVec 5 := w.extractLsb' 18 5
def fFn (w : BitVec 32) : BitVec 9 := w.extractLsb' 23 9
def fImm (w : BitVec 32) : BitVec 14 := w.extractLsb' 18 14
def fOff (w : BitVec 32) : BitVec 11 := w.extractLsb' 21 11
def fS (w : BitVec 32) : BitVec 3 := w.extractLsb' 18 3
/-- d of the E format. -/
def fDE (w : BitVec 32) : BitVec 5 := w.extractLsb' 27 5
def fSub (w : BitVec 32) : BitVec 4 := w.extractLsb' 23 4
def vFields (w : BitVec 32) : VFmt :=
  ⟨w.getLsbD 31, w.getLsbD 30, w.getLsbD 29, w.extractLsb' 26 3, w.extractLsb' 21 5, w.extractLsb' 16 5,
    w.extractLsb' 11 5, w.extractLsb' 8 3⟩
def vmFields (w : BitVec 32) : VmFmt :=
  ⟨w.getLsbD 30, w.getLsbD 29, w.extractLsb' 26 3, w.extractLsb' 21 5, w.extractLsb' 16 5, w.extractLsb' 11 5,
    w.extractLsb' 8 3⟩

/-- The selector of major 0x01 (Tables 20.6, 20.7 and 11.3). -/
def aluOf (w : BitVec 32) : Nat → Option Instr
  | 0 => some (.add (fD w) (fA w) (fB w))
  | 1 => some (.sub (fD w) (fA w) (fB w))
  | 2 => some (.andR (fD w) (fA w) (fB w))
  | 3 => some (.orR (fD w) (fA w) (fB w))
  | 4 => some (.xorR (fD w) (fA w) (fB w))
  | 5 => some (.shl (fD w) (fA w) (fB w))
  | 6 => some (.shr (fD w) (fA w) (fB w))
  | 7 => some (.sra (fD w) (fA w) (fB w))
  | 8 => some (.slt (fD w) (fA w) (fB w))
  | 9 => some (.sltu (fD w) (fA w) (fB w))
  | 10 => some (.minS (fD w) (fA w) (fB w))
  | 11 => some (.maxS (fD w) (fA w) (fB w))
  | 12 => some (.minu (fD w) (fA w) (fB w))
  | 13 => some (.maxu (fD w) (fA w) (fB w))
  | 16 => some (.mul (fD w) (fA w) (fB w))
  | 17 => some (.mulh (fD w) (fA w) (fB w))
  | 18 => some (.mulhu (fD w) (fA w) (fB w))
  | 20 => some (.div (fD w) (fA w) (fB w))
  | 21 => some (.divu (fD w) (fA w) (fB w))
  | 22 => some (.rem (fD w) (fA w) (fB w))
  | 23 => some (.remu (fD w) (fA w) (fB w))
  | 24 => some (.clz (fD w) (fA w))
  | 25 => some (.ctz (fD w) (fA w))
  | 26 => some (.popc (fD w) (fA w))
  | 27 => some (.bswap (fD w) (fA w))
  | _ => none

/-- The selector of major 0x13 (Tables 20.6, 20.7 and 11.3). -/
def sysOf : Nat → Option Instr
  | 0 => some (.yield)
  | 1 => some (.wfi)
  | 2 => some (.eret)
  | 3 => some (.ebreak)
  | _ => none

/-- The selector of major 0x17 (Tables 20.6, 20.7 and 11.3). -/
def haltOf (w : BitVec 32) : Nat → Option Instr
  | 0 => some (.halt)
  | 1 => some (.haltRetain (fA w))
  | _ => none

/-- The selector of major 0x1E (Tables 20.6, 20.7 and 11.3). -/
def msgOf (w : BitVec 32) : Nat → Option Instr
  | 0 => some (.mwait (fD w))
  | 1 => some (.mret)
  | 2 => some (.mpoll (fD w))
  | _ => none

/-- The selector of major 0x20 (Tables 20.6, 20.7 and 11.3). -/
def queueOf (w : BitVec 32) : Nat → Option Instr
  | 0 => some (.qpush (fA w) (fB w))
  | 1 => some (.qpop (fD w) (fA w))
  | 2 => some (.qpeek (fD w) (fA w))
  | 3 => some (.qcnt (fD w) (fA w))
  | _ => none

/-- The selector of major 0x3C (Tables 20.6, 20.7 and 11.3). -/
def waccOf (w : BitVec 32) : Nat → Option Instr
  | 0 => some (.winit (fA w) (fB w))
  | 1 => some (.wpush (fD w) (fA w) (fB w))
  | 2 => some (.wread (fD w) (fA w))
  | 3 => some (.wflip (fD w) (fA w))
  | 4 => some (.wreset (fD w) (fA w))
  | 5 => some (.wstat (fD w) (fA w))
  | _ => none

/-- The selector of major 0x58 (Tables 20.6, 20.7 and 11.3). -/
def unaryOf (w : BitVec 32) : Nat → Option Instr
  | 0 => some (.vabs ((vFields w).withVb 0))
  | 1 => some (.vneg ((vFields w).withVb 0))
  | 2 => some (.vfabs ((vFields w).withVb 0))
  | 3 => some (.vfneg ((vFields w).withVb 0))
  | 4 => some (.vfsqrt ((vFields w).withVb 0))
  | 5 => some (.vrcp ((vFields w).withVb 0))
  | 6 => some (.vrsq ((vFields w).withVb 0))
  | 7 => some (.vexp2 ((vFields w).withVb 0))
  | 8 => some (.vlog2 ((vFields w).withVb 0))
  | 9 => some (.vsin ((vFields w).withVb 0))
  | 10 => some (.vcos ((vFields w).withVb 0))
  | _ => none

/-- The selector of major 0x7C (Tables 20.6, 20.7 and 11.3). -/
def maskOf (w : BitVec 32) : Nat → Option Instr
  | 0 => some (.kand ((vFields w).withVb 0))
  | 1 => some (.kor ((vFields w).withVb 0))
  | 2 => some (.kxor ((vFields w).withVb 0))
  | 3 => some (.kandn ((vFields w).withVb 0))
  | 4 => some (.knot ((vFields w).withVb 0))
  | _ => none

/-- The instruction whose major opcode (Table 20.4) stands in [7:1], its operand fields as they stand; what the
fields shown as zero hold is not looked at here. -/
def readMajor (w : BitVec 32) : Nat → Option Instr
  | 0x01 => aluOf w (fFn w).toNat
  | 0x02 => some (.addi (fD w) (fA w) (fImm w))
  | 0x03 => some (.andi (fD w) (fA w) (fImm w))
  | 0x04 => some (.ori (fD w) (fA w) (fImm w))
  | 0x05 => some (.xori (fD w) (fA w) (fImm w))
  | 0x06 => some (.shli (fD w) (fA w) (w.extractLsb' 18 6))
  | 0x07 => some (.shri (fD w) (fA w) (w.extractLsb' 18 6))
  | 0x08 => some (.srai (fD w) (fA w) (w.extractLsb' 18 6))
  | 0x09 => some (.slti (fD w) (fA w) (fImm w))
  | 0x0A => some (.sltui (fD w) (fA w) (fImm w))
  | 0x0B => some (.lui (fD w) (w.extractLsb' 13 19))
  | 0x0C => some (.extu (fD w) (fA w) (w.extractLsb' 18 6) (w.extractLsb' 24 6))
  | 0x0D => some (.exts (fD w) (fA w) (w.extractLsb' 18 6) (w.extractLsb' 24 6))
  | 0x0E => some (.ins (fD w) (fA w) (w.extractLsb' 18 6) (w.extractLsb' 24 6))
  | 0x0F => some (.addpc (fD w) (w.extractLsb' 13 19))
  | 0x10 => (condOf (fS w)).map fun c => .bcond c (fD w) (fA w) (fOff w)
  | 0x11 => some (.jal (fD w) (w.extractLsb' 13 19))
  | 0x12 => some (.jalr (fD w) (fA w) (fImm w))
  | 0x13 => sysOf (fFn w).toNat
  | 0x14 => some (.mfsr (fD w) (w.extractLsb' 18 12))
  | 0x15 => some (.mtsr (w.extractLsb' 18 12) (fA w))
  | 0x16 => some (.safept (w.extractLsb' 18 12))
  | 0x17 => haltOf w (fFn w).toNat
  | 0x18 => (ldSizeOf (fS w)).map fun z => .ld z (fD w) (fA w) (fOff w)
  | 0x19 => (stSizeOf (fS w)).map fun z => .st z (fD w) (fA w) (fOff w)
  | 0x1A => (amoOpOf (w.extractLsb' 23 4)).bind fun op => (amoSizeOf (w.extractLsb' 27 3)).map fun z =>
      .amo op z (fD w) (fA w) (fB w)
  | 0x1B => (scopeOf (w.extractLsb' 11 3)).bind fun sc => (orderOf (w.extractLsb' 8 3)).map fun o => .ord o sc
  | 0x1C => (scopeOf (fS w)).map fun sc => .fence (fSub w) sc
  | 0x1D => some (.msend (fDE w) (fD w) (fA w) (fSub w))
  | 0x1E => msgOf w (fFn w).toNat
  | 0x20 => queueOf w (fFn w).toNat
  | 0x21 => some (.tfetch (fD w))
  | 0x22 => some (.tspawn (fD w) (fA w))
  | 0x23 => some .tdone
  | 0x24 => some (.svc (fD w) (fA w) (fImm w))
  | 0x25 => (scopeOf (fS w)).map fun sc => .sigc (fDE w) (fD w) (fA w) sc
  | 0x26 => (scopeOf (fS w)).map fun sc => .waitc (fDE w) (fD w) (fA w) sc
  | 0x27 => (scopeOf (fS w)).map fun sc => .bar sc
  | 0x28 => if fImm w = 8 then some (.gang .eight) else if fImm w = 16 then some (.gang .sixteen) else none
  | 0x29 => some (.grant (fA w) (fB w))
  | 0x2A => some (.revoke (fA w) (fB w))
  | 0x2B => some (.pgreq (fD w) (fA w) (fB w))
  | 0x2C => if fSub w = 8 then some (.cpcmdResume (fDE w) (fD w) (fA w))
      else (flagOf (w.getLsbD 21) (w.extractLsb' 23 3)).bind fun q => (flagOf (w.getLsbD 22) (fS w)).map fun r =>
        .cpcmd (fDE w) (fD w) (fA w) q r
  | 0x2D => some (.cpstat (fDE w) (fD w))
  | 0x2E => some (.twait (fD w))
  | 0x2F => if fSub w = 8 then some (.bkcmdResume (fDE w) (fD w) (fA w))
      else (flagOf (w.getLsbD 21) (w.extractLsb' 23 3)).bind fun q => (flagOf (w.getLsbD 22) (fS w)).map fun r =>
        .bkcmd (fDE w) (fD w) (fA w) q r
  | 0x30 => (scopeOf (fS w)).map fun sc => .colcmd (fDE w) (fD w) sc
  | 0x31 => some (.crot (fD w) (fA w))
  | 0x32 => some (.tdef (fD w) (fA w))
  | 0x33 => some (.tver (fD w) (fA w))
  | 0x34 => some (.tkill (fA w))
  | 0x35 => some (.mcfg (fA w) (fB w))
  | 0x36 => some (.mldw (fA w))
  | 0x37 => some .mswap
  | 0x38 => some (.mstr (fA w) (fB w))
  | 0x39 => some (.mdrn (drainOf (w.extractLsb' 23 2)) (fA w))
  | 0x3A => some .mzero
  | 0x3B => some (.mstat (fD w))
  | 0x3C => waccOf w (fFn w).toNat
  | 0x40 => some (.vadd (vFields w))
  | 0x41 => some (.vsub (vFields w))
  | 0x42 => some (.vmul (vFields w))
  | 0x43 => some (.vmulh (vFields w))
  | 0x44 => some (.vmin (vFields w))
  | 0x45 => some (.vmax (vFields w))
  | 0x46 => some (.vminu (vFields w))
  | 0x47 => some (.vmaxu (vFields w))
  | 0x48 => some (.vand (vFields w))
  | 0x49 => some (.vor (vFields w))
  | 0x4A => some (.vxor (vFields w))
  | 0x4B => some (.vshl (vFields w))
  | 0x4C => some (.vshr (vFields w))
  | 0x4D => some (.vsra (vFields w))
  | 0x4E => some (.vsadd (vFields w))
  | 0x4F => some (.vssub (vFields w))
  | 0x50 => some (.vfadd (vFields w))
  | 0x51 => some (.vfsub (vFields w))
  | 0x52 => some (.vfmul (vFields w))
  | 0x53 => some (.vfma (vFields w))
  | 0x54 => some (.vfnma (vFields w))
  | 0x55 => some (.vfmin (vFields w))
  | 0x56 => some (.vfmax (vFields w))
  | 0x57 => some (.vfdiv (vFields w))
  | 0x58 => unaryOf w (vFields w).vb.toNat
  | 0x59 => some (.vcmpeq (vFields w))
  | 0x5A => some (.vcmplt (vFields w))
  | 0x5B => some (.vcmpltu (vFields w))
  | 0x5C => some (.vfcmpeq (vFields w))
  | 0x5D => some (.vfcmplt (vFields w))
  | 0x5E => some (.vfcmple (vFields w))
  | 0x5F => some (.vfcmpun (vFields w))
  | 0x60 => some (.vcvt (vFields w))
  | 0x61 => some (.vperm (vFields w))
  | 0x62 => some (.vsel (vFields w))
  | 0x63 => if w.getLsbD 25 then some (.vcvtiu ((vFields w).withVb ((vFields w).vb &&& 15)))
      else some (.vcvti (vFields w))
  | 0x64 => some (.vredsum (vFields w))
  | 0x65 => some (.vredmax (vFields w))
  | 0x66 => some (.vredmin (vFields w))
  | 0x67 => some (.vfredsum (vFields w))
  | 0x68 => some (.vfredmax (vFields w))
  | 0x69 => some (.vscan (vFields w))
  | 0x6A => some (.vdot (vFields w))
  | 0x6B => some (.vtdot (vFields w))
  | 0x6C => some (.vunpk3 (vFields w))
  | 0x6D => some (.vpack3 (vFields w))
  | 0x6E => some (.vhad (vFields w))
  | 0x6F => some (.vqnt (vFields w))
  | 0x70 => some (.vld (vmFields w))
  | 0x71 => some (.vst (vmFields w))
  | 0x72 => some (.vlds (vmFields w))
  | 0x73 => some (.vsts (vmFields w))
  | 0x74 => some (.vgth (vmFields w))
  | 0x75 => some (.vsct (vmFields w))
  | 0x76 => some (.vbcast (vFields w))
  | 0x77 => some (.vins (vFields w))
  | 0x78 => some (.vext (vFields w))
  | 0x79 => some (.vslup (vFields w))
  | 0x7A => some (.vsldn (vFields w))
  | 0x7B => some (.vcprs (vFields w))
  | 0x7C => maskOf w (vFields w).vb.toNat
  | 0x7D => some (.kcnt (vFields w))
  | 0x7E => some (.kfst (vFields w))
  | 0x7F => some (.vdeq (vFields w))
  | _ => none

/-- The instruction that the major opcode of a word names. -/
def readFields (w : BitVec 32) : Option Instr := readMajor w (w.extractLsb' 1 7).toNat

/-- The 16-bit instruction of Table 20.1. -/
def readHalf (w : BitVec 32) : Option Instr :=
  let va : VReg := w.extractLsb' 10 5
  let vd : VReg := w.extractLsb' 5 5
  let wide := w.getLsbD 15
  match (w.extractLsb' 1 4).toNat with
  | 0 => some (.vadd16 wide vd va)
  | 1 => some (.vsub16 wide vd va)
  | 2 => some (.vmul16 wide vd va)
  | 3 => some (.vmin16 wide vd va)
  | 4 => some (.vmax16 wide vd va)
  | 5 => some (.vand16 vd va)
  | 6 => some (.vor16 vd va)
  | 7 => some (.vxor16 vd va)
  | 8 => some (.vfadd16 wide vd va)
  | 9 => some (.vfsub16 wide vd va)
  | 10 => some (.vfmul16 wide vd va)
  | 11 => some (.vfmin16 wide vd va)
  | 12 => some (.vfmax16 wide vd va)
  | 13 => some (.vmv vd va)
  | 14 => some (.vsadd16 wide vd va)
  | _ => some (.vfabs16 wide vd va)

/-- The instruction a word holds, or none where R322 makes it none: its fields must be well formed and it must
encode to the same word. -/
def checked (w : BitVec 32) (i : Instr) : Option Instr :=
  if wellFormed i && decide (encodeWord i = w) then some i else none

/-- A 32-bit word. -/
def decodeWord (w : BitVec 32) : Option Instr := (readFields w).bind (checked w)

/-- A halfword with bit 0 clear. -/
def decodeHalf (h : BitVec 16) : Option Instr :=
  let w : BitVec 32 := h.setWidth 32
  (readHalf w).bind (checked w)

/-- The bytes of an instruction, low halfword first and each halfword little-endian (R4, R312). -/
def encode (i : Instr) : List Byte :=
  let w := encodeWord i
  match instrLength i with
  | 0 => []
  | 2 => [w.extractLsb' 0 8, w.extractLsb' 8 8]
  | _ => [w.extractLsb' 0 8, w.extractLsb' 8 8, w.extractLsb' 16 8, w.extractLsb' 24 8]

/-- The instruction at the head of a byte list, and the bytes after it. -/
def decode : List Byte → Option (Instr × List Byte)
  | b0 :: b1 :: rest =>
    if b0.getLsbD 0 then
      match rest with
      | b2 :: b3 :: rest' => (decodeWord (b3 ++ b2 ++ b1 ++ b0)).map (·, rest')
      | _ => none
    else (decodeHalf (b1 ++ b0)).map (·, rest)
  | _ => none

/-- The instruction read from bits numbered as spec/opcode_table.json numbers them, every bit above them zero:
the four bytes of the number, least significant first, given to `decode`. -/
def decodeTableWord (_nbits w : Nat) : Option Instr :=
  let v := BitVec.ofNat 32 w
  (decode [v.extractLsb' 0 8, v.extractLsb' 8 8, v.extractLsb' 16 8, v.extractLsb' 24 8]).map (·.1)

end Sys2Proof
end

