-- ==== Sys2Proof/Machine/Bits.lean ====
section
/-!
DEFINITION. Byte order, bit fields and extension: little-endian everywhere (R4), bit 0 least significant (R3).
-/

namespace Sys2Proof.Machine

/-- The low `n` bytes of a number, least significant first (R4). -/
def leBytes : Nat → Nat → List Byte
  | 0, _ => []
  | n + 1, v => BitVec.ofNat 8 v :: leBytes n (v / 256)

/-- The number a byte list holds, least significant byte first (R4). -/
def leNat : List Byte → Nat
  | [] => 0
  | b :: bs => b.toNat + 256 * leNat bs

/-- A word from its bytes, zero-extended. -/
def leWord (bs : List Byte) : Word := BitVec.ofNat 64 (leNat bs)

/-- Bits [lo + n - 1 : lo] of a number. -/
def field (v lo n : Nat) : Nat := v / 2 ^ lo % 2 ^ n

/-- Bit `i` of a number. -/
def bit (v i : Nat) : Bool := v / 2 ^ i % 2 = 1

/-- The signed value of the low `n` bits of a number. -/
def signedOf (n v : Nat) : Int :=
  let u := v % 2 ^ n
  if u < 2 ^ (n - 1) then (u : Int) else (u : Int) - (2 ^ n : Nat)

/-- The two's complement image of an integer in `n` bits. -/
def wrapTo (n : Nat) (i : Int) : Nat := (i % (2 ^ n : Nat)).toNat

/-- Bytes `lo` to `lo + n - 1` of a list, zero where it ends. -/
def slice (bs : List Byte) (lo n : Nat) : List Byte :=
  (List.range n).map fun i => bs.getD (lo + i) 0

/-- The little-endian number in bytes `lo` to `lo + n - 1`. -/
def numAt (bs : List Byte) (lo n : Nat) : Nat := leNat (slice bs lo n)

/-- A PC is always even (R312). -/
def evenPc (w : Word) : Word := w &&& ~~~1#64

/-- Number of set bits among the low `n` bits. -/
def popCount : Nat → Nat → Nat
  | 0, _ => 0
  | n + 1, v => v % 2 + popCount n (v / 2)

/-- Number of binary digits: 0 for 0, otherwise one above the highest set bit. -/
def bitLength (v : Nat) : Nat := if v = 0 then 0 else Nat.log2 v + 1

/-- Position of the lowest set bit among bits 0 to n - 1, or `n`. -/
def lowestSet : Nat → Nat → Nat
  | 0, _ => 0
  | n + 1, v => if v % 2 = 1 then 0 else 1 + lowestSet n (v / 2)

/-- Insert before the first element that does not come before it. -/
def insertBy {α : Type} (le : α → α → Bool) (x : α) : List α → List α
  | [] => [x]
  | y :: ys => if le x y then x :: y :: ys else y :: insertBy le x ys

/-- The list in order; equal elements keep their order. -/
def sortBy {α : Type} (le : α → α → Bool) : List α → List α
  | [] => []
  | x :: xs => insertBy le x (sortBy le xs)

/-- fold12 of R24. -/
def fold12 (n : Nat) : Nat :=
  (field n 0 12 ^^^ field n 12 12) ^^^ (field n 24 12 ^^^ field n 36 12) ^^^ field n 48 12

end Sys2Proof.Machine
end

