-- ==== Sys2Proof/Config.lean ====
section
/-!
DEFINITION. What an implementation fixes and what the spec leaves open. Every constant here is opaque: it
has no body that a proof could unfold, so what is proved holds for every value it may have.
-/

namespace Sys2Proof.Config

/-- A free 64-bit value; the first number is the step counter, the second the place of use. -/
opaque freeWord : Nat → Nat → Word
/-- Free flags of a vector lane: step, lane. -/
opaque freeFlags : Nat → Nat → BitVec 6
/-- A free vector register. -/
opaque freeVec : Nat → Nat → VWord
/-- A free choice among several next events or harts, or a free amount. -/
opaque choose : Nat → Nat → Nat
/-- A free yes or no. -/
opaque freeBool : Nat → Nat → Bool

/-- Preference of a launch among instances it may bind, lowest first (R36): launch, cores of the instance, first core. -/
opaque place : Nat → Nat → Nat → Nat

/-- Nanoseconds that pass at a step (R324, TIME); no step is promised a length. -/
opaque stepTime : Nat → Nat
/-- Core cycles that pass at a step (R324, CYCLE). -/
opaque stepCycles : Nat → Nat

/-- What the security engine's random source gives for a world's key (R247), by the key's instance. -/
opaque freshKey : Nat → BitVec 256
/-- Whether an ECDSA P-384 signature verifies over a digest (R288). -/
opaque ecdsaVerifies : BitVec 384 → BitVec 768 → Bool
/-- Whether an LMS signature verifies over a digest (R288). -/
opaque lmsVerifies : BitVec 384 → List Byte → Bool
/-- The signatures the security engine makes over a transcript digest (R262): ECDSA P-384, and LMS (SHA-256, M32, H20), whose bytes the spec
does not count. -/
opaque ecdsaSignature : BitVec 384 → BitVec 768
opaque lmsSignature : BitVec 384 → List Byte
/-- The session secret of an SPDM key exchange (R262). -/
opaque sessionKey : BitVec 768 → Nat → BitVec 256
/-- The verify data an SPDM FINISH must carry for a session key (R262). -/
opaque finishTag : BitVec 256 → BitVec 384
/-- What a byte of a line reads as when the line was last stored under another key and only other bytes of it
have been written since: key instance, address. -/
opaque staleByte : Nat → Nat → Byte

/-- The kernel of an image that encloses an instruction (R300), by the instruction's offset in the image. -/
opaque imageKernel : BitVec 384 → Nat → Nat
/-- The live-register map n of a kernel of an image (R79, R300), by image measurement: bits 0 to 31 the scalar, bits 32 to 63
the vector registers; none when the kernel has no such map. -/
opaque imageMap : BitVec 384 → Nat → Nat → Option (BitVec 64)
/-- The offset in an image of its handler table (R301); none when it has no table. -/
opaque imageHandlers : BitVec 384 → Option Nat
/-- Local sections of a kernel image, loaded from SELF + 0x1_E000 (R298). -/
opaque imageLocal : BitVec 384 → List Byte
/-- Where the launch supervisor that Shaten installs enters on a trap (R30), by the loads of firmware before it (R288). -/
opaque supervisorEntry : Nat → Word
/-- Number of the first line, by physical address / 64, of the save record of a context (R80): launch, core, context. -/
opaque saveLine : Nat → Nat → Nat → Nat
/-- Number of the first line of that record by virtual address / 64, which its encryption goes by (R250). -/
opaque saveVirtual : Nat → Nat → Nat → Nat

/-- Whether a walk store holds a routine of number 3 to 14 (R215), by the store's bytes; none is the store that no update has written. -/
opaque walkHas : Option (List Byte) → Nat → Bool
/-- What such a routine answers: store, routine, kind of access, address, step; a leaf entry as Table 13.1 has it with route and device, or
a refusal. -/
opaque walkRoutine : Option (List Byte) → Nat → Nat → Nat → Nat → Option (Nat × Nat × Nat)

/-- Pseudo-channel and row of a DRAM line (R278), by its physical address / 64. -/
opaque dramChannel : Nat → Nat
opaque dramRow : Nat → Nat

/-- Krytuk port that reaches a device of the group. -/
opaque portOf : Nat → Nat
/-- What a peer's rights tables say of an access over route 1 (R281), as an engine fault code, 0 for leave: device, owner, group tenant, pointer,
right, step. -/
opaque peerCheck : Nat → Nat → Nat → Nat → Nat → Nat → Nat
/-- The group tenant that a tenant's requests name (R280). -/
opaque groupTenant : Nat → Nat

/-- A sensor reading that the model does not compute (Table 18.3): sensor, occurrence, step. -/
opaque sensor : Nat → Nat → Nat → Word
/-- A performance counter (R184): cluster, row, index, step. -/
opaque perfCounter : Nat → Nat → Nat → Nat → Word
/-- Tenant that a secure session speaks for (R264). -/
opaque sessionTenant : BitVec 256 → Nat
/-- Digests of the firmware that a device carries in a bank that no update has written (Table 16.5): bank; 0 image, 1 walk store, 2
configuration block. -/
opaque factoryDigest : Nat → Nat → BitVec 384
/-- Number of performance counters that PERF_READ copies (R184). -/
opaque perfCount : Nat
/-- Entries of the range table beyond its first (R218, R473). -/
opaque spareRanges : Nat
/-- Entries of the range table. -/
def rangeCapacity : Nat := spareRanges + 1
/-- Physical address / 256 of a page for a new page table, as the operating services choose it: step, level. -/
opaque tablePage : Nat → Nat → Nat
/-- Physical address / 64 KiB of a frame for a granule that the residency service makes resident, as it chooses it: step. -/
opaque pageFrame : Nat → Nat
/-- Bytes that a service reads at its request where no table gives the request's layout (R284). -/
opaque requestBytes : Nat → Nat
/-- What such a request says: service, field, bytes. PAGE_MAP: 0 address, 1 level, 2 entry. PAGE_UNMAP: 0 address. MIGRATE: 0 address, 1
physical destination. KEY_DESTROY: 0 handle. LAUNCH_SUBMIT: 0 pointer to the record. -/
opaque requestField : Nat → Nat → List Byte → Nat
/-- Host time minus device time, in nanoseconds (R473). -/
opaque hostOffset : Nat → Word
/-- A certificate chain of the security engine (R262). -/
opaque certificate : List Byte
/-- What the security engine's answer holds where the spec names only its request (R262): request code, step. -/
opaque spdmBody : Nat → Nat → List Byte

end Sys2Proof.Config
end

