-- ==== Sys2Proof/Machine/Event.lean ====
section
/-!
DEFINITION. The events the machine holds ready to happen, one constructor for each row of spec/opcode_table.json that is no
encoded instruction. `Instr` has a constructor of the same name and the same meaning for each.
-/

namespace Sys2Proof.Machine

/-- An event that may happen next. -/
inductive Event
  | svcStatusReturn (h : Nat)
  | gangGatherComplete (clus gather : Nat)
  | memoryResponse (op : Nat)
  | homeReplyArrival (op : Nat)
  | amoHomeExecute (core : Nat)
  | messageArrival (core : Nat)
  | handlerBudgetExhausted (core : Nat)
  | waccHomeExecute (core : Nat)
  | waccFlipComplete (core : Nat) (header : Nat)
  | remoteWriteApply (flight : Nat)
  | settleWrite (die : Nat) (key : Nat)
  | hartStart (core ctx : Nat)
  | dispatchArbitration (clus : Nat)
  | nodeAging (die : Nat)
  | eventRecordTake (clus : Nat)
  | launchEndSweep (launch : Nat)
  | worldRetire (launch : Nat)
  | worldRetireScrub (launch : Nat)
  | sliceEnd (clus tenant row : Nat)
  | deadlineExpiry (clus tenant row : Nat)
  | forcedStop (h : Nat)
  | contextRelease (h : Nat)
  | hartResume (core ctx : Nat)
  | interruptTake (h : Nat)
  | engineFaultDelivery (h : Nat)
  | engineCommandStart (core tag : Nat)
  | enginePiece (core tag : Nat)
  | bulkChunkSelect (die : Nat)
  | engineCommandComplete (core tag : Nat)
  | mldwExecute (core : Nat)
  | mswapExecute (core : Nat)
  | mstrExecute (gang : Nat)
  | mzeroExecute (gang : Nat)
  | mdrnExecute (gang : Nat)
  | matrixCommandComplete (core : Nat)
  | pageWalkComplete (h : Nat)
  | plbShootdown (core shoot : Nat)
  | plbShootdownAck (core shoot : Nat)
  | atsTranslationCompletion (die tenant : Nat) (page : Nat) (reply : AtsReply)
  | atsInvalidationRequest (tenant : Nat) (page len : Nat)
  | atsInvalidationCompletion (inval : Nat)
  | pageRequestResponse (h : Nat) (code : BitVec 4)
  | pgreqTimeout (h : Nat)
  | completionTimeout (core tag : Nat)
  | dramRequestIssue (req : DramRequest)
  | budgetRefresh
  | krytukFlitReceive (port : Nat) (flit : List Byte)
  | remoteRequestExecute (req : Nat)
  | cxlMemRequest (req : CxlRequest)
  | hostLaunch (tenant : Nat)
  | hostSignal (tenant : Nat)
  | hostAbort (tenant : Nat)
  | hostFence (tenant : Nat)
  | hostMap (tenant : Nat)
  | hostUnmap (tenant : Nat)
  | proxyReply (tenant : Nat)
  | commandWaitRelease (tenant : Nat)
  | completionRecord (tenant : Nat)
  | proxyTimeout (tenant : Nat) (jseq : Nat)
  | svcNop (slot : Nat)
  | console (slot : Nat)
  | fileOpen (slot : Nat)
  | fileRead (slot : Nat)
  | fileWrite (slot : Nat)
  | fileClose (slot : Nat)
  | rangeAlloc (slot : Nat)
  | rangeFree (slot : Nat)
  | pageMap (slot : Nat)
  | pageUnmap (slot : Nat)
  | residency (h : Nat) (status : BitVec 4)
  | migrate (slot : Nat)
  | counterAlloc (slot : Nat)
  | counterFree (slot : Nat)
  | keyDestroy (slot : Nat)
  | connOpen (slot : Nat)
  | connSend (slot : Nat)
  | connRecv (slot : Nat)
  | connClose (slot : Nat)
  | launchSubmit (slot : Nat)
  | launchAbort (slot : Nat)
  | tenantConfig (tenant : Nat) (cfg : TenantConfig)
  | groupConfig (cfg : GroupConfig)
  | perfRead (slot : Nat)
  | timeRead (slot : Nat)
  | trapReport (slot : Nat)
  | counterAssign (ctr tenant : Nat)
  | isolationSet (entry : Nat) (cfg : IsolationConfig)
  | layoutSet (tenant : Nat) (base size : Nat) (va : Word)
  | handover (step : HandoverStep)
  | getVersion
  | getCapabilities
  | negotiateAlgorithms (asym hash : Bool)
  | getDigests
  | getCertificate (offset len : Nat)
  | challenge (nonce : BitVec 256)
  | getMeasurements (index : BitVec 8) (tenant : Nat) (jseq : Nat)
  | keyExchange (exch : BitVec 768)
  | finish (verify : BitVec 384)
  | keyRelease (req : List Byte)
  | firmwareImageReceive (image : FirmwareImage)
  | firmwareActivate
  | firmwareSelftestFail
  | sensorRead (id : BitVec 16) (inst : Nat)
  | sensorUpdate (id : BitVec 16) (inst : Nat)
  | coldReset
  | warmReset
  | dieReset (die : Nat)
  | clusterReset (clus : Nat)
  | coreReset (core : Nat)
  | engineReset (core : Nat) (unit : CoreUnit)
  | bulkReset (die unit : Nat)
  | walkerReset (die unit : Nat)
  | linkReset (port : Nat)
  | tenantReset (tenant : Nat)
  | thermalThrottle (steps : Nat)
  | powerCapSet (watts : Nat)
  | clusterIdleEntry (clus : Nat)
  | clusterWake (clus : Nat)
  | rightsRequestArrival (die : Nat)
  | tensorTableOperation
  | serviceTimerExpiry (h : Nat)
  | linkTraining (dev : BitVec 6) (grouped : Bool)
  deriving DecidableEq, Repr

end Sys2Proof.Machine
end

