-- ==== Sys2Proof/Machine/Map.lean ====
section
/-!
DEFINITION. Reading and writing a sparse map. Writing the default removes the entry, so equal maps are
equal lists.
-/

namespace Sys2Proof.Machine

variable {β : Type}

/-- The value at `k`; `d` where nothing is listed. -/
def mapGet (d : β) : SMap β → Nat → β
  | [], _ => d
  | (a, b) :: m, k => if a = k then b else mapGet d m k

/-- The map without its entry for `k`. -/
def mapErase : SMap β → Nat → SMap β
  | [], _ => []
  | (a, b) :: m, k => if a = k then mapErase m k else (a, b) :: mapErase m k

/-- The map with `(k, v)` placed before the first larger key. -/
def mapInsert : SMap β → Nat → β → SMap β
  | [], k, v => [(k, v)]
  | (a, b) :: m, k, v => if k < a then (k, v) :: (a, b) :: m else (a, b) :: mapInsert m k v

/-- The map that reads `v` at `k` and is unchanged elsewhere. -/
def mapPut [DecidableEq β] (d : β) (m : SMap β) (k : Nat) (v : β) : SMap β :=
  if v = d then mapErase m k else mapInsert (mapErase m k) k v

/-- Change the value at `k` by `f`. -/
def mapMod [DecidableEq β] (d : β) (m : SMap β) (k : Nat) (f : β → β) : SMap β :=
  mapPut d m k (f (mapGet d m k))

/-- Keys rise strictly and every key lies above the bound. -/
def risingFrom : Nat → SMap β → Bool
  | _, [] => true
  | lo, (a, _) :: m => decide (lo ≤ a) && risingFrom (a + 1) m

/-- The canonical form: rising keys and no entry equal to the default. -/
def mapWf [DecidableEq β] (d : β) (m : SMap β) : Bool :=
  risingFrom 0 m && m.all (fun e => decide (e.2 ≠ d))

/-- Every listed key. -/
def mapKeys (m : SMap β) : List Nat := m.map (·.1)

/-- The map with every value sent through `f`, entries that become the default removed. -/
def mapVals [DecidableEq β] (d : β) (f : Nat → β → β) (m : SMap β) : SMap β :=
  m.filterMap fun e => let v := f e.1 e.2; if v = d then none else some (e.1, v)

/-- The map without the keys that `p` selects. -/
def mapDrop (p : Nat → Bool) (m : SMap β) : SMap β := m.filter fun e => !p e.1

end Sys2Proof.Machine
end

