-- ==== Sys2Proof/Machine/State.lean ====
section
/-!
DEFINITION. The state of the device: every hart, core, cluster and die, the tables that the rights unit, the tensor
table and the operating services keep, the host's windows, the security engine and the management controller. A
collection is a sparse map by number (`SMap`); what an unlisted number reads as is the value named beside the
field's type. A hart is named by its key, global core index × 16 + context, context 8 being the handler context.
-/

namespace Sys2Proof.Machine

/-- Privilege modes (Table 3.1). -/
inductive Mode | U | S | M
  deriving DecidableEq, Repr

/-- Propagation attribute of a page (Table 13.1). -/
inductive PageProp | na | mca | repl
  deriving DecidableEq, Repr

/-- The vector of four counts that a cross-die propagation unit keeps and every write carries (R121). -/
structure Stamp where
  n0 : Nat
  n1 : Nat
  n2 : Nat
  n3 : Nat
  deriving DecidableEq, Repr

/-- What a stored line was written under (R250, R251, R253): the key instance and the handle that named it, the VA line
number, and whether a tensor pad instead of XTS was applied. Instance 0 is plaintext, without a MAC. -/
structure LineKey where
  inst : Nat
  keyh : Nat
  line : Nat
  pad : Bool
  deriving DecidableEq, Repr

/-- A line of plaintext: what an unlisted line was written under. -/
def LineKey.plain : LineKey := ⟨0, 0, 0, false⟩

/-- A line that a cache of a core holds, by memory key / 64 (R12, R91): its bytes as the access that filled it decrypted them, and
what it decrypted them under: the line's key, and for a tensor the TID and VERSION of its pad (R253). -/
structure CacheLine where
  line : Nat
  under : LineKey
  pad : Option (Nat × Nat)
  data : BitVec 512
  deriving DecidableEq, Repr

/-- A valid leaf as the translation structures hold it (Table 13.1, R215): virtual base and size, physical (or route
target) base, attributes, route code and the device a route names. -/
structure Leaf where
  base : Nat
  size : Nat
  phys : Nat
  keyh : BitVec 12
  tcipher : Bool
  isSealed : Bool
  direct : Bool
  prop : PageProp
  route : Nat
  dev : Nat
  /-- The page it belongs to, of which a slice holds 64 KiB (R25): base and size. -/
  page : Nat
  pageSize : Nat
  deriving DecidableEq, Repr

/-- The kind of access that a walk is made for (R215). -/
inductive WalkKind | read | write | atomic | fetch
  deriving DecidableEq, Repr

/-- A walk on one of a die's walkers, or waiting for one (R214): the hart that missed, the address, the kind of access, and the walk store
under which it began (R288). -/
structure WalkReq where
  hart : Nat
  va : Nat
  kind : WalkKind
  store : Option (List Byte)
  deriving DecidableEq, Repr

/-- What a walk returned to the access that missed (R213, R215). -/
inductive WalkReply
  | leaf (l : Leaf)
  | absent (page : Nat)
  | malformed (page : Nat)
  deriving DecidableEq, Repr

/-- The read latch of a hart (R199). -/
structure Latch where
  seq : Word
  n : BitVec 32
  f : BitVec 16
  b : BitVec 16
  deriving DecidableEq, Repr

/-- What a context that is not ready waits for (R74, R472, R467, R275): a YIELD since a cycle, a wake-up event, a counter and
its target, a message, an engine tag, a queue register, the cursor, the wired barrier,
a free entry of an engine or matrix queue, a free slot for an operation in flight, the core's own operations on the same bytes (R89),
accesses that a FENCE orders before a load or a store (R116), earlier accesses of a release, writes still on their way to other dies, every operation in flight, accesses to a bank that powers down, the register of an operation in flight, the replies that complete the instruction, the stop that was put off to the end of such an
instruction (R77), and the release that ends a handler. -/
inductive Wait
  | yield (cycle : Nat)
  | interrupt
  | counter (id : Nat) (target : Word)
  | message
  | tag (tag : Nat)
  | queuePush (q : Nat)
  | queuePop (q : Nat)
  | cursor
  | barrier
  | gang
  /-- It leaves a gathering or rotation that a stop has cancelled, and is itself stopped there (R82, R103). -/
  | gangStop
  | ring
  | copyQueue
  | bulkQueue
  | tagFree
  | matrixQueue
  | matrixEmpty
  | slot
  | order (sc : Scope)
  | settle
  /-- Writes that a control register read covers are still to be applied in the view of the hart's die (R121). -/
  | view (stamp : Stamp)
  | drain
  | bank
  | operand (reg : Nat)
  | overlap (key n : Nat)
  | kinds (load store : Bool)
  | reply (op : Nat)
  | stopNext
  | ringSlot
  | service
  | rights
  | tensor
  | page (host : Bool) (va since : Nat) (d : Reg)
  | pageSlot
  | walk (va : Nat)
  /-- A line of DRAM that an exhausted tenant reads only when no request of a tenant within its budget waits on its channel (R279). -/
  | budget (channel tenant : Nat)
  | handlerEnd
  deriving DecidableEq, Repr

/-- What a blocked instruction waited for and has come about (R97, R70): the completion of a tag, with the scope at which TWAIT acquires; a counter
that has reached the target, with the value that did and the writes released before it. -/
inductive Met
  | tag (tag : Nat) (scope : Scope)
  | counter (id : Nat) (value : Word) (stamp : Stamp)
  deriving DecidableEq, Repr

/-- The first half of a two-instruction unit: an ORD (R115) or a GANG (R178), and where it stood. -/
inductive UnitHead
  | ord (pc : Word) (order : Order) (scope : Scope)
  | gang (pc : Word) (n : GangSize)
  deriving DecidableEq, Repr

/-- A fault record (Table 13.9). -/
structure FaultRec where
  code : BitVec 8
  kind : BitVec 8
  tag : BitVec 8
  fromS : Bool
  addr : Word
  done : Word
  remain : Word
  deriving DecidableEq, Repr

/-- The message a handler runs for (R48, R49): the operation in flight, the target hart and its generation. -/
structure MsgCtx where
  op : Nat
  target : Nat
  gen : BitVec 8
  deriving DecidableEq, Repr

/-- What the launch supervisor has to do at EVEC: a trap from U or S (R240, R286), a stop (R83), an engine fault of
U (R287). -/
inductive SupTask
  | trap
  | stop (kind : Nat)
  | engineFault
  deriving DecidableEq, Repr

/-- Pre-emption of a hart (R76, R77): none, slice ended, or deadline passed with the instructions issued since. -/
inductive Preempt
  | none
  | ended
  | overdue (issued : Nat)
  deriving DecidableEq, Repr

/-- What a context holds: nothing, a hart, or a lent bank (R46). -/
inductive Tenure | free | running | lent
  deriving DecidableEq, Repr

/-- The special registers of Table 20.8 that a hart holds itself; HID, TIME and CYCLE are formed when they are read. -/
structure SpecialRegs where
  own : BitVec 16
  tenant : BitVec 4
  launch : Word
  keyh : BitVec 12
  hctl : BitVec 4
  vstat : BitVec 6
  evec : Word
  epc : Word
  ecause : BitVec 8
  eval : Word
  estat : Word
  escr : Word
  efr : Word
  uevec : Word
  uepc : Word
  node : Word
  subt : Word
  msgb : Word
  deriving DecidableEq, Repr

/-- One hart context or handler context (R29, R49). -/
structure Hart where
  tenure : Tenure
  mode : Mode
  pc : Word
  /-- x0 to x31 (R29); x0 is never written. -/
  x : Vector Word 32
  /-- v0 to v31 (R31). -/
  v : Vector VWord 32
  /-- Live vector registers (R32). -/
  live : BitVec 32
  sr : SpecialRegs
  gen : BitVec 8
  /-- The launch it runs for, by the model's number; 0 for none. -/
  launch : Nat
  /-- Sub-tile held (R43). -/
  tile : Option Nat
  /-- MPEND (R370). -/
  mpend : BitVec 32
  latch : Latch
  /-- Interrupts held pending, bit c - 0x80 for cause c (Table 20.10). -/
  ipend : BitVec 8
  faults : List FaultRec
  wait : Option Wait
  /-- What the instruction at hand has waited for, once it has come about. -/
  met : Option Met
  unit : Option UnitHead
  /-- Registers whose result has not returned, and the operation each waits for (R89). -/
  xpend : SMap Nat
  /-- Registers that hold data of a failed read, and the address (R90); a vector register n is numbered 32 + n. -/
  poison : SMap (Option Word)
  /-- Operations and writes that a FENCE at hart scope has put before the hart's later loads, and before its later stores (R116). -/
  beforeLoads : List Nat
  beforeStores : List Nat
  walk : Option WalkReply
  /-- Contexts whose banks it holds on loan (R46). -/
  loans : List Nat
  preempt : Preempt
  sup : Option SupTask
  /-- Instructions the handler has executed (R50). -/
  budget : Nat
  msg : Option MsgCtx
  /-- It has joined a gang (Table 4.4, ACC). -/
  ganged : Bool
  /-- It has been saved and resumed (R86). -/
  resumed : Bool
  /-- Of the instruction that it issued last: the address that follows, and the length of its access (R240, Table 14.7). -/
  after : Word
  remain : Word
  deriving DecidableEq, Repr

/-- A queue register entry and the world of its pusher (R104, R260). -/
structure QEntry where
  value : Word
  world : Nat
  deriving DecidableEq, Repr

/-- A range of the range table (R218), the launch that allocated it (0 for none) and whether it is a host-window
range of a tenant (R267). -/
structure Range where
  base : Nat
  len : Nat
  tag : BitVec 8
  launch : Nat
  tenant : Nat
  host : Bool
  deriving DecidableEq, Repr

/-- A rights table entry (Table 13.4); lengths are in 64-byte units. -/
structure Right where
  base : Nat
  tag : BitVec 8
  len : Nat
  rights : BitVec 8
  owner : BitVec 16
  grantor : BitVec 16
  epoch : BitVec 32
  deriving DecidableEq, Repr

/-- An entry of a protection lookaside buffer (R220). -/
inductive PlbEntry
  | range (owner : BitVec 16) (r : Range)
  | right (r : Right)
  deriving DecidableEq, Repr

/-- The kinds of engine, numbered as Table 13.9 numbers them. -/
inductive EngineKind | copy | bulk | coll
  deriving DecidableEq, Repr

/-- A collective descriptor (Table 5.2). -/
structure CollDesc where
  op : BitVec 8
  colid : BitVec 16
  npart : Nat
  count : Nat
  root : Nat
  src : Word
  dst : Word
  reservedOk : Bool
  scope : Scope
  deriving DecidableEq, Repr

/-- State of an engine command (R100). -/
inductive CmdState
  | queued
  | running
  | faulted (code : BitVec 8)
  | suspended
  /-- Every byte moved; the release, the event record, the tag and the post are to come (R96). -/
  | moved
  /-- As `moved`, with the zero-length read that its release sends to the host under way (R274). -/
  | flushing
  deriving DecidableEq, Repr

/-- An engine command with its tag (R94 to R99). -/
structure Cmd where
  kind : EngineKind
  tag : Nat
  hart : Nat
  gen : BitVec 8
  fromS : Bool
  own : BitVec 16
  tenant : BitVec 4
  launch : Nat
  flush : Bool
  dst : Word
  src : Word
  /-- Length of this issue, and bytes of it moved. -/
  len : Nat
  moved : Nat
  /-- Bytes moved by earlier issues of the same command (R98). -/
  base : Nat
  /-- Original length (R98). -/
  total : Nat
  acq : Option Scope
  rel : Scope
  post : Option Nat
  state : CmdState
  stamp : Stamp
  abandoned : Bool
  coll : Option CollDesc
  /-- Order of issue on the device (R101), and of its latest issue, which a resume renews (R99). -/
  serial : Nat
  issue : Nat
  /-- It has written host memory and its release has not yet seen to those posted writes (R274). -/
  posted : Bool
  /-- Its next piece has begun: a copy's DRAM requests have been made (R278), the reads of a bulk chunk have started (R239). -/
  asked : Bool
  deriving DecidableEq, Repr

/-- A queue post that an engine holds: the command's tag is complete, its queue has had no room yet (R96, R105). -/
structure Posting where
  kind : EngineKind
  tag : Nat
  queue : Nat
  world : Nat
  serial : Nat
  deriving DecidableEq, Repr

/-- State of a weight plane (R182). -/
inductive PlaneState | empty | loaded | loadedSealed
  deriving DecidableEq, Repr

/-- A weight plane (R168) and its source (R175). Element (k, c) is listed at 8k + c as its format's code; the exponent of the
scale of block b of column c at 8b + c, none for a NaN scale; an unlisted element is 0, an unlisted exponent 0. -/
structure Plane where
  state : PlaneState
  tid : BitVec 16
  version : BitVec 32
  k0 : Nat
  n0 : Nat
  format : BitVec 8
  elems : SMap (BitVec 16)
  scales : SMap (Option Int)
  deriving DecidableEq, Repr

/-- The matrix slice of a core (R168, R169, R182). -/
structure MatrixSlice where
  owner : Nat
  wtid : BitVec 16
  atid : BitVec 16
  mode : BitVec 2
  /-- The operand class that the configured formats lie in (Table 10.1), by its row; 0 for none. -/
  cls : BitVec 3
  split : Bool
  flush : Bool
  faulted : Bool
  flags : BitVec 6
  active : Plane
  shadow : Plane
  /-- Accumulator (r, c) at 8r + c (R168). -/
  acc : SMap (BitVec 32)
  deriving DecidableEq, Repr

/-- Joint commands (R173). -/
inductive JointKind | mzero | mstr | mdrn (t : DrainType)
  deriving DecidableEq, Repr

/-- A hart of a gang: its joint instruction and the operands x[a] and x[b] held at issue (R366, R375). -/
structure GangMember where
  hart : Nat
  gen : BitVec 8
  fromS : Bool
  kind : JointKind
  a : Word
  b : Word
  deriving DecidableEq, Repr

/-- The operation of a matrix command queue entry (R177). -/
inductive MatrixOp
  | mldw (x : Word)
  | mswap
  | joint (gang : Nat)
  deriving DecidableEq, Repr

/-- An entry of a matrix command queue. -/
structure MatrixCmd where
  op : MatrixOp
  hart : Nat
  gen : BitVec 8
  launch : Nat
  own : BitVec 16
  tenant : BitVec 4
  fromS : Bool
  running : Bool
  /-- The number that operations and writes issued before the command stay below. -/
  issue : Nat
  deriving DecidableEq, Repr

/-- A joint command queued on all its members, the leader first (R178, R179). -/
structure Gang where
  id : Nat
  launch : Nat
  clus : Nat
  wide : Bool
  row : Nat
  members : List GangMember
  deriving DecidableEq, Repr

/-- A gathering at the wired barrier (R178). -/
structure Gathering where
  id : Nat
  launch : Nat
  clus : Nat
  wide : Bool
  row : Nat
  members : List GangMember
  deriving DecidableEq, Repr

/-- An atomic's operand fields (R332). -/
structure AmoArgs where
  op : AmoOp
  sz : AmoSize
  v : Word
  swap : Word
  deriving DecidableEq, Repr

/-- The window-accumulator operations as they travel to the home (Table 24.4). -/
inductive WaccOp
  | init (cfg : Word)
  /-- The first register of a pair, and the instruction's word, for its traps (R193, R315). -/
  | push (lo hi : Word) (reg : Reg) (word : Word)
  | read (reg : Reg) (word : Word)
  | flip
  | reset
  | stat
  deriving DecidableEq, Repr

/-- What returns from a home (R89, R48, R197). -/
inductive Reply
  | value (v : Word) (poison : Bool)
  | pair (lo hi : Word)
  | latched (lo hi : Word) (pairResult : Bool) (l : Latch)
  | counts (l : Latch)
  | ack
  | misuse
  /-- ILLEGAL_INSTRUCTION, with the word of the instruction (R315). -/
  | illegal (word : Word)
  | memoryError
  deriving DecidableEq, Repr

/-- The kinds of memory operation in flight (R89). -/
inductive OpKind
  | load
  | store
  | amo (a : AmoArgs)
  | msg (target : BitVec 32) (n : BitVec 4) (arg : Word) (sender : BitVec 32)
  | wacc (w : WaccOp)
  deriving DecidableEq, Repr

/-- A memory operation in flight (R89). -/
structure Op where
  id : Nat
  kind : OpKind
  hart : Nat
  gen : BitVec 8
  launch : Nat
  /-- Memory key and pointer of the access, its length in bytes, and the page attributes it was checked under. -/
  key : Nat
  ptr : Word
  size : Nat
  /-- Slots it occupies: one, or one for each line of a gather or scatter. -/
  slots : Nat
  inst : Nat
  keyh : Nat
  prop : PageProp
  route : Nat
  owner : BitVec 16
  dest : Reg
  /-- Acquire order at the reply, and the scope (R114). -/
  acq : Option Scope
  /-- Release scope that the message carries (R129). -/
  rel : Option Scope
  stamp : Stamp
  reply : Option Reply
  replyStamp : Stamp
  /-- Writes numbered below this were on their way when the home answered (R109, R125). -/
  replySerial : Nat
  deriving DecidableEq, Repr

/-- One core (Table 2.2). -/
structure Core where
  /-- Context that issued last (R73). -/
  last : Nat
  /-- Device cycle count at the core's last reset (Table 20.8, CYCLE). -/
  cycleBase : Nat
  /-- Banks that are powered (R13). -/
  banks : BitVec 8
  /-- L1 lines, the latest fill first (R91). -/
  l1 : List CacheLine
  /-- Lines of the instruction cache (Table 2.2), the latest fill first. -/
  icache : List CacheLine
  tlb : List Leaf
  l2 : List Leaf
  plb : List PlbEntry
  /-- q0 to q7, oldest entry first (R104). -/
  queues : SMap (List QEntry)
  /-- Contexts blocked on a queue, in the order in which they blocked: queue number and context (R105). -/
  pushers : List (Nat × Nat)
  poppers : List (Nat × Nat)
  lastTag : Nat
  cmds : List Cmd
  /-- Posts that engines of the core's commands hold, oldest first. -/
  posts : List Posting
  /-- Tags in the copy engine's queue, in issue order (R96). -/
  copyQ : List Nat
  slice : MatrixSlice
  matrixQ : List MatrixCmd
  /-- Operations that arrived at the home, in arrival order (R50). -/
  homeQ : List Nat
  /-- Window-accumulator operations of these that arrived while their page moved, in arrival order: they go before those that arrived after
  them (R206). -/
  held : List Nat
  /-- Objects with a flip under way: header key and the operation that needs it (R203). -/
  flips : List (Nat × Nat)
  /-- Counts of messages and spawns of each launch (R53). -/
  sent : SMap Word
  received : SMap Word
  deriving DecidableEq, Repr

/-- A node in a cluster's work queue (R64) and the harts it has still to start: core and count. -/
structure WorkItem where
  launch : Nat
  node : Nat
  isLocal : Bool
  starts : List (Nat × Nat)
  deriving DecidableEq, Repr

/-- An event-queue record (Table 5.4), with the launch it concerns and the writes released before it. -/
structure EventRec where
  kind : BitVec 8
  status : BitVec 8
  tenant : BitVec 4
  tag : BitVec 8
  source : BitVec 8
  detail : Word
  launch : Nat
  node : Nat
  stamp : Stamp
  deriving DecidableEq, Repr

/-- The work whose waiting ended a slice (R57, R75): a node with harts not yet started, saved harts by their save order, or an
operating service that resets the tenant. -/
inductive SliceCause
  | node (launch node : Nat)
  | saved (serials : List Nat)
  | service
  deriving DecidableEq, Repr

/-- A tenant's slice on a cluster or core row (R75, R76): how long the tenant's harts have held contexts in it up to `since`, from when
they hold some again. -/
structure SliceState where
  held : Bool
  used : Nat
  since : Option Nat
  ended : Option Nat
  overdue : Bool
  cause : Option SliceCause
  deriving DecidableEq, Repr

/-- One cluster (R16, R64, R65). -/
structure Cluster where
  workQ : List WorkItem
  eventQ : List EventRec
  /-- Node completions that wait for room in the event queue (R65). -/
  posters : List EventRec
  gatherings : List Gathering
  gangs : List Gang
  /-- CROT members arrived: hart, offset, length (R103). -/
  rings : List (Nat × Word × Word)
  idle : Bool
  /-- Time since which the cluster holds no context, command or node (Table 18.5). -/
  emptySince : Nat
  /-- Slices by 2 × tenant + row (R75). -/
  slices : SMap SliceState
  deriving DecidableEq, Repr

/-- A node in a ready pool (R61). -/
structure PoolEntry where
  launch : Nat
  node : Nat
  tenant : Nat
  level : Nat
  readyAt : Nat
  agedAt : Nat
  /-- Bound clusters that have not received it yet (R63). -/
  clusters : List Nat
  /-- Released by the control core of its own cluster (R66). -/
  isLocal : Bool
  deriving DecidableEq, Repr

/-- A slot of a system-call ring (R275). -/
structure SvcSlot where
  id : Nat
  hart : Nat
  gen : BitVec 8
  n : Nat
  req : Word
  tenant : BitVec 4
  launch : Nat
  own : BitVec 16
  fromS : Bool
  dest : Reg
  status : Option Word
  /-- Journal sequence and exchange block of a proxied call (R273), and when it was journalled. -/
  proxy : Option (Nat × Nat × Nat)
  /-- When it was taken. -/
  since : Nat
  /-- Whether a service has begun to serve it (R288). -/
  begun : Bool
  deriving DecidableEq, Repr

/-- An entry of an address translation cache (R216). -/
structure AtcEntry where
  tenant : Nat
  page : Nat
  size : Nat
  read : Bool
  write : Bool
  deriving DecidableEq, Repr

/-- A translation request sent to the host and not answered (R216, R274). -/
structure AtsRequest where
  tenant : Nat
  page : Nat
  write : Bool
  core : Nat
  tag : Nat
  deriving DecidableEq, Repr

/-- What a rights unit is asked (R221, R222). -/
structure RightsReq where
  hart : Nat
  gen : BitVec 8
  isGrant : Bool
  a : Word
  b : Word
  own : BitVec 16
  tenant : BitVec 4
  fromS : Bool
  deriving DecidableEq, Repr

/-- One compute die (Table 2.3). -/
structure Die where
  pool : List PoolEntry
  /-- Dispatch credits by tenant, and last tenant served by level (R63). -/
  credit : SMap Nat
  lastServed : SMap Nat
  ring : List SvcSlot
  /-- Callers waiting for a ring slot, in order of arrival (R275). -/
  ringWait : List Nat
  atc : List AtcEntry
  atsPending : List AtsRequest
  /-- Requests that the host has denied, until their command meets the denial (R216, R245). -/
  atsDenied : List AtsRequest
  rightsQ : List RightsReq
  /-- What the 16 bulk engines are busy with: commands, by their order of issue (R101). An engine keeps the last chunk's command until it has
  made its post (R96). -/
  bulkRunning : List Nat
  /-- Walks in order of arrival; the first sixteen are on the page walkers (R214). -/
  walks : List WalkReq
  deriving DecidableEq, Repr

/-- A write on its way to another die (R121), or a REPL write to a replica (R125). -/
structure Flight where
  id : Nat
  src : Nat
  dst : Nat
  seq : Nat
  stamp : Stamp
  key : Nat
  bytes : List Byte
  prop : PageProp
  /-- What its line is stored under (R250). -/
  under : LineKey
  deriving DecidableEq, Repr

/-- A write to an MCA page that is not yet visible (R124). -/
structure McaWrite where
  id : Nat
  hart : Nat
  die : Nat
  stamp : Stamp
  key : Nat
  bytes : List Byte
  under : LineKey
  deriving DecidableEq, Repr

/-- What a shootdown removes (R223, R228, R255): rights of an owner over a range, a range under its old tag, a translation, a tensor's
version. -/
inductive ShootWhat
  | right (owner : BitVec 16) (base units : Nat) (rights : BitVec 8)
  | range (base len : Nat)
  | page (base size : Nat)
  | tensor (base len : Nat)
  deriving DecidableEq, Repr

/-- What completes with the last acknowledgement: an instruction of a hart that still waits for it, which acquires and writes x[d]; a service
call, with its status; a host command; nothing. -/
inductive ShootThen
  | hart (h : Nat) (gen : BitVec 8) (w : Wait) (d : Reg) (value : Word) (acq : Option Scope)
  | service (slot : Nat) (status : Word)
  | command (tenant jseq : Nat)
  | none
  deriving DecidableEq, Repr

/-- A shootdown under way: the cores that have not received it and those that have not acknowledged it. -/
structure Shootdown where
  id : Nat
  what : List ShootWhat
  unsent : List Nat
  waiting : List Nat
  /-- Operations in flight on each core when it received the shootdown: core and operation (R223). -/
  admitted : List (Nat × Nat)
  /-- Weight loads that ran on each core when it received it: core and the command's number (R255, R405). -/
  loading : List (Nat × Nat)
  /-- The writes in the views of the dies whose cores have acknowledged it: they are in the view of whoever goes on with the last
  acknowledgement (R225). -/
  stamp : Stamp
  next : ShootThen
  deriving DecidableEq, Repr

/-- A tensor record (Table 10.2). -/
structure Tensor where
  base : Word
  format : BitVec 8
  flags : BitVec 8
  scaleb : BitVec 8
  tenant : BitVec 4
  keyh : BitVec 12
  dim0 : Nat
  dim1 : Nat
  stride : Nat
  version : BitVec 32
  hseed : Word
  deriving DecidableEq, Repr

/-- An operation on the tensor table on its way (R400). -/
inductive TensorReq
  | tdef (hart : Nat) (gen : BitVec 8) (d : Reg) (image : List Byte) (a : Word)
  | tver (hart : Nat) (gen : BitVec 8) (d : Reg) (a : Word)
  | tkill (hart : Nat) (gen : BitVec 8) (a : Word)
  deriving DecidableEq, Repr

/-- A level of a launch record (Table 3.3). -/
structure Level where
  domain : Scope
  scope : Scope
  extent : Nat
  deriving DecidableEq, Repr

/-- Where a node stands (R40, R54). -/
inductive NodePhase | waiting | ready | handedOut | complete
  deriving DecidableEq, Repr

/-- A node descriptor (Table 3.5) and its progress. -/
structure Node where
  entry : Word
  sx : Nat
  sy : Nat
  sz : Nat
  tw : Nat
  th : Nat
  prio : Nat
  early : Bool
  level : Nat
  noper : Nat
  preds : Nat
  nsucc : Nat
  succ : Word
  args : Word
  bfirst : Nat
  bcount : Nat
  waitctr : BitVec 16
  waitval : Word
  opers : List (BitVec 32)
  reservedOk : Bool
  /-- Predecessors not completed, and not dispatch-complete (R40, R66). -/
  remaining : Nat
  undispatched : Nat
  phase : NodePhase
  /-- Sub-tiles handed out and completed (R42, R44). -/
  cursor : Nat
  finished : Nat
  bound : List Nat
  stamp : Stamp
  /-- The widest scope of the levels of its completed predecessors (R44). -/
  acqScope : Scope
  deriving DecidableEq, Repr

/-- Where a launch stands. -/
inductive LaunchPhase | running | ending | retired
  deriving DecidableEq, Repr

/-- A launch (Table 3.2, R53, R54, R259). -/
structure Launch where
  id : Nat
  tenant : BitVec 4
  seq : Word
  owner : BitVec 16
  keyh : BitVec 12
  prio : Nat
  levels : List Level
  hctl : BitVec 4
  graph : Word
  image : Word
  imageLen : Nat
  endctr : BitVec 16
  endadd : Word
  measure : BitVec 384
  /-- Key instance of the world (R247), 0 for a world without a key. -/
  inst : Nat
  phase : LaunchPhase
  /-- Final journal state and reason once it is ending. -/
  final : Nat
  reason : Nat
  nodes : SMap (Option Node)
  nodeCount : Nat
  /-- The totals that the last sweep found, where it found every core idle (R54). -/
  swept : Option (Word × Word)
  /-- Where its supervisor enters: that of the firmware that accepted it (R288). -/
  evec : Word
  /-- Whether the loader has written the local sections of its image into the cores that it binds (R298). -/
  loaded : Bool
  deriving DecidableEq, Repr

/-- The record of planes in a save record (Table 4.4, PLANES). -/
structure PlanesRec where
  wtid : BitVec 16
  atid : BitVec 16
  mode : BitVec 2
  cls : BitVec 3
  split : Bool
  flush : Bool
  faulted : Bool
  flags : BitVec 6
  active : Plane
  shadow : Plane
  deriving DecidableEq, Repr

/-- A save record (Table 4.4), with the launch, node and order it belongs to. -/
structure Save where
  core : Nat
  ctx : Nat
  launch : Nat
  hidOld : BitVec 32
  kind : Nat
  map : Nat
  pc : Word
  inS : Bool
  mask : BitVec 64
  subt : Word
  tile : Option Nat
  pend : BitVec 8
  sr : SpecialRegs
  mpend : BitVec 32
  planes : Option PlanesRec
  x : Vector Word 32
  v : Vector VWord 32
  acc : Option (SMap (BitVec 32))
  bank : SMap Byte
  loans : List Nat
  faults : List FaultRec
  serial : Nat
  deriving DecidableEq, Repr

/-- A command taken from a host window and not final (R267, R268). -/
structure HostCmd where
  seq : Word
  kind : BitVec 8
  flags : BitVec 8
  waitctr : BitVec 16
  waitval : Word
  arg0 : Word
  arg1 : Word
  arg2 : Word
  /-- The launch record that came with a LAUNCH. -/
  record : List Byte
  jseq : Nat
  deriving DecidableEq, Repr

/-- A journal entry (Table 17.4). -/
structure JEntry where
  jseq : Nat
  cseq : Word
  kind : BitVec 8
  state : BitVec 8
  reason : BitVec 8
  detail : BitVec 32
  time : Nat
  tail : List Byte
  deriving DecidableEq, Repr

/-- One tenant: its table entry (Table 4.1), its logical device and window (Table 17.1), its journal. -/
structure Tenant where
  weight : BitVec 8
  slice : BitVec 32
  deadline : BitVec 32
  hbmBudget : BitVec 16
  lpddrBudget : BitVec 16
  /-- The HDM partition: physical base and size (R265, R266), and LDBASE. -/
  partBase : Nat
  partSize : Nat
  ldbase : Word
  consumed : Nat
  cprod : Nat
  jhead : Nat
  stopped : Bool
  /-- Commands taken and waiting for their WAIT, in order (R268). -/
  held : List HostCmd
  /-- Commands taken and running: command sequence, flags and journal sequence. -/
  running : List (Word × BitVec 8 × Nat)
  /-- Completion records that wait for room (R269). -/
  completions : List (Word × BitVec 8 × Nat × BitVec 8 × BitVec 8)
  journal : List JEntry
  blocks : List Nat
  /-- Handles that a proxy holds open for the tenant (R272). -/
  handles : List Word
  /-- Handles that have been closed and whose PROXY_CLOSED entry waits for room in the journal (R270, R272). -/
  closed : List Word
  prFailed : Bool
  /-- Page requests that the host has not answered (R274): the hart, and when it asked. -/
  pageReqs : List (Nat × Nat)
  deriving DecidableEq, Repr

/-- A key handle with material (Table 16.1); policy lists the image measurements it admits (R257). -/
structure KeyState where
  tenant : BitVec 4
  inst : Nat
  live : Bool
  launch : Nat
  policy : List (BitVec 384)
  deriving DecidableEq, Repr

/-- SPDM session phase (R262, R264). -/
inductive SpdmPhase | none | versioned | capable | negotiated | exchanged (key : BitVec 256) | secure (key : BitVec 256)
  deriving DecidableEq, Repr

/-- What firmware update holds (R288, R289). -/
structure Firmware where
  banks : SMap (Option FirmwareImage)
  active : Nat
  secVersion : Nat
  lastLeaf : Nat
  quiesced : Bool
  updating : Bool
  switched : Bool
  /-- How often the operating services have been loaded: which image's launch supervisor new launches get (R288). -/
  loads : Nat
  /-- The walk store that the dies hold, by its bytes; none before an update has written one (R215, Table 2.3). -/
  walkStore : Option (List Byte)
  bootState : BitVec 8
  osMask : List Nat
  deriving DecidableEq, Repr

/-- A window table entry (R282). -/
structure Window where
  base : Word
  gib : Nat
  route : Nat
  dev : Nat
  direct : Bool
  target : Word
  deriving DecidableEq, Repr

/-- Kinds of a Krytuk request (R280). -/
inductive LinkKind
  | read (len : Nat)
  | write (data : List Byte)
  | amo (a : AmoArgs)
  | msend (target : BitVec 32) (n : BitVec 4) (arg : Word)
  | release
  | response (op : Nat) (data : Word)
  /-- An atomic that is none of Table 21.1. -/
  | unknown
  deriving DecidableEq, Repr

/-- A Krytuk request that has arrived (R280, R281). -/
structure LinkReq where
  id : Nat
  port : Nat
  kind : LinkKind
  hid : BitVec 32
  own : BitVec 16
  group : Nat
  addr : Word
  /-- What its response is known by. -/
  number : Nat
  deriving DecidableEq, Repr

/-- A Krytuk port (R280). -/
structure LinkPort where
  expected : Nat
  acked : Nat
  credits : Nat
  up : Bool
  /-- Sequence number of the next flit sent, the flits sent and not acknowledged, oldest first, and the credits to return. -/
  next : Nat
  buffer : List (Nat × List Byte)
  owed : Nat
  deriving DecidableEq, Repr

/-- What the management controller answers over PLDM (R288 to R290). -/
inductive PldmReply
  | success
  | verifyFailed
  | busy
  | noSession
  | updateFailed
  | noSensor
  | reading (value : Word)
  deriving DecidableEq, Repr

/-- What the security engine answers to an SPDM request (R262). -/
inductive SpdmReply
  | error
  | plain (body : List Byte)
  | signed (body : List Byte) (ecdsa : BitVec 768) (lms : List Byte)
  deriving DecidableEq, Repr

/-- Answers to a key-release request (Table 16.7). -/
inductive KeyReply | success | layoutStale | handleBusy | policyInvalid | noSession
  deriving DecidableEq, Repr

/-- What leaves the device. -/
inductive OutMsg
  | msix (tenant vector : Nat)
  | atsRequest (tenant page : Nat) (write : Bool)
  /-- A zero-length read for a command of a core (R274). -/
  | zeroRead (tenant core tag : Nat)
  | pageRequest (tenant page : Nat) (read write : Bool)
  | invalidationDone (tenant page : Nat)
  | cxlData (data : List Byte)
  | cxlDone
  | cxlPoison
  | spdm (r : SpdmReply)
  | keyRelease (r : KeyReply)
  | pldm (r : PldmReply)
  | linkMessage (op : Nat) (target : BitVec 32) (n : BitVec 4) (arg : Word)
  | linkResponse (port : Nat) (status : BitVec 8) (data : List Byte)
  | linkReplay (port seq : Nat)
  /-- A flit (R280). -/
  | flit (port : Nat) (bytes : List Byte)
  deriving DecidableEq, Repr

/-- An ATS invalidation that has not been answered (R239). -/
structure Invalidation where
  id : Nat
  tenant : Nat
  page : Nat
  len : Nat
  deriving DecidableEq, Repr

/-- A BAR episode (R339): node, scope, instance, arrivals and the writes they released. -/
structure Barrier where
  launch : Nat
  node : Nat
  scope : Scope
  inst : Nat
  arrived : List Nat
  stamp : Stamp
  deriving DecidableEq, Repr

/-- Open row and last direction of a pseudo-channel (R278). -/
structure ChannelState where
  row : Option Nat
  lastWrite : Option Bool
  deriving DecidableEq, Repr

/-- Package power state (Table 18.5). -/
structure Power where
  cap : Option Nat
  stepsDown : Nat
  off : Bool
  deriving DecidableEq, Repr

/-- Page-table state kept by the operating services (R212): the page a migration moves and the lines already copied. -/
structure Migration where
  slot : Nat
  src : Leaf
  dst : Leaf
  copied : List Nat
  deriving DecidableEq, Repr

/-- The device. -/
structure State where
  /-- The hart that issues (the model's own: which hart moves next). -/
  cur : Nat
  /-- Events that may happen next (the model's own: an instruction appends those it causes). -/
  agenda : List Event
  /-- Counter that free values are drawn with (the model's own). -/
  tick : Nat
  /-- Serial number for operations, writes and commands (the model's own). -/
  serial : Nat
  time : Nat
  cycles : Nat
  harts : SMap Hart
  cores : SMap Core
  clusters : SMap Cluster
  dies : SMap Die
  /-- The views of memory by die (R108): cells by memory key, an unlisted key reads 0. -/
  views : SMap (SMap Byte)
  /-- Memory outside the device, reached over routes 1 to 6 (Table 13.3): an unlisted key reads 0. -/
  outer : SMap Byte
  /-- What each DRAM line was written under, by die as the views are, and by key / 64 (R250, R251). -/
  lineKeys : SMap (SMap LineKey)
  /-- Lines with an uncorrectable error, by key / 64 (R90). -/
  badLines : List Nat
  /-- Count vectors of the four propagation units (R121). -/
  stamps : SMap Stamp
  flights : List Flight
  mca : List McaWrite
  ops : List Op
  /-- Fence counters by identifier (R68), their owners (tenant + 1, 0 for none) and the writes released into them. -/
  counters : SMap Word
  counterOwner : SMap Nat
  counterStamp : SMap Stamp
  barriers : List Barrier
  ranges : List Range
  freed : List Range
  withdrawn : List Range
  rights : SMap (List Right)
  /-- Tenant of each owner, plus 1 (R221). -/
  owners : SMap Nat
  /-- Tenant of each key handle, plus 1 (R247, Table 16.7). -/
  handleTenants : SMap Nat
  shootdowns : List Shootdown
  /-- PTROOT (R212) as the view of each die has it (R121). -/
  ptroot : SMap Word
  tensors : SMap (Option Tensor)
  keptVersion : SMap (Option (BitVec 32))
  tidWithdrawn : List Nat
  tensorQ : List TensorReq
  launches : SMap (Option Launch)
  saves : List Save
  tenants : SMap Tenant
  keys : SMap (Option KeyState)
  nextKey : Nat
  spdm : SpdmPhase
  spdmLog : List Byte
  /-- The transcript hash that the last signed answer was signed over (R262). -/
  spdmSigned : Option (BitVec 384)
  layoutEpoch : Nat
  firmware : Firmware
  windows : SMap (Option Window)
  groupTenants : SMap Nat
  isolation : SMap (Option IsolationConfig)
  /-- Device number within the Krytuk group and whether the device is grouped (Table 2.5). -/
  dev : BitVec 6
  grouped : Bool
  ports : SMap LinkPort
  linkReqs : List LinkReq
  channels : SMap ChannelState
  /-- Charge of a tenant on a pseudo-channel in this µs, by 16 × channel + tenant, and the debt carried into it. -/
  charges : SMap Nat
  debts : SMap Nat
  /-- The µs for which the budgets stand (R279). -/
  budgetAt : Nat
  /-- Sensor values as last updated, by 16 × identifier + instance (R290), and the count of uncorrectable errors by die (Table 18.3). -/
  sensors : SMap Word
  errors : SMap Nat
  power : Power
  invalidations : List Invalidation
  migrations : List Migration
  /-- What has left the device, oldest first. -/
  sentOut : List OutMsg
  deriving DecidableEq, Repr

/-! ### Values at reset -/

def Stamp.zero : Stamp := ⟨0, 0, 0, 0⟩

/-- A plane with nothing loaded (R169). -/
def Plane.reset : Plane := ⟨.empty, 0, 0, 0, 0, 0, [], []⟩

/-- The reset configuration of a slice (R169). -/
def MatrixSlice.reset : MatrixSlice := ⟨0, 0, 0, 0, 0, false, false, false, 0, .reset, .reset, []⟩

def SpecialRegs.reset : SpecialRegs := ⟨0, 0, 0, 0, 0, 0, 0, 0, 0, 0, 0, 0, 0, 0, 0, 0, 0, 0⟩

/-- A latch that holds no read (R199). -/
def Latch.reset : Latch := ⟨BitVec.allOnes 64, 0, 0, 0⟩

/-- A context after reset: free, generation 0 (R19). -/
def Hart.reset : Hart :=
  ⟨.free, .U, 0, Vector.replicate 32 0, Vector.replicate 32 0, 0, .reset, 0, 0, none, 0, .reset, 0, [], none, none, none,
    [], [], [], [], none, [], .none, none, 0, none, false, false, 0, 0⟩

/-- A core after reset: context 7 counts as the last to have issued (R73), tag 255 as the last given (R95). -/
def Core.reset : Core :=
  ⟨7, 0, 0, [], [], [], [], [], [], [], [], 255, [], [], [], .reset, [], [], [], [], [], []⟩

def Cluster.reset : Cluster := ⟨[], [], [], [], [], [], false, 0, []⟩

/-- A die after reset; every credit is 0 and every last[level] is 15 (R63). -/
def Die.reset : Die := ⟨[], [], [], [], [], [], [], [], [], [], []⟩

/-- A tenant table entry as Table 4.1 resets it. -/
def Tenant.reset : Tenant :=
  ⟨1, 2000, 50, 0, 0, 0, 0, 0, 0, 0, 0, false, [], [], [], [], [], [], [], false, []⟩

def LinkPort.reset : LinkPort := ⟨0, 0, 0, false, 0, [], 0⟩

def ChannelState.reset : ChannelState := ⟨none, none⟩

def Power.reset : Power := ⟨none, 0, false⟩

/-- The default operating-service mask: cluster 255 of every die (R27). -/
def Firmware.reset : Firmware := ⟨[], 0, 0, 0, false, false, false, 0, none, 0, [255, 511, 767, 1023]⟩

/-- A context of an operating-service core: it runs Shaten, in S mode, and waits for what is asked of it (R27). DESIGN CHOICE (log entry
63): the services are events of their own, so it executes no instruction. -/
def Hart.shaten : Hart := { Hart.reset with tenure := .running, mode := .S, wait := some .message }

/-- The cores of the clusters that a mask names. -/
def osCores (mask : List Nat) : List Nat := mask.flatMap fun c => (List.range 16).map fun i => c * 16 + i

/-- The contexts of a mask, and their cores. -/
def shatenHarts (mask : List Nat) : SMap Hart := (osCores mask).map fun g => (16 * g, Hart.shaten)
def shatenCores (mask : List Nat) : SMap Core := (osCores mask).map fun g => (g, { Core.reset with banks := 1 })

/-- A cluster that is empty goes idle after its time (R292): the checks due at a reset, for every cluster outside the mask. -/
def idleChecks (mask : List Nat) : List Event := ((List.range 1024).filter fun c => !mask.contains c).map .clusterIdleEntry

/-- No slice held. -/
def SliceState.reset : SliceState := ⟨false, 0, none, none, false, none⟩

/-- The device right after a cold reset (Table 18.4): nothing runs and memory lists nothing. -/
def State.reset : State where
  cur := 0
  agenda := idleChecks Firmware.reset.osMask
  tick := 0
  serial := 1
  time := 0
  cycles := 0
  harts := shatenHarts Firmware.reset.osMask
  cores := shatenCores Firmware.reset.osMask
  clusters := []
  dies := []
  views := []
  outer := []
  lineKeys := []
  badLines := []
  stamps := []
  flights := []
  mca := []
  ops := []
  counters := []
  counterOwner := []
  counterStamp := []
  barriers := []
  ranges := []
  freed := []
  withdrawn := []
  rights := []
  owners := []
  handleTenants := []
  shootdowns := []
  ptroot := []
  tensors := []
  keptVersion := []
  tidWithdrawn := []
  tensorQ := []
  launches := []
  saves := []
  tenants := []
  keys := []
  nextKey := 1
  spdm := .none
  spdmLog := []
  spdmSigned := none
  layoutEpoch := 0
  firmware := .reset
  windows := []
  groupTenants := []
  isolation := []
  dev := 0
  grouped := false
  ports := []
  linkReqs := []
  channels := []
  charges := []
  debts := []
  budgetAt := 0
  sensors := []
  errors := []
  power := .reset
  invalidations := []
  migrations := []
  sentOut := []

/-- Reasons the machine stops: none. Every access, event and instruction has an effect that the spec gives, or a free value where it gives none
(log entry 18). -/
inductive Fault
  deriving DecidableEq, Repr

/-- Reasons the machine has no meaning to give. -/
inductive Refusal
  /-- The instruction's meaning is not written: raised by the arms of `exec` that say so. Safe: nothing can be proved
  of a run through it. -/
  | notModelled (mnemonic : String)
  deriving DecidableEq, Repr

end Sys2Proof.Machine
end

