-- ==== Sys2Proof/Machine/Ops.lean ====
section
/-!
DEFINITION. The named operations every meaning is built from: reaching the parts of the state, scalar registers,
retiring an instruction, waiting, taking an exception and returning from one, and what an order waits for.
-/

namespace Sys2Proof.Machine

/-- What a meaning answers. -/
abbrev Result := Host.Outcome State Fault Refusal

/-! ### Parts of the state -/

def getHart (s : State) (h : Nat) : Hart := mapGet .reset s.harts h
def setHart (s : State) (h : Nat) (v : Hart) : State := { s with harts := mapPut .reset s.harts h v }
def modHart (s : State) (h : Nat) (f : Hart → Hart) : State := setHart s h (f (getHart s h))
def getCore (s : State) (g : Nat) : Core := mapGet .reset s.cores g
def setCore (s : State) (g : Nat) (v : Core) : State := { s with cores := mapPut .reset s.cores g v }
def modCore (s : State) (g : Nat) (f : Core → Core) : State := setCore s g (f (getCore s g))
def getCluster (s : State) (c : Nat) : Cluster := mapGet .reset s.clusters c
def modCluster (s : State) (c : Nat) (f : Cluster → Cluster) : State :=
  { s with clusters := mapPut .reset s.clusters c (f (getCluster s c)) }
def getDie (s : State) (d : Nat) : Die := mapGet .reset s.dies d
def modDie (s : State) (d : Nat) (f : Die → Die) : State := { s with dies := mapPut .reset s.dies d (f (getDie s d)) }
def getTenant (s : State) (t : Nat) : Tenant := mapGet .reset s.tenants t
def modTenant (s : State) (t : Nat) (f : Tenant → Tenant) : State :=
  { s with tenants := mapPut .reset s.tenants t (f (getTenant s t)) }
def getLaunch (s : State) (l : Nat) : Option Launch := mapGet none s.launches l
def modLaunch (s : State) (l : Nat) (f : Launch → Launch) : State :=
  match getLaunch s l with
  | none => s
  | some v => { s with launches := mapPut none s.launches l (some (f v)) }
def getNode (l : Launch) (n : Nat) : Option Node := mapGet none l.nodes n
def modNode (s : State) (l n : Nat) (f : Node → Node) : State :=
  modLaunch s l fun v =>
    match getNode v n with
    | none => v
    | some d => { v with nodes := mapPut none v.nodes n (some (f d)) }

/-- Global core index of a hart key (R18). -/
def coreOf (h : Nat) : Nat := h / 16
/-- Context number of a hart key; 8 is the handler context. -/
def ctxOf (h : Nat) : Nat := h % 16
def isHandler (h : Nat) : Bool := ctxOf h = 8
/-- Key of a context of a core. -/
def hartKey (core ctx : Nat) : Nat := core * 16 + ctx
/-- Global cluster index of a core (R18). -/
def clusOf (core : Nat) : Nat := core / 16
/-- Compute die of a core (R18). -/
def dieOf (core : Nat) : Nat := core / 4096
/-- Core row within its cluster (R11). -/
def rowOf (core : Nat) : Nat := core % 16 / 8
def dieOfHart (h : Nat) : Nat := dieOf (coreOf h)

/-- Every compute core is held in reset while no configuration block passes (R28). -/
def heldInReset (s : State) : Bool := decide (s.firmware.bootState = 3)

/-- The hart that executes. -/
def me (s : State) : Hart := getHart s s.cur

/-- Change the hart that executes. -/
def modMe (s : State) (f : Hart → Hart) : State := modHart s s.cur f

/-- Let an event happen later. -/
def post (s : State) (e : Event) : State := { s with agenda := s.agenda ++ [e] }
/-- Let an event happen later that may stand in the agenda already. -/
def postOnce (s : State) (e : Event) : State := if s.agenda.contains e then s else post s e
def postAll (s : State) (es : List Event) : State := { s with agenda := s.agenda ++ es }

/-- A fresh serial number. -/
def fresh (s : State) : Nat × State := (s.serial, { s with serial := s.serial + 1 })

/-- HID (Table 2.5) of a context. -/
def hidOf (s : State) (h : Nat) : BitVec 32 :=
  let core := coreOf h
  let ctx := ctxOf h
  let gen : BitVec 8 := if ctx = 8 then 0 else (getHart s h).gen
  let hnd : BitVec 1 := if ctx = 8 then 1 else 0
  gen ++ hnd ++ s.dev ++ BitVec.ofNat 14 core ++ (if ctx = 8 then 0#3 else BitVec.ofNat 3 ctx)

/-! ### Scalar registers -/

/-- x[r]; x0 reads zero. -/
def readX (h : Hart) (r : Reg) : Word := if r = 0 then 0 else h.x[r.toNat]'(by have := r.isLt; omega)

/-- x[r] ← v; a write to x0 is discarded (R315). A register written anew holds no failed read (R90), and a result still on
its way for an earlier instruction no longer reaches it. -/
def writeX (h : Hart) (r : Reg) (v : Word) : Hart :=
  if r = 0 then h
  else
    { h with
      x := h.x.set r.toNat v (by have := r.isLt; omega)
      xpend := mapErase h.xpend r.toNat
      poison := mapErase h.poison r.toNat }

/-- The register after r (R315); the encodings that reach it keep r below 31. -/
def nextReg (r : Reg) : Reg := r + 1

/-! ### Retiring and waiting -/

/-- Completion of an instruction of `len` bytes: the PC moves past it and its ORD or GANG unit ends. -/
def retireHart (len : Nat) (h : Hart) : Hart :=
  { h with pc := h.pc + BitVec.ofNat 64 len, unit := none, wait := none, met := none, walk := none }

/-- Completion of an instruction that sets the PC itself. -/
def jumpHart (pc : Word) (h : Hart) : Hart :=
  { h with pc := evenPc pc, unit := none, wait := none, met := none, walk := none }

def retire (s : State) (len : Nat) : State := modMe s (retireHart len)

/-- An instruction of the word format completes. -/
def done4 (s : State) : Result := .next (retire s 4)

/-- An instruction of the word format writes x[d] and completes. -/
def done4With (s : State) (d : Reg) (v : Word) : Result := .next (modMe s fun h => retireHart 4 (writeX h d v))

/-- The instruction waits and executes again when the wait is over (R74). -/
def waitFor (s : State) (w : Wait) : Result := .next (modMe s fun h => { h with wait := some w })

/-- An event whose conditions do not hold leaves the machine as it is. -/
def idleEvent (s : State) : Result := .next s

/-! ### Replies -/

def findOp (s : State) (id : Nat) : Option Op := s.ops.find? (·.id = id)
def modOp (s : State) (id : Nat) (f : Op → Op) : State :=
  { s with ops := s.ops.map fun o => if o.id = id then f o else o }
def dropOp (s : State) (id : Nat) : State := { s with ops := s.ops.filter (·.id ≠ id) }

/-- The home answers an operation in flight; the reply travels to the sender. -/
def sendReply (s : State) (id : Nat) (r : Reply) (stamp : Stamp) : State :=
  post (modOp s id fun o => { o with reply := some r, replyStamp := stamp, replySerial := s.serial }) (.homeReplyArrival id)

def stampOf (s : State) (die : Nat) : Stamp := mapGet .zero s.stamps die

/-! ### Taking an exception and returning from one -/

/-- A synchronous trap: cause (Table 20.9), EVAL and the ESTAT detail. -/
structure Trap where
  cause : BitVec 8
  eval : Word
  detail : BitVec 16
  deriving DecidableEq, Repr

/-- PMODE of Table 13.8. -/
def modeCode : Mode → BitVec 2
  | .U => 0
  | .S => 1
  | .M => 1

/-- Entry to S mode at EVEC (R231): EPC, ECAUSE, EVAL and ESTAT written, the wait and the unit left. -/
def enterS (h : Hart) (epc : Word) (cause : BitVec 8) (eval : Word) (detail : BitVec 16) (task : SupTask) : Hart :=
  { h with
    sr := { h.sr with
      epc := epc
      ecause := cause
      eval := eval
      estat := h.live ++ detail ++ 0#14 ++ modeCode h.mode }
    mode := .S
    pc := evenPc h.sr.evec
    unit := none
    wait := none
    met := none
    walk := none
    sup := if h.launch = 0 then none else some task }

/-- Where a trap of the instruction at hand returns to: its ORD or GANG, or itself (R115, R178). -/
def trapPc (h : Hart) : Word :=
  match h.unit with
  | some (.ord pc _ _) => pc
  | some (.gang pc _) => pc
  | none => h.pc

/-- Whether a cluster holds no context, command or node (Table 18.5). -/
def clusterEmpty (s : State) (clus : Nat) : Bool :=
  let c := getCluster s clus
  c.workQ = [] && c.eventQ = [] && c.posters = [] &&
    (List.range 16).all fun i =>
      let core := clus * 16 + i
      (getCore s core).cmds = [] && (getCore s core).posts = [] && (getCore s core).matrixQ = [] &&
        (List.range 9).all fun j => decide ((getHart s (hartKey core j)).tenure = .free)

/-- Note the moment at which a cluster became empty. -/
def noteEmpty (s : State) (clus : Nat) : State :=
  if clusterEmpty s clus then
    post (modCluster s clus fun c => { c with emptySince := s.time }) (.clusterIdleEntry clus)
  else s

/-- The handler context is free again for the next operation in arrival order (R50). -/
def freeHandler (s : State) (core : Nat) : State := noteEmpty (setHart s (hartKey core 8) .reset) (clusOf core)

/-- The handler of a core ends with a status that goes back to the sender (R50, R371). -/
def endHandler (s : State) (core : Nat) (status : Word) : State :=
  match (getHart s (hartKey core 8)).msg with
  | none => freeHandler s core
  | some m => sendReply (freeHandler s core) m.op (.value status false) (stampOf s (dieOf core))

/-- Take a synchronous trap in a context (R231); in the handler context it ends the handler with status FAILED (R50). -/
def takeTrap (s : State) (h : Nat) (t : Trap) : State :=
  if isHandler h then endHandler s (coreOf h) 3
  else modHart s h fun v => enterS v (trapPc v) t.cause t.eval t.detail .trap

/-- The instruction at hand traps (R8): nothing of it remains. -/
def trapR (s : State) (t : Trap) : Result := .next (takeTrap s s.cur t)

/-- ILLEGAL_INSTRUCTION with EVAL the instruction (Table 20.9). -/
def illegalTrap (i : Instr) : Trap := ⟨0x01, (encodeWord i).setWidth 64, 0⟩
def illegal (s : State) (i : Instr) : Result := trapR s (illegalTrap i)
def privilege (s : State) (i : Instr) : Result := trapR s ⟨0x02, (encodeWord i).setWidth 64, 0⟩

/-- The mode that ESTAT.PMODE names (Table 13.8): 2 and 3 act as 1. -/
def returnMode (estat : Word) : Mode := if estat.extractLsb' 0 2 = 0 then .U else .S

/-- ERET in S mode (R232). -/
def returnFromTrap (h : Hart) : Hart :=
  { jumpHart h.sr.epc h with mode := returnMode h.sr.estat, sup := none }

/-- HCTL bits (Table 13.10). -/
def deadChk (h : Hart) : Bool := h.sr.hctl.getLsbD 0
def flushOn (h : Hart) : Bool := h.sr.hctl.getLsbD 1
def uefEn (h : Hart) : Bool := h.sr.hctl.getLsbD 2
def uefAct (h : Hart) : Bool := h.sr.hctl.getLsbD 3
def setUefAct (b : Bool) (h : Hart) : Hart :=
  { h with sr := { h.sr with hctl := BitVec.ofBool b ++ h.sr.hctl.extractLsb' 0 3 } }

/-- ERET in U mode from an engine-fault handler (R232, R234). -/
def returnFromUHandler (h : Hart) : Hart := setUefAct false (jumpHart h.sr.uepc h)

/-! ### Orders -/

/-- The stamp that covers both (R121). -/
def Stamp.join (a b : Stamp) : Stamp := ⟨max a.n0 b.n0, max a.n1 b.n1, max a.n2 b.n2, max a.n3 b.n3⟩

/-- Whether every count of `a` has been reached in `b`. -/
def Stamp.le (a b : Stamp) : Bool := a.n0 ≤ b.n0 && a.n1 ≤ b.n1 && a.n2 ≤ b.n2 && a.n3 ≤ b.n3

def Stamp.get (t : Stamp) (die : Nat) : Nat :=
  match die with
  | 0 => t.n0
  | 1 => t.n1
  | 2 => t.n2
  | _ => t.n3

def Stamp.set (t : Stamp) (die n : Nat) : Stamp :=
  match die with
  | 0 => { t with n0 := n }
  | 1 => { t with n1 := n }
  | 2 => { t with n2 := n }
  | _ => { t with n3 := n }

/-- Scopes by extent (Table 2.1). -/
def scopeAtLeast (a b : Scope) : Bool := b.code.toNat ≤ a.code.toNat

/-- The wider of two scopes. -/
def widerOf (a b : Scope) : Scope := if scopeAtLeast a b then a else b

/-- An acquire at cluster scope or wider empties the L1 of the acquiring core; a narrower one does nothing (R92). -/
def acquireAt (s : State) (core : Nat) (sc : Scope) : State :=
  if scopeAtLeast sc .clus then modCore s core fun c => { c with l1 := [] } else s

/-- Whether an operation reads and writes at its home: an atomic or a window-accumulator operation. -/
def Op.atHome (o : Op) : Bool :=
  match o.kind with
  | .amo _ | .wacc _ => true
  | .load | .store | .msg _ _ _ _ => false

/-- Whether an operation of a handler waits for that very handler: its home is the handler's own core, which takes it afterwards (R333). -/
def behindHandler (s : State) (o : Op) : Bool := isHandler o.hart && (getCore s (coreOf o.hart)).homeQ.contains o.id

/-- Numbers of the accesses of an agent below `n` that have not been performed in the view of its die: atomics and window-accumulator
operations whose reply has not arrived, and with it their write (R109, R118), and writes to MCA pages that are not visible (R124). -/
def unperformedBefore (s : State) (h n : Nat) : Bool :=
  s.ops.any (fun o => o.hart = h && o.id < n && o.atHome && !behindHandler s o) || s.mca.any (fun w => w.hart = h && w.id < n)

/-- Accesses of an agent that have not been performed yet. -/
def unperformed (s : State) (h : Nat) : Bool := unperformedBefore s h s.serial

/-- Whether an access of the core still on its way to a home meets some bytes (R89); one that waits for the handler that asks is left
out. -/
def overlapBusy (s : State) (h key n : Nat) : Bool :=
  s.ops.any fun o =>
    coreOf o.hart = coreOf h && o.atHome && o.key < key + n && key < o.key + o.size &&
      !(isHandler h && (getCore s (coreOf h)).homeQ.contains o.id)

/-- Numbers of the accesses that a hart has in flight and that are performed later: reads and writes at a home, and writes to MCA pages. -/
def lateReads (s : State) (h : Nat) : List Nat := (s.ops.filter fun o => o.hart = h && o.atHome && !behindHandler s o).map (·.id)
def lateWrites (s : State) (h : Nat) : List Nat := lateReads s h ++ (s.mca.filter fun w => w.hart = h).map (·.id)

/-- Whether one of some accesses is still to be performed. -/
def stillLate (s : State) (l : List Nat) : Bool := l.any fun n => (s.ops.any fun o => o.id = n) || s.mca.any fun w => w.id = n

/-- Whether a FENCE holds back an access of the kinds given (R116). -/
def fenceHolds (s : State) (v : Hart) (load store : Bool) : Bool :=
  (load && stillLate s v.beforeLoads) || (store && stillLate s v.beforeStores)

/-- What a release by an agent of `die` waits for at pkg scope and wider (R125): every REPL write applied to all replicas. -/
def replSettled (s : State) (die : Nat) : Bool :=
  !s.flights.any fun f => decide (f.prop = .repl) && decide (f.dst ≠ die)

/-- What a release at sys scope waits for (R127): the hart's writes outside the device acknowledged. -/
def outerSettled (s : State) (h : Nat) : Bool :=
  !s.ops.any fun o => o.hart = h && decide (o.route ≠ 0) && (match o.kind with | .store => true | _ => false)

/-- What a release by an agent at a scope waits for besides its own accesses (R125, R127). -/
def scopeSettled (s : State) (h die : Nat) (sc : Scope) : Bool :=
  (!(scopeAtLeast sc .pkg) || replSettled s die) && (!(scopeAtLeast sc .sys) || outerSettled s h)

/-- Whether a release of a hart at a scope may be performed (R114, R125, R127). -/
def releaseReady (s : State) (h : Nat) (sc : Scope) : Bool := !unperformed s h && scopeSettled s h (dieOfHart h) sc

/-- Go on when no access of the core on its way to a home meets the bytes of the access at hand (R89); otherwise wait. -/
def afterOverlap (s : State) (key n : Nat) (k : Result) : Result :=
  if overlapBusy s s.cur key n then waitFor s (.overlap key n) else k

/-- Go on when no FENCE holds back the access at hand (R116); otherwise wait. -/
def afterFences (s : State) (load store : Bool) (k : Result) : Result :=
  if fenceHolds s (me s) load store then waitFor s (.kinds load store) else k

/-- Go on when the release may be performed; otherwise the instruction waits. -/
def afterRelease (s : State) (sc : Scope) (k : Result) : Result :=
  if releaseReady s s.cur sc then k else waitFor s (.order sc)

/-- The order the instruction at hand carries by its ORD (R114). -/
def orderNow (h : Hart) : Order × Scope :=
  match h.unit with
  | some (.ord _ o sc) => (o, sc)
  | some (.gang _ _) => (.relaxed, .hart)
  | none => (.relaxed, .hart)

def orderAcquires : Order → Bool
  | .acq | .acqrel | .seq => true
  | .relaxed | .rel => false

def orderReleases : Order → Bool
  | .rel | .acqrel | .seq => true
  | .relaxed | .acq => false

/-- Run the release half of the unit's order before `k`. -/
def orderedBefore (s : State) (k : Result) : Result :=
  let o := orderNow (me s)
  if orderReleases o.1 then afterRelease s o.2 k else k

/-- The acquire half of the unit's order, at the completion of the instruction. -/
def orderedAfter (s : State) : State :=
  let o := orderNow (me s)
  if orderAcquires o.1 then acquireAt s (coreOf s.cur) o.2 else s

/-- Whether the launch of a hart binds a scope (R37): hart, core and the scope of each of its levels. A context that runs
for no launch is under no such limit. -/
def bindsScope (s : State) (h : Hart) (sc : Scope) : Bool :=
  match getLaunch s h.launch with
  | none => true
  | some l => decide (sc = .hart) || decide (sc = .core) || l.levels.any (fun v => decide (v.scope = sc))

end Sys2Proof.Machine
end

