-- ==== Sys2Proof/Machine/Operands.lean ====
section
/-!
DEFINITION. Operand forms: the registers an instruction reads, the addresses of scalar memory operands, and the lanes, masks
and marks of vector operands (R136, R315, R316, R407).
-/

namespace Sys2Proof.Machine

/-! ### Vector sources -/

/-- The mask register, where the instruction has one (R316). -/
def maskReg (m : BitVec 3) : VReg := m.setWidth 5

end Sys2Proof.Machine

namespace Sys2Proof

open Sys2Proof.Machine

/-- Whether the instruction merges, and so reads vd (R407). -/
def VFmt.merges (f : VFmt) : Bool := decide (f.mask ≠ 0) && !f.z

def VmFmt.merges (f : VmFmt) : Bool := decide (f.mask ≠ 0) && !f.z

def VFmt.maskSource (f : VFmt) : List VReg := if f.mask = 0 then [] else [maskReg f.mask]

def VmFmt.maskSource (f : VmFmt) : List VReg := if f.mask = 0 then [] else [maskReg f.mask]

/-- va, vb where it is a vector source, the mask register, and vd where the instruction reads it. -/
def VFmt.sources (f : VFmt) (readsVb readsVd : Bool) : List VReg :=
  f.va :: (if readsVb then [f.vb] else []) ++ f.maskSource ++ (if readsVd then [f.vd] else [])

end Sys2Proof

namespace Sys2Proof.Machine

/-- The scalar registers an instruction reads (R89, R112). The pair register of WPUSH is read whatever the operator. -/
def scalarSources : Instr → List Reg
  | .add _ a b => [a, b]
  | .sub _ a b => [a, b]
  | .andR _ a b => [a, b]
  | .orR _ a b => [a, b]
  | .xorR _ a b => [a, b]
  | .shl _ a b => [a, b]
  | .shr _ a b => [a, b]
  | .sra _ a b => [a, b]
  | .slt _ a b => [a, b]
  | .sltu _ a b => [a, b]
  | .minS _ a b => [a, b]
  | .maxS _ a b => [a, b]
  | .minu _ a b => [a, b]
  | .maxu _ a b => [a, b]
  | .mul _ a b => [a, b]
  | .mulh _ a b => [a, b]
  | .mulhu _ a b => [a, b]
  | .div _ a b => [a, b]
  | .divu _ a b => [a, b]
  | .rem _ a b => [a, b]
  | .remu _ a b => [a, b]
  | .clz _ a => [a]
  | .ctz _ a => [a]
  | .popc _ a => [a]
  | .bswap _ a => [a]
  | .addi _ a _ => [a]
  | .andi _ a _ => [a]
  | .ori _ a _ => [a]
  | .xori _ a _ => [a]
  | .shli _ a _ => [a]
  | .shri _ a _ => [a]
  | .srai _ a _ => [a]
  | .slti _ a _ => [a]
  | .sltui _ a _ => [a]
  | .lui _ _ => []
  | .extu _ a _ _ => [a]
  | .exts _ a _ _ => [a]
  | .ins d a _ _ => [a, d]
  | .addpc _ _ => []
  | .bcond _ a b _ => [a, b]
  | .jal _ _ => []
  | .jalr _ a _ => [a]
  | .yield => []
  | .wfi => []
  | .eret => []
  | .ebreak => []
  | .mfsr _ _ => []
  | .mtsr _ a => [a]
  | .safept _ => []
  | .halt => []
  | .haltRetain a => [a]
  | .ld _ _ a _ => [a]
  | .st _ s a _ => [a, s]
  | .amo op _ _ a b => if op = .cas then [a, b, nextReg b] else [a, b]
  | .ord _ _ => []
  | .fence _ _ => []
  | .msend _ a b _ => [a, b]
  | .mwait _ => []
  | .mret => []
  | .mpoll _ => []
  | .qpush _ b => [b]
  | .qpop _ _ => []
  | .qpeek _ _ => []
  | .qcnt _ _ => []
  | .tfetch _ => []
  | .tspawn _ a => [a]
  | .tdone => []
  | .svc _ a _ => [a]
  | .svcStatusReturn _ => []
  | .sigc _ a b _ => [a, b]
  | .waitc _ a b _ => [a, b]
  | .bar _ => []
  | .gang _ => []
  | .gangGatherComplete _ _ => []
  | .grant a b => [a, b]
  | .revoke a b => [a, b]
  | .pgreq _ a b => [a, b]
  | .cpcmd d a b _ _ => [d, a, b]
  | .cpcmdResume d a b => [d, a, b]
  | .cpstat _ a => [a]
  | .twait a => [a]
  | .bkcmd d a b _ _ => [d, a, b]
  | .bkcmdResume d a b => [d, a, b]
  | .colcmd _ a _ => [a]
  | .crot a b => [a, b]
  | .tdef _ a => [a]
  | .tver _ a => [a]
  | .tkill a => [a]
  | .mcfg a b => [a, b]
  | .mldw a => [a]
  | .mswap => []
  | .mstr a b => [a, b]
  | .mdrn _ a => [a]
  | .mzero => []
  | .mstat _ => []
  | .winit a b => [a, b]
  | .wpush _ a b => [a, b]
  | .wread _ a => [a]
  | .wflip _ a => [a]
  | .wreset _ a => [a]
  | .wstat _ a => [a]
  | .vadd _ => []
  | .vsub _ => []
  | .vmul _ => []
  | .vmulh _ => []
  | .vmin _ => []
  | .vmax _ => []
  | .vminu _ => []
  | .vmaxu _ => []
  | .vand _ => []
  | .vor _ => []
  | .vxor _ => []
  | .vshl _ => []
  | .vshr _ => []
  | .vsra _ => []
  | .vsadd _ => []
  | .vssub _ => []
  | .vfadd _ => []
  | .vfsub _ => []
  | .vfmul _ => []
  | .vfma _ => []
  | .vfnma _ => []
  | .vfmin _ => []
  | .vfmax _ => []
  | .vfdiv _ => []
  | .vabs _ => []
  | .vneg _ => []
  | .vfabs _ => []
  | .vfneg _ => []
  | .vfsqrt _ => []
  | .vrcp _ => []
  | .vrsq _ => []
  | .vexp2 _ => []
  | .vlog2 _ => []
  | .vsin _ => []
  | .vcos _ => []
  | .vcmpeq _ => []
  | .vcmplt _ => []
  | .vcmpltu _ => []
  | .vfcmpeq _ => []
  | .vfcmplt _ => []
  | .vfcmple _ => []
  | .vfcmpun _ => []
  | .vcvt _ => []
  | .vperm _ => []
  | .vsel _ => []
  | .vcvti _ => []
  | .vcvtiu _ => []
  | .vredsum _ => []
  | .vredmax _ => []
  | .vredmin _ => []
  | .vfredsum _ => []
  | .vfredmax _ => []
  | .vscan _ => []
  | .vdot _ => []
  | .vtdot _ => []
  | .vunpk3 _ => []
  | .vpack3 _ => []
  | .vhad f => [f.vb]
  | .vqnt _ => []
  | .vld f => [f.base, f.idx]
  | .vst f => [f.base, f.idx]
  | .vlds f => [f.base, f.idx]
  | .vsts f => [f.base, f.idx]
  | .vgth f => [f.base]
  | .vsct f => [f.base]
  | .vbcast f => [f.va]
  | .vins f => [f.va, f.vb]
  | .vext f => [f.vb]
  | .vslup f => [f.vb]
  | .vsldn f => [f.vb]
  | .vcprs _ => []
  | .kand _ => []
  | .kor _ => []
  | .kxor _ => []
  | .kandn _ => []
  | .knot _ => []
  | .kcnt _ => []
  | .kfst _ => []
  | .vdeq _ => []
  | .vadd16 _ _ _ => []
  | .vsub16 _ _ _ => []
  | .vmul16 _ _ _ => []
  | .vmin16 _ _ _ => []
  | .vmax16 _ _ _ => []
  | .vand16 _ _ => []
  | .vor16 _ _ => []
  | .vxor16 _ _ => []
  | .vfadd16 _ _ _ => []
  | .vfsub16 _ _ _ => []
  | .vfmul16 _ _ _ => []
  | .vfmin16 _ _ _ => []
  | .vfmax16 _ _ _ => []
  | .vmv _ _ => []
  | .vsadd16 _ _ _ => []
  | .vfabs16 _ _ _ => []
  | .memoryResponse _ => []
  | .homeReplyArrival _ => []
  | .amoHomeExecute _ => []
  | .messageArrival _ => []
  | .handlerBudgetExhausted _ => []
  | .waccHomeExecute _ => []
  | .waccFlipComplete _ _ => []
  | .remoteWriteApply _ => []
  | .settleWrite _ _ => []
  | .hartStart _ _ => []
  | .dispatchArbitration _ => []
  | .nodeAging _ => []
  | .eventRecordTake _ => []
  | .launchEndSweep _ => []
  | .worldRetire _ => []
  | .worldRetireScrub _ => []
  | .sliceEnd _ _ _ => []
  | .deadlineExpiry _ _ _ => []
  | .forcedStop _ => []
  | .contextRelease _ => []
  | .hartResume _ _ => []
  | .interruptTake _ => []
  | .engineFaultDelivery _ => []
  | .engineCommandStart _ _ => []
  | .enginePiece _ _ => []
  | .bulkChunkSelect _ => []
  | .engineCommandComplete _ _ => []
  | .mldwExecute _ => []
  | .mswapExecute _ => []
  | .mstrExecute _ => []
  | .mzeroExecute _ => []
  | .mdrnExecute _ => []
  | .matrixCommandComplete _ => []
  | .pageWalkComplete _ => []
  | .plbShootdown _ _ => []
  | .plbShootdownAck _ _ => []
  | .atsTranslationCompletion _ _ _ _ => []
  | .atsInvalidationRequest _ _ _ => []
  | .atsInvalidationCompletion _ => []
  | .pageRequestResponse _ _ => []
  | .pgreqTimeout _ => []
  | .completionTimeout _ _ => []
  | .dramRequestIssue _ => []
  | .budgetRefresh => []
  | .krytukFlitReceive _ _ => []
  | .remoteRequestExecute _ => []
  | .cxlMemRequest _ => []
  | .hostLaunch _ => []
  | .hostSignal _ => []
  | .hostAbort _ => []
  | .hostFence _ => []
  | .hostMap _ => []
  | .hostUnmap _ => []
  | .proxyReply _ => []
  | .commandWaitRelease _ => []
  | .completionRecord _ => []
  | .proxyTimeout _ _ => []
  | .svcNop _ => []
  | .console _ => []
  | .fileOpen _ => []
  | .fileRead _ => []
  | .fileWrite _ => []
  | .fileClose _ => []
  | .rangeAlloc _ => []
  | .rangeFree _ => []
  | .pageMap _ => []
  | .pageUnmap _ => []
  | .residency _ _ => []
  | .migrate _ => []
  | .counterAlloc _ => []
  | .counterFree _ => []
  | .keyDestroy _ => []
  | .connOpen _ => []
  | .connSend _ => []
  | .connRecv _ => []
  | .connClose _ => []
  | .launchSubmit _ => []
  | .launchAbort _ => []
  | .tenantConfig _ _ => []
  | .groupConfig _ => []
  | .perfRead _ => []
  | .timeRead _ => []
  | .trapReport _ => []
  | .counterAssign _ _ => []
  | .isolationSet _ _ => []
  | .layoutSet _ _ _ _ => []
  | .handover _ => []
  | .getVersion => []
  | .getCapabilities => []
  | .negotiateAlgorithms _ _ => []
  | .getDigests => []
  | .getCertificate _ _ => []
  | .challenge _ => []
  | .getMeasurements _ _ _ => []
  | .keyExchange _ => []
  | .finish _ => []
  | .keyRelease _ => []
  | .firmwareImageReceive _ => []
  | .firmwareActivate => []
  | .firmwareSelftestFail => []
  | .sensorRead _ _ => []
  | .sensorUpdate _ _ => []
  | .coldReset => []
  | .warmReset => []
  | .dieReset _ => []
  | .clusterReset _ => []
  | .coreReset _ => []
  | .engineReset _ _ => []
  | .bulkReset _ _ => []
  | .walkerReset _ _ => []
  | .linkReset _ => []
  | .tenantReset _ => []
  | .thermalThrottle _ => []
  | .powerCapSet _ => []
  | .clusterIdleEntry _ => []
  | .clusterWake _ => []
  | .rightsRequestArrival _ => []
  | .tensorTableOperation => []
  | .serviceTimerExpiry _ => []
  | .linkTraining _ _ => []

/-- The vector registers an instruction reads (Tables 23.1 and 24.3, R313, R433). -/
def vectorSources : Instr → List VReg
  | .add _ _ _ => []
  | .sub _ _ _ => []
  | .andR _ _ _ => []
  | .orR _ _ _ => []
  | .xorR _ _ _ => []
  | .shl _ _ _ => []
  | .shr _ _ _ => []
  | .sra _ _ _ => []
  | .slt _ _ _ => []
  | .sltu _ _ _ => []
  | .minS _ _ _ => []
  | .maxS _ _ _ => []
  | .minu _ _ _ => []
  | .maxu _ _ _ => []
  | .mul _ _ _ => []
  | .mulh _ _ _ => []
  | .mulhu _ _ _ => []
  | .div _ _ _ => []
  | .divu _ _ _ => []
  | .rem _ _ _ => []
  | .remu _ _ _ => []
  | .clz _ _ => []
  | .ctz _ _ => []
  | .popc _ _ => []
  | .bswap _ _ => []
  | .addi _ _ _ => []
  | .andi _ _ _ => []
  | .ori _ _ _ => []
  | .xori _ _ _ => []
  | .shli _ _ _ => []
  | .shri _ _ _ => []
  | .srai _ _ _ => []
  | .slti _ _ _ => []
  | .sltui _ _ _ => []
  | .lui _ _ => []
  | .extu _ _ _ _ => []
  | .exts _ _ _ _ => []
  | .ins _ _ _ _ => []
  | .addpc _ _ => []
  | .bcond _ _ _ _ => []
  | .jal _ _ => []
  | .jalr _ _ _ => []
  | .yield => []
  | .wfi => []
  | .eret => []
  | .ebreak => []
  | .mfsr _ _ => []
  | .mtsr _ _ => []
  | .safept _ => []
  | .halt => []
  | .haltRetain _ => []
  | .ld _ _ _ _ => []
  | .st _ _ _ _ => []
  | .amo _ _ _ _ _ => []
  | .ord _ _ => []
  | .fence _ _ => []
  | .msend _ _ _ _ => []
  | .mwait _ => []
  | .mret => []
  | .mpoll _ => []
  | .qpush _ _ => []
  | .qpop _ _ => []
  | .qpeek _ _ => []
  | .qcnt _ _ => []
  | .tfetch _ => []
  | .tspawn _ _ => []
  | .tdone => []
  | .svc _ _ _ => []
  | .svcStatusReturn _ => []
  | .sigc _ _ _ _ => []
  | .waitc _ _ _ _ => []
  | .bar _ => []
  | .gang _ => []
  | .gangGatherComplete _ _ => []
  | .grant _ _ => []
  | .revoke _ _ => []
  | .pgreq _ _ _ => []
  | .cpcmd _ _ _ _ _ => []
  | .cpcmdResume _ _ _ => []
  | .cpstat _ _ => []
  | .twait _ => []
  | .bkcmd _ _ _ _ _ => []
  | .bkcmdResume _ _ _ => []
  | .colcmd _ _ _ => []
  | .crot _ _ => []
  | .tdef _ _ => []
  | .tver _ _ => []
  | .tkill _ => []
  | .mcfg _ _ => []
  | .mldw _ => []
  | .mswap => []
  | .mstr _ _ => []
  | .mdrn _ _ => []
  | .mzero => []
  | .mstat _ => []
  | .winit _ _ => []
  | .wpush _ _ _ => []
  | .wread _ _ => []
  | .wflip _ _ => []
  | .wreset _ _ => []
  | .wstat _ _ => []
  | .vadd f => f.sources true f.merges
  | .vsub f => f.sources true f.merges
  | .vmul f => f.sources true f.merges
  | .vmulh f => f.sources true f.merges
  | .vmin f => f.sources true f.merges
  | .vmax f => f.sources true f.merges
  | .vminu f => f.sources true f.merges
  | .vmaxu f => f.sources true f.merges
  | .vand f => f.sources true f.merges
  | .vor f => f.sources true f.merges
  | .vxor f => f.sources true f.merges
  | .vshl f => f.sources true f.merges
  | .vshr f => f.sources true f.merges
  | .vsra f => f.sources true f.merges
  | .vsadd f => f.sources true f.merges
  | .vssub f => f.sources true f.merges
  | .vfadd f => f.sources true f.merges
  | .vfsub f => f.sources true f.merges
  | .vfmul f => f.sources true f.merges
  | .vfma f => f.sources true true
  | .vfnma f => f.sources true true
  | .vfmin f => f.sources true f.merges
  | .vfmax f => f.sources true f.merges
  | .vfdiv f => f.sources true f.merges
  | .vabs f => f.sources false f.merges
  | .vneg f => f.sources false f.merges
  | .vfabs f => f.sources false f.merges
  | .vfneg f => f.sources false f.merges
  | .vfsqrt f => f.sources false f.merges
  | .vrcp f => f.sources false f.merges
  | .vrsq f => f.sources false f.merges
  | .vexp2 f => f.sources false f.merges
  | .vlog2 f => f.sources false f.merges
  | .vsin f => f.sources false f.merges
  | .vcos f => f.sources false f.merges
  | .vcmpeq f => f.sources true f.merges
  | .vcmplt f => f.sources true f.merges
  | .vcmpltu f => f.sources true f.merges
  | .vfcmpeq f => f.sources true f.merges
  | .vfcmplt f => f.sources true f.merges
  | .vfcmple f => f.sources true f.merges
  | .vfcmpun f => f.sources true f.merges
  | .vcvt f => f.sources false f.merges
  | .vperm f => f.sources true f.merges
  | .vsel f => f.sources true false
  | .vcvti f => f.sources false f.merges
  | .vcvtiu f => f.sources false f.merges
  | .vredsum f => f.sources false false
  | .vredmax f => f.sources false false
  | .vredmin f => f.sources false false
  | .vfredsum f => f.sources false false
  | .vfredmax f => f.sources false false
  | .vscan f => f.sources false false
  | .vdot f => f.sources true true
  | .vtdot f => f.sources true true
  | .vunpk3 f => f.sources false f.merges
  | .vpack3 f => f.sources false true
  | .vhad f => f.sources false f.merges
  | .vqnt f => f.sources false false
  | .vld f => f.maskSource ++ (if f.merges then [f.vd] else [])
  | .vst f => f.vd :: f.maskSource
  | .vlds f => f.maskSource ++ (if f.merges then [f.vd] else [])
  | .vsts f => f.vd :: f.maskSource
  | .vgth f => f.idx :: f.maskSource ++ (if f.merges then [f.vd] else [])
  | .vsct f => f.vd :: f.idx :: f.maskSource
  | .vbcast f => f.maskSource ++ (if f.merges then [f.vd] else [])
  | .vins f => [f.vd]
  | .vext f => f.sources false false
  | .vslup f => f.sources false f.merges
  | .vsldn f => f.sources false f.merges
  | .vcprs f => f.sources false (!f.z)
  | .kand f => f.sources false true
  | .kor f => f.sources false true
  | .kxor f => f.sources false true
  | .kandn f => f.sources false true
  | .knot f => f.sources false false
  | .kcnt f => f.sources false false
  | .kfst f => f.sources false false
  | .vdeq f => f.sources false f.merges
  | .vadd16 _ d a => [d, a]
  | .vsub16 _ d a => [d, a]
  | .vmul16 _ d a => [d, a]
  | .vmin16 _ d a => [d, a]
  | .vmax16 _ d a => [d, a]
  | .vand16 d a => [d, a]
  | .vor16 d a => [d, a]
  | .vxor16 d a => [d, a]
  | .vfadd16 _ d a => [d, a]
  | .vfsub16 _ d a => [d, a]
  | .vfmul16 _ d a => [d, a]
  | .vfmin16 _ d a => [d, a]
  | .vfmax16 _ d a => [d, a]
  | .vmv _ a => [a]
  | .vsadd16 _ d a => [d, a]
  | .vfabs16 _ _ a => [a]
  | .memoryResponse _ => []
  | .homeReplyArrival _ => []
  | .amoHomeExecute _ => []
  | .messageArrival _ => []
  | .handlerBudgetExhausted _ => []
  | .waccHomeExecute _ => []
  | .waccFlipComplete _ _ => []
  | .remoteWriteApply _ => []
  | .settleWrite _ _ => []
  | .hartStart _ _ => []
  | .dispatchArbitration _ => []
  | .nodeAging _ => []
  | .eventRecordTake _ => []
  | .launchEndSweep _ => []
  | .worldRetire _ => []
  | .worldRetireScrub _ => []
  | .sliceEnd _ _ _ => []
  | .deadlineExpiry _ _ _ => []
  | .forcedStop _ => []
  | .contextRelease _ => []
  | .hartResume _ _ => []
  | .interruptTake _ => []
  | .engineFaultDelivery _ => []
  | .engineCommandStart _ _ => []
  | .enginePiece _ _ => []
  | .bulkChunkSelect _ => []
  | .engineCommandComplete _ _ => []
  | .mldwExecute _ => []
  | .mswapExecute _ => []
  | .mstrExecute _ => []
  | .mzeroExecute _ => []
  | .mdrnExecute _ => []
  | .matrixCommandComplete _ => []
  | .pageWalkComplete _ => []
  | .plbShootdown _ _ => []
  | .plbShootdownAck _ _ => []
  | .atsTranslationCompletion _ _ _ _ => []
  | .atsInvalidationRequest _ _ _ => []
  | .atsInvalidationCompletion _ => []
  | .pageRequestResponse _ _ => []
  | .pgreqTimeout _ => []
  | .completionTimeout _ _ => []
  | .dramRequestIssue _ => []
  | .budgetRefresh => []
  | .krytukFlitReceive _ _ => []
  | .remoteRequestExecute _ => []
  | .cxlMemRequest _ => []
  | .hostLaunch _ => []
  | .hostSignal _ => []
  | .hostAbort _ => []
  | .hostFence _ => []
  | .hostMap _ => []
  | .hostUnmap _ => []
  | .proxyReply _ => []
  | .commandWaitRelease _ => []
  | .completionRecord _ => []
  | .proxyTimeout _ _ => []
  | .svcNop _ => []
  | .console _ => []
  | .fileOpen _ => []
  | .fileRead _ => []
  | .fileWrite _ => []
  | .fileClose _ => []
  | .rangeAlloc _ => []
  | .rangeFree _ => []
  | .pageMap _ => []
  | .pageUnmap _ => []
  | .residency _ _ => []
  | .migrate _ => []
  | .counterAlloc _ => []
  | .counterFree _ => []
  | .keyDestroy _ => []
  | .connOpen _ => []
  | .connSend _ => []
  | .connRecv _ => []
  | .connClose _ => []
  | .launchSubmit _ => []
  | .launchAbort _ => []
  | .tenantConfig _ _ => []
  | .groupConfig _ => []
  | .perfRead _ => []
  | .timeRead _ => []
  | .trapReport _ => []
  | .counterAssign _ _ => []
  | .isolationSet _ _ => []
  | .layoutSet _ _ _ _ => []
  | .handover _ => []
  | .getVersion => []
  | .getCapabilities => []
  | .negotiateAlgorithms _ _ => []
  | .getDigests => []
  | .getCertificate _ _ => []
  | .challenge _ => []
  | .getMeasurements _ _ _ => []
  | .keyExchange _ => []
  | .finish _ => []
  | .keyRelease _ => []
  | .firmwareImageReceive _ => []
  | .firmwareActivate => []
  | .firmwareSelftestFail => []
  | .sensorRead _ _ => []
  | .sensorUpdate _ _ => []
  | .coldReset => []
  | .warmReset => []
  | .dieReset _ => []
  | .clusterReset _ => []
  | .coreReset _ => []
  | .engineReset _ _ => []
  | .bulkReset _ _ => []
  | .walkerReset _ _ => []
  | .linkReset _ => []
  | .tenantReset _ => []
  | .thermalThrottle _ => []
  | .powerCapSet _ => []
  | .clusterIdleEntry _ => []
  | .clusterWake _ => []
  | .rightsRequestArrival _ => []
  | .tensorTableOperation => []
  | .serviceTimerExpiry _ => []
  | .linkTraining _ _ => []

/-! ### Scalar operands -/

/-- The address of a scalar memory operand (R362, R394): x[a] + sext(off11) × size. -/
def memAddr (h : Hart) (a : Reg) (off : BitVec 11) (size : Nat) : Word :=
  readX h a + off.signExtend 64 * BitVec.ofNat 64 size

/-- A sign-extended immediate (R315). -/
def imm14 (i : BitVec 14) : Word := i.signExtend 64

/-! ### Lanes -/

/-- Width in bits of a lane of an integer element code (Table 8.1). -/
def intWidth (et : BitVec 3) : Nat := 8 * 2 ^ et.toNat

/-- Lane `i` of width `w` (R136). -/
def lane (v : VWord) (w i : Nat) : Nat := v.toNat / 2 ^ (w * i) % 2 ^ w

/-- The lanes of a register, lowest first. -/
def lanes (v : VWord) (w n : Nat) : List Nat := (List.range n).map (lane v w)

/-- The number whose lanes of width `w` are those of a list. -/
def joinLanes (w : Nat) : List Nat → Nat
  | [] => 0
  | x :: xs => x % 2 ^ w + 2 ^ w * joinLanes w xs

/-- The register whose lanes are those of a list, the bits above them zero. -/
def ofLanes (w : Nat) (l : List Nat) : VWord := BitVec.ofNat 512 (joinLanes w l)

/-! ### Reading and writing vector registers -/

/-- v[r] as an instruction reads it: a dead register gives an undefined value (R33). -/
def readV (s : State) (h : Hart) (r : VReg) : VWord :=
  if h.live.getLsbD r.toNat then h.v[r.toNat]'(by have := r.isLt; omega) else Config.freeVec s.tick r.toNat

/-- v[r] ← v; the register is live (R32) and holds no failed read. -/
def writeV (h : Hart) (r : VReg) (v : VWord) : Hart :=
  { h with
    v := h.v.set r.toNat v (by have := r.isLt; omega)
    live := h.live ||| BitVec.twoPow 32 r.toNat
    xpend := mapErase h.xpend (32 + r.toNat)
    poison := mapErase h.poison (32 + r.toNat) }

/-- A register read under a last-use mark is dead (R32). -/
def killV (h : Hart) (r : VReg) : Hart := { h with live := h.live &&& ~~~(BitVec.twoPow 32 r.toNat) }

/-- Registers that the marks of a V-format instruction kill. -/
def vKills (f : VFmt) : List VReg := (if f.lua then [f.va] else []) ++ (if f.lub then [f.vb] else [])

/-- The first dead register among the sources, where the hart checks for them (R33). -/
def deadSource (h : Hart) (i : Instr) : Option VReg :=
  if deadChk h then (vectorSources i).find? fun r => !h.live.getLsbD r.toNat else none

/-- Selection of elements by a mask (R407): every element where there is none. -/
def selects (s : State) (h : Hart) (mask : BitVec 3) (i : Nat) : Bool :=
  if mask = 0 then true else (readV s h (maskReg mask)).getLsbD i

/-- Vector instructions outside the handler context (R31) whose sources are live where that is checked (R33). -/
def withVector (s : State) (i : Instr) (k : Result) : Result :=
  if isHandler s.cur then illegal s i
  else
    match deadSource (me s) i with
    | some r => trapR s ⟨0x03, r.setWidth 64, 0⟩
    | none => k

end Sys2Proof.Machine
end

