-- ==== Sys2Proof/Machine/Alu.lean ====
section
/-!
DEFINITION. The scalar arithmetic and logic instructions: majors 0x01 to 0x0F (R320, R329 and the entry of each). They read
their sources before they write, raise no flag and no trap of their own, and order nothing.
-/

namespace Sys2Proof.Machine

/-- x[d] ← f(x[a], x[b]). -/
def aluTwo (f : Word → Word → Word) (d a b : Reg) (s : State) : Result :=
  done4With s d (f (readX (me s) a) (readX (me s) b))

/-- x[d] ← f(x[a]). -/
def aluOne (f : Word → Word) (d a : Reg) (s : State) : Result := done4With s d (f (readX (me s) a))

def boolWord (b : Bool) : Word := if b then 1 else 0

/-- Quotient truncated towards zero with the edge cases of Table 8.5. -/
def divSigned (a b : Word) : Word :=
  if b = 0 then BitVec.allOnes 64 else BitVec.ofInt 64 (a.toInt.tdiv b.toInt)
def divUnsigned (a b : Word) : Word := if b = 0 then BitVec.allOnes 64 else BitVec.ofNat 64 (a.toNat / b.toNat)
def remSigned (a b : Word) : Word := if b = 0 then a else BitVec.ofInt 64 (a.toInt.tmod b.toInt)
def remUnsigned (a b : Word) : Word := if b = 0 then a else BitVec.ofNat 64 (a.toNat % b.toNat)
def mulHighSigned (a b : Word) : Word := BitVec.ofInt 64 (a.toInt * b.toInt / 2 ^ 64)
def mulHighUnsigned (a b : Word) : Word := BitVec.ofNat 64 (a.toNat * b.toNat / 2 ^ 64)

/-- The shift count of the register forms: x[b][5:0] (R390). -/
def shiftCount (b : Word) : Nat := b.toNat % 64

/-- The bytes of a word in the opposite order (R341). -/
def byteReverse (a : Word) : Word := BitVec.ofNat 64 (leNat (leBytes 8 a.toNat).reverse)

/-- The field of `len1 + 1` bits from `pos` (R351). -/
def bitField (a : Word) (pos len1 : BitVec 6) : Nat := field a.toNat pos.toNat (len1.toNat + 1)

def execAdd (d a b : Reg) (s : State) : Result := aluTwo (fun x y => x + y) d a b s
def execSub (d a b : Reg) (s : State) : Result := aluTwo (fun x y => x - y) d a b s
def execAndR (d a b : Reg) (s : State) : Result := aluTwo (fun x y => x &&& y) d a b s
def execOrR (d a b : Reg) (s : State) : Result := aluTwo (fun x y => x ||| y) d a b s
def execXorR (d a b : Reg) (s : State) : Result := aluTwo (fun x y => x ^^^ y) d a b s
def execShl (d a b : Reg) (s : State) : Result := aluTwo (fun x y => x <<< shiftCount y) d a b s
def execShr (d a b : Reg) (s : State) : Result := aluTwo (fun x y => x >>> shiftCount y) d a b s
def execSra (d a b : Reg) (s : State) : Result := aluTwo (fun x y => x.sshiftRight (shiftCount y)) d a b s
def execSlt (d a b : Reg) (s : State) : Result := aluTwo (fun x y => boolWord (x.slt y)) d a b s
def execSltu (d a b : Reg) (s : State) : Result := aluTwo (fun x y => boolWord (x.ult y)) d a b s
def execMinS (d a b : Reg) (s : State) : Result := aluTwo (fun x y => if x.slt y then x else y) d a b s
def execMaxS (d a b : Reg) (s : State) : Result := aluTwo (fun x y => if x.slt y then y else x) d a b s
def execMinu (d a b : Reg) (s : State) : Result := aluTwo (fun x y => if x.ult y then x else y) d a b s
def execMaxu (d a b : Reg) (s : State) : Result := aluTwo (fun x y => if x.ult y then y else x) d a b s
def execMul (d a b : Reg) (s : State) : Result := aluTwo (fun x y => x * y) d a b s
def execMulh (d a b : Reg) (s : State) : Result := aluTwo mulHighSigned d a b s
def execMulhu (d a b : Reg) (s : State) : Result := aluTwo mulHighUnsigned d a b s
def execDiv (d a b : Reg) (s : State) : Result := aluTwo divSigned d a b s
def execDivu (d a b : Reg) (s : State) : Result := aluTwo divUnsigned d a b s
def execRem (d a b : Reg) (s : State) : Result := aluTwo remSigned d a b s
def execRemu (d a b : Reg) (s : State) : Result := aluTwo remUnsigned d a b s
def execClz (d a : Reg) (s : State) : Result := aluOne (fun x => BitVec.ofNat 64 (64 - bitLength x.toNat)) d a s
def execCtz (d a : Reg) (s : State) : Result := aluOne (fun x => BitVec.ofNat 64 (lowestSet 64 x.toNat)) d a s
def execPopc (d a : Reg) (s : State) : Result := aluOne (fun x => BitVec.ofNat 64 (popCount 64 x.toNat)) d a s
def execBswap (d a : Reg) (s : State) : Result := aluOne byteReverse d a s
def execAddi (d a : Reg) (imm : BitVec 14) (s : State) : Result := aluOne (fun x => x + imm14 imm) d a s
def execAndi (d a : Reg) (imm : BitVec 14) (s : State) : Result := aluOne (fun x => x &&& imm14 imm) d a s
def execOri (d a : Reg) (imm : BitVec 14) (s : State) : Result := aluOne (fun x => x ||| imm14 imm) d a s
def execXori (d a : Reg) (imm : BitVec 14) (s : State) : Result := aluOne (fun x => x ^^^ imm14 imm) d a s
def execShli (d a : Reg) (sh : BitVec 6) (s : State) : Result := aluOne (fun x => x <<< sh.toNat) d a s
def execShri (d a : Reg) (sh : BitVec 6) (s : State) : Result := aluOne (fun x => x >>> sh.toNat) d a s
def execSrai (d a : Reg) (sh : BitVec 6) (s : State) : Result := aluOne (fun x => x.sshiftRight sh.toNat) d a s
def execSlti (d a : Reg) (imm : BitVec 14) (s : State) : Result := aluOne (fun x => boolWord (x.slt (imm14 imm))) d a s
def execSltui (d a : Reg) (imm : BitVec 14) (s : State) : Result := aluOne (fun x => boolWord (x.ult (imm14 imm))) d a s

/-- LUI: the 32-bit value imm19 × 8,192 sign-extended from bit 31 (R363). -/
def execLui (d : Reg) (imm : BitVec 19) (s : State) : Result := done4With s d ((imm ++ 0#13).signExtend 64)

/-- ADDPC: PC + sext(imm19) × 8,192 (R331). -/
def execAddpc (d : Reg) (imm : BitVec 19) (s : State) : Result :=
  done4With s d ((me s).pc + imm.signExtend 64 * 8192)

def execExtu (d a : Reg) (pos len1 : BitVec 6) (s : State) : Result :=
  aluOne (fun x => BitVec.ofNat 64 (bitField x pos len1)) d a s

def execExts (d a : Reg) (pos len1 : BitVec 6) (s : State) : Result :=
  aluOne (fun x => BitVec.ofInt 64 (signedOf (len1.toNat + 1) (bitField x pos len1))) d a s

/-- INS: the field of x[d] from `pos` takes the low bits of x[a] (R356). -/
def execIns (d a : Reg) (pos len1 : BitVec 6) (s : State) : Result :=
  let old := readX (me s) d
  let m : Word := BitVec.ofNat 64 ((2 ^ (len1.toNat + 1) - 1) * 2 ^ pos.toNat)
  done4With s d ((old &&& ~~~m) ||| ((readX (me s) a <<< pos.toNat) &&& m))

end Sys2Proof.Machine
end

