-- ==== Sys2Proof/Machine/Crypto.lean ====
section
/-!
DEFINITION. The published algorithms that the security engine and the memory encryption use (R248, R250, R251, R253, R262, R264):
SHA-384 (FIPS 180-4), HMAC (FIPS 198-1), the counter-mode key derivation (NIST SP 800-108), AES-256 (FIPS 197), XTS (IEEE 1619), CMAC
(NIST SP 800-38B) and key unwrapping (NIST SP 800-38F). Bytes are numbers below 256, lists of bytes in the order in which the standards
write them.
-/

namespace Sys2Proof.Machine.Crypto

/-! ### SHA-384 -/

def word64 (n : Nat) : Nat := n % 2 ^ 64

/-- Rotation to the right in 64 bits. -/
def ror64 (x n : Nat) : Nat := (x >>> n ||| x <<< (64 - n)) % 2 ^ 64

/-- A number from bytes, most significant first, and the low `n` bytes of a number in that order. -/
def beNat (bs : List Nat) : Nat := bs.foldl (fun a b => a * 256 + b) 0

def beBytes : Nat → Nat → List Nat
  | 0, _ => []
  | n + 1, v => v >>> (8 * n) % 256 :: beBytes n v

/-- The 80 constants of FIPS 180-4, 4.2.3: constant t in bits 64t + 63 to 64t. -/
def shaConstants : Nat :=
  0x7137449123ef65cd428a2f98d728ae22 +
  0xe9b5dba58189dbbcb5c0fbcfec4d3b2f <<< 128 +
  0x59f111f1b605d0193956c25bf348b538 <<< 256 +
  0xab1c5ed5da6d8118923f82a4af194f9b <<< 384 +
  0x12835b0145706fbed807aa98a3030242 <<< 512 +
  0x550c7dc3d5ffb4e2243185be4ee4b28c <<< 640 +
  0x80deb1fe3b1696b172be5d74f27b896f <<< 768 +
  0xc19bf174cf6926949bdc06a725c71235 <<< 896 +
  0xefbe4786384f25e3e49b69c19ef14ad2 <<< 1024 +
  0x240ca1cc77ac9c650fc19dc68b8cd5b5 <<< 1152 +
  0x4a7484aa6ea6e4832de92c6f592b0275 <<< 1280 +
  0x76f988da831153b55cb0a9dcbd41fbd4 <<< 1408 +
  0xa831c66d2db43210983e5152ee66dfab <<< 1536 +
  0xbf597fc7beef0ee4b00327c898fb213f <<< 1664 +
  0xd5a79147930aa725c6e00bf33da88fc2 <<< 1792 +
  0x142929670a0e6e7006ca6351e003826f <<< 1920 +
  0x2e1b21385c26c92627b70a8546d22ffc <<< 2048 +
  0x53380d139d95b3df4d2c6dfc5ac42aed <<< 2176 +
  0x766a0abb3c77b2a8650a73548baf63de <<< 2304 +
  0x92722c851482353b81c2c92e47edaee6 <<< 2432 +
  0xa81a664bbc423001a2bfe8a14cf10364 <<< 2560 +
  0xc76c51a30654be30c24b8b70d0f89791 <<< 2688 +
  0xd69906245565a910d192e819d6ef5218 <<< 2816 +
  0x106aa07032bbd1b8f40e35855771202a <<< 2944 +
  0x1e376c085141ab5319a4c116b8d2d0c8 <<< 3072 +
  0x34b0bcb5e19b48a82748774cdf8eeb99 <<< 3200 +
  0x4ed8aa4ae3418acb391c0cb3c5c95a63 <<< 3328 +
  0x682e6ff3d6b2b8a35b9cca4f7763e373 <<< 3456 +
  0x78a5636f43172f60748f82ee5defb2fc <<< 3584 +
  0x8cc702081a6439ec84c87814a1f0ab72 <<< 3712 +
  0xa4506cebde82bde990befffa23631e28 <<< 3840 +
  0xc67178f2e372532bbef9a3f7b2c67915 <<< 3968 +
  0xd186b8c721c0c207ca273eceea26619c <<< 4096 +
  0xf57d4f7fee6ed178eada7dd6cde0eb1e <<< 4224 +
  0x0a637dc5a2c898a606f067aa72176fba <<< 4352 +
  0x1b710b35131c471b113f9804bef90dae <<< 4480 +
  0x32caab7b40c7249328db77f523047d84 <<< 4608 +
  0x431d67c49c100d4c3c9ebe0a15c9bebc <<< 4736 +
  0x597f299cfc657e2a4cc5d4becb3e42b6 <<< 4864 +
  0x6c44198c4a4758175fcb6fab3ad6faec <<< 4992

def shaConstant (t : Nat) : Nat := shaConstants >>> (64 * t) % 2 ^ 64

/-- The initial hash value of SHA-384 (FIPS 180-4, 5.3.4). -/
def sha384Init : List Nat :=
  [0xcbbb9d5dc1059ed8, 0x629a292a367cd507, 0x9159015a3070dd17, 0x152fecd8f70e5939,
    0x67332667ffc00b31, 0x8eb44a8768581511, 0xdb0c2e0d64f98fa7, 0x47b5481dbefa4fa4]

/-- The message padded to whole blocks of 128 bytes (FIPS 180-4, 5.1.2). -/
def shaPad (m : List Nat) : List Nat :=
  m ++ 0x80 :: List.replicate ((239 - m.length % 128) % 128) 0 ++ beBytes 16 (8 * m.length)

/-- The 16 words of a block, newest first. -/
def blockWords (block : List Nat) : List Nat :=
  ((List.range 16).map fun i => beNat ((block.drop (8 * i)).take 8)).reverse

/-- Extend the message schedule, newest word first, by `n` words (FIPS 180-4, 6.4.2). -/
def shaSchedule : Nat → List Nat → List Nat
  | 0, w => w
  | n + 1, w =>
    let a := w.getD 1 0
    let b := w.getD 14 0
    let s1 := (ror64 a 19 ^^^ ror64 a 61) ^^^ a >>> 6
    let s0 := (ror64 b 1 ^^^ ror64 b 8) ^^^ b >>> 7
    shaSchedule n (word64 (s1 + w.getD 6 0 + s0 + w.getD 15 0) :: w)

/-- One round on the eight working variables. -/
def shaRound (v : List Nat) (t w : Nat) : List Nat :=
  match v with
  | [a, b, c, d, e, f, g, h] =>
    let s1 := (ror64 e 14 ^^^ ror64 e 18) ^^^ ror64 e 41
    let ch := (e &&& f) ^^^ ((e ^^^ (2 ^ 64 - 1)) &&& g)
    let t1 := h + s1 + ch + shaConstant t + w
    let s0 := (ror64 a 28 ^^^ ror64 a 34) ^^^ ror64 a 39
    let maj := ((a &&& b) ^^^ (a &&& c)) ^^^ (b &&& c)
    [word64 (t1 + s0 + maj), a, b, c, word64 (d + t1), e, f, g]
  | v => v

/-- The rounds of a block, from round `t` on. -/
def shaRounds : List Nat → Nat → List Nat → List Nat
  | [], _, v => v
  | w :: ws, t, v => shaRounds ws (t + 1) (shaRound v t w)

/-- One block into the hash value. -/
def shaBlock (v block : List Nat) : List Nat :=
  List.zipWith (fun a b => word64 (a + b)) v (shaRounds (shaSchedule 64 (blockWords block)).reverse 0 v)

/-- All blocks of a padded message, `n` of them. -/
def shaBlocks : Nat → List Nat → List Nat → List Nat
  | 0, v, _ => v
  | n + 1, v, m => shaBlocks n (shaBlock v (m.take 128)) (m.drop 128)

/-- The 48 bytes of a SHA-384 digest. -/
def sha384Bytes (m : List Nat) : List Nat :=
  let p := shaPad m
  ((shaBlocks (p.length / 128) sha384Init p).take 6).flatMap (beBytes 8)

/-! ### HMAC and key derivation -/

/-- HMAC-SHA-384 (FIPS 198-1); keys here are never longer than a block. -/
def hmac384 (key m : List Nat) : List Nat :=
  let k := key ++ List.replicate (128 - key.length) 0
  sha384Bytes (k.map (· ^^^ 0x5C) ++ sha384Bytes (k.map (· ^^^ 0x36) ++ m))

/-- A 256-bit key by the counter-mode KDF of SP 800-108: one block suffices; counter and length of 32 bits, no context. -/
def kdf (key label : List Nat) : List Nat :=
  (hmac384 key ([0, 0, 0, 1] ++ label ++ [0] ++ [0, 0, 1, 0])).take 32

/-! ### AES-256 -/

/-- The S-box of FIPS 197: the image of n in bits 8n + 7 to 8n. -/
def sboxTable : Nat :=
  0x76abd7fe2b670130c56f6bf27b777c63 +
  0xc072a49cafa2d4adf04759fa7dc982ca <<< 128 +
  0x1531d871f1e5a534ccf73f362693fdb7 <<< 256 +
  0x75b227ebe28012079a059618c323c704 <<< 384 +
  0x842fe329b3d63b52a05a6e1b1a2c8309 <<< 512 +
  0xcf584c4a39becb6a5bb1fc20ed00d153 <<< 640 +
  0xa89f3c507f02f94585334d43fbaaefd0 <<< 768 +
  0xd2f3ff1021dab6bcf5389d928f40a351 <<< 896 +
  0x73195d643d7ea7c41744975fec130ccd <<< 1024 +
  0xdb0b5ede14b8ee4688902a22dc4f8160 <<< 1152 +
  0x79e4959162acd3c25c2406490a3a32e0 <<< 1280 +
  0x08ae7a65eaf4566ca94ed58d6d37c8e7 <<< 1408 +
  0x8a8bbd4b1f74dde8c6b4a61c2e2578ba <<< 1536 +
  0x9e1dc186b95735610ef6034866b53e70 <<< 1664 +
  0xdf2855cee9871e9b948ed9691198f8e1 <<< 1792 +
  0x16bb54b00f2d99416842e6bf0d89a18c <<< 1920

/-- Its inverse. -/
def invSboxTable : Nat :=
  0xfbd7f3819ea340bf38a53630d56a0952 +
  0xcbe9dec444438e3487ff2f9b8239e37c <<< 128 +
  0x4ec3fa420b954cee3d23c2a632947b54 <<< 256 +
  0x25d18b6d49a25b76b224d92866a12e08 <<< 384 +
  0x92b6655dcc5ca4d41698688664f6f872 <<< 512 +
  0x849d8da75746155edab9edfd5048706c <<< 640 +
  0x0645b3b80558e4f70ad3bc8c00abd890 <<< 768 +
  0x6b8a130103bdafc1020f3fca8f1e2cd0 <<< 896 +
  0x73e6b4f0cecff297eadc674f4111913a <<< 1024 +
  0x6edf751ce837f9e28535ade72274ac96 <<< 1152 +
  0x1bbe18aa0e62b76f89c5291d711af147 <<< 1280 +
  0xf45acd78fec0db9a2079d2c64b3e56fc <<< 1408 +
  0x5fec8027591012b131c7078833a8dd1f <<< 1536 +
  0xef9cc9939f7ae52d0d4ab519a97f5160 <<< 1664 +
  0x619953833cbbebc8b0f52aae4d3be0a0 <<< 1792 +
  0x7d0c2155631469e126d677ba7e042b17 <<< 1920

def sbox (n : Nat) : Nat := sboxTable >>> (8 * n) % 256
def invSbox (n : Nat) : Nat := invSboxTable >>> (8 * n) % 256

/-- Multiplication by x in GF(2^8). -/
def xtime (a : Nat) : Nat := if a < 128 then 2 * a else (2 * a) ^^^ 0x11B

/-- Multiplication by the low four bits of `k`. -/
def gmul (k a : Nat) : Nat :=
  let a2 := xtime a
  let a4 := xtime a2
  let a8 := xtime a4
  ((if k % 2 = 1 then a else 0) ^^^ (if k / 2 % 2 = 1 then a2 else 0)) ^^^
    ((if k / 4 % 2 = 1 then a4 else 0) ^^^ (if k / 8 % 2 = 1 then a8 else 0))

/-- Byte r of column c stands at 4c + r. Row r moves by r columns, to the left or to the right. -/
def shiftRows (st : List Nat) : List Nat := (List.range 16).map fun i => st.getD (i % 4 + 4 * ((i / 4 + i % 4) % 4)) 0
def invShiftRows (st : List Nat) : List Nat := (List.range 16).map fun i => st.getD (i % 4 + 4 * ((i / 4 + 4 - i % 4) % 4)) 0

/-- Multiply each column by the circulant matrix with first row m0 m1 m2 m3. -/
def mixWith (m0 m1 m2 m3 : Nat) : List Nat → List Nat
  | a :: b :: c :: d :: st =>
    ((gmul m0 a ^^^ gmul m1 b) ^^^ (gmul m2 c ^^^ gmul m3 d)) ::
      ((gmul m3 a ^^^ gmul m0 b) ^^^ (gmul m1 c ^^^ gmul m2 d)) ::
      ((gmul m2 a ^^^ gmul m3 b) ^^^ (gmul m0 c ^^^ gmul m1 d)) ::
      ((gmul m1 a ^^^ gmul m2 b) ^^^ (gmul m3 c ^^^ gmul m0 d)) :: mixWith m0 m1 m2 m3 st
  | _ => []

def mixColumns : List Nat → List Nat := mixWith 2 3 1 1
def invMixColumns : List Nat → List Nat := mixWith 14 11 13 9

def xorList (a b : List Nat) : List Nat := List.zipWith (· ^^^ ·) a b

/-- Key expansion (FIPS 197, 5.2): `n` more words, the words so far newest first, `i` the number of the next. -/
def expandKey : Nat → Nat → List (List Nat) → List (List Nat)
  | 0, _, ws => ws
  | n + 1, i, ws =>
    let prev := ws.getD 0 []
    let temp :=
      if i % 8 = 0 then xorList ((prev.drop 1 ++ prev.take 1).map sbox) [2 ^ (i / 8 - 1), 0, 0, 0]
      else if i % 8 = 4 then prev.map sbox
      else prev
    expandKey n (i + 1) (xorList (ws.getD 7 []) temp :: ws)

/-- The eight words of a key, newest first. -/
def keyWords (key : List Nat) : List (List Nat) := ((List.range 8).map fun i => (key.drop (4 * i)).take 4).reverse

/-- The 15 round keys of a 32-byte key, in order. -/
def roundKeys (key : List Nat) : List (List Nat) :=
  let ws := (expandKey 52 8 (keyWords key)).reverse
  (List.range 15).map fun r => ((ws.drop (4 * r)).take 4).flatten

/-- The middle and last rounds of encryption. -/
def encRounds : List (List Nat) → List Nat → List Nat
  | [], st => st
  | [k], st => xorList (shiftRows (st.map sbox)) k
  | k :: ks, st => encRounds ks (xorList (mixColumns (shiftRows (st.map sbox))) k)

/-- AES-256 on one block of 16 bytes, under round keys. -/
def encBlock (ks : List (List Nat)) (b : List Nat) : List Nat :=
  match ks with
  | [] => b
  | k :: ks => encRounds ks (xorList b k)

/-- The rounds of decryption, the round keys in reverse order. -/
def decRounds : List (List Nat) → List Nat → List Nat
  | [], st => st
  | [k], st => xorList ((invShiftRows st).map invSbox) k
  | k :: ks, st => decRounds ks (invMixColumns (xorList ((invShiftRows st).map invSbox) k))

/-- The inverse cipher. -/
def decBlock (ks : List (List Nat)) (b : List Nat) : List Nat :=
  match ks.reverse with
  | [] => b
  | k :: ks => decRounds ks (xorList b k)

/-! ### XTS -/

/-- The next tweak: multiplication by α in GF(2^128), bytes least significant first (IEEE 1619, 5.2). -/
def nextTweak (t : List Nat) : List Nat :=
  let v := t.foldr (fun b a => b + 256 * a) 0
  let w := if v < 2 ^ 127 then 2 * v else (2 * v - 2 ^ 128) ^^^ 0x87
  (List.range 16).map fun i => w >>> (8 * i) % 256

/-- One way or the other over `n` blocks of a data unit. -/
def xtsBlocks (f : List Nat → List Nat) : Nat → List Nat → List Nat → List Nat
  | 0, _, _ => []
  | n + 1, t, bs => xorList (f (xorList (bs.take 16) t)) t ++ xtsBlocks f n (nextTweak t) (bs.drop 16)

/-- The tweak of a data unit by its number, 16 bytes little-endian. -/
def firstTweak (k2 : List Nat) (unit : Nat) : List Nat :=
  encBlock (roundKeys k2) ((List.range 16).map fun i => unit >>> (8 * i) % 256)

/-- A 64-byte data unit under AES-256-XTS. -/
def xtsEncrypt (k1 k2 : List Nat) (unit : Nat) (bs : List Nat) : List Nat :=
  xtsBlocks (encBlock (roundKeys k1)) 4 (firstTweak k2 unit) bs

def xtsDecrypt (k1 k2 : List Nat) (unit : Nat) (bs : List Nat) : List Nat :=
  xtsBlocks (decBlock (roundKeys k1)) 4 (firstTweak k2 unit) bs

/-! ### CMAC -/

/-- Doubling in GF(2^128), most significant byte first (SP 800-38B, 6.1). -/
def cmacDouble (b : List Nat) : List Nat :=
  let v := beNat b
  beBytes 16 (if v < 2 ^ 127 then 2 * v else (2 * v - 2 ^ 128) ^^^ 0x87)

/-- The chain over the message: `n` bounds its blocks. -/
def cmacChain (ks : List (List Nat)) (k1 k2 : List Nat) : Nat → List Nat → List Nat → List Nat
  | 0, c, _ => c
  | n + 1, c, m =>
    if m.length < 16 then encBlock ks (xorList c (xorList (m ++ 0x80 :: List.replicate (15 - m.length) 0) k2))
    else if m.length = 16 then encBlock ks (xorList c (xorList m k1))
    else cmacChain ks k1 k2 n (encBlock ks (xorList c (m.take 16))) (m.drop 16)

/-- AES-256-CMAC. -/
def cmac (key m : List Nat) : List Nat :=
  let ks := roundKeys key
  let k1 := cmacDouble (encBlock ks (List.replicate 16 0))
  cmacChain ks k1 (cmacDouble k1) (m.length / 16 + 1) (List.replicate 16 0) m

/-! ### Key unwrapping -/

/-- The steps of unwrapping (SP 800-38F, 6.2), `t` from their number down to 1; the semiblocks of the key lie in a list. -/
def unwrapSteps (ks : List (List Nat)) : Nat → List Nat → List (List Nat) → List Nat × List (List Nat)
  | 0, a, r => (a, r)
  | t + 1, a, r =>
    let i := t % r.length
    let b := decBlock ks (xorList a (beBytes 8 (t + 1)) ++ r.getD i [])
    unwrapSteps ks t (b.take 8) (r.set i (b.drop 8))

/-- Unwrap 40 bytes to a 256-bit key; none when the check value is wrong. -/
def unwrap (kek wrapped : List Nat) : Option (List Nat) :=
  let r := (List.range 4).map fun i => (wrapped.drop (8 + 8 * i)).take 8
  let u := unwrapSteps (roundKeys kek) 24 (wrapped.take 8) r
  if u.1 = List.replicate 8 0xA6 then some u.2.flatten else none

/-! ### On the words of the machine -/

def toNats (bs : List Byte) : List Nat := bs.map (·.toNat)
def ofNats (ns : List Nat) : List Byte := ns.map (BitVec.ofNat 8)

/-- A digest, its first byte lowest. -/
def digest (m : List Byte) : BitVec 384 := BitVec.ofNat 384 (leNat (ofNats (sha384Bytes (toNats m))))

/-- The bytes of 256 bits of key material, lowest first. -/
def keyBytes (k : BitVec 256) : List Nat := (leBytes 32 k.toNat).map (·.toNat)

end Sys2Proof.Machine.Crypto
end

