-- ==== Sys2Proof/Machine/Memory.lean ====
section
/-!
DEFINITION. Memory: the keys of its locations and their homes, the four views and how a write reaches them, the key a
DRAM line is stored under, and the L1 data cache.
-/

namespace Sys2Proof.Machine

/-! ### Keys and homes -/

/-- Bytes of on-chip memory are keyed by virtual address, DRAM by `dramBase` + physical address, memory outside the
device from `outerBase` up, by route and device. -/
def dramBase : Nat := 0x100000000000000
def outerBase : Nat := 0x10000000000000000

def localBase : Nat := 0x100000000
def vaultBase : Nat := 0x200000000
def controlBase : Nat := 0x600000000

/-- Where PTROOT lies in the device control space (R212). -/
def ptrootKey : Nat := 0x60C000000

/-- PTROOT in the view of a die: the control space propagates as NA pages do (R121). -/
def ptrootOf (s : State) (die : Nat) : Word := mapGet 0 s.ptroot die
def setPtroot (s : State) (die : Nat) (w : Word) : State := { s with ptroot := mapPut 0 s.ptroot die w }

def isOuter (key : Nat) : Bool := outerBase ≤ key
def isDram (key : Nat) : Bool := dramBase ≤ key && key < outerBase

/-- Key of memory reached over a route (Table 13.3) at a target address. -/
def outerKey (route dev target : Nat) : Nat := outerBase * (1 + route * 256 + dev) + target

/-- The die whose range contains a physical address (R23). -/
def dieOfPhys (pa : Nat) : Option Nat :=
  if pa < 0x8000000000 then some (pa / 0x2000000000)
  else if 0x10000000000 ≤ pa && pa < 0x10000000000 + 4 * 0x6000000000 then some ((pa - 0x10000000000) / 0x6000000000)
  else none

/-- Whether a physical address is LPDDR-6 (R23). -/
def isLpddr (pa : Nat) : Bool := 0x10000000000 ≤ pa

/-- Base of a core's local SRAM in the local-memory range (Table 2.6). -/
def localOf (core : Nat) : Nat := localBase + core * 0x20000

/-- The home core of a line (R24). DESIGN CHOICE (log entry 77): the views of PTROOT settle as that of die 0, since no rule names its home. -/
def homeCore (key : Nat) : Nat :=
  if key < vaultBase then (key - localBase) / 0x20000
  else if key = ptrootKey then 0
  else if key < dramBase then (key - vaultBase) / 0x1000000 * 16 + field key 6 4
  else
    let pa := key - dramBase
    (dieOfPhys pa).getD 0 * 4096 + fold12 (pa / 64)

/-- The home die of a location, whose view is the memory contents (R123). -/
def homeDie (key : Nat) : Nat := dieOf (homeCore key)

/-! ### Views -/

def viewOf (s : State) (die : Nat) : SMap Byte := mapGet [] s.views die

/-- One byte in the view of a die (R108). -/
def viewByte (s : State) (die key : Nat) : Byte := mapGet 0 (viewOf s die) key

/-- `n` bytes from a key up. -/
def mapBytes (m : SMap Byte) (key : Nat) : Nat → List Byte
  | 0 => []
  | n + 1 => mapGet 0 m key :: mapBytes m (key + 1) n

/-- The map with bytes written from a key up. -/
def putBytes (m : SMap Byte) (key : Nat) : List Byte → SMap Byte
  | [] => m
  | b :: bs => putBytes (mapPut 0 m key b) (key + 1) bs

def setView (s : State) (die : Nat) (m : SMap Byte) : State := { s with views := mapPut [] s.views die m }

/-- Apply a write to the view of a die (R109). -/
def applyView (s : State) (die key : Nat) (bytes : List Byte) : State :=
  setView s die (putBytes (viewOf s die) key bytes)

/-- Apply a write to every view at one instant (R117, R124). -/
def applyAll (s : State) (key : Nat) (bytes : List Byte) : State :=
  applyView (applyView (applyView (applyView s 0 key bytes) 1 key bytes) 2 key bytes) 3 key bytes

/-- The canonical form of memory: the views, every view, and the memory outside the device list rising keys and
no byte that an unlisted key reads as. -/
def Memory.wf (s : State) : Bool :=
  mapWf [] s.views && s.views.all (fun e => mapWf 0 e.2) && mapWf 0 s.outer

/-- Empty a stretch of keys in every view: memory that is powered down or scrubbed reads zero (R13, R259), and its lines are plaintext. A write of
before that is still on its way to a view no longer changes it. -/
def zeroKeys (s : State) (lo n : Nat) : State :=
  let void := fun (k : Nat) (bs : List Byte) => if lo ≤ k && k < lo + n then [] else bs
  { s with
    flights := s.flights.map fun f => { f with bytes := void f.key f.bytes }
    mca := s.mca.map fun w => { w with bytes := void w.key w.bytes }
    views := mapVals [] (fun _ m => mapDrop (fun k => lo ≤ k && k < lo + n) m) s.views
    lineKeys := mapVals [] (fun _ m => mapDrop (fun k => lo ≤ k * 64 && k * 64 < lo + n) m) s.lineKeys }

/-- Whether a write to a stretch of keys is still on its way to a view. -/
def writesPending (s : State) (lo n : Nat) : Bool :=
  (s.flights.any fun f => f.key < lo + n && lo < f.key + f.bytes.length) ||
    s.mca.any fun w => w.key < lo + n && lo < w.key + w.bytes.length

def setStamp (s : State) (die : Nat) (t : Stamp) : State := { s with stamps := mapPut .zero s.stamps die t }

/-- Whether two stretches of bytes meet. -/
def overlap (a n b m : Nat) : Bool := a < b + m && b < a + n

/-! ### Stored lines and keys -/

/-- The 256 bits of material of a key instance (R247, R264): a world's key comes from the security engine's random source; the number of a
released key holds what was released. -/
def masterOf (inst : Nat) : BitVec 256 :=
  if inst < 2 ^ 64 then Config.freshKey inst else BitVec.ofNat 256 (inst - 2 ^ 64)

/-- The keys that the material of a handle yields (R248), by their labels. -/
def derivedKey (inst : Nat) (label : List Nat) : List Nat := Crypto.kdf (Crypto.keyBytes (masterOf inst)) label
def xts1Key (inst : Nat) : List Nat := derivedKey inst [0x58, 0x54, 0x53, 0x31]
def xts2Key (inst : Nat) : List Nat := derivedKey inst [0x58, 0x54, 0x53, 0x32]
def macKey (inst : Nat) : List Nat := derivedKey inst [0x4D, 0x41, 0x43]
def padKey (inst : Nat) : List Nat := derivedKey inst [0x50, 0x41, 0x44]

/-- The 64 bytes that device memory holds for a line whose view holds `line` (R250): XTS ciphertext, unless it is plaintext or lies under a
tensor's pad, which the view itself holds. -/
def storedLine (m : LineKey) (line : List Byte) : List Byte :=
  if m.inst = 0 || m.pad then line
  else Crypto.ofNats (Crypto.xtsEncrypt (xts1Key m.inst) (xts2Key m.inst) m.line (Crypto.toNats line))

/-- The MAC of a stored line (R251): over the stored bytes, VA[55:6] and KEYH. -/
def lineMac (m : LineKey) (stored : List Byte) : List Nat :=
  (Crypto.cmac (macKey m.inst) (Crypto.toNats (stored ++ leBytes 8 m.line ++ leBytes 2 m.keyh))).take 8

/-- A line that was written under `m`, as an access under `u` finds it, before any pad: none is a MAC mismatch (R251). A KEYH 0 page returns
what is stored (R261); a line stored without a MAC matches none. -/
def openLine (u m : LineKey) (line : List Byte) : Option (List Byte) :=
  if m = u then some line
  else
    let c := storedLine m line
    if u.inst = 0 then some c
    else if m.inst = 0 || decide (lineMac m c ≠ lineMac u c) then none
    else if u.pad then some c
    else some (Crypto.ofNats (Crypto.xtsDecrypt (xts1Key u.inst) (xts2Key u.inst) u.line (Crypto.toNats c)))

/-- What a line was written under, as a die's view has it. -/
def lineKeyOf (s : State) (die key : Nat) : LineKey := mapGet .plain (mapGet [] s.lineKeys die) (key / 64)

def setLineKey (s : State) (die key : Nat) (u : LineKey) : State :=
  { s with lineKeys := mapMod [] s.lineKeys die fun m => mapPut .plain m (key / 64) u }

/-- The line of a key in a die's view, as an access under `u` finds it. -/
def lineUnder (s : State) (die key : Nat) (u : LineKey) : Option (List Byte) :=
  openLine u (lineKeyOf s die key) (mapBytes (viewOf s die) (key / 64 * 64) 64)

/-- What the bytes of a line become when a write of other bytes of it passes it to `u`: what a reader under `u` would find, or bytes that the
spec does not give. -/
def passedLine (s : State) (die key : Nat) (u : LineKey) : List Byte :=
  (lineUnder s die key u).getD ((List.range 64).map fun i => Config.staleByte u.inst (key / 64 * 64 + i))

/-- Apply a write of bytes of one line to the view of a die, the line passing to what the write was stored under (R109, R250). -/
def applyUnder (s : State) (die key : Nat) (bytes : List Byte) (u : LineKey) : State :=
  if !isDram key || decide (lineKeyOf s die key = u) then applyView s die key bytes
  else
    let lo := key / 64 * 64
    let line := passedLine s die key u
    setLineKey (applyView s die lo (line.take (key - lo) ++ bytes ++ line.drop (key - lo + bytes.length))) die key u

/-- Apply a write to every view at one instant (R117, R124). -/
def applyEverywhere (s : State) (key : Nat) (bytes : List Byte) (u : LineKey) : State :=
  applyUnder (applyUnder (applyUnder (applyUnder s 0 key bytes u) 1 key bytes u) 2 key bytes u) 3 key bytes u

/-! ### Performing a write -/

/-- Send a write of `src` to one other die. -/
def sendFlight (src key : Nat) (bytes : List Byte) (prop : PageProp) (u : LineKey) (seq : Nat) (stamp : Stamp) (s : State)
    (dst : Nat) : State :=
  if dst = src then s
  else
    let (id, s) := fresh s
    post { s with flights := s.flights ++ [⟨id, src, dst, seq, stamp, key, bytes, prop, u⟩] } (.remoteWriteApply id)

/-- Send a write of `src` to the three other dies. -/
def sendFlights (s : State) (src key : Nat) (bytes : List Byte) (prop : PageProp) (u : LineKey) (seq : Nat) (stamp : Stamp) : State :=
  [0, 1, 2, 3].foldl (sendFlight src key bytes prop u seq stamp) s

/-- Every write in the view of a die has been applied on every die (R117, R124). -/
def viewSettled (s : State) (stamp : Stamp) : Bool :=
  stamp.le (stampOf s 0) && stamp.le (stampOf s 1) && stamp.le (stampOf s 2) && stamp.le (stampOf s 3)

/-- Perform a write of agent `h` of `die` to bytes of one line, stored under `u`. On an NA page it is applied in the view of the die,
counted, and sent to the other dies with the die's vector (R121); on a REPL page it reaches the other replicas uncounted (R125); on an
MCA page it waits to become visible everywhere at once (R124). With `all` it is applied to all four views at one instant (a seq write at
pkg or sys scope, R117, and a home's write to an MCA page): no die has still to apply it, so no count speaks of it. Memory outside the
device takes it directly. -/
def performUnder (s : State) (die h key : Nat) (bytes : List Byte) (prop : PageProp) (all : Bool) (u : LineKey) : State :=
  if isOuter key then { s with outer := putBytes s.outer key bytes }
  else
    let st := stampOf s die
    if all then applyEverywhere s key bytes u
    else
      match prop with
      | .na =>
        let n := st.get die + 1
        sendFlights (setStamp (applyUnder s die key bytes u) die (st.set die n)) die key bytes .na u n st
      | .repl => sendFlights (applyUnder s die key bytes u) die key bytes .repl u 0 st
      | .mca =>
        let (id, s) := fresh s
        post { s with mca := s.mca ++ [⟨id, h, die, st, key, bytes, u⟩] } (.remoteWriteApply id)

/-- Perform a write to memory that holds plaintext. -/
def performWrite (s : State) (die h key : Nat) (bytes : List Byte) (prop : PageProp) (all : Bool) : State :=
  performUnder s die h key bytes prop all .plain

/-- What a hart's own writes under `u` that are not yet visible make of bytes it reads (R108, R124). -/
def overlayMca (s : State) (h key : Nat) (u : LineKey) (bytes : List Byte) : List Byte :=
  s.mca.foldl (fun bs w =>
    if w.hart = h && decide (w.under = u) then
      bs.mapIdx fun i b =>
        if w.key ≤ key + i && key + i < w.key + w.bytes.length then w.bytes.getD (key + i - w.key) b else b
    else bs) bytes

/-! ### Targets -/

/-- Where an access goes and under what: the untagged address, the memory key, the page's attributes, the key instance and its handle,
and for a tensor pad the tensor, its version and the byte offset from BASE (R253). -/
structure Target where
  va : Nat
  key : Nat
  prop : PageProp
  route : Nat
  inst : Nat
  keyh : Nat
  tcipher : Bool
  isSealed : Bool
  cached : Bool
  pad : Option (Nat × Nat × Nat)
  deriving DecidableEq, Repr

/-- Memory that is neither translated nor encrypted. -/
def Target.plain (va key : Nat) (cached : Bool) : Target := ⟨va, key, .na, 0, 0, 0, false, false, cached, none⟩

def xorBytes (a b : List Byte) : List Byte := List.zipWith (· ^^^ ·) a b

/-- The pad of one 16-byte unit (Table 16.2). -/
def padUnit (inst tid version unit : Nat) : List Byte :=
  Crypto.ofNats
    (Crypto.encBlock (Crypto.roundKeys (padKey inst))
      (Crypto.toNats (leBytes 2 tid ++ leBytes 4 version ++ leBytes 8 unit ++ leBytes 2 0)))

/-- The pad over `n` bytes from offset `off` of a tensor (R253). -/
def padBytes (inst tid version off n : Nat) : List Byte :=
  let units := (List.range ((off % 16 + n + 15) / 16)).flatMap fun i => padUnit inst tid version (off / 16 + i)
  (units.drop (off % 16)).take n

/-- Apply the pad of a target to bytes it covers. -/
def applyPad (t : Target) (bytes : List Byte) : List Byte :=
  match t.pad with
  | none => bytes
  | some (tid, ver, off) => xorBytes bytes (padBytes t.inst tid ver off bytes.length)

/-- What a target stores its line under. -/
def targetKey (t : Target) : LineKey := if t.inst = 0 then .plain else ⟨t.inst, t.keyh, t.va / 64, t.tcipher⟩

/-- Bytes of memory that is not encrypted, as an agent meets them. -/
def rawBytes (s : State) (die h key n : Nat) : List Byte :=
  if isOuter key then mapBytes s.outer key n else overlayMca s h key .plain (mapBytes (viewOf s die) key n)

/-- Read bytes of one line under a target's key, before any tensor pad: none is an uncorrectable error, among them a MAC
mismatch (R251). -/
def readStored (s : State) (die h : Nat) (t : Target) (n : Nat) : Option (List Byte) :=
  if s.badLines.contains (t.key / 64) then none
  else if !isDram t.key then some (rawBytes s die h t.key n)
  else
    (lineUnder s die t.key (targetKey t)).map fun l =>
      overlayMca s h t.key (targetKey t) (slice l (t.key % 64) n)

/-- Read bytes of one line: as `readStored`, with the tensor pad applied (R254). -/
def readTarget (s : State) (die h : Nat) (t : Target) (n : Nat) : Option (List Byte) :=
  (readStored s die h t n).map (applyPad t)

/-- One more uncorrectable error counted for a die (Table 18.3, sensor 0x0041). -/
def countError (s : State) (die : Nat) : State :=
  { s with errors := mapMod 0 s.errors die (· + 1) }

/-- Write bytes of one line under a target's key. A line with an uncorrectable error keeps its contents (R395). -/
def writeStored (s : State) (die h : Nat) (t : Target) (bytes : List Byte) (all : Bool) : State :=
  if s.badLines.contains (t.key / 64) then countError s die
  else performUnder s die h t.key bytes t.prop all (targetKey t)

/-! ### The caches of a core -/

/-- Whether a cached line serves a target: the line itself, decrypted under the same key and pad. -/
def lineServes (t : Target) (e : CacheLine) : Bool :=
  e.line = t.key / 64 && decide (e.under = targetKey t) && decide (e.pad = t.pad.map fun p => (p.1, p.2.1))

/-- The line of a core's L1 that serves a target, unless the cache has given it up (R91, R92). -/
def l1Line (s : State) (core : Nat) (t : Target) : Option (BitVec 512) :=
  match (getCore s core).l1.find? (lineServes t) with
  | none => none
  | some e => if Config.freeBool s.tick 0 then none else some e.data

/-- A line as a list of bytes, lowest first, and back. -/
def bytesOfLine (l : BitVec 512) : List Byte := leBytes 64 l.toNat
def lineOfBytes (bs : List Byte) : BitVec 512 := BitVec.ofNat 512 (leNat bs)

/-- No hart: whose own writes are laid over nothing. -/
def noHart : Nat := 0xFFFFFFFF

/-- The agent of an engine command, by core and tag: its writes are no hart's own (R107, R108). -/
def engineAgent (core tag : Nat) : Nat := 0x200000000 + core * 256 + tag

/-- The agent of an operating service that acts for a caller on a core: its writes are no hart's own either (R108, R276). -/
def serviceAgent (core : Nat) : Nat := 0x180000000 + core

/-- The core that an MCA write comes from. -/
def mcaCore (w : McaWrite) : Nat :=
  if engineAgent 0 0 ≤ w.hart then (w.hart - engineAgent 0 0) / 256
  else if serviceAgent 0 ≤ w.hart then w.hart - serviceAgent 0
  else coreOf w.hart

/-- The first byte of the line of a target. -/
def lineStart (t : Target) : Target :=
  { t with va := t.va - t.va % 64, key := t.key - t.va % 64, pad := t.pad.map fun p => (p.1, p.2.1, p.2.2 - t.va % 64) }

/-- The cache line of a target with its 64 bytes. -/
def lineEntry (t : Target) (bytes : List Byte) : CacheLine :=
  ⟨t.key / 64, targetKey t, t.pad.map fun p => (p.1, p.2.1), lineOfBytes bytes⟩

/-- Fill a line; L1 holds 512 lines (R12), the oldest leaves first. -/
def fillL1 (s : State) (core : Nat) (e : CacheLine) : State :=
  modCore s core fun c => { c with l1 := (e :: c.l1.filter (·.line ≠ e.line)).take 512 }

/-- Remove the line of a key from a core's L1, under whatever address it was filled (R91). -/
def dropL1 (s : State) (core key : Nat) : State :=
  modCore s core fun c => { c with l1 := c.l1.filter (·.line ≠ key / 64) }

/-- A cached line after a write of bytes at an offset. -/
def CacheLine.write (e : CacheLine) (off : Nat) (bytes : List Byte) : CacheLine :=
  let line := bytesOfLine e.data
  { e with data := lineOfBytes (line.take off ++ bytes ++ line.drop (off + bytes.length)) }

/-- Update a core's L1 copy of the line of a write, on a hit; a copy decrypted under anything else is removed (R91). -/
def updateL1 (s : State) (core key : Nat) (bytes : List Byte) (u : LineKey) (pad : Option (Nat × Nat)) : State :=
  modCore s core fun c =>
    { c with
      l1 := c.l1.filterMap fun e =>
        if e.line ≠ key / 64 then some e
        else if e.under = u && e.pad = pad then some (e.write (key % 64) bytes)
        else none }

/-- Load `n` bytes of one line for a hart: from L1 on a hit, otherwise from the view, filling L1 (R91, R108). None is an
uncorrectable error. -/
def loadBytes (s : State) (h : Nat) (t : Target) (n : Nat) : State × Option (List Byte) :=
  let core := coreOf h
  let die := dieOf core
  if t.cached then
    match l1Line s core t with
    | some l => (s, some (overlayMca s h t.key (targetKey t) (slice (bytesOfLine l) (t.va % 64) n)))
    | none =>
      -- the fill holds what the view holds: a hart's own invisible writes are laid over at each read
      match readTarget s die noHart (lineStart t) 64 with
      | none => (s, none)
      | some line =>
        (fillL1 s core (lineEntry t line), some (overlayMca s h t.key (targetKey t) (slice line (t.va % 64) n)))
  else (s, readTarget s die h t n)

/-- Store bytes of one line for a hart: through to the home, updating L1 only on a hit (R91). A write to an MCA page updates the copy when
it becomes visible (R124). -/
def storeBytes (s : State) (h : Nat) (t : Target) (bytes : List Byte) (all : Bool) : State :=
  let core := coreOf h
  let s' := writeStored s (dieOf core) h t bytes all
  if !t.cached || (decide (t.prop = .mca) && !all) then s'
  else updateL1 s' core t.key bytes (targetKey t) (t.pad.map fun p => (p.1, p.2.1))

/-- Write bytes of one line for an engine of a core, as agent `a`: the view directly, the line leaving that core's L1 (R91, R108). -/
def engineWrite (s : State) (core a : Nat) (t : Target) (bytes : List Byte) : State :=
  dropL1 (writeStored s (dieOf core) a t bytes false) core t.key

/-- Fetch the line of a target for a context: from the instruction cache of its core on a hit, unless the cache has given the line up,
otherwise from the view, filling it (Table 2.2; 512 lines). None is an uncorrectable error. -/
def fetchLine (s : State) (core : Nat) (t : Target) : State × Option (List Byte) :=
  match (getCore s core).icache.find? (lineServes t) with
  | some e =>
    if Config.freeBool s.tick 3 then (s, readTarget s (dieOf core) noHart (lineStart t) 64) else (s, some (bytesOfLine e.data))
  | none =>
    match readTarget s (dieOf core) noHart (lineStart t) 64 with
    | none => (s, none)
    | some line =>
      (modCore s core fun c =>
        { c with icache := (lineEntry t line :: c.icache.filter (·.line ≠ t.key / 64)).take 512 }, some line)

end Sys2Proof.Machine
end

