-- ==== Sys2Proof/Machine/Translate.lean ====
section
/-!
DEFINITION. Translation: the shape of page table entries, the native walk and the window walks (R211 to R215), and the
TLBs that hold leaves (R25, R214).
-/

namespace Sys2Proof.Machine

/-- What an entry of the radix tree is (R211, R212). -/
inductive Entry
  | invalid
  | malformed
  | leaf (l : Leaf)
  | table (next : Nat) (routine : Nat)
  deriving DecidableEq, Repr

/-- The span of virtual addresses below one entry of a level (Table 13.2). -/
def levelSpan : Nat → Nat
  | 0 => 0x10000
  | 1 => 0x200000
  | 2 => 0x40000000
  | _ => 0x8000000000

/-- Bytes a leaf of each SIZE maps (Table 13.1). -/
def sizeBytes : Nat → Nat
  | 0 => 0x10000
  | 1 => 0x200000
  | _ => 0x40000000

/-- Read an entry found at `level` for address `va` (R211, R212, R249, R252). -/
def readEntry (level va w : Nat) : Entry :=
  if !bit w 0 then .invalid
  else
    let sz := field w 6 2
    if sz = 3 then
      let routine := if level = 3 then field w 56 4 else 0
      let top := if level = 3 then field w 60 4 else field w 56 8
      if level = 0 || top ≠ 0 || field w 1 5 ≠ 0 then .malformed
      else .table (field w 8 48 * 256) routine
    else
      let keyh := field w 8 12
      let phys := field w 20 36 * 0x10000
      if level ≠ sz || field w 56 8 ≠ 0 || field w 2 2 = 3 || keyh = 0xFFF || phys % sizeBytes sz ≠ 0 then .malformed
      else
        .leaf
          { base := va / sizeBytes sz * sizeBytes sz
            size := sizeBytes sz
            phys := phys
            keyh := BitVec.ofNat 12 keyh
            tcipher := bit w 5
            isSealed := bit w 4
            direct := bit w 1
            prop := if field w 2 2 = 0 then .na else if field w 2 2 = 1 then .mca else .repl
            route := 0
            dev := 0
            page := va / sizeBytes sz * sizeBytes sz
            pageSize := sizeBytes sz }

/-- An 8-byte word of physical memory in the view of a die. -/
def physWord (s : State) (die pa : Nat) : Nat := leNat (mapBytes (viewOf s die) (dramBase + pa) 8)

/-- Index of the entry for an address at a level (Table 13.2). -/
def levelIndex (level va : Nat) : Nat :=
  match level with
  | 3 => field va 39 17
  | 2 => field va 30 9
  | 1 => field va 21 9
  | _ => field va 16 5

/-- The address of a level's entry for an address. -/
def entryAt (table level va : Nat) : Nat := table + 8 * levelIndex level va

/-- A window walk (R282): routine 1 serves routes 1 and 2, routine 2 route 3. DESIGN CHOICE (log entry 80): R215 and R282 give its translation no
size, and it is a 64 KiB page. -/
def windowWalk (s : State) (routine va : Nat) : WalkReply :=
  let hit := s.windows.find? fun e =>
    match e.2 with
    | none => false
    | some w =>
      w.base.toNat ≤ va && va < w.base.toNat + w.gib * 0x40000000 &&
        (if routine = 1 then w.route = 1 || w.route = 2 else w.route = 3)
  match hit with
  | some (_, some w) =>
    let base := va / 0x10000 * 0x10000
    .leaf ⟨base, 0x10000, w.target.toNat + (base - w.base.toNat), 0, false, false, w.direct, .na, w.route, w.dev, base, 0x10000⟩
  | _ => .absent va

/-- The levels below the root, `level` going down (R212). -/
def walkFrom (s : State) (die va : Nat) : Nat → Nat → WalkReply
  | level, table =>
    match level with
    | 0 =>
      match readEntry 0 va (physWord s die (entryAt table 0 va)) with
      | .leaf l => .leaf l
      | .invalid => .absent va
      | _ => .malformed va
    | n + 1 =>
      match readEntry (n + 1) va (physWord s die (entryAt table (n + 1) va)) with
      | .leaf l => .leaf l
      | .invalid => .absent va
      | .malformed => .malformed va
      | .table next _ => walkFrom s die va n next

/-- Code of a kind of access. -/
def WalkKind.code : WalkKind → Nat
  | .read => 0
  | .write => 1
  | .atomic => 2
  | .fetch => 3

/-- The leaf that a routine of the walk store returns: an entry as Table 13.1 has it, with a route code of Table 13.3. A leaf with a route
other than 0 has KEYH 0 (R252), and none of these routines serves the host window. -/
def routineLeaf (va : Nat) (answer : Option (Nat × Nat × Nat)) : WalkReply :=
  match answer with
  | none => .absent va
  | some (w, route, dev) =>
    match readEntry (field w 6 2) va w with
    | .leaf l => if 6 ≤ route || (route ≠ 0 && decide (l.keyh ≠ 0)) then .malformed va else .leaf { l with route := route, dev := dev }
    | .invalid => .absent va
    | _ => .malformed va

/-- The walk of a translated address for a kind of access under a walk store (R212, R215): the level-3 entry names the routine, and one that
the store does not hold makes it malformed. -/
def walkUnder (s : State) (store : Option (List Byte)) (kind : WalkKind) (die va : Nat) : WalkReply :=
  match readEntry 3 va (physWord s die (entryAt (ptrootOf s die).toNat 3 va)) with
  | .leaf _ => .malformed va
  | .invalid => .absent va
  | .malformed => .malformed va
  | .table next routine =>
    if routine = 0 then walkFrom s die va 2 next
    else if routine = 1 || routine = 2 then windowWalk s routine va
    else if routine < 15 && Config.walkHas store routine then routineLeaf va (Config.walkRoutine store routine kind.code va s.tick)
    else .malformed va

/-- A walk under the walk store that the dies hold. -/
def walk (s : State) (kind : WalkKind) (die va : Nat) : WalkReply := walkUnder s s.firmware.walkStore kind die va

/-- The hart at hand has missed: its walk goes to one of its die's walkers, or waits for one (R214). -/
def startWalk (s : State) (kind : WalkKind) (va : Nat) : State :=
  post (modDie s (dieOfHart s.cur) fun d => { d with walks := d.walks ++ [⟨s.cur, va, kind, s.firmware.walkStore⟩] })
    (.pageWalkComplete s.cur)

def leafCovers (va : Nat) (l : Leaf) : Bool := l.base ≤ va && va < l.base + l.size

/-- The core whose slice is home to a page, on the die of the requesting core (R25). -/
def sliceHome (die va : Nat) : Nat := die * 4096 + fold12 (field va 16 40)

/-- Whether a shootdown makes a cached translation stale (R228). -/
def leafStale (w : ShootWhat) (l : Leaf) : Bool :=
  match w with
  | .page base size => overlap l.base l.size base size
  | _ => false

/-- Whether a core has received a shootdown under way that makes a translation stale: it takes such a translation from no slice that the
shootdown has still to reach (R228). -/
def staleFor (s : State) (core : Nat) (l : Leaf) : Bool :=
  s.shootdowns.any fun d => !d.unsent.contains core && d.what.any fun w => leafStale w l

/-- A leaf in the core's L1 TLB or in the die's distributed L2 TLB (R214); an Idle cluster's slices answer with a miss
(R292). -/
def tlbFind (s : State) (core va : Nat) : Option Leaf :=
  match (getCore s core).tlb.find? (leafCovers va) with
  | some l => some l
  | none =>
    let home := sliceHome (dieOf core) va
    if (getCluster s (clusOf home)).idle then none
    else (getCore s home).l2.find? fun l => leafCovers va l && (decide (home = core) || !staleFor s core l)

/-- The 64 KiB fragment of a leaf at an address (R25). -/
def fragment (va : Nat) (l : Leaf) : Leaf :=
  let base := va / 0x10000 * 0x10000
  { l with base := base, size := 0x10000, phys := l.phys + (base - l.base) }

/-- Install a leaf in the L1 TLB of a core (32 entries, R214). -/
def fillTlb (s : State) (core : Nat) (l : Leaf) : State :=
  modCore s core fun c => { c with tlb := (l :: c.tlb.filter (· ≠ l)).take 32 }

/-- Install a leaf in its home slice (512 entries, R25, R214), unless that core's cluster is Idle (R292). -/
def fillSlice (s : State) (die va : Nat) (l : Leaf) : State :=
  let home := sliceHome die va
  if (getCluster s (clusOf home)).idle then s
  else
    let f := fragment va l
    modCore s home fun c => { c with l2 := (f :: c.l2.filter (· ≠ f)).take 512 }

/-- Remove what the TLBs and slices of every core hold for a stretch of addresses (R228). -/
def dropTranslations (s : State) (lo n : Nat) : State :=
  let keep := fun l : List Leaf => l.filter fun e => !overlap e.base e.size lo n
  { s with cores := mapVals .reset (fun _ c => { c with tlb := keep c.tlb, l2 := keep c.l2 }) s.cores }

/-- What a walk told the hart that waited for it, where it concerns this address. -/
def walkAnswer (h : Hart) (va : Nat) : Option WalkReply :=
  match h.walk with
  | some (.leaf l) => if leafCovers va l then some (.leaf l) else none
  | some (.absent p) => if p / 0x10000 = va / 0x10000 then some (.absent p) else none
  | some (.malformed p) => if p / 0x10000 = va / 0x10000 then some (.malformed p) else none
  | none => none

end Sys2Proof.Machine
end

