-- ==== Sys2Proof/Machine/Access.lean ====
section
/-!
DEFINITION. The checks of an access (Table 13.6): address ranges, ranges and rights with the protection lookaside buffer,
key handles, sealed and tensor pages; for cores and for engines.
-/

namespace Sys2Proof.Machine

/-! ### Pointers -/

/-- The address bits and the range tag of a pointer (R20). -/
def addrOf (p : Word) : Nat := (p.extractLsb' 0 56).toNat
def tagOf (p : Word) : BitVec 8 := p.extractLsb' 56 8

/-- The ranges of Table 2.6. -/
inductive Region | self | localMem | vault | control | translated | host | nowhere
  deriving DecidableEq, Repr

def regionOf (va : Nat) : Region :=
  if va < 0x20000 then .self
  else if localBase ≤ va && va < 0x180000000 then .localMem
  else if vaultBase ≤ va && va < controlBase then .vault
  else if controlBase ≤ va && va < 0x610000000 then .control
  else if 0x10000000000 ≤ va && va < 0x80000000000000 then .translated
  else if 0x80000000000000 ≤ va && va < 0x100000000000000 then .host
  else .nowhere

/-- Rights bits (Table 13.5). -/
def rightR : BitVec 8 := 0x01
def rightW : BitVec 8 := 0x02
def rightX : BitVec 8 := 0x04
def rightA : BitVec 8 := 0x08
def rightM : BitVec 8 := 0x10
def rightG : BitVec 8 := 0x20

def rightsOf (s : State) (owner : BitVec 16) : List Right := mapGet [] s.rights owner.toNat
def setRights (s : State) (owner : BitVec 16) (l : List Right) : State :=
  { s with rights := mapPut [] s.rights owner.toNat l }

def rangeCovers (va : Nat) (r : Range) : Bool := r.base ≤ va && va < r.base + r.len

/-- The range that holds an address (R218). -/
def rangeAt (s : State) (va : Nat) : Option Range := s.ranges.find? (rangeCovers va)

/-- An entry that admits the line of an address for a right under a tag (R218). -/
def rightAdmits (va : Nat) (tag need : BitVec 8) (e : Right) : Bool :=
  decide (e.tag = tag) && e.base ≤ va / 64 * 64 && va / 64 * 64 + 64 ≤ e.base + e.len * 64 &&
    decide (e.rights &&& need = need)

/-- Keep an entry in a core's lookaside buffer (64 entries, R220). -/
def fillPlb (s : State) (core : Nat) (e : PlbEntry) : State :=
  modCore s core fun c => { c with plb := (e :: c.plb.filter (· ≠ e)).take 64 }

/-- The range of an address as the core sees it: its lookaside buffer first, then the range table (R218, R220). -/
def plbRange (s : State) (core : Nat) (own : BitVec 16) (va : Nat) : State × Option Range :=
  let cached := (getCore s core).plb.findSome? fun e =>
    match e with
    | .range o r => if o = own && rangeCovers va r then some r else none
    | .right _ => none
  match cached with
  | some r => (s, some r)
  | none =>
    match rangeAt s va with
    | some r => (fillPlb s core (.range own r), some r)
    | none => (s, none)

/-- Whether an owner may use the line of an address: an entry of the lookaside buffer or of the owner's table (R218,
R220). -/
def plbRight (s : State) (core : Nat) (own : BitVec 16) (va : Nat) (tag need : BitVec 8) : State × Bool :=
  let cached := (getCore s core).plb.any fun e =>
    match e with
    | .range _ _ => false
    | .right e => decide (e.owner = own) && rightAdmits va tag need e
  if cached then (s, true)
  else
    match (rightsOf s own).find? (rightAdmits va tag need) with
    | some e => (fillPlb s core (.right e), true)
    | none => (s, false)

/-! ### Key handles and tensors -/

def getKey (s : State) (k : BitVec 12) : Option KeyState := mapGet none s.keys k.toNat

/-- Whether a handle belongs to an accessor (R249, Table 16.1): a world handle to its own launch, a shared one to every
launch of its tenant, and only while its key lives. -/
def keyBelongs (s : State) (tenant : BitVec 4) (world : BitVec 12) (k : BitVec 12) : Bool :=
  if k = 0 then true
  else
    match getKey s k with
    | none => false
    | some v => v.live && decide (v.tenant = tenant) && (0x800 ≤ k.toNat || decide (k = world))

/-- Instance of the key a handle holds (0 for plaintext). -/
def keyInst (s : State) (k : BitVec 12) : Nat :=
  match getKey s k with
  | none => 0
  | some v => v.inst

def getTensor (s : State) (t : Nat) : Option Tensor := mapGet none s.tensors t

def Tensor.valid (t : Tensor) : Bool := t.flags.getLsbD 0
def Tensor.encrypted (t : Tensor) : Bool := t.flags.getLsbD 1
def Tensor.isSealed (t : Tensor) : Bool := t.flags.getLsbD 2
def Tensor.hadamard (t : Tensor) : Bool := t.flags.getLsbD 3
/-- First byte and length of [BASE, BASE + DIM1 × STRIDE) (R254). -/
def Tensor.start (t : Tensor) : Nat := addrOf t.base
def Tensor.extent (t : Tensor) : Nat := t.dim1 * t.stride

/-- The valid encrypted record that `n` TCIPHER bytes belong to (R254): it covers every one of them. -/
def tensorAt (s : State) (va n : Nat) : Option (Nat × Tensor) :=
  s.tensors.findSome? fun e =>
    match e.2 with
    | none => none
    | some t =>
      if t.valid && t.encrypted && t.start ≤ va && va + n ≤ t.start + t.extent then some (e.1, t) else none

/-! ### Core accesses -/

/-- Outcome of a check. `ok` carries the state with the lookaside buffers filled. -/
inductive Check
  | ok (s : State) (t : Target)
  | trap (t : Trap)
  | walk (va : Nat)

/-- What an access is. -/
structure Want where
  need : BitVec 8
  /-- Alignment in bytes (check 1), and bytes of the access within its line. -/
  align : Nat
  size : Nat
  /-- An atomic or WACC operation (check 5). -/
  atomic : Bool
  /-- A write of any kind, refused on TCIPHER pages (R254). -/
  write : Bool
  /-- Instruction fetch: neither local range admits it (R218). -/
  fetch : Bool

def Want.read (n : Nat) : Want := ⟨rightR, n, n, false, false, false⟩
def Want.store (n : Nat) : Want := ⟨rightW, n, n, false, true, false⟩
def Want.amo (n : Nat) : Want := ⟨rightA, n, n, true, true, false⟩
/-- A fetch of `n` bytes of code. -/
def Want.exec (n : Nat) : Want := ⟨rightX, 2, n, false, false, true⟩

/-- Whether core `g` runs, or holds saved, a hart of a launch (R218). -/
def coreServes (s : State) (g launch : Nat) : Bool :=
  (List.range 8).any (fun c =>
    let h := getHart s (hartKey g c)
    decide (h.tenure = .running) && decide (h.launch = launch)) ||
  s.saves.any (fun v => decide (v.core = g) && decide (v.launch = launch))

def denied (p : Word) (detail : BitVec 16) : Check := .trap ⟨0x06, p, detail⟩

/-- Where an access to a page that is being migrated goes: to the destination once its line is copied (R229). -/
def migrated (s : State) (key : Nat) : Nat :=
  match s.migrations.find? fun m =>
      dramBase + m.src.phys ≤ key && key < dramBase + m.src.phys + m.src.size && m.copied.contains (key / 64) with
  | some m => dramBase + m.dst.phys + (key - dramBase - m.src.phys)
  | none => key

/-- The leaf a core access uses, or what the core does without one (check 4, R213). -/
inductive LeafFound
  | leaf (s : State) (l : Leaf)
  | trap (detail : BitVec 16)
  | walk

def findLeaf (s : State) (h va : Nat) : LeafFound :=
  let core := coreOf h
  match tlbFind s core va with
  | some l => .leaf (fillTlb s core l) l
  | none =>
    match walkAnswer (getHart s h) va with
    | some (.leaf l) => .leaf (fillTlb s core l) l
    | some (.absent _) => .trap 1
    | some (.malformed _) => .trap 2
    | none => .walk

/-- Whether a right is one that no grant carries over a route: route 3 is read-only to every party (R230, R283). -/
def readOnlyRoute (route : Nat) (need : BitVec 8) : Bool := decide (route = 3) && decide (need &&& rightW ≠ 0)

/-- The refusal of a line by the peer that holds it, as an engine fault code (R281): the peer has its own rights tables, which the device does
not see. -/
def peerCode (s : State) (own : BitVec 16) (tenant : BitVec 4) (p : Word) (need : BitVec 8) (t : Target) : Option (BitVec 8) :=
  if t.route ≠ 1 then none
  else
    match Config.peerCheck ((t.key / outerBase - 1) % 256) own.toNat (Config.groupTenant tenant.toNat) p.toNat need.toNat s.tick with
    | 0 => none
    | 0x20 => some 0x20
    | 0x22 => some 0x22
    | 0x23 => some 0x23
    | 0x24 => some 0x24
    | 0x26 => some 0x26
    | 0x28 => some 0x28
    | _ => some 0x21

/-- The trap of Table 13.6 that matches an engine fault code (R281). -/
def peerTrap (p : Word) (code : BitVec 8) : Trap :=
  match code.toNat with
  | 0x20 => ⟨0x05, p, 1⟩
  | 0x22 => ⟨0x07, p, 0⟩
  | 0x23 | 0x24 => ⟨0x08, p, 0⟩
  | 0x26 => ⟨0x10, p, 0⟩
  | 0x28 => ⟨0x0B, p, 0⟩
  | _ => ⟨0x06, p, 3⟩

/-- Whether an access of a context goes to the home of its line: it writes, or its core's cache does not hold the line. -/
def leavesCore (s : State) (core : Nat) (w : Want) (t : Target) : Bool :=
  w.write || (if w.fetch then !(getCore s core).icache.any (lineServes t) else (l1Line s core t).isNone)

/-- Checks 6 to 8 for a vault or translated line (R218, R249, R254): tag, rights, key handle, seal, tensor page. -/
def checkRights (s : State) (h : Nat) (p : Word) (w : Want) (t : Target) (keyh : BitVec 12) : Check :=
  let v := getHart s h
  let core := coreOf h
  let own := v.sr.own
  match plbRange s core own t.va with
  | (_, none) => denied p 1
  | (s, some rg) =>
    if tagOf p ≠ rg.tag then .trap ⟨0x07, p, 0⟩
    else
      match plbRight s core own t.va rg.tag w.need with
      | (_, false) => denied p 3
      | (s, true) =>
        if readOnlyRoute t.route w.need then denied p 3
        else if !keyBelongs s v.sr.tenant v.sr.keyh keyh then denied p 8
        else if t.isSealed then .trap ⟨0x08, p, 0⟩
        else
          let go := fun (t : Target) =>
            match if leavesCore s core w t then peerCode s own v.sr.tenant p w.need t else none with
            | some c => Check.trap (peerTrap p c)
            | none => .ok s t
          if t.tcipher then
            match tensorAt s t.va w.size with
            | none => .trap ⟨0x0B, p, 0⟩
            | some (tid, r) =>
              if w.write then denied p 9 else go { t with pad := some (tid, r.version.toNat, t.va - r.start) }
          else go t

/-- Check 5: the route of an atomic (R230). -/
def routeTrap (p : Word) (route : Nat) : Option Trap :=
  if route = 2 || route = 5 then some ⟨0x09, p, BitVec.ofNat 16 route⟩
  else if route = 3 then some ⟨0x0A, p, 3⟩
  else none

/-- Whether a leaf names memory of the device that no die owns (R23). DEDUCED (log entry 18): such an entry counts as malformed. -/
def unowned (l : Leaf) (phys : Nat) : Bool := decide (l.route = 0) && (dieOfPhys phys).isNone

/-- The target of an address under its leaf: device memory, or what the leaf's route leads to (R230). -/
def leafTarget (s : State) (l : Leaf) (va : Nat) (cached : Bool) : Target :=
  let phys := l.phys + (va - l.base)
  if l.route = 0 then
    ⟨va, migrated s (dramBase + phys), l.prop, 0, keyInst s l.keyh, l.keyh.toNat, l.tcipher, l.isSealed, cached, none⟩
  else ⟨va, outerKey l.route l.dev phys, .na, l.route, 0, 0, l.tcipher, l.isSealed, cached, none⟩

/-- The checks of Table 13.6 for an access of a context to bytes of one line, by the first check that fails (R219). -/
def checkAccess (s : State) (h : Nat) (p : Word) (w : Want) : Check :=
  let v := getHart s h
  let core := coreOf h
  let va := addrOf p
  if p.toNat % w.align ≠ 0 then .trap ⟨0x04, p, 0⟩
  else
    match regionOf va with
    | .nowhere => denied p 1
    | .self =>
      if tagOf p ≠ 0 then denied p 1
      else if w.fetch then denied p 2
      else .ok s (.plain va (localOf core + va) false)
    | .localMem =>
      if tagOf p ≠ 0 then denied p 1
      else if w.fetch || !coreServes s ((va - localBase) / 0x20000) v.launch then denied p 2
      else .ok s (.plain va va false)
    | .control =>
      if tagOf p ≠ 0 then denied p 1
      else if v.mode = .U then .trap ⟨0x02, p, 0⟩
      else denied p 3
    | .host => .trap ⟨0x05, p, 4⟩
    | .vault => checkRights s h p w (.plain va va true) 0
    | .translated =>
      match findLeaf s h va with
      | .trap d => .trap ⟨0x05, p, d⟩
      | .walk => .walk va
      | .leaf s l =>
        if unowned l (l.phys + (va - l.base)) then .trap ⟨0x05, p, 2⟩
        else if !l.direct then .trap ⟨0x05, p, 3⟩
        else
          match if w.atomic then routeTrap p l.route else none with
          | some t => .trap t
          | none => checkRights s h p w (leafTarget s l va true) l.keyh

/-- What a walk for the access is told (R215). -/
def Want.kind (w : Want) : WalkKind := if w.fetch then .fetch else if w.atomic then .atomic else if w.write then .write else .read

/-- The instruction waits for a walk. -/
def waitWalk (s : State) (kind : WalkKind) (va : Nat) : Result := waitFor (startWalk s kind va) (.walk va)

/-- Go on with the target of an access, or take its trap, or wait for a walk. -/
def withAccess (s : State) (p : Word) (w : Want) (k : State → Target → Result) : Result :=
  match checkAccess s s.cur p w with
  | .ok s t => k s t
  | .trap t => trapR s t
  | .walk va => waitWalk s w.kind va

/-- Check every line of a stretch, in ascending order, EVAL the pointer given (R240: TSPAWN, TDEF, WINIT). The targets come
in the same order. -/
def withLines (p : Word) (w : Want) : Nat → Word → State → List Target → (State → List Target → Result) → Result
  | 0, _, s, acc, k => k s acc.reverse
  | n + 1, q, s, acc, k =>
    match checkAccess s s.cur q w with
    | .ok s t => withLines p w n (q + 64) s (t :: acc) k
    | .trap t => trapR s { t with eval := p }
    | .walk va => waitWalk s w.kind va

/-! ### Engine accesses -/

/-- On whose behalf an engine acts. -/
structure Agent where
  core : Nat
  hart : Nat
  own : BitVec 16
  tenant : BitVec 4
  launch : Nat
  deriving DecidableEq, Repr

/-- What an engine line check says: go on, a fault code (Table 20.11), or a host page not yet translated. -/
inductive EngineCheck
  | ok (s : State) (t : Target)
  | code (c : BitVec 8)
  | needAts (page : Nat)

def worldHandle (s : State) (launch : Nat) : BitVec 12 :=
  match getLaunch s launch with
  | none => 0
  | some l => l.keyh

/-- Whether a stretch covers part of a 16-byte unit (R254, R258). -/
def partUnit (va len : Nat) : Bool := va % 16 ≠ 0 || len % 16 ≠ 0

/-- Tag, rights, key handle, seal and tensor page of an engine line (R219, R227, R249, R254, R258). `len` bytes are moved. -/
def engineRights (s : State) (a : Agent) (p : Word) (need : BitVec 8) (write : Bool) (len : Nat) (t : Target)
    (keyh : BitVec 12) (hostWindow : Bool) : EngineCheck :=
  match plbRange s a.core a.own t.va with
  | (_, none) => .code 0x21
  | (s, some rg) =>
    if tagOf p ≠ rg.tag then .code 0x22
    else
      match plbRight s a.core a.own t.va rg.tag need with
      | (_, false) => .code 0x21
      | (s, true) =>
        if readOnlyRoute t.route need then .code 0x21
        else if hostWindow then .ok s t
        else if !keyBelongs s a.tenant (worldHandle s a.launch) keyh then .code 0x21
        else if t.isSealed && !write then .code 0x23
        else
          let go := fun (t : Target) =>
            match peerCode s a.own a.tenant p need t with
            | some c => EngineCheck.code c
            | none => .ok s t
          if t.tcipher then
            match tensorAt s t.va len with
            | none => .code 0x28
            | some (tid, r) =>
              if write && partUnit t.va len then .code 0x28
              else if t.isSealed then go t
              else go { t with pad := some (tid, r.version.toNat, t.va - r.start) }
          else if t.isSealed && partUnit t.va len then .code 0x28
          else go t

def atcFind (s : State) (die tenant va : Nat) (write : Bool) : Option AtcEntry :=
  (getDie s die).atc.find? fun e =>
    decide (e.tenant = tenant) && e.page ≤ va && va < e.page + e.size && (if write then e.write else e.read)

/-- The engine's own leaf: from the translation structures or a walk, which an engine makes without a wait of a hart
(R213). -/
def engineLeaf (s : State) (core va : Nat) (kind : WalkKind) : WalkReply :=
  match tlbFind s core va with
  | some l => .leaf l
  | none => walk s kind (dieOf core) va

/-- The checks of one line of an engine, in the order of Table 13.6 (R219). -/
def engineCheck (s : State) (a : Agent) (p : Word) (need : BitVec 8) (write : Bool) (len : Nat) : EngineCheck :=
  let va := addrOf p
  match regionOf va with
  | .nowhere => .code 0x21
  | .control => .code 0x21
  | .self =>
    if tagOf p ≠ 0 then .code 0x21 else .ok s (.plain va (localOf a.core + va) false)
  | .localMem =>
    if tagOf p ≠ 0 then .code 0x21
    else if coreServes s ((va - localBase) / 0x20000) a.launch then .ok s (.plain va va false)
    else .code 0x21
  | .vault => engineRights s a p need write len (.plain va va true) 0 false
  | .host =>
    match atcFind s (dieOf a.core) a.tenant.toNat (va % 0x80000000000000) write with
    | none => .needAts (va % 0x80000000000000 / 4096 * 4096)
    | some _ =>
      engineRights s a p need write len
        ⟨va, outerKey 6 a.tenant.toNat (va % 0x80000000000000), .na, 6, 0, 0, false, false, false, none⟩ 0 true
  | .translated =>
    match engineLeaf s a.core va (if write then .write else .read) with
    | .absent _ => .code 0x20
    | .malformed _ => .code 0x26
    | .leaf l =>
      if unowned l (l.phys + (va - l.base)) then .code 0x26
      else engineRights s a p need write len (leafTarget s l va l.direct) l.keyh false

end Sys2Proof.Machine
end

