-- ==== Sys2Proof/Machine/Agent.lean ====
section
/-!
DEFINITION. Memory access on behalf of an owner by a unit that is no core: the task dispatcher reading nodes (R41), the
operating services reading requests and buffers (R276).
-/

namespace Sys2Proof.Machine

/-- The pieces of `n` bytes from a pointer, each within one line, lowest first. -/
def lineRuns : Nat → Word → Nat → List (Word × Nat)
  | 0, _, _ => []
  | f + 1, p, n =>
    if n = 0 then []
    else
      let k := min n (64 - p.toNat % 64)
      (p, k) :: lineRuns f (p + BitVec.ofNat 64 k) (n - k)

/-- The pieces of a stretch. -/
def pieces (p : Word) (n : Nat) : List (Word × Nat) := lineRuns (n / 64 + 2) p n

/-- Whether an owner holds a right over every line of a stretch (R38, R41). -/
def agentMay (s : State) (a : Agent) (p : Word) (n : Nat) (need : BitVec 8) : Bool :=
  (pieces p n).all fun e =>
    match engineCheck s a e.1 need (decide (need = rightW)) e.2 with
    | .ok _ _ => true
    | _ => false

/-- The bytes of a stretch as an owner reads them under a right; none where a check fails or a line has an error. -/
def agentReadFor (s : State) (a : Agent) (p : Word) (n : Nat) (need : BitVec 8) : Option (List Byte) :=
  (pieces p n).foldl (fun acc e =>
    match acc, engineCheck s a e.1 need false e.2 with
    | some bs, .ok _ t => (readTarget s (dieOf a.core) a.hart t e.2).map (bs ++ ·)
    | _, _ => none) (some [])

/-- The bytes of a stretch as an owner reads them. -/
def agentRead (s : State) (a : Agent) (p : Word) (n : Nat) : Option (List Byte) := agentReadFor s a p n rightR

/-- Write bytes to a stretch as an owner does; none where a check fails. -/
def agentWrite (s : State) (a : Agent) (p : Word) (bytes : List Byte) : Option State :=
  if !agentMay s a p bytes.length rightW then none
  else
    some ((pieces p bytes.length).foldl (fun acc e =>
      match engineCheck s a e.1 rightW true e.2 with
      | .ok _ t =>
        let off := (e.1 - p).toNat
        let chunk := (bytes.drop off).take e.2
        engineWrite acc a.core a.hart t (applyPad t chunk)
      | _ => acc) s)

/-- The agent that acts for a launch on a die. DESIGN CHOICE (log entry 87): a SELF pointer among what the task dispatcher reads names the local
SRAM of the die's core 0, and no right is asked there. -/
def launchAgent (l : Launch) (die : Nat) : Agent := ⟨die * 4096, noHart, l.owner, l.tenant, l.id⟩

/-- The agent that acts for a hart on its core. -/
def hartAgent (s : State) (h : Nat) : Agent :=
  let v := getHart s h
  ⟨coreOf h, h, v.sr.own, v.sr.tenant, v.launch⟩

end Sys2Proof.Machine
end

