-- ==== Sys2Proof/Machine/Journal.lean ====
section
/-!
DEFINITION. A tenant's logical device as the device side sees it: the control region in device memory, the journal and
the completion records (R266 to R272).
-/

namespace Sys2Proof.Machine

/-- Device memory written in plaintext by a unit of the I/O die, line by line: applied to every view (R250). -/
def plainWrite (s : State) (key : Nat) (bytes : List Byte) : State :=
  (lineRuns (bytes.length / 64 + 2) (BitVec.ofNat 64 key) bytes.length).foldl (fun s e =>
    let k := e.1.toNat
    applyEverywhere s k (slice bytes (k - key) e.2) .plain) s

/-- Memory key of an offset of a tenant's logical device (R266). -/
def hdmKey (s : State) (t off : Nat) : Nat := dramBase + (getTenant s t).partBase + off

/-- A byte of device memory as a reader without keys meets it (R261), in the view of its home die (R123). -/
def plainByte (s : State) (key : Nat) : Byte :=
  let die := homeDie key
  if (lineKeyOf s die key).inst = 0 then viewByte s die key else ((lineUnder s die key .plain).getD []).getD (key % 64) 0

/-- A stretch of device memory as such a reader meets it. -/
def plainBytes (s : State) (key n : Nat) : List Byte :=
  (lineRuns (n / 64 + 2) (BitVec.ofNat 64 key) n).flatMap fun e =>
    let k := e.1.toNat
    let die := homeDie k
    slice ((lineUnder s die k .plain).getD (mapBytes (viewOf s die) (k / 64 * 64) 64)) (k % 64) e.2

/-- Bytes of the logical device. -/
def hdmRead (s : State) (t off n : Nat) : List Byte := plainBytes s (hdmKey s t off) n

/-- Bytes written to the logical device, where the tenant has one. -/
def hdmWrite (s : State) (t off : Nat) (bytes : List Byte) : State :=
  if off + bytes.length ≤ (getTenant s t).partSize then plainWrite s (hdmKey s t off) bytes else s

/-- A control-region word the device writes (Table 17.1). -/
def setControl (s : State) (t off v : Nat) : State := hdmWrite s t off (leBytes 8 v)

/-- States of a journal entry (Table 17.4). -/
def accepted : BitVec 8 := 1
def runningState : BitVec 8 := 2
def doneState : BitVec 8 := 3
def failedState : BitVec 8 := 4
def abortedState : BitVec 8 := 5

def isFinal (st : BitVec 8) : Bool := 3 ≤ st.toNat

/-- The 64 bytes of an entry (Table 17.4). -/
def JEntry.bytes (tenant : Nat) (e : JEntry) : List Byte :=
  leBytes 8 e.jseq ++ leBytes 8 e.cseq.toNat ++ [e.kind, e.state, e.reason, BitVec.ofNat 8 tenant] ++
    leBytes 4 e.detail.toNat ++ leBytes 8 e.time ++ slice e.tail 0 32

/-- Write an entry through to the journal in device memory. -/
def writeEntry (s : State) (t : Nat) (e : JEntry) : State :=
  hdmWrite s t (0x10000 + e.jseq % 1024 * 64) (e.bytes t)

/-- Whether the next journal sequence may be written: the entry it replaces is final (R270). -/
def journalFree (s : State) (t : Nat) : Bool :=
  let j := (getTenant s t).jhead + 1
  !(getTenant s t).journal.any fun e => e.jseq % 1024 = j % 1024 && !isFinal e.state

/-- Journal an entry under the next sequence of the tenant (R270). -/
def journalAdd (s : State) (t : Nat) (cseq : Word) (kind state reason : BitVec 8) (detail : BitVec 32) (tail : List Byte) :
    Nat × State :=
  let j := (getTenant s t).jhead + 1
  let e : JEntry := ⟨j, cseq, kind, state, reason, detail, s.time / 1000, tail⟩
  let s := modTenant s t fun v => { v with jhead := j, journal := v.journal.filter (·.jseq % 1024 ≠ j % 1024) ++ [e] }
  (j, setControl (writeEntry s t e) t 0x20 j)

def findEntry (s : State) (t j : Nat) : Option JEntry := (getTenant s t).journal.find? (·.jseq = j)

/-- Set the state and reason of an entry. -/
def journalSet (s : State) (t j : Nat) (state reason : BitVec 8) : State :=
  match findEntry s t j with
  | none => s
  | some e =>
    let e' := { e with state := state, reason := reason, time := s.time / 1000 }
    writeEntry (modTenant s t fun v => { v with journal := v.journal.map fun x => if x.jseq = j then e' else x }) t e'

/-- MSI-X vector 1 tells the host of an entry the device made on its own (R269, R272). -/
def sendOut (s : State) (m : OutMsg) : State := { s with sentOut := s.sentOut ++ [m] }

/-! ### The command window -/

/-- A command entry (Table 17.2) as its bytes give it. -/
def entryBytes (s : State) (t : Nat) : List Byte := hdmRead s t (0x1000 + (getTenant s t).consumed % 256 * 64) 64

/-- Whether the next entry has been written and may be taken: the window is open, nothing of it is held, the journal has room, and the
operating-service cores run (R28, R284). -/
def entryReady (s : State) (t : Nat) : Bool :=
  let v := getTenant s t
  !heldInReset s && 0x20000 ≤ v.partSize && !v.stopped && v.held = [] && numAt (entryBytes s t) 0 8 = v.consumed + 1 && journalFree s t

/-- The event that takes an entry of a kind; an unassigned kind is taken as LAUNCH is, and fails. -/
def kindEvent (kind t : Nat) : Event :=
  match kind with
  | 2 => .hostSignal t
  | 3 => .hostAbort t
  | 4 => .hostFence t
  | 5 => .hostMap t
  | 6 => .hostUnmap t
  | 7 => .proxyReply t
  | _ => .hostLaunch t

/-- A PROXY_CLOSED entry for a handle of a tenant, and MSI-X vector 1 (R272); it waits while the journal has no room (R270). -/
def noteClosed (t : Nat) (s : State) (h : Word) : State :=
  if journalFree s t then sendOut (journalAdd s t 0 0x80 doneState 0 (h.setWidth 32) (leBytes 32 0)).2 (.msix t 1)
  else modTenant s t fun x => { x with closed := x.closed ++ [h] }

/-- PROXY_CLOSED entries that waited for room are journalled. -/
def flushClosed (s : State) (t : Nat) : State :=
  (getTenant s t).closed.foldl (noteClosed t) (modTenant s t fun x => { x with closed := [] })

/-- The device reads its window: the next entry, if there is one, will be taken (R267). -/
def pollWindow (s : State) (t : Nat) : State :=
  let s := if (getTenant s t).closed = [] then s else flushClosed s t
  if entryReady s t then post s (kindEvent (numAt (entryBytes s t) 8 1) t) else s

/-- A command's entry becomes final and its completion record is owed (R269). The entry of a launch that a system call submitted owes none; it
makes room in the journal, and a window stalled for it goes on (R270). -/
def finishEntry (s : State) (t j : Nat) (state reason : BitVec 8) : State :=
  let s := journalSet s t j state reason
  match (getTenant s t).running.find? (·.2.2 = j) with
  | none => pollWindow s t
  | some (cseq, flags, _) =>
    post
      (modTenant s t fun v =>
        { v with
          running := v.running.filter (·.2.2 ≠ j)
          completions := v.completions ++ [(cseq, flags, j, state, reason)] })
      (.completionRecord t)

end Sys2Proof.Machine
end

