-- ==== Sys2Proof/Machine/Traffic.lean ====
section
/-!
DEFINITION. What goes out to the memory controllers and over the Krytuk Link: DRAM requests and their charges (R278, R279), and the flits that
a port sends (R280).
-/

namespace Sys2Proof.Machine

/-! ### Occupancy (R278, R279) -/

/-- Number of a pseudo-channel: 4,096 of HBM4E (Table 0.1), those of LPDDR-6 from 0x1000 up. -/
def channelOf (r : DramRequest) : Nat := if r.lpddr then 0x1000 + r.channel else r.channel % 0x1000

/-- Cost of a request on a channel in its present state (Table 17.5). -/
def requestCost (c : ChannelState) (r : DramRequest) : Nat :=
  let k := if r.lpddr then 2 else 1
  let burst := 2 * k
  let activate := if c.row = some r.row then 0 else if r.lpddr then 18 else 12
  let turn :=
    match c.lastWrite with
    | some w => if w = r.write then 0 else 4 * k
    | none => 0
  burst + activate + turn

/-- The set budget of a tenant on a channel. -/
def setBudget (s : State) (channel tenant : Nat) : Nat :=
  let t := getTenant s tenant
  if 0x1000 ≤ channel then t.lpddrBudget.toNat else t.hbmBudget.toNat

/-- The budget of a tenant on a pseudo-channel in this µs, less the debt carried into it; channel numbers from 0x1000 up are LPDDR-6. -/
def budgetOf (s : State) (channel tenant : Nat) : Nat := setBudget s channel tenant - mapGet 0 s.debts (16 * channel + tenant)

/-- A tenant is exhausted where its charge has reached its budget (R279). -/
def exhausted (s : State) (tenant : Nat) : Bool :=
  s.charges.any fun e => e.1 % 16 = tenant && budgetOf s (e.1 / 16) tenant ≤ e.2

/-- Whether a tenant is exhausted on one pseudo-channel. -/
def exhaustedOn (s : State) (channel tenant : Nat) : Bool :=
  s.charges.any fun e => e.1 = 16 * channel + tenant && budgetOf s channel tenant ≤ e.2

/-- What a tenant ran over its budget in the past µs, at most one budget (R279). -/
def debtOf (s : State) (key charge : Nat) : Nat :=
  min (charge - budgetOf s (key / 16) (key % 16)) (setBudget s (key / 16) (key % 16))

/-- Every budget refreshes at a µs boundary (R279): what a tenant ran over in the µs that has ended is carried into the next, and a µs without
charges leaves no debt. The parked bulk commands resume. -/
def refreshBudgets (s : State) : State :=
  let now := s.time / 1000
  if now ≤ s.budgetAt then s
  else
    let debts := if now = s.budgetAt + 1 then mapVals 0 (fun k c => debtOf s k c) s.charges else []
    postAll { s with budgetAt := now, debts := debts, charges := [] } ([0, 1, 2, 3].map .bulkChunkSelect)

/-- The request's charge, and the state in which it leaves its channel (R278): a refresh, or a request of no launch, is charged to none. The next
µs boundary will refresh the budgets. -/
def chargeRequest (s : State) (req : DramRequest) : State :=
  let s := refreshBudgets s
  let ch := channelOf req
  let cost := requestCost (mapGet .reset s.channels ch) req
  let s := { s with channels := mapPut .reset s.channels ch ⟨some req.row, some req.write⟩ }
  match req.tenant with
  | none => s
  | some t =>
    let s := { s with charges := mapMod 0 s.charges (16 * ch + t % 16) (· + cost) }
    if s.agenda.contains .budgetRefresh then s else post s .budgetRefresh

/-- Whether a request of a tenant within its budget waits on a channel. -/
def betterWaits (s : State) (ch : Nat) : Bool :=
  s.agenda.any fun e =>
    match e with
    | .dramRequestIssue r =>
      channelOf r = ch &&
        (match r.tenant with
         | some t => !exhaustedOn s ch (t % 16)
         | none => false)
    | _ => false

/-- Whether the requests of a tenant's cores and copy engines on a channel are not served now (R279). -/
def budgetHolds (s : State) (ch tenant : Nat) : Bool :=
  let s := refreshBudgets s
  betterWaits s ch && exhaustedOn s ch tenant

/-- Whether the controller puts a request off (R279): a core or copy-engine request of an exhausted tenant, while one of a tenant within
its budget waits there. -/
def putOff (s : State) (r : DramRequest) : Bool :=
  r.waiter ≠ 0 &&
    (match r.tenant with
     | some t => budgetHolds s (channelOf r) (t % 16)
     | none => false)

/-- The tenant of a launch, which its requests are charged to. -/
def chargedTenant (s : State) (launch : Nat) : Option Nat := (getLaunch s launch).map fun l => l.tenant.toNat

/-- The pseudo-channel of a line: one of the 1,024 of its die's HBM (Table 2.3), or an LPDDR-6 one. -/
def lineChannel (pa : Nat) : Nat :=
  let c := Config.dramChannel (pa / 64)
  if isLpddr pa then c else (dieOfPhys pa).getD 0 * 1024 + c % 1024

/-- The request for a line of DRAM. -/
def lineRequest (s : State) (launch key : Nat) (write : Bool) (waiter : Nat) : DramRequest :=
  let pa := key - dramBase
  ⟨lineChannel pa, Config.dramRow (pa / 64), write, chargedTenant s launch, isLpddr pa, waiter⟩

/-- The channel and tenant for which a line of DRAM is not served to a launch's core now (R279). -/
def heldFor (s : State) (launch key : Nat) : Option (Nat × Nat) :=
  if !isDram key then none
  else
    let r := lineRequest s launch key false 0
    match r.tenant with
    | some t => if budgetHolds s (channelOf r) (t % 16) then some (channelOf r, t % 16) else none
    | none => none

/-- What holds back the first of some lines. -/
def linesHeld (s : State) (launch : Nat) (keys : List Nat) : Option (Nat × Nat) := keys.findSome? (heldFor s launch)

/-- A line of DRAM is requested for an operation or engine command, which waits for it. -/
def askLine (launch waiter : Nat) (write : Bool) (s : State) (key : Nat) : State :=
  if isDram key then post s (.dramRequestIssue (lineRequest s launch key write waiter)) else s

/-- A line of DRAM is requested by what does not wait for it, or what no budget defers. -/
def chargeLine (launch : Nat) (write : Bool) (s : State) (key : Nat) : State :=
  if isDram key then chargeRequest s (lineRequest s launch key write 0) else s

/-- Whether requests of an operation or command are still to be issued. -/
def lineWaits (s : State) (waiter : Nat) : Bool :=
  s.agenda.any fun e =>
    match e with
    | .dramRequestIssue r => r.waiter = waiter
    | _ => false

/-- Lines of DRAM are requested, each to be read or written. -/
def askLines (launch waiter : Nat) (ks : List (Nat × Bool)) (s : State) : State :=
  ks.foldl (fun s k => askLine launch waiter k.2 s k.1) s

/-- First keys of the lines of some targets, each once. -/
def lineKeysOf (ts : List Target) : List Nat :=
  ts.foldl (fun acc t => if acc.any fun k => k / 64 = t.key / 64 then acc else acc ++ [t.key]) []

/-! ### Flits sent (R280) -/

/-- One byte of a CRC-64 with the polynomial of R280, most significant bit first, from 0. -/
def crc64Byte (c : Word) (b : Byte) : Word :=
  (List.range 8).foldl (fun c _ => if c.msb then (c <<< 1) ^^^ 0x42F0E1EBA9EA3693 else c <<< 1)
    (c ^^^ ((b.setWidth 64 : Word) <<< 56))

def crc64 (bs : List Byte) : Word := bs.foldl crc64Byte 0

/-- The 256 bytes of a flit: header, fifteen slots, zeros, CRC. -/
def flitBytes (seq acked credits : Nat) (slots : List Byte) : List Byte :=
  let body := leBytes 4 (seq % 4096 + 4096 * (acked % 4096) + 2 ^ 24 * (credits % 256)) ++
    (slots ++ List.replicate 240 0).take 240 ++ leBytes 4 0
  body ++ leBytes 8 (crc64 body).toNat

/-- A port sends a flit: the next in sequence, with what it has to acknowledge and the credits it returns; the flit is kept until it is
acknowledged. -/
def sendFlit (s : State) (port : Nat) (slots : List Byte) : State :=
  let p := mapGet .reset s.ports port
  let f := flitBytes p.next (p.expected + 4095) p.owed slots
  { s with
    ports := mapPut .reset s.ports port { p with next := (p.next + 1) % 4096, buffer := p.buffer ++ [(p.next, f)], owed := 0 }
    sentOut := s.sentOut ++ [.flit port f] }

/-- The head slot of a request (R280). DESIGN CHOICE (log entry 14): of the layout the spec gives only the slot's size and what it carries. Bytes
0–3 are the sender's HID, 4–5 its OWN, byte 6 holds the group tenant and the low bits of the detail, byte 7 the range tag, bytes 8–14 the
address, byte 15 the kind and the high bits of the detail. -/
def slotHead (hid : BitVec 32) (own : BitVec 16) (group tag kind detail addr : Nat) : List Byte :=
  leBytes 4 hid.toNat ++ leBytes 2 own.toNat ++ [BitVec.ofNat 8 (group % 64 + 64 * (detail % 4)), BitVec.ofNat 8 tag] ++ leBytes 7 addr ++
    [BitVec.ofNat 8 (kind % 8 + 8 * (detail / 4 % 32))]

/-- Data in the slots after it, 16 bytes in each. -/
def dataSlots (bs : List Byte) : List Byte := bs ++ List.replicate ((16 - bs.length % 16) % 16) 0

/-- What a device asks of a peer (R280, R281). -/
inductive PeerAsk
  | read (n : Nat)
  | write (data : List Byte)
  | amo (a : AmoArgs)
  | msend (target : BitVec 32) (n : BitVec 4) (arg : Word) (op : Nat)
  /-- A window-accumulator operation, which R280 counts among the atomics or not at all (log entry 14): its code and operands. -/
  | wacc (code : Nat) (lo hi : Word)
  deriving DecidableEq, Repr

/-- Code of an atomic in a request. -/
def amoCode : AmoOp → Nat
  | .add => 0
  | .and => 1
  | .or => 2
  | .xor => 3
  | .min => 4
  | .max => 5
  | .minu => 6
  | .maxu => 7
  | .swap => 8
  | .cas => 9
  | .fadd => 10

/-- The slots of a request. -/
def askSlots (hid : BitVec 32) (own : BitVec 16) (group tag addr : Nat) : PeerAsk → List Byte
  | .read n => slotHead hid own group tag 1 (n - 1) addr
  | .write bs => slotHead hid own group tag 2 (bs.length - 1) addr ++ dataSlots bs
  | .amo a =>
    slotHead hid own group tag 3 (amoCode a.op + if a.sz = .w then 0 else 16) addr ++ leBytes 8 a.v.toNat ++ leBytes 8 a.swap.toNat
  | .msend target n arg op =>
    slotHead hid own group tag 4 0 (target.toNat + n.toNat * 2 ^ 32 + op % 2 ^ 20 * 2 ^ 36) ++ dataSlots (leBytes 8 arg.toNat)
  | .wacc code lo hi => slotHead hid own group tag 3 (64 + code) addr ++ leBytes 8 lo.toNat ++ leBytes 8 hi.toNat

/-- The slots of a response: the number of what it answers, its status and its data. -/
def answerSlots (number : Nat) (status : BitVec 8) (data : List Byte) : List Byte :=
  slotHead 0 0 0 0 6 data.length (number % 2 ^ 48 + status.toNat * 2 ^ 48) ++ dataSlots data

/-- An answer to a peer leaves by the port its request came through, in a flit. -/
def sendAnswer (s : State) (port number : Nat) (status : BitVec 8) (data : List Byte) : State :=
  sendFlit { s with sentOut := s.sentOut ++ [.linkResponse port status data] } port (answerSlots number status data)

/-- The device that a key outside this one names. -/
def deviceOf (key : Nat) : Nat := (key / outerBase - 1) % 256

/-- The HID that a request carries: that of the hart it is made for, or of context 0 of the core that a unit acts at. -/
def senderHid (s : State) (a : Agent) : BitVec 32 := hidOf s (if noHart ≤ a.hart then hartKey a.core 0 else a.hart)

/-- Tag of the range that an address lies in. -/
def rangeTag (s : State) (va : Nat) : Nat :=
  match rangeAt s va with
  | some r => r.tag.toNat
  | none => 0

/-- A request over the link for a target on a peer (R281), in a flit. -/
def sendPeer (a : Agent) (q : PeerAsk) (s : State) (t : Target) : State :=
  if t.route = 1 then
    sendFlit s (Config.portOf (deviceOf t.key) % 16)
      (askSlots (senderHid s a) a.own (Config.groupTenant a.tenant.toNat) (rangeTag s t.va) (t.key % outerBase) q)
  else s

/-- What is sent out for a line that its unit does not wait for. -/
def sendLine (a : Agent) (q : PeerAsk) (write : Bool) (s : State) (t : Target) : State :=
  sendPeer a q (chargeLine a.launch write s t.key) t

/-- The whole line of a target. -/
def wholeLine (t : Target) : Target := { t with va := t.va / 64 * 64, key := t.key / 64 * 64 }

/-- What a load asks a peer for: the line, where a cache keeps it, or its bytes. -/
def askRead (n : Nat) (t : Target) : Target × PeerAsk := if t.cached then (wholeLine t, .read 64) else (t, .read n)

/-- What an access sends out: a request over the link where its line lies on a peer (R281), and one to its controller where it lies in
DRAM. -/
def sendAccess (waiter : Nat) (a : Agent) (write : Bool) (qs : List (Target × PeerAsk)) (s : State) : State :=
  let s := (lineKeysOf (qs.map (·.1))).foldl (askLine a.launch waiter write) s
  qs.foldl (fun s q => sendPeer a q.2 s q.1) s

/-- Lines of code or data that a core reads without waiting for them. -/
def sendReads (a : Agent) (s : State) (ts : List Target) : State :=
  ts.foldl (fun s t => sendLine a (.read 64) false s (wholeLine t)) s

/-! ### Page walks and the dispatcher (R278) -/

/-- Keys of the entries that the native walk of an address reads below the root. -/
def walkKeysFrom (s : State) (die va : Nat) : Nat → Nat → List Nat
  | 0, table => [dramBase + entryAt table 0 va]
  | n + 1, table =>
    let e := entryAt table (n + 1) va
    (dramBase + e) ::
      (match readEntry (n + 1) va (physWord s die e) with
       | .table next _ => walkKeysFrom s die va n next
       | _ => [])

/-- Keys of the entries that a walk reads. -/
def walkKeys (s : State) (die va : Nat) : List Nat :=
  let e := entryAt (ptrootOf s die).toNat 3 va
  (dramBase + e) ::
    (match readEntry 3 va (physWord s die e) with
     | .table next routine => if routine = 0 then walkKeysFrom s die va 2 next else []
     | _ => [])

/-- The requests of a page walk made for a launch. -/
def chargeWalk (launch die va : Nat) (s : State) : State := (walkKeys s die va).foldl (chargeLine launch false) s

/-- Those of the walk that an access of a unit makes where no TLB holds its page. -/
def chargeMiss (a : Agent) (p : Word) (s : State) : State :=
  if regionOf (addrOf p) = .translated && (tlbFind s a.core (addrOf p)).isNone then chargeWalk a.launch (dieOf a.core) (addrOf p) s else s

/-- The requests of a unit for a line: its walk, and the line itself. -/
def sendUnit (a : Agent) (q : PeerAsk) (write : Bool) (s : State) (t : Target) : State :=
  sendLine a q write (chargeMiss a (BitVec.ofNat 64 t.va) s) t

/-- The requests of a stretch that a unit reads for a launch. -/
def chargeAgent (a : Agent) (p : Word) (n : Nat) (s : State) : State :=
  (pieces p n).foldl (fun s e =>
    match engineCheck s a e.1 rightR false e.2 with
    | .ok _ t => sendUnit a (.read e.2) false s t
    | _ => s) s

end Sys2Proof.Machine
end

