-- ==== Sys2Proof/Machine/Launch.lean ====
section
/-!
DEFINITION. Launches and nodes: the instances a launch binds (R36), node descriptors and their checks (Table 3.5, R41), how a
node becomes ready (R40, R66), the ready pools (R61), completion (R44), and how a launch or a hart ends (R41, R45, R46).
-/

namespace Sys2Proof.Machine

/-! ### Instances -/

/-- Cores of one instance of a domain (Table 2.1); a hart counts as its core. -/
def domainCores : Scope → Nat
  | .hart => 1
  | .core => 1
  | .clus => 16
  | .dist => 256
  | .die => 4096
  | .pkg => 16384
  | .sys => 16384

/-- Whether a cluster is set aside for the operating services (R27). -/
def isOsCluster (s : State) (c : Nat) : Bool := s.firmware.osMask.contains c

/-- Interrupts are pending in the contexts of the operating-service cores of some dies (R326). DESIGN CHOICE (log entry 11): in every one of
them. -/
def raiseOs (bits : BitVec 8) (dies : Nat → Bool) (s : State) : State :=
  { s with
    harts := mapVals .reset (fun h v =>
      if dies (dieOfHart h) && isOsCluster s (clusOf (coreOf h)) && decide (v.tenure = .running) && !isHandler h then
        { v with ipend := v.ipend ||| bits }
      else v) s.harts }

/-- EXTERNAL, for an event of the I/O die (R326, log entry 11). -/
def raiseExternal (s : State) : State := raiseOs 0x10 (fun _ => true) s

/-- Whether `n` cores from `c` up lie wholly in operating-service clusters. -/
def allOs (s : State) (c n : Nat) : Bool :=
  (List.range ((n + 15) / 16)).all fun i => isOsCluster s (clusOf c + i)

/-- A stretch of cores: its first core and their number. -/
abbrev Inst := Nat × Nat

/-- The instances of a domain inside a stretch that may be bound, in ascending index (R36). -/
def instancesIn (s : State) (d : Scope) (p : Inst) : List Inst :=
  let n := domainCores d
  ((List.range (p.2 / n)).map fun i => (p.1 + i * n, n)).filter fun e => !allOs s e.1 e.2

/-- Which `n` of several instances a launch takes: the spec leaves the choice open, so the order of preference is a free choice; those taken
keep their ascending order, in which they are numbered (R36). -/
def takeInstances (launch n : Nat) (l : List Inst) : List Inst :=
  if l.length ≤ n then l
  else
    let best := (sortBy (fun a b : Inst => Config.place launch a.2 a.1 ≤ Config.place launch b.2 b.1) l).take n
    l.filter best.contains

/-- Instances bound by a level below stretches already bound. For harts each core counts EXTENT times. -/
def bindLevel (s : State) (launch : Nat) (ps : List Inst) (l : Level) : List Inst :=
  match l.domain with
  | .hart => ps.flatMap fun p => (instancesIn s .core p).flatMap fun c => List.replicate l.extent c
  | d => ps.flatMap fun p => takeInstances launch l.extent (instancesIn s d p)

/-- The stretch a launch starts from; one core where its only level is harts (R36). -/
def topInst (s : State) (launch : Nat) (levels : List Level) : List Inst :=
  match levels with
  | [l] => if l.domain = .hart then takeInstances launch 1 (instancesIn s .core (0, 16384)) else [(0, 16384)]
  | _ => [(0, 16384)]

/-- The instances of level `i`, counted within the launch (Table 3.5, BFIRST). -/
def levelInstances (s : State) (launch : Nat) (levels : List Level) (i : Nat) : List Inst :=
  (levels.drop i).reverse.foldl (bindLevel s launch) (topInst s launch levels)

/-- The cores bound below an instance of level `i`. -/
def coresBelow (s : State) (launch : Nat) (levels : List Level) (i : Nat) (p : Inst) : List Nat :=
  let low := ((levels.take i).filter fun l => decide (l.domain ≠ .hart)).reverse
  (low.foldl (bindLevel s launch) [p]).flatMap fun e => (instancesIn s .core e).map (·.1)

/-- Harts on each core: the extent of a hart level, else 1 (R42). -/
def hartsPerCore (levels : List Level) : Nat :=
  match levels with
  | l :: _ => if l.domain = .hart then l.extent else 1
  | [] => 1

/-- Add to the count of a core. -/
def addStart (l : List (Nat × Nat)) (c n : Nat) : List (Nat × Nat) :=
  if l.any (·.1 = c) then l.map fun e => if e.1 = c then (c, e.2 + n) else e else l ++ [(c, n)]

/-- The harts a node starts: core and count (R42). DESIGN CHOICE (log entry 64): a node bound at a level of harts starts, on each core, the
harts that it binds there, which R42 does not tell apart from the level's EXTENT. -/
def nodeStarts (s : State) (l : Launch) (n : Node) : List (Nat × Nat) :=
  let bound := ((levelInstances s l.id l.levels n.level).drop n.bfirst).take n.bcount
  match l.levels[n.level]? with
  | some v =>
    if v.domain = .hart then bound.foldl (fun acc p => addStart acc p.1 1) []
    else (bound.flatMap (coresBelow s l.id l.levels n.level)).foldl (fun acc c => addStart acc c (hartsPerCore l.levels)) []
  | none => []

/-- Every core that a launch binds: those below the instances of its outermost level (R36). -/
def launchCores (s : State) (l : Launch) : List Nat :=
  let top := l.levels.length - 1
  let all := (levelInstances s l.id l.levels top).flatMap (coresBelow s l.id l.levels top)
  all.foldl (fun acc c => if acc.contains c then acc else acc ++ [c]) []

/-- The clusters a node binds. -/
def nodeClusters (s : State) (l : Launch) (n : Node) : List Nat :=
  ((nodeStarts s l n).map fun e => clusOf e.1).foldl (fun acc c => if acc.contains c then acc else acc ++ [c]) []

/-! ### Node descriptors -/

/-- A descriptor as Table 3.5 lays it out. -/
def parseNode (b : List Byte) : Node :=
  { entry := leWord (slice b 0 8)
    sx := numAt b 8 4, sy := numAt b 12 4, sz := numAt b 16 4
    tw := numAt b 20 2, th := numAt b 22 2
    prio := numAt b 25 1 % 8, early := bit (numAt b 25 1) 3
    level := numAt b 26 1, noper := numAt b 27 1
    preds := numAt b 28 2, nsucc := numAt b 30 2
    succ := leWord (slice b 32 8), args := leWord (slice b 40 8)
    bfirst := numAt b 48 4, bcount := numAt b 52 4
    waitctr := BitVec.ofNat 16 (numAt b 56 2), waitval := leWord (slice b 64 8)
    opers := (List.range 8).map fun i => BitVec.ofNat 32 (numAt b (96 + 4 * i) 4)
    reservedOk := numAt b 24 1 = 0 && numAt b 25 1 < 16 && numAt b 58 6 = 0 && numAt b 72 24 = 0
    remaining := numAt b 28 2, undispatched := numAt b 28 2
    phase := .waiting, cursor := 0, finished := 0, bound := [], stamp := .zero, acqScope := .hart }

/-- Whether a counter identifier names a counter (R68). -/
def counterId (id : BitVec 16) : Bool := id.toNat < 0x4000

/-- The tenant that owns a counter, if any (R68). -/
def counterOf (s : State) (id : Nat) : Option Nat :=
  let o := mapGet 0 s.counterOwner id
  if o = 0 then none else some (o - 1)

def ownsCounter (s : State) (id : BitVec 16) (t : BitVec 4) : Bool :=
  counterId id && decide (counterOf s id.toNat = some t.toNat)

/-- Value of a counter (R68). -/
def counterValue (s : State) (id : Nat) : Word := mapGet 0 s.counters id

def dimOk (n : Nat) : Bool := 1 ≤ n && n ≤ 0x80000000

/-- An operand names a tensor valid for the tenant and an access mode (Table 3.5). -/
def operOk (s : State) (t : BitVec 4) (o : BitVec 32) : Bool :=
  let mode := (o.extractLsb' 16 2).toNat
  mode ≠ 0 && decide (o.extractLsb' 18 14 = 0) &&
    (match getTensor s (o.extractLsb' 0 16).toNat with
     | some r => r.valid && decide (r.tenant = t) && decide (o.extractLsb' 0 16 ≠ 0)
     | none => false)

/-- The node check (R41). DESIGN CHOICE (log entry 65): of the operand entries only the NOPER in use are checked, and a WAITCTR that is no
counter of the tenant fails the check once the counter test has passed. -/
def nodeCheck (s : State) (l : Launch) (n : Node) : Bool :=
  let a := launchAgent l 0
  l.image.toNat ≤ n.entry.toNat && n.entry.toNat < l.image.toNat + l.imageLen && n.entry.toNat % 2 = 0 &&
  dimOk n.sx && dimOk n.sy && dimOk n.sz && 1 ≤ n.tw && 1 ≤ n.th && n.reservedOk &&
  n.level < l.levels.length && n.noper ≤ 8 && 1 ≤ n.bcount &&
  n.bfirst + n.bcount ≤ (levelInstances s l.id l.levels n.level).length &&
  n.args.toNat % 64 = 0 &&
  (decide (n.waitctr = 0xFFFF) || ownsCounter s n.waitctr l.tenant) &&
  (n.opers.take n.noper).all (operOk s l.tenant) &&
  agentMay s a n.succ (n.nsucc * 4) rightR && agentMay s a n.args 64 rightR

/-- Sub-tiles of a node (R43). -/
def ceilDiv (a b : Nat) : Nat := (a + b - 1) / b
def Node.tilesX (n : Node) : Nat := ceilDiv n.sx n.tw
def Node.tilesY (n : Node) : Nat := ceilDiv n.sy n.th
def Node.total (n : Node) : Nat := n.tilesX * n.tilesY * n.sz

/-- The scope of a node's level (R44). -/
def nodeScope (l : Launch) (n : Node) : Scope :=
  match l.levels[n.level]? with
  | some v => v.scope
  | none => .hart

/-! ### Free contexts -/

/-- A context is free: its claimants may take it (R85). -/
def offerContext (s : State) (core ctx : Nat) : State := postAll s [.hartResume core ctx, .hartStart core ctx]

/-- Offer every free context of a cluster. -/
def offerCluster (s : State) (clus : Nat) : State :=
  (List.range 128).foldl (fun s i =>
    let core := clus * 16 + i / 8
    if (getHart s (hartKey core (i % 8))).tenure = .free then offerContext s core (i % 8) else s) s

/-! ### The end of a launch -/

/-- Whether a hart waits for the reply to an operation that it has itself sent, which no stop interrupts (R77). -/
def replyWait : Option Wait → Bool
  | some (.reply _) => true
  | some .rights => true
  | some .tensor => true
  | some .service => true
  | _ => false

/-- Zero bank `j` of a core and power it down (R13). -/
def powerDown (s : State) (core j : Nat) : State :=
  modCore (zeroKeys s (localOf core + j * 0x4000) 0x4000) core fun c => { c with banks := c.banks &&& ~~~(BitVec.twoPow 8 j) }

/-- A loan ends: the lender's context is free again with its bank powered down (R46). -/
def endLoan (s : State) (core j : Nat) : State :=
  offerContext (setHart (powerDown s core j) (hartKey core j)
    { Hart.reset with gen := (getHart s (hartKey core j)).gen }) core j

/-- A faulted command ends abandoned: it releases, posts its record and completes its tag (R234, R236). -/
def abandonCmd (s : State) (core tag : Nat) : State :=
  post
    (modCore s core fun c =>
      { c with
        copyQ := c.copyQ.filter (· ≠ tag)
        cmds := c.cmds.map fun m => if m.tag = tag then { m with state := .moved, abandoned := true } else m })
    (.engineCommandComplete core tag)

/-- Tags of the faulted commands of a hart. -/
def faultedTags (c : Core) (h : Nat) (gen : BitVec 8) : List Nat :=
  (c.cmds.filter fun m => m.hart = h && decide (m.gen = gen) &&
    (match m.state with
     | .faulted _ => true
     | _ => false)).map (·.tag)

/-- Take a hart out of everything it waits in: queue registers, barriers, the line of callers of its die's ring (R105, R275, R339). -/
def leaveWaits (s : State) (h : Nat) : State :=
  let core := coreOf h
  let ctx := ctxOf h
  let s := modCore s core fun c =>
    { c with pushers := c.pushers.filter (·.2 ≠ ctx), poppers := c.poppers.filter (·.2 ≠ ctx) }
  { s with
    barriers := s.barriers.map fun b => { b with arrived := b.arrived.filter (· ≠ h) }
    dies := mapVals .reset (fun _ d => { d with ringWait := d.ringWait.filter (· ≠ h) }) s.dies }

/-- Instance of a scope that a core lies in. -/
def instanceOf (core : Nat) (sc : Scope) : Nat := core / domainCores sc

/-- Harts of a node that take part in a barrier: started and not halted, the saved ones too (R339). -/
def participants (s : State) (b : Barrier) : Nat :=
  let member := fun (core launch node : Nat) => launch = b.launch && node = b.node && instanceOf core b.scope = b.inst
  (s.harts.filter fun e =>
    decide (e.2.tenure = .running) && !isHandler e.1 && member (coreOf e.1) e.2.launch e.2.sr.node.toNat).length +
  (s.saves.filter fun v => member v.core v.launch v.sr.node.toNat).length

/-- The members of a complete episode depart: each acquires and goes on (R339). -/
def depart (sc : Scope) (s : State) (h : Nat) : State :=
  modHart (acquireAt s (coreOf h) sc) h (retireHart 4)

/-- Complete every barrier episode whose arrivals equal its participants (R339). -/
def settleBarriers (s : State) : State :=
  s.barriers.foldl (fun s b =>
    if b.arrived ≠ [] && b.arrived.length = participants s b && viewSettled s b.stamp then
      b.arrived.foldl (depart b.scope) { s with barriers := s.barriers.filter (· ≠ b) }
    else s) { s with barriers := s.barriers.filter (·.arrived ≠ []) }

/-- Row within which a core rotates, none outside split mode. -/
def ringRow (s : State) (core : Nat) : Option Nat := if (getCore s core).slice.split then some (rowOf core) else none

/-- The members of the round that a hart is in: the first arrival of each core of its launch and ring. -/
def ringMembers (s : State) (h : Nat) : List (Nat × Word × Word) :=
  let c := getCluster s (clusOf (coreOf h))
  let mine := c.rings.filter fun e =>
    (getHart s e.1).launch = (getHart s h).launch && decide (ringRow s (coreOf e.1) = ringRow s (coreOf h)) &&
      (match ringRow s (coreOf h) with
       | some r => decide (rowOf (coreOf e.1) = r)
       | none => true)
  mine.foldl (fun acc e => if acc.any fun m => coreOf m.1 = coreOf e.1 then acc else acc ++ [e]) []

/-- Whether a gathering still lacks the member that the core of a hart is to send. DEDUCED (log entry 26): a hart of the launch on such a core is
a member of the gang. -/
def lacksCore (s : State) (h : Nat) (g : Gathering) : Bool :=
  decide (g.launch = (getHart s h).launch) && (g.wide || g.row = rowOf (coreOf h)) && !g.members.any fun m => coreOf m.hart = coreOf h

/-- Cancel the gatherings and the ring round that a hart is a member of: with `w` to wait for, every member leaves its GANG or CROT, at which it
stands again. A hart that is stopped cancels those as well that still lack its core (R82, R103). -/
def cancelGatherings (s : State) (h : Nat) (w : Option Wait) : State :=
  let back := fun (s : State) (m : Nat) => modHart s m fun v =>
    { v with wait := w, pc := trapPc v, unit := none }
  let c := getCluster s (clusOf (coreOf h))
  let hit := c.gatherings.filter fun g => g.members.any (·.hart = h) || (w.isSome && lacksCore s h g)
  let ring := (ringMembers s h).map (·.1)
  let left :=
    if ring.contains h || (w.isSome && !ring.any fun m => coreOf m = coreOf h) then ring
    else (c.rings.map (·.1)).filter (· = h)
  let s := modCluster s (clusOf (coreOf h)) fun c =>
    { c with
      gatherings := c.gatherings.filter fun g => !hit.contains g
      rings := c.rings.filter fun e => !left.contains e.1 }
  left.foldl back ((hit.flatMap fun g => g.members.map (·.hart)).foldl back s)

/-! ### Slices -/

/-- Key of a tenant's slice on the cluster of a core: counted by core row in split matrix mode (R75). -/
def sliceKey (s : State) (core tenant : Nat) : Nat :=
  2 * tenant + if (getCore s core).slice.split then rowOf core else 0

def sliceAt (s : State) (clus key : Nat) : SliceState := mapGet .reset (getCluster s clus).slices key

def setSlice (s : State) (clus key : Nat) (v : SliceState) : State :=
  modCluster s clus fun c => { c with slices := mapPut .reset c.slices key v }

/-- The slice that a hart runs under. -/
def sliceOf (s : State) (core tenant : Nat) : SliceState := sliceAt s (clusOf core) (sliceKey s core tenant)

/-- Running harts of a tenant that a slice of a cluster counts. -/
def sliceHarts (s : State) (clus key : Nat) : List Nat :=
  (s.harts.filter fun e =>
    decide (e.2.tenure = .running) && !isHandler e.1 && e.2.launch ≠ 0 && clusOf (coreOf e.1) = clus &&
      sliceKey s (coreOf e.1) e.2.sr.tenant.toNat = key).map (·.1)

/-- For how long the tenant's harts have held contexts in a slice (R75). -/
def SliceState.heldFor (v : SliceState) (now : Nat) : Nat :=
  v.used +
    (match v.since with
     | some t => now - t
     | none => 0)

/-- The time of a slice stands still. -/
def SliceState.pause (v : SliceState) (now : Nat) : SliceState := { v with used := v.heldFor now, since := none }

/-- Once no hart of a slice holds a context, its time stands still. -/
def pauseSlice (s : State) (clus key : Nat) : State :=
  if (sliceHarts s clus key).isEmpty then setSlice s clus key ((sliceAt s clus key).pause s.time) else s

/-- Every slice's time stands still during a handover, and goes on after it for those whose harts hold contexts (R75, R288). -/
def pauseSlices (s : State) : State :=
  { s with
    clusters := mapVals .reset (fun _ c => { c with slices := mapVals .reset (fun _ v => v.pause s.time) c.slices }) s.clusters }

def resumeSlices (s : State) : State :=
  { s with
    clusters := mapVals .reset (fun clus c =>
      { c with
        slices := mapVals .reset (fun key v =>
          if v.held && v.ended.isNone && v.since.isNone && !(sliceHarts s clus key).isEmpty then { v with since := some s.time } else v)
          c.slices }) s.clusters }

def setPreempt (p : Preempt) (s : State) (h : Nat) : State := modHart s h fun v => { v with preempt := p }

/-- From when a slice's harts hold contexts: its time stands still during a handover (R288). -/
def sliceSince (s : State) : Option Nat := if s.firmware.quiesced then none else some s.time

/-- A hart of a tenant takes a context of a core. A new slice begins where the tenant holds none there or its slice has ended, and then
the pre-emption request is withdrawn (R75, R76); the time of a slice that none of the tenant's harts held a context in goes on. -/
def takeSlice (s : State) (core tenant : Nat) : State :=
  let clus := clusOf core
  let key := sliceKey s core tenant
  let v := sliceAt s clus key
  let fresh := !v.held || v.ended.isSome
  let s := if fresh then (sliceHarts s clus key).foldl (setPreempt .none) s else s
  let w : SliceState :=
    if fresh then ⟨true, 0, sliceSince s, none, false, none⟩ else if v.since.isNone then { v with since := sliceSince s } else v
  postOnce (setSlice s clus key w) (.sliceEnd clus tenant (key % 2))

/-- The slice that a running hart falls under once its core's rows are counted apart, or together again (R75): it counts from now on, and a
request that the slice has made holds for the hart too. -/
def enterSlice (s : State) (h : Nat) : State :=
  let core := coreOf h
  let tenant := (getHart s h).sr.tenant.toNat
  let key := sliceKey s core tenant
  let v := sliceAt s (clusOf core) key
  if !v.held then
    postOnce (setSlice s (clusOf core) key ⟨true, 0, sliceSince s, none, false, none⟩) (.sliceEnd (clusOf core) tenant (key % 2))
  else if v.ended.isSome then
    if (getHart s h).preempt = .none then setPreempt (if v.overdue then .overdue 0 else .ended) s h else s
  else if v.since.isNone && !s.firmware.quiesced then setSlice s (clusOf core) key { v with since := some s.time }
  else s

/-- The time of the slice that a tenant's harts have left stands still. -/
def leaveSlice (s : State) (clus key : Nat) : State := if (sliceAt s clus key).since.isSome then pauseSlice s clus key else s

/-- The slices of a core's running harts follow the split of its slice (R75). -/
def keepSlices (s : State) (core : Nat) : State :=
  (List.range 8).foldl (fun s j =>
    let h := hartKey core j
    let v := getHart s h
    if v.tenure ≠ .running || v.launch = 0 then s
    else
      let t := v.sr.tenant.toNat
      leaveSlice (leaveSlice (enterSlice s h) (clusOf core) (2 * t)) (clusOf core) (2 * t + 1)) s

/-- A context is given up (R355): fault queue, interrupts and latch discarded, GEN incremented. With a borrower its bank and
the banks it holds pass to the borrower; otherwise they are powered down (R46). -/
def freeContext (s : State) (h : Nat) (borrower : Option Nat) (keepLoans : Bool) : State :=
  let v := getHart s h
  let core := coreOf h
  let ctx := ctxOf h
  let s := leaveWaits (cancelGatherings s h none) h
  let gone : Hart := { Hart.reset with gen := v.gen + 1 }
  let s :=
    match borrower with
    | some b =>
      modHart (setHart s h { gone with tenure := .lent, launch := v.launch }) b fun w => { w with loans := w.loans ++ ctx :: v.loans }
    | none =>
      let s := offerContext (setHart (powerDown s core ctx) h gone) core ctx
      if keepLoans then s else v.loans.foldl (fun s j => endLoan s core j) s
  let s := if v.launch = 0 then s else pauseSlice s (clusOf core) (sliceKey s core v.sr.tenant.toNat)
  noteEmpty (settleBarriers s) (clusOf core)

/-- A hart of a launch that has ended stops for good, without a save (R41): its context and the banks that it held stay with the launch until its
world is scrubbed (Table 16.4). -/
def killHart (s : State) (h : Nat) : State :=
  let v := getHart s h
  let core := coreOf h
  let s := (faultedTags (getCore s core) h v.gen).foldl (fun s t => abandonCmd s core t) s
  let s := leaveWaits (cancelGatherings s h none) h
  let s := setHart s h { Hart.reset with gen := v.gen + 1, tenure := .lent, launch := v.launch }
  settleBarriers (pauseSlice s (clusOf core) (sliceKey s core v.sr.tenant.toNat))

/-- The contexts that a launch holds without a hart: those whose banks are on loan (R46), and those of harts stopped for good. -/
def heldContexts (s : State) (l : Nat) : List Nat :=
  (s.harts.filter fun e => decide (e.2.tenure = .lent) && decide (e.2.launch = l) && !isHandler e.1).map (·.1)

/-- Whether a launch has ended or is retiring, so that messages to its harts bounce (R259). -/
def retiring (s : State) (launch : Nat) : Bool :=
  match getLaunch s launch with
  | some l => decide (l.phase ≠ .running)
  | none => false

/-- Harts of a launch that run in a context. -/
def launchHarts (s : State) (l : Nat) : List Nat :=
  (s.harts.filter fun e => decide (e.2.launch = l) && decide (e.2.tenure = .running) && !isHandler e.1).map (·.1)

/-- A launch ends as R41 describes: nothing of it starts any more, its saved harts are discarded, its gatherings and rotations are
cancelled, its running harts stop at their next boundary (`killDue`), its journal entry becomes final, and its world retires. -/
def endLaunch (s : State) (l : Nat) (final reason : BitVec 8) : State :=
  match getLaunch s l with
  | none => s
  | some v =>
    if v.phase ≠ .running then s
    else
      let s := modLaunch s l fun v => { v with phase := .ending, final := final.toNat, reason := reason.toNat }
      let s := { s with saves := s.saves.filter (·.launch ≠ l) }
      let s := { s with dies := mapVals .reset (fun _ d => { d with pool := d.pool.filter (·.launch ≠ l) }) s.dies }
      let s := (launchHarts s l).foldl (fun s h => cancelGatherings s h none) s
      post (finishEntry s v.tenant.toNat v.seq.toNat final reason) (.worldRetire l)

/-! ### Readiness -/

/-- Effective priority (R40). -/
def effPrio (l : Launch) (n : Node) : Nat := min n.prio l.prio

/-- A ready node stands in the pool of each die whose clusters it binds (R61). -/
def enterPool (s : State) (l : Launch) (id : Nat) (n : Node) (isLocal : Bool) : State :=
  let cs := nodeClusters s l n
  let s := [0, 1, 2, 3].foldl (fun s d =>
    let mine := cs.filter fun c => c / 256 = d
    if mine = [] then s
    else
      post (modDie s d fun v =>
        { v with
          pool := v.pool ++ [⟨l.id, id, l.tenant.toNat, effPrio l n, s.time, s.time, mine, isLocal⟩] }) (.nodeAging d)) s
  postAll s (cs.map fun c => .dispatchArbitration c)

/-- Every predecessor has completed (or, with EARLY, is dispatch-complete) and the counter has reached its value (R40, R56). -/
def nodeDue (s : State) (n : Node) : Bool :=
  (if n.early then n.undispatched = 0 else n.remaining = 0) &&
    (decide (n.waitctr = 0xFFFF) || decide (n.waitval.toNat ≤ (counterValue s n.waitctr.toNat).toNat))

/-- The writes released into a node's WAITCTR, which its counter test acquires (R40, R70, R72). -/
def ctrStamp (s : State) (n : Node) : Stamp := if n.waitctr = 0xFFFF then .zero else mapGet .zero s.counterStamp n.waitctr.toNat

/-- A node that is due is checked and enters the pools; a node that fails the check ends its launch (R41). -/
def readyNode (s : State) (l id : Nat) (isLocal : Bool) : State :=
  match getLaunch s l with
  | none => s
  | some v =>
    match getNode v id with
    | none => s
    | some n =>
      if v.phase ≠ .running || n.phase ≠ .waiting || !nodeDue s n then s
      else if !nodeCheck s v n then endLaunch s l failedState 0x07
      else
        let s := modNode s l id fun n => { n with phase := .ready, bound := nodeClusters s v n, stamp := n.stamp.join (ctrStamp s n) }
        enterPool s v id n (isLocal && decide ((nodeClusters s v n).length = 1))

/-- Test every waiting node of a launch. -/
def readyNodes (s : State) (l : Nat) : State :=
  match getLaunch s l with
  | none => s
  | some v => (mapKeys v.nodes).foldl (fun s id => readyNode s l id false) s

/-- A hart that waits for a counter: the first value that meets its target is the one it returns with (R70); where the counter is no longer its
tenant's, it executes again. -/
def testWaiter (s : State) (id : Nat) (v : Hart) : Hart :=
  match v.wait with
  | some (.counter i t) =>
    if i ≠ id then v
    else if counterOf s id ≠ some v.sr.tenant.toNat then { v with wait := none }
    else if v.met.isNone && t.toNat ≤ (counterValue s id).toNat then
      { v with met := some (.counter id (counterValue s id) (mapGet .zero s.counterStamp id)) }
    else v
  | _ => v

/-- The waiters of a counter are tested again (R70): harts, nodes, and commands held by their WAIT. -/
def retestCounter (s : State) (id : Nat) : State :=
  let s := { s with harts := mapVals .reset (fun _ v => testWaiter s id v) s.harts }
  let s := s.launches.foldl (fun s e =>
    match e.2 with
    | none => s
    | some v =>
      (v.nodes.filter fun x =>
        match x.2 with
        | some n => decide (n.waitctr.toNat = id) && decide (n.phase = .waiting)
        | none => false).foldl (fun s x => readyNode s e.1 x.1 false) s) s
  s.tenants.foldl (fun s e => if e.2.held = [] then s else post s (.commandWaitRelease e.1)) s

/-- Set a counter and test its waiters. -/
def setCounter (s : State) (id : Nat) (v : Word) : State := retestCounter { s with counters := mapPut 0 s.counters id v } id

/-- Add to a counter as SIGC does, with the writes the release covers (R70). -/
def addCounter (s : State) (id : Nat) (v : Word) (stamp : Stamp) : State :=
  setCounter { s with counterStamp := mapMod .zero s.counterStamp id (Stamp.join stamp) } id (counterValue s id + v)

/-- Another message or spawn of a launch counted (R53); the counts have 64 bits. -/
def countUp (m : SMap Word) (l : Nat) : SMap Word := mapMod 0 m l (· + 1)

/-- The successors of a node, read under the launch's OWNER (R41). -/
def nodeSuccessors (s : State) (l : Launch) (n : Node) (die : Nat) : List Nat :=
  match agentRead s (launchAgent l die) n.succ (n.nsucc * 4) with
  | some b => (List.range n.nsucc).map fun i => numAt b (4 * i) 4
  | none => []

/-- The requests of that read (R278). -/
def chargeSuccessors (s : State) (l : Launch) (n : Node) (die : Nat) : State := chargeAgent (launchAgent l die) n.succ (n.nsucc * 4) s

/-! ### Completion of sub-tiles and nodes -/

/-- A node completion waits for room in the event queue of its cluster (R65). -/
def postRecord (s : State) (clus : Nat) (r : EventRec) : State :=
  let c := getCluster s clus
  if c.eventQ.length < 64 then post (modCluster s clus fun c => { c with eventQ := c.eventQ ++ [r] }) (.eventRecordTake clus)
  else modCluster s clus fun c => { c with posters := c.posters ++ [r] }

/-- The hart's sub-tile completes; the last one of the node posts the node's completion (R44). -/
def completeTile (s : State) (h : Nat) : State :=
  let v := getHart s h
  match v.tile with
  | none => s
  | some _ =>
    let id := v.sr.node.toNat
    let s := modHart s h fun v => { v with tile := none }
    let s := modNode s v.launch id fun n =>
      { n with finished := n.finished + 1, stamp := n.stamp.join (stampOf s (dieOfHart h)) }
    match getLaunch s v.launch with
    | none => s
    | some l =>
      match getNode l id with
      | none => s
      | some n =>
        if n.finished = n.total && n.phase ≠ .complete then
          let core := coreOf h
          postRecord (modNode s v.launch id fun n => { n with phase := .complete }) (clusOf core)
            ⟨1, 0, l.tenant, 0, BitVec.ofNat 8 (core % 16 + ctxOf h % 8 * 16),
              BitVec.ofNat 32 l.seq.toNat ++ BitVec.ofNat 32 id, l.id, id, n.stamp⟩
        else s

/-- The predecessors of every early successor of a node are dispatch-complete in one more (R40, R56). -/
def dispatchComplete (s : State) (l id die : Nat) : State :=
  match getLaunch s l with
  | none => s
  | some v =>
    match getNode v id with
    | none => s
    | some n =>
      (nodeSuccessors s v n die).foldl (fun s k =>
        readyNode (modNode s l k fun m => { m with undispatched := m.undispatched - 1 }) l k false) (chargeSuccessors s v n die)

end Sys2Proof.Machine
end

