-- ==== Sys2Proof/Machine/Stops.lean ====
section
/-!
DEFINITION. Pre-emption stops (R77, R78), delivery of interrupts and engine faults (R231, R234), and when a waiting context
is ready again (R74).
-/

namespace Sys2Proof.Machine

/-! ### Waits -/

/-- Whether a tag of a core is outstanding (R95). -/
def tagBusy (c : Core) (tag : Nat) : Bool := c.cmds.any (·.tag = tag)

/-- Bulk commands a core has outstanding (R101). -/
def bulkCount (c : Core) : Nat := (c.cmds.filter fun m => decide (m.kind = .bulk)).length

/-- Operations in flight of a core (R89). -/
def inFlight (s : State) (core : Nat) : Nat := ((s.ops.filter fun o => coreOf o.hart = core).map (·.slots)).sum

/-- Whether a hart has a memory operation in flight. -/
def busyHart (s : State) (h : Nat) : Bool := s.ops.any (·.hart = h)

/-- Whether an access already issued to a bank is not complete (R13): an operation in flight, or a write on its way to a view. -/
def bankBusy (s : State) (core j : Nat) : Bool :=
  let lo := localOf core + j * 0x4000
  s.ops.any (fun o => o.key < lo + 0x4000 && lo < o.key + o.size) || writesPending s lo 0x4000

/-- Whether the bank of a hart, or one that it holds on loan, is so. -/
def banksBusy (s : State) (h : Nat) : Bool := (ctxOf h :: (getHart s h).loans).any (bankBusy s (coreOf h))

/-- The number that tells one world's queue entries from another's (R260): its launch. -/
def worldOf (h : Hart) : Nat := h.launch

/-- A queue register of a core (R104). -/
def queueOf (c : Core) (q : Nat) : List QEntry := mapGet [] c.queues q

/-- Whether a hart of a node holds a sub-tile and has been stopped and not resumed: it is saved, or its save is under way (R57, R86). -/
def tileStopped (s : State) (h launch node : Nat) : Bool :=
  (s.saves.any fun v => decide (v.launch = launch) && decide (v.sr.node.toNat = node) && v.tile.isSome) ||
  s.harts.any fun e =>
    e.1 ≠ h && decide (e.2.tenure = .running) && decide (e.2.launch = launch) && decide (e.2.sr.node.toNat = node) && e.2.tile.isSome &&
      (match e.2.sup with
       | some (.stop _) => true
       | _ => false)

/-- Whether a node has a sub-tile left to hand out (R43). -/
def tilesLeft (s : State) (launch node : Nat) : Bool :=
  match (getLaunch s launch).bind fun l => getNode l node with
  | some n => n.cursor < n.total
  | none => false

/-- Whether a TFETCH of a hart waits for stopped harts of its node: while one of them holds a sub-tile, no further one is handed out (R57),
and a hart that has itself been resumed gets no answer at all (R86). -/
def heldBack (s : State) (h : Nat) : Bool :=
  let v := getHart s h
  let id := v.sr.node.toNat
  tileStopped s h v.launch id && (v.resumed || tilesLeft s v.launch id)

def isAmo (o : Op) : Bool :=
  match o.kind with
  | .amo _ => true
  | _ => false

/-- What the release of an MRET waits for: the handler's writes on MCA pages, and its atomics but those that run at its own core
after it (R333). -/
def handlerReleased (s : State) (core : Nat) : Bool :=
  !unperformed s (hartKey core 8)

/-- Page requests of a tenant that the host has not answered (R274). -/
def pageRequests (s : State) (tenant : BitVec 4) : Nat := (getTenant s tenant.toNat).pageReqs.length

/-- A pre-emption request is pending (R76, R77). DESIGN CHOICE (log entry 8): it is so from the deadline on; between the end of its slice and the
deadline a hart is stopped at TFETCH alone. -/
def requested (v : Hart) : Bool :=
  match v.preempt with
  | .overdue _ => true
  | _ => false

/-- An instruction that waited for a reply is complete; a stop that fell due meanwhile is taken before the next one (R77). DESIGN CHOICE (log entry
8): a slice that has ended without its deadline having passed makes no stop fall due. -/
def endReplyWait (h : Hart) : Hart :=
  let h := retireHart 4 h
  if requested h && decide (h.mode = .U) then { h with wait := some .stopNext } else h

/-- Whether what a context waits for has come about. -/
def waitOver (s : State) (h : Nat) : Bool :=
  let v := getHart s h
  let c := getCore s (coreOf h)
  match v.wait with
  | none => true
  | some w =>
    match w with
    | .yield k => decide (k + 8 ≤ s.cycles)
    | .interrupt =>
      decide (v.ipend ≠ 0) || decide (v.faults ≠ []) || decide (v.mpend ≠ 0) || (decide (v.mode ≠ .U) && requested v)
    | .counter _ _ =>
      (match v.met with
       | some (.counter _ _ t) => t.le (stampOf s (dieOfHart h))
       | _ => false)
    | .message => decide (v.mpend ≠ 0)
    | .tag t => !tagBusy c t
    | .queuePush q =>
      decide ((queueOf c q).length < 16) && decide ((c.pushers.find? (·.1 = q)).map (·.2) = some (ctxOf h))
    | .queuePop q =>
      (queueOf c q).any (·.world = worldOf v) &&
        decide ((c.poppers.find? fun e => e.1 = q && worldOf (getHart s (hartKey (coreOf h) e.2)) = worldOf v).map (·.2) =
          some (ctxOf h))
    | .cursor => !heldBack s h
    | .barrier => false
    | .gang => false
    | .gangStop => false
    | .ring => false
    | .copyQueue => decide (c.copyQ.length < 2)
    | .bulkQueue => decide (bulkCount c < 4)
    | .tagFree => decide (c.cmds.length < 256)
    | .matrixQueue => decide (c.matrixQ.length < 2)
    | .matrixEmpty => decide (c.matrixQ = [])
    | .slot => decide (inFlight s (coreOf h) < 256)
    | .order sc => releaseReady s h sc
    | .settle => viewSettled s (stampOf s (dieOfHart h))
    | .view t => t.le (stampOf s (dieOfHart h))
    | .drain => !busyHart s h
    | .bank => !banksBusy s h
    | .operand r => decide (mapGet 0 v.xpend r = 0)
    | .overlap k n => !overlapBusy s h k n
    | .kinds l st => !fenceHolds s v l st
    | .reply _ => false
    | .stopNext => !requested v
    | .ringSlot =>
      decide ((getDie s (dieOfHart h)).ring.length < 1024) && decide ((getDie s (dieOfHart h)).ringWait.head? = some h) &&
        !s.firmware.quiesced
    | .service => false
    | .rights => false
    | .tensor => false
    | .page _ _ _ _ => false
    | .pageSlot => decide (pageRequests s v.sr.tenant < 64)
    | .walk _ => v.walk.isSome
    | .budget ch t => !budgetHolds s ch t
    | .handlerEnd => handlerReleased s (coreOf h)

/-! ### Stops -/

/-- A wait at which the instruction has not issued: its context was not ready for it (R74). -/
def unissued : Wait → Bool
  | .copyQueue | .bulkQueue | .tagFree | .matrixQueue | .matrixEmpty | .slot | .overlap _ _ | .kinds _ _ | .order _ | .settle | .view _ | .drain
  | .bank | .operand _ | .ringSlot | .pageSlot | .walk _ | .budget _ _ | .handlerEnd => true
  | .yield _ | .interrupt | .counter _ _ | .message | .tag _ | .queuePush _ | .queuePop _ | .cursor | .barrier | .gang | .gangStop | .ring | .reply _
  | .stopNext | .service | .rights | .tensor | .page _ _ _ _ => false

/-- The waits at which a hart may be stopped (R77). -/
def stopWait : Option Wait → Bool
  | none => false
  | some w =>
    match w with
    | .interrupt | .counter _ _ | .message | .tag _ | .queuePush _ | .queuePop _ | .cursor | .barrier | .gang | .gangStop | .ring
    | .copyQueue | .bulkQueue | .tagFree | .matrixQueue | .matrixEmpty | .slot | .operand _ | .stopNext | .ringSlot | .page _ _ _ _ | .pageSlot => true
    | .yield _ | .order _ | .overlap _ _ | .kinds _ _ | .settle | .view _ | .drain | .bank | .reply _ | .service | .rights | .tensor | .walk _ | .budget _ _ | .handlerEnd => false

/-- A hart in U mode that waits where it may be stopped, with a request pending (R77): it is stopped there, also where the wait is over by the
time its operations in flight have completed. One that waits in TFETCH is stopped from the end of its slice on (R76). -/
def stopWaits (v : Hart) : Bool :=
  decide (v.mode = .U) &&
    (decide (v.wait = some .gangStop) || (decide (v.wait = some .cursor) && decide (v.preempt ≠ .none)) || (requested v && stopWait v.wait))

/-- Such a hart with nothing in flight (R77). DESIGN CHOICE (log entry 70): a prefixed instruction that waits is a stop point like any other
blocked one, and EPC is then at its ORD (R115), so that the unit executes again as a whole. -/
def waitStopDue (s : State) (h : Nat) : Bool := stopWaits (getHart s h) && !busyHart s h

/-- A hart that has issued 65,536 instructions since the deadline and is between two instructions (R77): it issues no further one. -/
def forcedOut (v : Hart) : Bool :=
  (match v.preempt with
   | .overdue n => 65536 ≤ n
   | _ => false) && decide (v.mode = .U) && v.unit.isNone &&
    (match v.wait with
     | none => true
     | some w => unissued w)

/-- Such a hart with nothing in flight stops there (R77). -/
def forcedDue (s : State) (h : Nat) : Bool := forcedOut (getHart s h) && !busyHart s h

/-- Entry of a stop (R78): kind 0 a SAFEPT with its map, 1 a wait, 2 forced. -/
def stopHart (s : State) (h kind : Nat) (epc : Word) (map : Nat) : State :=
  let s := leaveWaits (cancelGatherings s h (some .gangStop)) h
  let s := settleBarriers s
  modHart s h fun v => enterS v epc 0x84 (BitVec.ofNat 64 (kind * 2 ^ 62 + map)) 0 (.stop kind)

/-- A wait stop: the blocking instruction executes again on resume (R78). DESIGN CHOICE (log entry 8): a stop put off to the end of a reply wait,
which Table 4.3b does not list, is of kind 1 as well, with EPC at the next instruction. -/
def waitStop (s : State) (h : Nat) : State := stopHart s h 1 (trapPc (getHart s h)) 0

/-! ### Fault records -/

/-- The 32 bytes of a fault record (Table 13.9). -/
def FaultRec.bytes (r : FaultRec) : List Byte :=
  [r.code, r.kind, r.tag, if r.fromS then 1 else 0, 0, 0, 0, 0] ++ leBytes 8 r.addr.toNat ++ leBytes 8 r.done.toNat ++
    leBytes 8 r.remain.toNat

/-- Write a fault record at SELF + EFR of a hart (R233). -/
def writeRecord (s : State) (h : Nat) (r : FaultRec) : State :=
  performWrite s (dieOfHart h) h (localOf (coreOf h) + (getHart s h).sr.efr.toNat % 0x20000) r.bytes .na false

/-- Queue a fault record for a hart (R236): copy, bulk and collective ones always, at most 8 matrix records. -/
def queueFault (s : State) (h : Nat) (gen : BitVec 8) (r : FaultRec) : State :=
  let add := fun (l : List FaultRec) => if r.kind = 4 && 8 ≤ (l.filter (·.kind = 4)).length then l else l ++ [r]
  if (getHart s h).tenure = .running && (getHart s h).gen = gen then modHart s h fun v => { v with faults := add v.faults }
  else
    { s with
      saves := s.saves.map fun v =>
        if v.core = coreOf h && v.ctx = ctxOf h && decide (v.hidOld.extractLsb' 24 8 = gen) then
          { v with faults := add v.faults, pend := v.pend ||| 0x02 }
        else v }

/-- The record of a tag that is no longer FAULTED leaves the queue of the hart that submitted it (R236). -/
def dropFault (s : State) (h : Nat) (gen : BitVec 8) (tag : Nat) : State :=
  let cut := fun (l : List FaultRec) => l.filter fun r => r.kind = 4 || r.tag ≠ BitVec.ofNat 8 tag
  if (getHart s h).tenure = .running && (getHart s h).gen = gen then modHart s h fun v => { v with faults := cut v.faults }
  else
    { s with
      saves := s.saves.map fun v =>
        if v.core = coreOf h && v.ctx = ctxOf h && decide (v.hidOld.extractLsb' 24 8 = gen) then
          { v with faults := cut v.faults, pend := if cut v.faults = [] then v.pend &&& ~~~2#8 else v.pend }
        else v }

/-- Whether a hart that was given a command is gone: neither running nor saved under its generation (R234). -/
def hartGone (s : State) (h : Nat) (gen : BitVec 8) : Bool :=
  !((decide ((getHart s h).tenure = .running) && decide ((getHart s h).gen = gen)) ||
    s.saves.any fun v => v.core = coreOf h && v.ctx = ctxOf h && decide (v.hidOld.extractLsb' 24 8 = gen))

/-- The waits that delivery of an engine fault leaves; the instruction executes again on return (R234). -/
def faultLeaves : Option Wait → Bool
  | none => true
  | some (.tag _) => true
  | some (.counter _ _) => true
  | some .message => true
  | some (.queuePush _) => true
  | some (.queuePop _) => true
  | some .interrupt => true
  | some (.yield _) => true
  | some _ => false

/-- The queued fault that is delivered now, if any (R234): in S mode the oldest one of an S command; in U mode the oldest
one, unless it is a U command's and its handler is running. -/
def dueFault (v : Hart) : Option FaultRec :=
  if v.unit.isSome || v.sup.isSome || !faultLeaves v.wait then none
  else if v.mode ≠ .U then v.faults.find? (·.fromS)
  else
    match v.faults with
    | [] => none
    | r :: _ => if !r.fromS && uefEn v && uefAct v then none else some r

/-- The interrupt that is taken now, if any (R231): the pending one with the lowest code, in U mode, between units. -/
def dueInterrupt (v : Hart) : Option Nat :=
  if v.unit.isSome || v.sup.isSome || v.mode ≠ .U then none
  else
    let p := v.ipend.toNat
    if p % 256 = 0 then none else some (lowestSet 8 p)

end Sys2Proof.Machine
end

