-- ==== Sys2Proof/Machine/Control.lean ====
section
/-!
DEFINITION. Control transfer, waiting and trapping instructions, special registers, safe points, ORD and FENCE.
-/

namespace Sys2Proof.Machine

/-! ### Control transfer (R337, R357, R358) -/

/-- A branch condition (R337). -/
def condHolds (c : Cond) (x y : Word) : Bool :=
  match c with
  | .eq => decide (x = y)
  | .ne => decide (x ≠ y)
  | .lt => x.slt y
  | .ge => !x.slt y
  | .ltu => x.ult y
  | .geu => !x.ult y

def execBcond (c : Cond) (a b : Reg) (off : BitVec 11) (s : State) : Result :=
  let h := me s
  if condHolds c (readX h a) (readX h b) then .next (modMe s (jumpHart (h.pc + off.signExtend 64 * 2))) else done4 s

def execJal (d : Reg) (off : BitVec 19) (s : State) : Result :=
  let pc := (me s).pc
  .next (modMe s fun h => jumpHart (pc + off.signExtend 64 * 2) (writeX h d (pc + 4)))

def execJalr (d a : Reg) (imm : BitVec 14) (s : State) : Result :=
  let h := me s
  let t := readX h a + imm14 imm
  .next (modMe s fun h => jumpHart t (writeX h d (h.pc + 4)))

/-! ### SYS -/

/-- YIELD (R472): not ready until another context of the core has issued or 8 cycles have passed. -/
def execYield (s : State) : Result :=
  if isHandler s.cur then done4 s
  else .next (modMe s fun h => { retireHart 4 h with wait := some (.yield s.cycles) })

/-- WFI (R467). -/
def execWfi (s : State) : Result :=
  let h := me s
  if isHandler s.cur then illegal s .wfi
  else if h.ipend ≠ 0 || h.faults ≠ [] || h.mpend ≠ 0 || (requested h && h.mode ≠ .U) then done4 s
  else if requested h && !busyHart s s.cur then .next (waitStop s s.cur)
  else waitFor s .interrupt

/-- ERET (R232, R350). -/
def execEret (s : State) : Result :=
  let h := me s
  if isHandler s.cur then privilege s .eret
  else
    match h.mode with
    | .U => if uefAct h then .next (modMe s returnFromUHandler) else privilege s .eret
    | .S => .next (modMe s returnFromTrap)
    | .M => .next (modMe s returnFromTrap)

/-- EBREAK (R349). -/
def execEbreak (s : State) : Result := trapR s ⟨0x0E, 0, 0⟩

/-! ### Special registers (R324) -/

/-- Whether a mode reads a register. -/
def srReadable (m : Mode) (n : BitVec 12) : Bool :=
  decide (m ≠ .U) || !(decide (0x010 ≤ n.toNat) && decide (n.toNat ≤ 0x015))

/-- Whether a mode writes a register. -/
def srWritable (m : Mode) (n : BitVec 12) : Bool :=
  [0x008, 0x009, 0x018, 0x019, 0x01A, 0x030].contains n.toNat ||
    (decide (m ≠ .U) && [0x001, 0x010, 0x011, 0x012, 0x013, 0x014, 0x015].contains n.toNat)

/-- Nanoseconds and core cycles as the registers hold them. -/
def timeReg (s : State) : Word := BitVec.ofNat 64 s.time
def cycleReg (s : State) (core : Nat) : Word := BitVec.ofNat 64 (s.cycles - (getCore s core).cycleBase)

/-- A register in a hart context (Table 20.8). -/
def readSr (s : State) (h : Nat) (n : BitVec 12) : Word :=
  let r := (getHart s h).sr
  match n.toNat with
  | 0x000 => (hidOf s h).setWidth 64
  | 0x001 => r.own.setWidth 64
  | 0x002 => r.tenant.setWidth 64
  | 0x003 => r.launch
  | 0x004 => r.keyh.setWidth 64
  | 0x008 => r.hctl.setWidth 64
  | 0x009 => r.vstat.setWidth 64
  | 0x00A => timeReg s
  | 0x00B => cycleReg s (coreOf h)
  | 0x010 => r.evec
  | 0x011 => r.epc
  | 0x012 => r.ecause.setWidth 64
  | 0x013 => r.eval
  | 0x014 => r.estat
  | 0x015 => r.escr
  | 0x018 => r.efr
  | 0x019 => r.uevec
  | 0x01A => r.uepc
  | 0x020 => r.node
  | 0x021 => r.subt
  | 0x030 => r.msgb
  | _ => 0

/-- A register in the handler context (R367). -/
def readHandlerSr (s : State) (h : Nat) (n : BitVec 12) : Word :=
  if [0x000, 0x001, 0x002, 0x004, 0x00A, 0x00B].contains n.toNat then readSr s h n else 0

/-- Write a register (R377): fields that it does not assign are ignored (R6). -/
def writeSr (n : BitVec 12) (v : Word) (r : SpecialRegs) : SpecialRegs :=
  match n.toNat with
  | 0x001 => { r with own := v.setWidth 16 }
  | 0x008 => { r with hctl := r.hctl.extractLsb' 3 1 ++ v.extractLsb' 0 3 }
  | 0x009 => { r with vstat := v.setWidth 6 }
  | 0x010 => { r with evec := v }
  | 0x011 => { r with epc := v }
  | 0x012 => { r with ecause := v.setWidth 8 }
  | 0x013 => { r with eval := v }
  | 0x014 => { r with estat := r.estat.extractLsb' 2 62 ++ v.extractLsb' 0 2 }
  | 0x015 => { r with escr := v }
  | 0x018 => { r with efr := v &&& 0x1FFE0 }
  | 0x019 => { r with uevec := v }
  | 0x01A => { r with uepc := v }
  | 0x030 => { r with msgb := v &&& ~~~7#64 }
  | _ => r

def execMfsr (d : Reg) (n : BitVec 12) (s : State) : Result :=
  if !assignedRegister n then illegal s (.mfsr d n)
  else if !srReadable (me s).mode n then privilege s (.mfsr d n)
  else done4With s d (if isHandler s.cur then readHandlerSr s s.cur n else readSr s s.cur n)

def execMtsr (n : BitVec 12) (a : Reg) (s : State) : Result :=
  if !assignedRegister n || isHandler s.cur then illegal s (.mtsr n a)
  else if !srWritable (me s).mode n then privilege s (.mtsr n a)
  else
    let v := readX (me s) a
    .next (modMe s fun h => retireHart 4 { h with sr := writeSr n v h.sr })

/-! ### Safe points (R389) -/

def execSafept (n : BitVec 12) (s : State) : Result :=
  let h := me s
  if isHandler s.cur || h.mode ≠ .U || !requested h then done4 s
  else if busyHart s s.cur then waitFor s .drain
  else .next (stopHart s s.cur 0 (h.pc + 4) n.toNat)

/-! ### ORD and FENCE (R113, R116) -/

def execOrd (o : Order) (sc : Scope) (s : State) : Result :=
  if !bindsScope s (me s) sc then illegal s (.ord o sc)
  else .next (modMe s fun h => { h with pc := h.pc + 4, unit := some (.ord h.pc o sc), wait := none })

/-- The accesses under way that a FENCE puts before the hart's later loads (kinds ll and sl) and stores (ls and ss). -/
def markFence (s : State) (kinds : BitVec 4) (h : Hart) : Hart :=
  let pick := fun (l st : Bool) => (if l then lateReads s s.cur else []) ++ (if st then lateWrites s s.cur else [])
  { h with
    beforeLoads := h.beforeLoads.filter (fun n => stillLate s [n]) ++ pick (kinds.getLsbD 0) (kinds.getLsbD 2)
    beforeStores := h.beforeStores.filter (fun n => stillLate s [n]) ++ pick (kinds.getLsbD 1) (kinds.getLsbD 3) }

/-- FENCE: what its kinds name before it is performed before what they name after it; ll and ls invalidate L1 as an acquire does,
sl and ss wait as a release does. At hart scope it waits for nothing, and the accesses after it wait instead. -/
def execFence (kinds : BitVec 4) (sc : Scope) (s : State) : Result :=
  let acq := kinds.getLsbD 0 || kinds.getLsbD 1
  let rel := kinds.getLsbD 2 || kinds.getLsbD 3
  if kinds = 0 || !bindsScope s (me s) sc then illegal s (.fence kinds sc)
  else if sc = .hart then .next (modMe s fun h => retireHart 4 (markFence s kinds h))
  else if rel && !releaseReady s s.cur sc then waitFor s (.order sc)
  else if unperformed s s.cur then waitFor s (.order .hart)
  else .next (retire (if acq then acquireAt s (coreOf s.cur) sc else s) 4)

end Sys2Proof.Machine
end

