-- ==== Sys2Proof/Machine/Flags.lean ====
section
/-!
DEFINITION. The sticky flags of VSTAT (Table 8.4) and of a matrix slice (R182), which share their bit order, and the
writing of lanes with the flags their computation raises.
-/

namespace Sys2Proof.Machine

/-- Flags in the order of VSTAT [5:0]. -/
abbrev FpFlags := BitVec 6

def flagNX : FpFlags := 0x01
def flagUF : FpFlags := 0x02
def flagOF : FpFlags := 0x04
def flagDZ : FpFlags := 0x08
def flagNV : FpFlags := 0x10
def flagIV : FpFlags := 0x20

/-- A flag where a condition holds. -/
def raiseIf (b : Bool) (f : FpFlags) : FpFlags := if b then f else 0

/-- The union of a list of flags. -/
def allFlags (l : List FpFlags) : FpFlags := l.foldl (· ||| ·) 0

/-- Flags merge into VSTAT and stay (R143, R144). -/
def mergeVstat (f : FpFlags) (h : Hart) : Hart := { h with sr := { h.sr with vstat := h.sr.vstat ||| f } }

/-- Flags of a matrix command merge into its slice (R180, R182). -/
def mergeSlice (f : FpFlags) (c : MatrixSlice) : MatrixSlice := { c with flags := c.flags ||| f }

/-- The lanes of a result (R407): `f i` where the element is selected, zero or the old lane where it is not. Only selected
lanes raise flags (R143). -/
def maskedLanes (n : Nat) (sel : Nat → Bool) (z : Bool) (old : Nat → Nat) (f : Nat → Nat × FpFlags) :
    List Nat × FpFlags :=
  let r := (List.range n).map fun i =>
    if sel i then f i else (if z then 0 else old i, 0)
  (r.map (·.1), allFlags (r.map (·.2)))

end Sys2Proof.Machine
end

