-- ==== Sys2Proof/Machine/Float.lean ====
section
/-!
DEFINITION. Float formats, exact values, rounding and the basic operations (R137 to R142, R145, R149, R150). An exact result
is a pair of an integer and a power of two, or such a pair with a note that the true value lies strictly above it by less than
one unit; one function rounds both.
-/

namespace Sys2Proof.Machine

/-! ### Formats (Table 8.2) -/

/-- How a format codes infinities and NaNs. -/
inductive FmtKind | ieee | e4m3 | e2m1
  deriving DecidableEq, Repr

structure Fmt where
  ebits : Nat
  fbits : Nat
  bias : Nat
  kind : FmtKind
  deriving DecidableEq, Repr

def fp64 : Fmt := ⟨11, 52, 1023, .ieee⟩
def fp32 : Fmt := ⟨8, 23, 127, .ieee⟩
def fp16 : Fmt := ⟨5, 10, 15, .ieee⟩
def bf16 : Fmt := ⟨8, 7, 127, .ieee⟩
def fmtE4M3 : Fmt := ⟨4, 3, 7, .e4m3⟩
def fmtE5M2 : Fmt := ⟨5, 2, 15, .ieee⟩
def fmtE2M1 : Fmt := ⟨2, 1, 1, .e2m1⟩

def Fmt.width (f : Fmt) : Nat := 1 + f.ebits + f.fbits
/-- Significant bits of a normal number. -/
def Fmt.prec (f : Fmt) : Nat := f.fbits + 1
/-- Exponent of the smallest normal value. -/
def Fmt.emin (f : Fmt) : Int := 1 - (f.bias : Int)
/-- Largest exponent field of a finite number. -/
def Fmt.topField (f : Fmt) : Nat := if f.kind = .ieee then 2 ^ f.ebits - 2 else 2 ^ f.ebits - 1
/-- Largest fraction at the largest exponent. -/
def Fmt.topFrac (f : Fmt) : Nat := if f.kind = .e4m3 then 2 ^ f.fbits - 2 else 2 ^ f.fbits - 1
/-- FP64 alone is never flushed (R145). -/
def Fmt.flushes (f : Fmt) : Bool := decide (f ≠ fp64)
/-- E4M3, E5M2 and E2M1, whose elements FLUSH judges on their own encoding (R145). -/
def Fmt.narrow (f : Fmt) : Bool := f.fbits ≤ 3

def signBit (f : Fmt) (neg : Bool) : Nat := if neg then 2 ^ (f.ebits + f.fbits) else 0
/-- The largest finite magnitude with a sign. -/
def Fmt.largest (f : Fmt) (neg : Bool) : Nat := signBit f neg + f.topField * 2 ^ f.fbits + f.topFrac
/-- Infinity, in formats that have one. -/
def Fmt.infinity (f : Fmt) (neg : Bool) : Nat := signBit f neg + (2 ^ f.ebits - 1) * 2 ^ f.fbits
/-- The canonical NaN (Table 8.3); E2M1 has none. -/
def Fmt.nan (f : Fmt) : Nat :=
  match f.kind with
  | .ieee => (2 ^ f.ebits - 1) * 2 ^ f.fbits + 2 ^ (f.fbits - 1)
  | .e4m3 => 0x7F
  | .e2m1 => 0

/-! ### Values -/

/-- The value of an encoding; `fin neg m e` is ± m × 2^e with m not zero. -/
inductive FVal
  | nan
  | inf (neg : Bool)
  | zero (neg : Bool)
  | fin (neg : Bool) (m : Nat) (e : Int)
  deriving DecidableEq, Repr

/-- The value of an encoding (R137); with `flush` a subnormal reads as the zero of its sign (R145). -/
def unpack (f : Fmt) (flush : Bool) (b : Nat) : FVal :=
  let neg := bit b (f.ebits + f.fbits)
  let e := field b f.fbits f.ebits
  let m := field b 0 f.fbits
  let special :=
    match f.kind with
    | .ieee => decide (e = 2 ^ f.ebits - 1)
    | .e4m3 => decide (e = 15) && decide (m = 7)
    | .e2m1 => false
  if special then (if f.kind = .ieee && m = 0 then .inf neg else .nan)
  else if e = 0 then
    (if m = 0 || (flush && f.flushes) then .zero neg else .fin neg m (f.emin - f.fbits))
  else .fin neg (2 ^ f.fbits + m) ((e : Int) - f.bias - f.fbits)

/-- An exact dyadic number m × 2^e. -/
abbrev Dy := Int × Int

/-- m × 2^e as an integer count of 2^base, for base ≤ e. -/
def scaleTo (base : Int) (d : Dy) : Int := d.1 * (2 ^ (d.2 - base).toNat : Nat)

def dyAdd (a b : Dy) : Dy :=
  let base := min a.2 b.2
  (scaleTo base a + scaleTo base b, base)

def dyMul (a b : Dy) : Dy := (a.1 * b.1, a.2 + b.2)

/-- The exact sum of a list. -/
def dySum (l : List Dy) : Dy := l.foldl dyAdd (0, 0)

/-- Sign of a − b. -/
def dyCmp (a b : Dy) : Int :=
  let base := min a.2 b.2
  scaleTo base a - scaleTo base b

/-- The exact number of a zero or finite value. -/
def FVal.dy : FVal → Dy
  | .fin neg m e => (if neg then -(m : Int) else m, e)
  | _ => (0, 0)

def FVal.neg? : FVal → Bool
  | .nan => false
  | .inf n => n
  | .zero n => n
  | .fin n _ _ => n

def FVal.negate : FVal → FVal
  | .nan => .nan
  | .inf n => .inf (!n)
  | .zero n => .zero (!n)
  | .fin n m e => .fin (!n) m e

def FVal.isZero : FVal → Bool
  | .zero _ => true
  | _ => false

/-! ### Rounding -/

/-- Rounding modes (R140). -/
inductive Rm | rne | rtz | rdn | rup
  deriving DecidableEq, Repr

def rmOf (c : BitVec 2) : Rm :=
  match c.toNat with
  | 0 => .rne
  | 1 => .rtz
  | 2 => .rdn
  | _ => .rup

/-- Whether a magnitude with a remainder is rounded away from zero: `odd` the last bit kept, `half` the remainder against one
half (−1 below, 0 equal, 1 above). -/
def awayFrom (rm : Rm) (neg odd : Bool) (half : Int) : Bool :=
  match rm with
  | .rne => decide (0 < half) || (decide (half = 0) && odd)
  | .rtz => false
  | .rdn => neg
  | .rup => !neg

/-- Round the magnitude m × 2^e (above it by less than one unit where `sticky`) to a multiple of 2^q: the multiple and whether the
result is inexact. -/
def roundAt (rm : Rm) (neg : Bool) (m : Nat) (e : Int) (sticky : Bool) (q : Int) : Nat × Bool :=
  if q ≤ e then (m * 2 ^ (e - q).toNat, sticky)
  else
    let sh := (q - e).toNat
    let k := m / 2 ^ sh
    let r := m % 2 ^ sh
    let h := 2 ^ (sh - 1)
    let inexact := decide (r ≠ 0) || sticky
    let half : Int := if r < h then -1 else if r = h && !sticky then 0 else 1
    if inexact && awayFrom rm neg (k % 2 = 1) half then (k + 1, inexact) else (k, inexact)

/-- What a magnitude beyond the format becomes (R141). -/
def overflowed (f : Fmt) (rm : Rm) (neg : Bool) : Nat :=
  if f.kind ≠ .ieee then f.largest neg
  else
    match rm with
    | .rne => f.infinity neg
    | .rtz => f.largest neg
    | .rdn => if neg then f.infinity neg else f.largest neg
    | .rup => if neg then f.largest neg else f.infinity neg

/-- The encoding of k × 2^q, a multiple that the format can hold. -/
def encodeMag (f : Fmt) (neg : Bool) (k : Nat) (q : Int) : Nat :=
  if k = 0 then signBit f neg
  else
    let top := (bitLength k : Int) - 1 + q
    if top < f.emin then signBit f neg + k * 2 ^ (q - (f.emin - f.fbits)).toNat
    else
      let sig := if (f.fbits : Int) ≤ bitLength k - 1 then k / 2 ^ (bitLength k - 1 - f.fbits) else k * 2 ^ (f.fbits + 1 - bitLength k)
      signBit f neg + (top + f.bias).toNat * 2 ^ f.fbits + (sig - 2 ^ f.fbits)

/-- The exponent field of an encoding. -/
def expField (f : Fmt) (b : Nat) : Nat := field b f.fbits f.ebits

/-- Round a nonzero magnitude to `p` significant bits of a format (R140 to R142, R145, R151). Under FLUSH a tiny result is zero; a narrow
element is, where its own encoding would be a subnormal. -/
def roundMag (f : Fmt) (p : Nat) (rm : Rm) (flush neg : Bool) (m : Nat) (e : Int) (sticky : Bool) : Nat × FpFlags :=
  let q := (bitLength m : Int) + e - p
  let u := roundAt rm neg m e sticky q
  let top := (bitLength u.1 : Int) - 1 + q
  if u.1 = 0 || top < f.emin then
    let q' := max q (f.emin - f.fbits)
    let t := roundAt rm neg m e sticky q'
    let r := encodeMag f neg t.1 q'
    if flush && f.flushes && (!f.narrow || expField f r = 0) then (signBit f neg, flagUF ||| flagNX)
    else (r, raiseIf t.2 (flagUF ||| flagNX))
  else if 0 < dyCmp ((u.1 : Int), q)
      (((2 ^ f.fbits + f.topFrac : Nat) : Int), (f.topField : Int) - f.bias - f.fbits) then
    (overflowed f rm neg, flagOF ||| flagNX)
  else (encodeMag f neg u.1 q, raiseIf u.2 flagNX)

/-- Round an exact number; `negZero` is the sign of an exact zero. -/
def roundDy (f : Fmt) (rm : Rm) (flush negZero : Bool) (d : Dy) : Nat × FpFlags :=
  if d.1 = 0 then (signBit f negZero, 0) else roundMag f f.prec rm flush (d.1 < 0) d.1.natAbs d.2 false

/-- The encoding of a value in a format: NaN canonical, an infinity where there is none the largest with NV (R139, R141). -/
def pack (f : Fmt) (rm : Rm) (flush : Bool) : FVal → Nat × FpFlags
  | .nan => (f.nan, raiseIf (f.kind = .e2m1) flagNV)
  | .inf n => if f.kind = .ieee then (f.infinity n, 0) else (f.largest n, flagNV)
  | .zero n => (signBit f n, 0)
  | .fin n m e => roundMag f f.prec rm flush n m e false

/-- The canonical NaN with NV. -/
def invalid (f : Fmt) : Nat × FpFlags := (f.nan, flagNV)

/-! ### Arithmetic (R149) -/

/-- a + b, rounded once, RNE. -/
def addVal (f : Fmt) (flush : Bool) (a b : FVal) : Nat × FpFlags :=
  match a, b with
  | .nan, _ => (f.nan, 0)
  | _, .nan => (f.nan, 0)
  | .inf m, .inf n => if m = n then (f.infinity m, 0) else invalid f
  | .inf m, _ => (f.infinity m, 0)
  | _, .inf n => (f.infinity n, 0)
  | a, b => roundDy f .rne flush (a.isZero && b.isZero && a.neg? && b.neg?) (dyAdd a.dy b.dy)

/-- Whether a product is invalid: 0 × ∞. -/
def zeroTimesInf : FVal → FVal → Bool
  | .zero _, .inf _ => true
  | .inf _, .zero _ => true
  | _, _ => false

def isNan : FVal → Bool
  | .nan => true
  | _ => false

def isInf : FVal → Bool
  | .inf _ => true
  | _ => false

def mulVal (f : Fmt) (flush : Bool) (a b : FVal) : Nat × FpFlags :=
  if isNan a || isNan b then (f.nan, 0)
  else if zeroTimesInf a b then invalid f
  else
    let neg := a.neg? != b.neg?
    if isInf a || isInf b then (f.infinity neg, 0) else roundDy f .rne flush neg (dyMul a.dy b.dy)

/-- a·b + c, fused. A NaN operand gives a NaN; 0 × ∞ raises NV whatever c is. -/
def fmaVal (f : Fmt) (flush : Bool) (a b c : FVal) : Nat × FpFlags :=
  if zeroTimesInf a b then invalid f
  else if isNan a || isNan b || isNan c then (f.nan, 0)
  else
    let neg := a.neg? != b.neg?
    if isInf a || isInf b then
      (match c with
       | .inf n => if n = neg then (f.infinity neg, 0) else invalid f
       | _ => (f.infinity neg, 0))
    else
      match c with
      | .inf n => (f.infinity n, 0)
      | c =>
        let prodZero := a.isZero || b.isZero
        roundDy f .rne flush (prodZero && c.isZero && neg && c.neg?) (dyAdd (dyMul a.dy b.dy) c.dy)

/-- a ÷ b. -/
def divVal (f : Fmt) (p : Nat) (flush : Bool) (a b : FVal) : Nat × FpFlags :=
  let neg := a.neg? != b.neg?
  match a, b with
  | .nan, _ => (f.nan, 0)
  | _, .nan => (f.nan, 0)
  | .inf _, .inf _ => invalid f
  | .zero _, .zero _ => invalid f
  | .inf _, _ => (f.infinity neg, 0)
  | _, .inf _ => (signBit f neg, 0)
  | .zero _, _ => (signBit f neg, 0)
  | _, .zero _ => (f.infinity neg, flagDZ)
  | .fin _ m e, .fin _ n g =>
    let k := p + 3 + bitLength n
    let x := m * 2 ^ k
    roundMag f p .rne flush neg (x / n) (e - g - k) (decide (x % n ≠ 0))

/-- Integer square root, bit by bit. -/
def sqrtBits : Nat → Nat → Nat → Nat
  | 0, _, r => r
  | k + 1, n, r => if (r + 2 ^ k) * (r + 2 ^ k) ≤ n then sqrtBits k n (r + 2 ^ k) else sqrtBits k n r

def natSqrt (n : Nat) : Nat := sqrtBits (bitLength n / 2 + 1) n 0

/-- √a (R149). -/
def sqrtVal (f : Fmt) (flush : Bool) : FVal → Nat × FpFlags
  | .nan => (f.nan, 0)
  | .zero n => (signBit f n, 0)
  | .inf n => if n then invalid f else (f.infinity false, 0)
  | .fin n m e =>
    if n then invalid f
    else
      -- m × 2^e = M × 2^(2k) with M at least 2 (p + 2) bits long
      let sh := 2 * f.prec + 6 + (e % 2).toNat
      let x := m * 2 ^ sh
      let r := natSqrt x
      roundMag f f.prec .rne flush false r ((e - sh) / 2) (decide (r * r ≠ x))

/-! ### Comparison (R150) -/

/-- a < b for values that are no NaN; −0 and +0 are equal. -/
def fLess (a b : FVal) : Bool :=
  match a, b with
  | .inf m, .inf n => m && !n
  | .inf m, _ => m
  | _, .inf n => !n
  | a, b => decide (dyCmp a.dy b.dy < 0)

def fEqual (a b : FVal) : Bool :=
  match a, b with
  | .nan, _ => false
  | _, .nan => false
  | .inf m, .inf n => m = n
  | .inf _, _ => false
  | _, .inf _ => false
  | a, b => decide (dyCmp a.dy b.dy = 0)

/-- a below b in the order of VFMIN and VFMAX, −0 below +0. -/
def fBelow (a b : FVal) : Bool := fLess a b || (a.isZero && b.isZero && a.neg? && !b.neg?)

/-- The maximum as VFMAX takes it: the operand that is no NaN. -/
def maxVal (a b : FVal) : FVal :=
  match a, b with
  | .nan, b => b
  | a, .nan => a
  | a, b => if fBelow a b then b else a

def minVal (a b : FVal) : FVal :=
  match a, b with
  | .nan, b => b
  | a, .nan => a
  | a, b => if fBelow b a then b else a

/-- Pack a value that some input of the same format already held. -/
def repack (f : Fmt) (v : FVal) : Nat := (pack f .rne false v).1

end Sys2Proof.Machine
end

