-- ==== Sys2Proof/Machine/InFlight.lean ====
section
/-!
DEFINITION. Memory operations in flight (R89), failed reads (R90), and what a load or store does at its issue.
-/

namespace Sys2Proof.Machine

/-- An operation enters flight for the hart at hand. -/
def startOp (s : State) (kind : OpKind) (t : Target) (p : Word) (size slots : Nat) (dest : Reg) (acq rel : Option Scope) :
    Nat × State :=
  let v := me s
  let (id, s) := fresh s
  (id,
    { s with
      ops := s.ops ++
        [⟨id, kind, s.cur, v.gen, v.launch, t.key, p, size, slots, t.inst, t.keyh, t.prop, t.route, v.sr.own, dest, acq, rel,
          stampOf s (dieOfHart s.cur), none, .zero, 0⟩] })

/-- A register (vector registers from 32 up) waits for the result of an operation. -/
def markPending (r id : Nat) (h : Hart) : Hart := { h with xpend := mapPut 0 h.xpend r id }

/-- A register holds the data of a failed read (R90). -/
def markFailed (r : Nat) (p : Word) (h : Hart) : Hart := { h with poison := mapPut none h.poison r (some p) }

/-- A place among the core's operations in flight (R89), or the instruction waits for one. -/
def withSlots (s : State) (n : Nat) (k : Result) : Result :=
  if inFlight s (coreOf s.cur) + n ≤ 256 then k else waitFor s .slot

/-- The order in which an access of one stretch of bytes goes out (R89, R111, R116): after the core's accesses to the same bytes, after what
a FENCE puts before it, and after what its own release waits for. -/
def inOrder (s : State) (key n : Nat) (load store : Bool) (k : Result) : Result :=
  afterOverlap s key n (afterFences s load store (orderedBefore s k))

/-- Whether a store of the unit at hand is applied to all four views at one instant: seq at pkg or sys scope (R117). -/
def seqEverywhere (h : Hart) : Bool :=
  let o := orderNow h
  decide (o.1 = .seq) && scopeAtLeast o.2 .pkg

/-- Whether the unit at hand releases at pkg scope or wider. -/
def releasesWide (h : Hart) : Bool :=
  let o := orderNow h
  orderReleases o.1 && scopeAtLeast o.2 .pkg

/-- Wait until every write in the view of the hart's die has been applied on every die, where the write needs it: one that reaches all views
at one instant (R117), and a release at pkg scope or wider on a REPL page, whose write the replicas take in no order with others (R118,
R120, R125). -/
def afterSettle (s : State) (prop : PageProp) (k : Result) : Result :=
  if (seqEverywhere (me s) || (decide (prop = .repl) && releasesWide (me s))) && !viewSettled s (stampOf s (dieOfHart s.cur)) then
    waitFor s .settle
  else k

/-- Targets whose line an access takes from beyond the core: a load those that miss its L1, and every seq load (R91, R117). -/
def missing (s : State) (ts : List Target) : List Target :=
  ts.filter fun t => !t.cached || decide ((orderNow (me s)).1 = .seq) || (l1Line s (coreOf s.cur) t).isNone

/-- The lines of the hart at hand that come from beyond the core are read without waiting, or the instruction waits for an exhausted tenant's
turn (R279). -/
def withServed (s : State) (ts : List Target) (k : State → Result) : Result :=
  let out := missing s ts
  match linesHeld s (me s).launch (out.map (·.key)) with
  | some (ch, t) => waitFor s (.budget ch t)
  | none => k (sendReads (hartAgent s s.cur) s out)

/-- Read bytes of one line for the hart at hand; a seq read takes what the view holds (R117). -/
def orderedLoad (s : State) (t : Target) (n : Nat) : State × Option (List Byte) :=
  let s := if (orderNow (me s)).1 = .seq then dropL1 s (coreOf s.cur) t.key else s
  loadBytes s s.cur t n

/-- Write bytes of one line for the hart at hand. -/
def orderedStore (s : State) (t : Target) (bytes : List Byte) : State :=
  storeBytes s s.cur t bytes (seqEverywhere (me s))

/-- Completion at issue of an instruction with operations in flight: the acquire, the PC, and the replies to come. -/
def issued (s : State) (id len : Nat) : State := post (retire (orderedAfter s) len) (.memoryResponse id)

end Sys2Proof.Machine
end

