-- ==== Sys2Proof/Machine/Queue.lean ====
section
/-!
DEFINITION. Queue registers (R104, R105, R260, R386).
-/

namespace Sys2Proof.Machine

def setQueue (s : State) (core q : Nat) (l : List QEntry) : State :=
  modCore s core fun c => { c with queues := mapPut [] c.queues q l }

/-- Whether every blocked call on the queue ahead of this context's has been served (R105). -/
def firstInLine (l : List (Nat × Nat)) (q ctx : Nat) : Bool :=
  match l.find? (·.1 = q) with
  | none => true
  | some e => decide (e.2 = ctx)

/-- Enter, or keep, a place among blocked calls. -/
def joinLine (l : List (Nat × Nat)) (q ctx : Nat) : List (Nat × Nat) := if l.contains (q, ctx) then l else l ++ [(q, ctx)]

/-- The blocked calls that see the same entries as the caller: those of its world (R260). -/
def sameWorld (s : State) (core : Nat) (world : Nat) (l : List (Nat × Nat)) : List (Nat × Nat) :=
  l.filter fun e => worldOf (getHart s (hartKey core e.2)) = world

/-- QPUSH: releases at core and appends, blocking while 16 entries are held. -/
def execQpush (q b : Reg) (s : State) : Result :=
  let h := me s
  let core := coreOf s.cur
  let c := getCore s core
  let n := q.toNat
  if isHandler s.cur then illegal s (.qpush q b)
  else if (queueOf c n).length < 16 && firstInLine c.pushers n (ctxOf s.cur) then
    afterRelease s .core
      (let s := setQueue s core n (queueOf c n ++ [⟨readX h b, worldOf h⟩])
       done4 (modCore s core fun c => { c with pushers := c.pushers.filter (· ≠ (n, ctxOf s.cur)) }))
  else waitFor (modCore s core fun c => { c with pushers := joinLine c.pushers n (ctxOf s.cur) }) (.queuePush n)

/-- The oldest entry of the caller's world, once the calls of that world that blocked before have been served; otherwise the
instruction blocks. -/
def withOldest (s : State) (q : Reg) (k : State → QEntry → Result) : Result :=
  let h := me s
  let core := coreOf s.cur
  let c := getCore s core
  let n := q.toNat
  let mine := (queueOf c n).find? fun e => e.world = worldOf h
  match mine, firstInLine (sameWorld s core (worldOf h) c.poppers) n (ctxOf s.cur) with
  | some e, true => k (modCore s core fun c => { c with poppers := c.poppers.filter (· ≠ (n, ctxOf s.cur)) }) e
  | _, _ => waitFor (modCore s core fun c => { c with poppers := joinLine c.poppers n (ctxOf s.cur) }) (.queuePop n)

/-- The list without its first element that `p` selects. -/
def dropFirst {α : Type} (p : α → Bool) : List α → List α
  | [] => []
  | x :: xs => if p x then xs else x :: dropFirst p xs

/-- QPOP: removes the oldest entry and acquires at core. -/
def execQpop (d q : Reg) (s : State) : Result :=
  if isHandler s.cur then illegal s (.qpop d q)
  else
    withOldest s q fun s e =>
      let core := coreOf s.cur
      let w := worldOf (me s)
      let s := setQueue s core q.toNat (dropFirst (·.world = w) (queueOf (getCore s core) q.toNat))
      done4With (acquireAt s core .core) d e.value

/-- QPEEK: copies the oldest entry and acquires at core. -/
def execQpeek (d q : Reg) (s : State) : Result :=
  if isHandler s.cur then illegal s (.qpeek d q)
  else withOldest s q fun s e => done4With (acquireAt s (coreOf s.cur) .core) d e.value

/-- QCNT: entries of the caller's world. -/
def execQcnt (d q : Reg) (s : State) : Result :=
  if isHandler s.cur then illegal s (.qcnt d q)
  else
    let w := worldOf (me s)
    done4With s d (BitVec.ofNat 64 ((queueOf (getCore s (coreOf s.cur)) q.toNat).filter (·.world = w)).length)

end Sys2Proof.Machine
end

