-- ==== Sys2Proof/Machine/Engine.lean ====
section
/-!
DEFINITION. Engine commands: their issue (R93 to R95, R99, R340, R343, R344), CPSTAT and TWAIT (R97, R100), the copy, bulk and collective
engines (R96, R101, R102, R244), faults and completion (R98, R106, R131).
-/

namespace Sys2Proof.Machine

/-! ### Commands of a core -/

def findCmd (s : State) (core tag : Nat) : Option Cmd := (getCore s core).cmds.find? (·.tag = tag)

def modCmd (s : State) (core tag : Nat) (f : Cmd → Cmd) : State :=
  modCore s core fun c => { c with cmds := c.cmds.map fun m => if m.tag = tag then f m else m }

/-- The tag a new command takes: the first one above the last given that is not outstanding, wrapping from 255 to 0 (R95). -/
def nextTag (c : Core) : Nat :=
  match ((List.range 256).map fun i => (c.lastTag + 1 + i) % 256).find? fun t => !c.cmds.any (·.tag = t) with
  | some t => t
  | none => 0

/-- The wider of two optional scopes (R114). -/
def widerScope (a b : Option Scope) : Option Scope :=
  match a, b with
  | none, b => b
  | a, none => a
  | some x, some y => if scopeAtLeast x y then some x else some y

/-- The acquire that an ORD rel before an engine command stands for (R114). -/
def prefixAcquire (h : Hart) : Option Scope := if orderReleases (orderNow h).1 then some (orderNow h).2 else none

/-- Whether an engine scope may be used: no hart scope, and bound by the launch (R93). -/
def engineScope (s : State) (h : Hart) (sc : Option Scope) : Bool :=
  match sc with
  | none => true
  | some sc => decide (sc ≠ .hart) && bindsScope s h sc

/-- What a command has asked of the host, and been denied, concerns it no more. -/
def dropAsked (s : State) (core tag : Nat) : State :=
  let mine := fun (r : AtsRequest) => r.core = core && r.tag = tag
  modDie s (dieOf core) fun d =>
    { d with atsPending := d.atsPending.filter (!mine ·), atsDenied := d.atsDenied.filter (!mine ·) }

/-- A command enters flight: it takes a tag, which x[d] receives (R94, R95). -/
def issueCmd (s : State) (kind : EngineKind) (d : Reg) (dst src : Word) (len : Nat) (acq : Option Scope) (rel : Scope)
    (post' : Option Nat) (coll : Option CollDesc) : State :=
  let h := me s
  let core := coreOf s.cur
  let tag := nextTag (getCore s core)
  let (serial, s) := fresh (dropAsked s core tag)
  let cmd : Cmd :=
    { kind := kind, tag := tag, hart := s.cur, gen := h.gen, fromS := decide (h.mode ≠ .U), own := h.sr.own, tenant := h.sr.tenant
      launch := h.launch, flush := flushOn h, dst := dst, src := src, len := len, moved := 0, base := 0, total := len
      acq := acq, rel := rel, post := post', state := .queued, stamp := stampOf s (dieOf core), abandoned := false, coll := coll
      serial := serial, issue := serial, posted := false, asked := false }
  let s := modCore s core fun c =>
    { c with cmds := c.cmds ++ [cmd], lastTag := tag, copyQ := if kind = .copy then c.copyQ ++ [tag] else c.copyQ }
  post (retire (modMe s fun h => writeX h d (BitVec.ofNat 64 tag)) 4) (.engineCommandStart core tag)

/-- Queue named by x[d] for the post of the tag (R94). DESIGN CHOICE (log entry 61): with bit 63 clear, bits [62:60] name nothing, and the
command is issued whatever they hold. -/
def postQueue (x : Word) : Option Nat := if x.getLsbD 63 then some (field x.toNat 60 3) else none

/-! ### CPCMD and BKCMD -/

/-- Whether two stretches of addresses meet (R101). -/
def bulkOverlap (dst src : Word) (len : Nat) : Bool := decide (len ≠ 0) && overlap (addrOf dst) len (addrOf src) len

def execCpcmd (d a b : Reg) (acq rel : Option Scope) (s : State) : Result :=
  let h := me s
  let x := readX h d
  if isHandler s.cur || !engineScope s h acq || !engineScope s h rel || field x.toNat 32 28 ≠ 0 then
    illegal s (.cpcmd d a b acq rel)
  else if 2 ≤ (getCore s (coreOf s.cur)).copyQ.length then waitFor s .copyQueue
  else if 256 ≤ (getCore s (coreOf s.cur)).cmds.length then waitFor s .tagFree
  else
    afterFences s false true <| .next (issueCmd s .copy d (readX h a) (readX h b) (field x.toNat 0 32) (widerScope acq (prefixAcquire h)) (rel.getD .core)
      (postQueue x) none)

def execBkcmd (d a b : Reg) (acq rel : Option Scope) (s : State) : Result :=
  let h := me s
  let x := readX h d
  let len := field x.toNat 0 40
  if isHandler s.cur || !engineScope s h acq || !engineScope s h rel || field x.toNat 40 20 ≠ 0 ||
      bulkOverlap (readX h a) (readX h b) len then
    illegal s (.bkcmd d a b acq rel)
  else if 4 ≤ bulkCount (getCore s (coreOf s.cur)) then waitFor s .bulkQueue
  else if 256 ≤ (getCore s (coreOf s.cur)).cmds.length then waitFor s .tagFree
  else
    afterFences s false true <| .next (issueCmd s .bulk d (readX h a) (readX h b) len (widerScope acq (prefixAcquire h)) (rel.getD .core) (postQueue x) none)

/-- The faulted command of a kind that a resume names (R99). -/
def resumable (s : State) (core tag : Nat) (kind : EngineKind) : Bool :=
  match findCmd s core tag with
  | some m =>
    decide (m.kind = kind) &&
      (match m.state with
       | .faulted _ => true
       | _ => false)
  | none => false

/-- Restart a faulted command with a remainder; its record, where it has not been delivered, goes with the state FAULTED (R99, R236). With
length 0 it completes at once, abandoned: it enters no queue and only its release is to come. -/
def resumeCmd (s : State) (d : Reg) (tag : Nat) (dst src : Word) (len : Nat) : State :=
  let core := coreOf s.cur
  let (n, s) := fresh s
  let s :=
    match findCmd s core tag with
    | some m => dropFault s m.hart m.gen tag
    | none => s
  let s := modCmd s core tag fun m =>
    { m with
      dst := dst, src := src, len := len, base := m.base + m.moved, moved := 0, acq := none, issue := n, asked := false
      state := if len = 0 then .moved else .queued
      abandoned := decide (len = 0) }
  let s := modCore s core fun c =>
    { c with
      copyQ :=
        if len ≠ 0 && (c.cmds.any fun m => m.tag = tag && decide (m.kind = .copy)) then c.copyQ ++ [tag] else c.copyQ }
  post (retire (modMe s fun h => writeX h d (BitVec.ofNat 64 tag)) 4)
    (if len = 0 then .engineCommandComplete core tag else .engineCommandStart core tag)

def execCpcmdResume (d a b : Reg) (s : State) : Result :=
  let h := me s
  let x := (readX h d).toNat
  if isHandler s.cur || field x 8 24 ≠ 0 || !resumable s (coreOf s.cur) (field x 0 8) .copy then illegal s (.cpcmdResume d a b)
  else if field x 32 32 ≠ 0 && decide (2 ≤ (getCore s (coreOf s.cur)).copyQ.length) then waitFor s .copyQueue
  else afterFences s false true <| .next (resumeCmd s d (field x 0 8) (readX h a) (readX h b) (field x 32 32))

def execBkcmdResume (d a b : Reg) (s : State) : Result :=
  let h := me s
  let x := (readX h d).toNat
  if isHandler s.cur || field x 8 24 ≠ 0 || !resumable s (coreOf s.cur) (field x 0 8) .bulk ||
      bulkOverlap (readX h a) (readX h b) (field x 32 32) then
    illegal s (.bkcmdResume d a b)
  else afterFences s false true <| .next (resumeCmd s d (field x 0 8) (readX h a) (readX h b) (field x 32 32))

/-! ### CPSTAT and TWAIT -/

/-- The state word of a tag (R100). -/
def cmdStatus (c : Core) (tag : Nat) : Word :=
  match c.cmds.find? (·.tag = tag) with
  | none => 0
  | some m =>
    let st : Nat :=
      match m.state with
      | .queued => 1
      | .running | .moved | .flushing => 2
      | .faulted c => 3 + 256 * c.toNat
      | .suspended => 4
    BitVec.ofNat 64 (st + 2 ^ 24 * ((m.base + m.moved) % 2 ^ 40))

def execCpstat (d a : Reg) (s : State) : Result :=
  let x := readX (me s) a
  if isHandler s.cur || 256 ≤ x.toNat then illegal s (.cpstat d a)
  else done4With s d (cmdStatus (getCore s (coreOf s.cur)) x.toNat)

/-- TWAIT (R97): it acquires at the release scope of the command it waited for, at core where the tag was complete at once. -/
def execTwait (a : Reg) (s : State) : Result :=
  let h := me s
  let x := readX h a
  let core := coreOf s.cur
  if isHandler s.cur || 256 ≤ x.toNat then illegal s (.twait a)
  else if tagBusy (getCore s core) x.toNat then
    let rel := ((getCore s core).cmds.find? (·.tag = x.toNat)).map (·.rel)
    waitFor (modMe s fun h => { h with met := some (.tag x.toNat (rel.getD .core)) }) (.tag x.toNat)
  else
    let sc :=
      match h.met with
      | some (.tag t sc) => if t = x.toNat then sc else .core
      | _ => .core
    done4 (acquireAt s core sc)

/-! ### COLCMD -/

/-- A descriptor as Table 5.2 lays it out. -/
def parseColl (b : List Byte) (sc : Scope) : CollDesc :=
  { op := b.getD 0 0, colid := BitVec.ofNat 16 (numAt b 2 2), npart := numAt b 4 4, count := numAt b 8 4, root := numAt b 12 4
    src := leWord (slice b 16 8), dst := leWord (slice b 24 8), reservedOk := decide (b.getD 1 0 = 0), scope := sc }

/-- COLCMD (R343): the descriptor is copied at issue. -/
def execColcmd (d a : Reg) (sc : Scope) (s : State) : Result :=
  let h := me s
  let p := readX h a
  if isHandler s.cur || !collectiveScope sc || !bindsScope s h sc then illegal s (.colcmd d a sc)
  else if p.toNat % 32 ≠ 0 || 0x20000 ≤ p.toNat then trapR s ⟨0x04, p, 0⟩
  else if 256 ≤ (getCore s (coreOf s.cur)).cmds.length then waitFor s .tagFree
  else
    let b := rawBytes s (dieOfHart s.cur) s.cur (localOf (coreOf s.cur) + p.toNat) 32
    let c := parseColl b sc
    afterFences s false true <| .next (issueCmd s .coll d c.dst c.src (c.count * 4) (prefixAcquire h) .core none (some c))

/-! ### Faults and ends -/

def kindCode : EngineKind → BitVec 8
  | .copy => 1
  | .bulk => 2
  | .coll => 3

/-- The next command of a core's copy queue may start. -/
def startNext (s : State) (core : Nat) : State :=
  match (getCore s core).copyQ with
  | t :: _ => post s (.engineCommandStart core t)
  | [] => s

/-- Whether the copy engine of a core holds a post, and starts no command meanwhile (R96). -/
def copyHolds (s : State) (core : Nat) : Bool := (getCore s core).posts.any fun p => decide (p.kind = .copy)

/-- A bulk engine is free of a command, and its die chooses again. -/
def freeBulk (s : State) (die serial : Nat) : State :=
  post (modDie s die fun d => { d with bulkRunning := d.bulkRunning.filter (· ≠ serial) }) (.bulkChunkSelect die)

/-- A command stops with a fault (R98): it leaves its engine, its tag stays outstanding, and its record joins the hart's fault queue
(R236); where the hart is gone it ends abandoned (R234). -/
def faultCmd (s : State) (core tag : Nat) (code : BitVec 8) (addr : Word) : State :=
  match findCmd s core tag with
  | none => s
  | some m =>
    let s := modCmd (dropAsked s core tag) core tag fun m => { m with state := .faulted code, asked := false }
    let s := modCore s core fun c => { c with copyQ := c.copyQ.filter (· ≠ tag) }
    let s := if m.kind = .copy then startNext s core else freeBulk s (dieOf core) m.serial
    if hartGone s m.hart m.gen then abandonCmd s core tag
    else
      let done := m.base + m.moved
      queueFault s m.hart m.gen
        ⟨code, kindCode m.kind, BitVec.ofNat 8 tag, m.fromS, addr, BitVec.ofNat 64 done, BitVec.ofNat 64 (m.total - done)⟩

/-- On whose behalf a command acts. -/
def cmdAgent (core : Nat) (m : Cmd) : Agent := ⟨core, m.hart, m.own, m.tenant, m.launch⟩

/-- Ask the host for a translation, unless that has been done (R216). -/
def askHost (s : State) (core : Nat) (m : Cmd) (page : Nat) (write : Bool) : State :=
  let r : AtsRequest := ⟨m.tenant.toNat, page, write, core, m.tag⟩
  if (getDie s (dieOf core)).atsPending.contains r then s
  else
    sendOut (modDie s (dieOf core) fun d => { d with atsPending := d.atsPending ++ [r] })
      (.atsRequest m.tenant.toNat page write)

/-- What the check of one line leads to. -/
inductive LineOutcome
  | ok (s : State) (t : Target)
  | failed (code : BitVec 8)
  | waits (s : State)

/-- The check of a line of a command. Where the host has denied the translation it is not present (R216). -/
def engineLine (s : State) (core : Nat) (m : Cmd) (p : Word) (write : Bool) (n : Nat) : LineOutcome :=
  match engineCheck s (cmdAgent core m) p (if write then rightW else rightR) write n with
  | .ok s t => .ok s t
  | .code c => .failed c
  | .needAts page =>
    if (getDie s (dieOf core)).atsDenied.contains ⟨m.tenant.toNat, page, write, core, m.tag⟩ then .failed 0x20
    else .waits (askHost s core m page write)

/-! ### Start -/

/-- ENGINE_COMMAND_START (R96, R130): the acquire precedes the command's first read. A copy command starts at the head of its engine's
queue. -/
def execEngineCommandStart (core tag : Nat) (s : State) : Result :=
  match findCmd s core tag with
  | none => idleEvent s
  | some m =>
    if m.state ≠ .queued then idleEvent s
    else if m.kind = .copy && (decide ((getCore s core).copyQ.head? ≠ some tag) || copyHolds s core) then idleEvent s
    else
      let ready :=
        match m.acq with
        | some sc => !unperformedBefore s m.hart m.issue && scopeSettled s m.hart (dieOf core) sc
        | none => true
      if !ready then .next (post s (.engineCommandStart core tag))
      else
        match m.kind with
        | .bulk => .next (post (modCmd s core tag fun m => { m with state := .running }) (.bulkChunkSelect (dieOf core)))
        | _ => .next (post (modCmd s core tag fun m => { m with state := .running }) (.enginePiece core tag))

/-! ### Pieces -/

/-- Every byte has been moved, or the command has been abandoned. -/
def movedCmd (s : State) (core tag : Nat) : State :=
  post (modCmd s core tag fun m => { m with state := .moved }) (.engineCommandComplete core tag)

/-- Whether a read of an engine has still to come after a write to the same bytes: an earlier write of its own command, which copies in
ascending order (R96), or an earlier access of the issuing hart (R111, R130). -/
def readHeld (s : State) (core : Nat) (m : Cmd) (t : Target) (n : Nat) : Bool :=
  (s.mca.any fun w =>
    (w.hart = engineAgent core m.tag || (w.hart = m.hart && w.id < m.issue)) && overlap w.key w.bytes.length t.key n) ||
  s.ops.any fun o => o.hart = m.hart && o.id < m.issue && o.atHome && overlap o.key o.size t.key n

/-- The bytes that a copy in ascending order writes (R96), of those read at `src` before any is written: where the destination starts inside
the source, the bytes that the copy itself has written are read again. -/
def ascending (src dst : Target) (bs : List Byte) : List Byte :=
  let d := dst.key - src.key
  if src.key < dst.key && d < bs.length then (List.range bs.length).map fun i => bs.getD (i % d) 0 else bs

/-- How many bytes a copy moves in one piece: where source and destination meet under different keys or pads, no more than lie before the
bytes that the copy writes. -/
def pieceLen (src dst : Target) (n : Nat) : Nat :=
  let d := dst.key - src.key
  if src.key < dst.key && d < n &&
      (decide (targetKey src ≠ targetKey dst) ||
        decide ((src.pad.map fun p => (p.1, p.2.1)) ≠ (dst.pad.map fun p => (p.1, p.2.1)))) then d
  else n

/-- Whether a target is host memory, whose writes are posted (R274): the host window, and routes through a root complex. -/
def postedRoute (t : Target) : Bool := 4 ≤ t.route

/-- Bytes of a command moved. -/
def noteMoved (s : State) (core tag n : Nat) (host : Bool) : State :=
  modCmd s core tag fun m => { m with moved := m.moved + n, posted := m.posted || host, asked := false }

/-- A piece of a copy goes ahead once the DRAM requests of its two lines have been made and served (R278, R279). -/
def withLinesAsked (s : State) (core : Nat) (m : Cmd) (src dst : Target) (k : State → Result) : Result :=
  if !isDram src.key && !isDram dst.key then k s
  else if !m.asked then
    let s := modCmd s core m.tag fun m => { m with asked := true }
    .next (post (askLine m.launch m.serial true (askLine m.launch m.serial false s src.key) dst.key) (.enginePiece core m.tag))
  else if lineWaits s m.serial then .next (post s (.enginePiece core m.tag))
  else k s

/-- One piece of a copy (R244). -/
def copyPiece (s : State) (core : Nat) (m : Cmd) : Result :=
  let src := m.src + BitVec.ofNat 64 m.moved
  let dst := m.dst + BitVec.ofNat 64 m.moved
  let n := min (m.len - m.moved) (min (64 - src.toNat % 64) (64 - dst.toNat % 64))
  if m.abandoned || n = 0 then .next (movedCmd s core m.tag)
  else
    match engineLine s core m src false n with
    | .failed c => .next (faultCmd s core m.tag c src)
    | .waits s => .next (post s (.enginePiece core m.tag))
    | .ok s ts =>
      match engineLine s core m dst true n with
      | .failed c => .next (faultCmd s core m.tag c dst)
      | .waits s => .next (post s (.enginePiece core m.tag))
      | .ok s td =>
        let n := pieceLen ts td n
        if readHeld s core m ts n then .next (post s (.enginePiece core m.tag))
        else
          withLinesAsked s core m ts td fun s =>
          match readTarget s (dieOf core) noHart ts n with
          | none => .next (faultCmd s core m.tag 0x26 src)
          | some bs =>
            let a := cmdAgent core m
            let s := sendPeer a (.read n) (chargeMiss a dst (chargeMiss a src s)) ts
            let s := sendPeer a (.write (applyPad td (ascending ts td bs))) s td
            let s := engineWrite s core (engineAgent core m.tag) td (applyPad td (ascending ts td bs))
            .next (post (noteMoved s core m.tag n (postedRoute td)) (.enginePiece core m.tag))

/-- Bytes of the chunk at hand of a bulk command. -/
def chunkLen (m : Cmd) : Nat := min 0x10000 (m.len - m.moved)

/-- Check the lines of one side of a chunk; the targets come in order. -/
def chunkLines (core : Nat) (m : Cmd) (write : Bool) :
    List (Word × Nat) → State → List (Target × Nat) → Except LineOutcome (State × List (Target × Nat))
  | [], s, acc => .ok (s, acc.reverse)
  | (p, n) :: l, s, acc =>
    match engineLine s core m p write n with
    | .ok s t => chunkLines core m write l s ((t, n) :: acc)
    | r => .error r

/-- The bytes of a chunk, all read before any is written (R101). -/
def readChunk (s : State) (core : Nat) (l : List (Target × Nat)) : Option (List Byte) :=
  l.foldl (fun acc e =>
    match acc with
    | none => none
    | some bs => (readTarget s (dieOf core) noHart e.1 e.2).map (bs ++ ·)) (some [])

/-- Write the bytes of a chunk, with the requests that carry them. -/
def writeChunk (core : Nat) (m : Cmd) : List (Target × Nat) → List Byte → State → State
  | [], _, s => s
  | (t, n) :: l, bs, s =>
    let out := applyPad t (bs.take n)
    writeChunk core m l (bs.drop n)
      (engineWrite (sendUnit (cmdAgent core m) (.write out) true s t) core (engineAgent core m.tag) t out)

/-- The requests for the lines that a chunk reads. -/
def sendLines (core : Nat) (m : Cmd) (s : State) (l : List (Target × Nat)) : State :=
  l.foldl (fun s e => sendUnit (cmdAgent core m) (.read e.2) false s e.1) s

/-- What a check that did not pass does to a bulk command; the record names the chunk's start (R98, R99). -/
def chunkStop (s : State) (core : Nat) (m : Cmd) (start : Word) (r : LineOutcome) : Result :=
  match r with
  | .failed c => .next (faultCmd s core m.tag c start)
  | .waits s => .next (post s (.enginePiece core m.tag))
  | .ok s _ => .next s

/-- One chunk of a bulk command (R101): its lines are checked, its reads begin, and its bytes are written; at its end the engine is free and the next chunk is chosen, but that the engine of the last chunk
keeps the command until its post is made (R96). -/
def bulkPiece (s : State) (core : Nat) (m : Cmd) : Result :=
  if !(getDie s (dieOf core)).bulkRunning.contains m.serial then idleEvent s
  else
    let n := chunkLen m
    let src := m.src + BitVec.ofNat 64 m.moved
    let dst := m.dst + BitVec.ofNat 64 m.moved
    if m.abandoned || n = 0 then .next (movedCmd s core m.tag)
    else
      match chunkLines core m false (pieces src n) s [] with
      | .error r => chunkStop s core m src r
      | .ok (s, from') =>
        match chunkLines core m true (pieces dst n) s [] with
        | .error r => chunkStop s core m dst r
        | .ok (s, to') =>
          if from'.any fun e => readHeld s core m e.1 e.2 then .next (post s (.enginePiece core m.tag))
          else if !m.asked then
            .next (post (modCmd s core m.tag fun m => { m with asked := true }) (.enginePiece core m.tag))
          else
            match readChunk s core from' with
            | none => .next (faultCmd s core m.tag 0x26 src)
            | some bs =>
              let s := sendLines core m s from'
              let s := noteMoved (writeChunk core m to' bs s) core m.tag n (to'.any fun e => postedRoute e.1)
              .next (if m.moved + n = m.len then movedCmd s core m.tag else freeBulk s (dieOf core) m.serial)

/-! ### Collectives (R102) -/

/-- Whether a descriptor is valid (R343). -/
def collOk (c : CollDesc) : Bool :=
  c.op.toNat ≤ 3 && c.reservedOk && 1 ≤ c.npart && c.npart ≤ domainCores c.scope * 8 && 1 ≤ c.count && c.count ≤ 4096 &&
    c.root < c.npart && c.src.toNat % 4 = 0 && c.dst.toNat % 4 = 0

/-- Commands of every core that stand joined to a round of the same launch, identifier and instance, oldest first: each joins at its issue
(R343), whether or not it has started. A command whose descriptor is not valid joins none. -/
def roundOf (s : State) (core : Nat) (m : Cmd) (c : CollDesc) : List (Nat × Cmd) :=
  let all := s.cores.flatMap fun e =>
    (e.2.cmds.filter fun x =>
      decide (x.kind = .coll) && (decide (x.state = .queued) || decide (x.state = .running)) && !x.abandoned && x.launch = m.launch && instanceOf e.1 c.scope = instanceOf core c.scope &&
        (match x.coll with
         | some y => decide (y.colid = c.colid) && decide (y.scope = c.scope) && collOk y
         | none => false)).map fun x => (e.1, x)
  sortBy (fun a b => decide (a.2.serial ≤ b.2.serial)) all

/-- Rank order: ascending HID[16:0]. -/
def byRank (l : List (Nat × Cmd)) : List (Nat × Cmd) :=
  sortBy (fun a b => decide (coreOf a.2.hart * 8 + ctxOf a.2.hart ≤ coreOf b.2.hart * 8 + ctxOf b.2.hart)) l

/-- A participant's source elements, or the fault code and address of what refused them. -/
def collSource (s : State) (core : Nat) (m : Cmd) (count : Nat) : Except LineOutcome (State × List Nat) :=
  match chunkLines core m false (pieces m.src (4 * count)) s [] with
  | .error r => .error r
  | .ok (s, l) =>
    if l.any fun e => readHeld s core m e.1 e.2 then .error (.waits s)
    else
    match readChunk s core l with
    | none => .error (.failed 0x26)
    | some bs => .ok (sendLines core m s l, (List.range count).map fun i => numAt bs (4 * i) 4)

/-- One step of the fold of a round: a from the lower ranks, b the next one. -/
def collStep (op a b : Nat) : Nat :=
  match op with
  | 0 => (a + b) % 2 ^ 32
  | 1 => (addVal fp32 false (unpack fp32 false a) (unpack fp32 false b)).1
  | _ => repack fp32 (maxVal (unpack fp32 false a) (unpack fp32 false b))

def collFold (op : Nat) : List (List Nat) → List Nat
  | [] => []
  | x :: xs => xs.foldl (fun acc y => List.zipWith (collStep op) acc y) x

/-- What keeps a round from being delivered: the first DST whose translation has been asked of the host. -/
def destHeld (n : Nat) : List (Nat × Cmd) → State → Option LineOutcome
  | [], _ => none
  | e :: l, s =>
    match chunkLines e.1 e.2 true (pieces e.2.dst n) s [] with
    | .error (.waits s) => some (.waits s)
    | .error _ => destHeld n l s
    | .ok (s, _) => destHeld n l s

/-- Write the result to a participant's DST. DESIGN CHOICE (log entry 62): a DST that its participant may not write faults that participant
alone; the others get the result. -/
def collDeliver (res : List Nat) (s : State) (e : Nat × Cmd) : State :=
  let bs := res.flatMap (leBytes 4)
  match chunkLines e.1 e.2 true (pieces e.2.dst bs.length) s [] with
  | .error (.failed c) => faultCmd s e.1 e.2.tag c e.2.dst
  | .error _ => faultCmd s e.1 e.2.tag 0x26 e.2.dst
  | .ok (s, l) =>
    let s := writeChunk e.1 e.2 l bs s
    movedCmd (noteMoved s e.1 e.2.tag e.2.len (l.any fun x => postedRoute x.1)) e.1 e.2.tag

/-- Read every source a round needs, in rank order. -/
def collSources (count : Nat) : List (Nat × Cmd) → State → List (List Nat) →
    Except ((Nat × Cmd) × LineOutcome) (State × List (List Nat))
  | [], s, acc => .ok (s, acc.reverse)
  | e :: l, s, acc =>
    match collSource s e.1 e.2 count with
    | .ok (s, v) => collSources count l s (v :: acc)
    | .error r => .error (e, r)

/-- Every participant of a round gets DEVICE_ERROR (R102), but one that has a fault of its own. DESIGN CHOICE (log entry 62): where one
participant's SRC cannot be read, no result exists, and the others get DEVICE_ERROR. -/
def failRound (s : State) (ms : List (Nat × Cmd)) (own : Option (Nat × Nat × BitVec 8)) : State :=
  ms.foldl (fun s e =>
    match own with
    | some (core, tag, c) => faultCmd s e.1 e.2.tag (if e.1 = core && e.2.tag = tag then c else 0x26) e.2.src
    | none => faultCmd s e.1 e.2.tag 0x26 e.2.src) s

/-- A complete round: participants that disagree fault, otherwise the result goes to every DST (R102). -/
def runRound (s : State) (ms : List (Nat × Cmd)) (c : CollDesc) : Result :=
  let agree := ms.all fun e =>
    match e.2.coll with
    | some y => decide (y.op = c.op) && y.npart = c.npart && y.count = c.count && y.root = c.root
    | none => false
  if !agree then .next (failRound s ms none)
  else
    let ranked := byRank ms
    let need := if c.op = 3 then (ranked.drop c.root).take 1 else ranked
    match collSources c.count need s [] with
    | .error (e, .failed code) => .next (failRound s ms (some (e.1, e.2.tag, code)))
    | .error (e, .waits s) => .next (post s (.enginePiece e.1 e.2.tag))
    | .error (_, .ok s _) => .next s
    | .ok (s, vs) =>
      match destHeld (4 * c.count) ranked s with
      | some (.waits s) => .next ((ms.take 1).foldl (fun s e => post s (.enginePiece e.1 e.2.tag)) s)
      | _ => .next (ranked.foldl (collDeliver (collFold c.op.toNat vs)) s)

/-- A collective command waits for its round to be complete, with every member started. -/
def collPiece (s : State) (core : Nat) (m : Cmd) (c : CollDesc) : Result :=
  if !collOk c then .next (faultCmd s core m.tag 0x28 m.src)
  else if m.abandoned then .next (movedCmd s core m.tag)
  else
    let r := roundOf s core m c
    let n :=
      match r with
      | e :: _ => (e.2.coll.map (·.npart)).getD 1
      | [] => 1
    if r.length < n || !((r.take n).any fun e => e.1 = core && e.2.tag = m.tag) || (r.take n).any fun e => e.2.state ≠ .running then
      .next (post s (.enginePiece core m.tag))
    else runRound s (r.take n) c

/-- ENGINE_PIECE (R244). -/
def execEnginePiece (core tag : Nat) (s : State) : Result :=
  match findCmd s core tag with
  | none => idleEvent s
  | some m =>
    if m.state ≠ .running then idleEvent s
    else
      match m.kind, m.coll with
      | .copy, _ => copyPiece s core m
      | .bulk, _ => bulkPiece s core m
      | .coll, some c => collPiece s core m c
      | .coll, none => idleEvent s

/-! ### Choice of bulk chunks (R101, R279) -/

def launchPrio (s : State) (l : Nat) : Nat :=
  match getLaunch s l with
  | some v => v.prio
  | none => 0

/-- Bulk commands of a die at a chunk boundary. -/
def waitingBulk (s : State) (die : Nat) : List (Nat × Cmd) :=
  (s.cores.filter fun e => dieOf e.1 = die).flatMap fun e =>
    (e.2.cmds.filter fun m =>
      decide (m.kind = .bulk) && (decide (m.state = .running) || decide (m.state = .suspended)) &&
        !(getDie s die).bulkRunning.contains m.serial).map fun m => (e.1, m)

/-- BULK_CHUNK_SELECT (R101): a free engine takes the chunk of the highest launch priority, the oldest among equals; commands of an
exhausted tenant are suspended. -/
def execBulkChunkSelect (die : Nat) (s : State) : Result :=
  let all := waitingBulk s die
  let s := all.foldl (fun s e =>
    modCmd s e.1 e.2.tag fun m => { m with state := if exhausted s m.tenant.toNat then .suspended else .running }) s
  if 16 ≤ (getDie s die).bulkRunning.length then .next s
  else
    let open' := all.filter fun e => !exhausted s e.2.tenant.toNat
    let before := fun (a b : Nat × Cmd) =>
      decide (launchPrio s b.2.launch < launchPrio s a.2.launch) ||
        (decide (launchPrio s b.2.launch = launchPrio s a.2.launch) && decide (a.2.serial ≤ b.2.serial))
    match sortBy before open' with
    | [] => .next s
    | e :: _ =>
      let s := modDie s die fun d => { d with bulkRunning := d.bulkRunning ++ [e.2.serial] }
      .next (post s (.enginePiece e.1 e.2.tag))

/-! ### Completion (R96, R105, R106, R131) -/

def dropCmd (s : State) (core tag : Nat) : State :=
  noteEmpty (modCore s core fun c => { c with cmds := c.cmds.filter (·.tag ≠ tag), copyQ := c.copyQ.filter (· ≠ tag) }) (clusOf core)

/-- The engine of a command goes on: the copy engine with its next command, a bulk engine with the next chunk. -/
def engineGoesOn (s : State) (core : Nat) (kind : EngineKind) (serial : Nat) : State :=
  match kind with
  | .copy => startNext s core
  | .bulk => freeBulk s (dieOf core) serial
  | .coll => s

def cmdRecord (core : Nat) (m : Cmd) : EventRec :=
  ⟨1 + kindCode m.kind, if m.abandoned then 1 else 0, m.tenant, BitVec.ofNat 8 m.tag, BitVec.ofNat 8 (core % 16 + ctxOf m.hart % 8 * 16),
    BitVec.ofNat 64 (m.base + m.moved), m.launch, 0, .zero⟩

/-- Whether the release of a command may be performed (R131): its last write applied in its die's view, and the waits of its scope. -/
def cmdReleased (s : State) (core : Nat) (m : Cmd) : Bool :=
  !(s.mca.any fun w => w.hart = engineAgent core m.tag) && scopeSettled s m.hart (dieOf core) m.rel

/-- Whether a sys release has posted writes to host memory to see to (R127, R274). -/
def needsFlush (m : Cmd) : Bool := m.posted && decide (m.rel = .sys)

/-- The command is complete: its event record, which waits for room (R65), then its tag; then its post, which its engine holds until it is
made (R96). -/
def completeCmd (s : State) (core : Nat) (m : Cmd) : State :=
  let s := dropCmd (postRecord s (clusOf core) (cmdRecord core m)) core m.tag
  match m.post with
  | none => engineGoesOn s core m.kind m.serial
  | some q =>
    post (modCore s core fun c => { c with posts := c.posts ++ [⟨m.kind, m.tag, q, m.launch, m.serial⟩] })
      (.engineCommandComplete core m.tag)

/-- Make the oldest post of a tag, where the queue has room and no QPUSH is blocked on it (R105). DESIGN CHOICE (log entry 82): a post that waits
yields to the QPUSH calls that block after it as well. -/
def makePost (s : State) (core tag : Nat) : State :=
  let c := getCore s core
  match c.posts.find? (·.tag = tag) with
  | none => s
  | some p =>
    if 16 ≤ (queueOf c p.queue).length || c.pushers.any (·.1 = p.queue) then post s (.engineCommandComplete core tag)
    else
      let s := setQueue s core p.queue (queueOf c p.queue ++ [⟨BitVec.ofNat 64 tag, p.world⟩])
      engineGoesOn (noteEmpty (modCore s core fun c => { c with posts := c.posts.erase p }) (clusOf core)) core p.kind p.serial

/-- ENGINE_COMMAND_COMPLETE (R131): the release, with the zero-length read that completes posted writes for a sys release (R274), then the
event record, then the tag, then the post. -/
def execEngineCommandComplete (core tag : Nat) (s : State) : Result :=
  let s := makePost s core tag
  match findCmd s core tag with
  | none => .next s
  | some m =>
    match m.state with
    | .moved =>
      if !cmdReleased s core m then .next (post s (.engineCommandComplete core tag))
      else if needsFlush m then
        .next (post (modCmd (sendOut s (.zeroRead m.tenant.toNat core tag)) core tag fun m => { m with state := .flushing, posted := false })
          (.engineCommandComplete core tag))
      else if 64 ≤ (getCluster s (clusOf core)).eventQ.length then .next (post s (.engineCommandComplete core tag))
      else .next (completeCmd s core m)
    | .flushing =>
      -- the host has completed the zero-length read
      .next (post (modCmd s core tag fun m => { m with state := .moved }) (.engineCommandComplete core tag))
    | _ => .next s

/-- The side of a command that waits for the host: its destination where the request was for a write (R244). -/
def waitedSide (s : State) (core : Nat) (m : Cmd) : Word :=
  let w := (getDie s (dieOf core)).atsPending.any fun r => r.core = core && r.tag = m.tag && r.write
  (if w then m.dst else m.src) + BitVec.ofNat 64 m.moved

/-- COMPLETION_TIMEOUT (R274): the host has answered no read, zero-length read or translation request in time; the command ends with
DEVICE_ERROR, and where its release had only the zero-length read to come, with every byte moved. -/
def execCompletionTimeout (core tag : Nat) (s : State) : Result :=
  match findCmd s core tag with
  | none => idleEvent s
  | some m =>
    if m.state ≠ .running && m.state ≠ .flushing then idleEvent s
    else
      let p := if m.state = .running then waitedSide s core m else m.dst + BitVec.ofNat 64 m.moved
      .next (faultCmd s core tag 0x26 p)

end Sys2Proof.Machine
end

