-- ==== Sys2Proof/Machine/Home.lean ====
section
/-!
DEFINITION. Operations that execute at a home core: atomics (R332 to R334), active messages and their handlers (R48 to R53, R370 to
R373), MWAIT and MPOLL, and the return of what the home answers.
-/

namespace Sys2Proof.Machine

/-! ### Sending -/

/-- An operation leaves for a home core; the event there follows. -/
def sendHome (s : State) (core id : Nat) (e : Event) : State :=
  post (modCore s core fun c => { c with homeQ := c.homeQ ++ [id] }) e

/-- A hart that waits for the reply to an operation it has itself sent (R74). -/
def awaitReply (s : State) (id : Nat) : Result := waitFor s (.reply id)

/-- The acquire scope of the unit at hand, and its release scope. -/
def acquireScope (h : Hart) : Option Scope := if orderAcquires (orderNow h).1 then some (orderNow h).2 else none
def releaseScope (h : Hart) : Option Scope := if orderReleases (orderNow h).1 then some (orderNow h).2 else none

/-- A target as an operation of the unit at hand writes it: seq at pkg or sys scope reaches every view at one instant (R117). -/
def orderedTarget (h : Hart) (t : Target) : Target := if seqEverywhere h then { t with prop := .mca } else t

/-! ### AMO -/

/-- Width in bits of an atomic. -/
def amoWidth : AmoSize → Nat
  | .w => 32
  | .d => 64

/-- The new value of Table 21.1, none where CAS does not write. -/
def amoNew (a : AmoArgs) (old : Nat) : Option Nat :=
  let w := amoWidth a.sz
  let v := a.v.toNat % 2 ^ w
  let f := if a.sz = .w then fp32 else fp64
  match a.op with
  | .add => some ((old + v) % 2 ^ w)
  | .and => some (old &&& v)
  | .or => some (old ||| v)
  | .xor => some (old ^^^ v)
  | .min => some (if signedOf w v < signedOf w old then v else old)
  | .max => some (if signedOf w old < signedOf w v then v else old)
  | .minu => some (min old v)
  | .maxu => some (max old v)
  | .swap => some v
  | .cas => if old = v then some (a.swap.toNat % 2 ^ w) else none
  | .fadd => some (addVal f false (unpack f false old) (unpack f false v)).1

/-- The old value as x[d] takes it (Table 21.1). -/
def amoResult (a : AmoArgs) (old : Nat) : Word :=
  match a.sz with
  | .d => BitVec.ofNat 64 old
  | .w =>
    match a.op with
    | .minu | .maxu | .fadd => BitVec.ofNat 64 old
    | _ => (BitVec.ofNat 32 old).signExtend 64

/-- Where an operation in flight goes. -/
def opTarget (o : Op) : Target := ⟨addrOf o.ptr, o.key, o.prop, o.route, o.inst, o.keyh, false, false, false, none⟩

/-- Read-modify-write of an atomic in the view of a die: the answer and the state after it. -/
def amoApply (s : State) (die : Nat) (o : Op) (a : AmoArgs) : State × Reply :=
  let n := amoWidth a.sz / 8
  match readStored s die noHart (opTarget o) n with
  | none => (if o.dest = 0 then countError s die else s, .value (Config.freeWord s.tick 32) true)
  | some bs =>
    let old := leNat bs
    let s :=
      match amoNew a old with
      | some v => writeStored s die noHart (opTarget o) (leBytes n v) (decide (o.prop = .mca))
      | none => s
    (s, .value (amoResult a old) false)

/-- AMO (R333). Memory of another device answers at its own home. An acquire waits for the reply, but in a handler whose own core
is the home, where the AMO runs only after the handler (R333). -/
def execAmo (op : AmoOp) (sz : AmoSize) (d a b : Reg) (s : State) : Result :=
  let h := me s
  if isHandler s.cur && decide (d ≠ 0) then illegal s (.amo op sz d a b)
  else
    let n := amoWidth sz / 8
    let p := readX h a
    withAccess s p (.amo n) fun s t =>
      withSlots s 1
        (afterFences s true true (orderedBefore s
          (afterSettle s t.prop
            (let args : AmoArgs := ⟨op, sz, readX h b, readX h (nextReg b)⟩
             let s := dropL1 s (coreOf s.cur) t.key
             let (id, s) := startOp s (.amo args) (orderedTarget h t) p n 1 d (acquireScope h) (releaseScope h)
             let s :=
               if isOuter t.key then
                 match findOp s id with
                 | some o =>
                   let r := amoApply (sendPeer (hartAgent s s.cur) (.amo args) s t) (dieOfHart s.cur) o args
                   sendReply r.1 id r.2 .zero
                 | none => s
               else sendHome s (homeCore t.key) id (.amoHomeExecute (homeCore t.key))
             if (acquireScope h).isSome && !(isHandler s.cur && decide (homeCore t.key = coreOf s.cur)) then awaitReply s id
             else .next (retire (if d = 0 then orderedAfter s else modMe (orderedAfter s) (markPending d.toNat id)) 4)))))

/-! ### Arrival at a home -/

/-- Whether an earlier operation of the same core to the same line or to some of the same bytes has still to execute at its home (R89). -/
def overtakes (s : State) (o : Op) : Bool :=
  s.ops.any fun e =>
    e.id < o.id && coreOf e.hart = coreOf o.hart && e.reply.isNone && decide (e.kind ≠ .load) && decide (e.kind ≠ .store) &&
      (e.key / 64 = o.key / 64 || overlap e.key e.size o.key o.size)

/-- Whether writes of the sender to the bytes of an operation have still to reach its home (R89). -/
def writesAhead (s : State) (die : Nat) (o : Op) : Bool :=
  (s.flights.any fun f => f.id < o.id && f.src = dieOfHart o.hart && f.dst = die && overlap f.key f.bytes.length o.key o.size) ||
    s.mca.any fun w => w.id < o.id && w.hart = o.hart && overlap w.key w.bytes.length o.key o.size

/-- An operation may execute at a home on `die`: its causal predecessors have been applied there (R122). Where its write reaches all views
at once, those of the home's view, in which it executes, have been applied on every die as well (R121, R124). -/
def predecessorsMet (s : State) (die : Nat) (o : Op) : Bool :=
  (if o.prop = .mca then viewSettled s (o.stamp.join (stampOf s die)) else o.stamp.le (stampOf s die)) && !writesAhead s die o

/-- Operations of a kind that may arrive next at a home core: nothing fixes the order in which operations of different cores, or to
different lines, arrive (R128). -/
def arrivals (s : State) (core : Nat) (sel : Op → Bool) : List Op :=
  let q := s.ops.filter fun o => (getCore s core).homeQ.contains o.id
  q.filter fun o => sel o && !overtakes s o && predecessorsMet s (dieOf core) o

/-- One of a list, by a free choice. -/
def pick (s : State) (place : Nat) (l : List Op) : Option Op :=
  match l with
  | [] => none
  | o :: _ => some ((l[Config.choose s.tick place % l.length]?).getD o)

def leaveHome (s : State) (core id : Nat) : State :=
  modCore s core fun c => { c with homeQ := c.homeQ.filter (· ≠ id), held := c.held.filter (· ≠ id) }

def handlerBusy (s : State) (core : Nat) : Bool := decide ((getHart s (hartKey core 8)).tenure ≠ .free)

/-- Take the next arrival of a kind at a home whose handler context is free; an Idle cluster wakes first (R292). -/
def atHome (s : State) (core : Nat) (sel : Op → Bool) (again : Event) (k : Op → Result) : Result :=
  let q := s.ops.filter fun o => (getCore s core).homeQ.contains o.id && sel o
  if q = [] then idleEvent s
  else if (getCluster s (clusOf core)).idle then .next (postAll s [.clusterWake (clusOf core), again])
  else if handlerBusy s core then .next (post s again)
  else
    match pick s 2 (arrivals s core sel) with
    | some o => k o
    | none => .next (post s again)

def isMessage (o : Op) : Bool :=
  match o.kind with
  | .msg _ _ _ _ => true
  | _ => false

/-- AMO_HOME_EXECUTE (R333): the home reads the line and writes it (R278). -/
def execAmoHomeExecute (core : Nat) (s : State) : Result :=
  atHome s core isAmo (.amoHomeExecute core) fun o =>
    match o.kind with
    | .amo a =>
      let s := askLines o.launch o.id [(o.key, false), (o.key, true)] (leaveHome s core o.id)
      let r := amoApply s (dieOf core) o a
      .next (sendReply r.1 o.id r.2 (stampOf r.1 (dieOf core)))
    | _ => idleEvent s

/-! ### Messages -/

/-- Fields of a HID (Table 2.5). -/
def hidCtx (h : BitVec 32) : Nat := (h.extractLsb' 0 3).toNat
def hidCore (h : BitVec 32) : Nat := (h.extractLsb' 3 14).toNat
def hidDev (h : BitVec 32) : BitVec 6 := h.extractLsb' 17 6
def hidHnd (h : BitVec 32) : Bool := h.getLsbD 23
def hidGen (h : BitVec 32) : BitVec 8 := h.extractLsb' 24 8

/-- Whether a device number names a device that messages reach: this one, or one of its group (R372). -/
def inGroup (s : State) (dev : BitVec 6) : Bool :=
  if s.grouped then decide (dev = s.dev) || s.groupTenants.any (fun e => e.1 / 64 = dev.toNat)
  else decide (dev = 0)

/-- Where a message for another device is keyed. -/
def messageKey (core : Nat) : Nat := localOf core

/-- MSEND (R372). -/
def execMsend (d a b : Reg) (n : BitVec 4) (s : State) : Result :=
  let h := me s
  if isHandler s.cur && decide (d ≠ 0) then illegal s (.msend d a b n)
  else
    withSlots s 1
      (afterFences s false true (orderedBefore s
        (let hid := (readX h a).setWidth 32
         let mine := hidOf s s.cur
         let s := modCore s (coreOf s.cur) fun c => { c with sent := countUp c.sent h.launch }
         let t : Target := .plain 0 (messageKey (hidCore hid)) false
         let here := decide (hidDev hid = s.dev)
         let t := if here then t else { t with key := outerKey 1 (hidDev hid).toNat 0, route := 1 }
         let (id, s) := startOp s (.msg hid n (readX h b) mine) t 0 0 1 d (acquireScope h) (releaseScope h)
         let s :=
           if here then sendHome s (hidCore hid) id (.messageArrival (hidCore hid))
           else if inGroup s (hidDev hid) then
             sendPeer (hartAgent s s.cur) (.msend hid n (readX h b) id) { s with sentOut := s.sentOut ++ [.linkMessage id hid n (readX h b)] } t
           else sendReply s id (.value 1 false) .zero
         if (acquireScope h).isSome then awaitReply s id
         else .next (retire (if d = 0 then s else modMe s (markPending d.toNat id)) 4))))

/-- Entry n of the handler table of a hart (R49); zero where there is none or the hart's owner may not read it. -/
def handlerEntry (s : State) (h : Nat) (n : Nat) : Word :=
  let m := (getHart s h).sr.msgb
  if m = 0 then 0
  else
    match agentRead s (hartAgent s h) (m + BitVec.ofNat 64 (8 * n)) 8 with
    | some b => leWord b
    | none => 0

/-- The requests of that read (R278). -/
def chargeHandler (s : State) (h n : Nat) : State :=
  let m := (getHart s h).sr.msgb
  if m = 0 then s else chargeAgent (hartAgent s h) (m + BitVec.ofNat 64 (8 * n)) 8 s

/-- The tenant a message speaks for. -/
def senderTenant (s : State) (o : Op) : BitVec 4 :=
  match getLaunch s o.launch with
  | some l => l.tenant
  | none => (getHart s o.hart).sr.tenant

/-- The status that a message meets on arrival, none where its handler runs (Table 3.8). -/
def judge (s : State) (core : Nat) (o : Op) (hid : BitVec 32) (n : BitVec 4) : Option Word :=
  let k := hartKey core (hidCtx hid)
  let v := getHart s k
  if hidHnd hid || decide (v.tenure ≠ .running) || decide (v.gen ≠ hidGen hid) || retiring s v.launch then some 1
  else if decide (v.sr.tenant ≠ senderTenant s o) || decide (handlerEntry s k n.toNat = 0) then some 2
  else none

/-- The scalar registers of a handler at its entry (R49): all undefined but x3, x4 and x5. -/
def handlerX (tick : Nat) (arg : Word) (sender target : BitVec 32) : Vector Word 32 :=
  Vector.ofFn fun i =>
    if i.val = 0 then 0
    else if i.val = 3 then arg
    else if i.val = 4 then sender.setWidth 64
    else if i.val = 5 then target.setWidth 64
    else Config.freeWord tick (64 + i.val)

/-- The handler context at the start of a handler (R49). -/
def handlerStart (s : State) (o : Op) (k : Nat) (entry arg : Word) (sender hid : BitVec 32) : Hart :=
  let v := getHart s k
  { Hart.reset with
    tenure := .running
    mode := .U
    pc := evenPc entry
    x := handlerX s.tick arg sender hid
    sr := { SpecialRegs.reset with own := v.sr.own, tenant := v.sr.tenant, launch := v.sr.launch, keyh := v.sr.keyh }
    launch := v.launch
    msg := some ⟨o.id, k, v.gen⟩ }

/-- MESSAGE_ARRIVAL (R48): the message is judged, and its handler starts with the acquire that a released message carries (R129). -/
def execMessageArrival (core : Nat) (s : State) : Result :=
  atHome s core isMessage (.messageArrival core) fun o =>
    match o.kind with
    | .msg hid n arg sender =>
      let s := leaveHome s core o.id
      let k := hartKey core (hidCtx hid)
      (match judge s core o hid n with
       | some st =>
         let s := if st = 2 && decide ((getHart s k).sr.tenant = senderTenant s o) then chargeHandler s k n.toNat else s
         .next (sendReply s o.id (.value st false) (stampOf s (dieOf core)))
       | none =>
         let v := handlerStart s o k (handlerEntry s k n.toNat) arg sender hid
         let s' := setHart (chargeHandler s k n.toNat) (hartKey core 8) v
         .next
           (match o.rel with
            | some sc => acquireAt s' core sc
            | none => s'))
    | _ => idleEvent s

/-- MPEND grows by one and saturates (R370). -/
def raiseMpend (h : Hart) : Hart := if h.mpend = BitVec.allOnes 32 then h else { h with mpend := h.mpend + 1 }

/-- MRET (R371). -/
def execMret (s : State) : Result :=
  if !isHandler s.cur then illegal s .mret
  else if !handlerReleased s (coreOf s.cur) then waitFor s .handlerEnd
  else
    let core := coreOf s.cur
    match (me s).msg with
    | none => .next (freeHandler s core)
    | some m =>
      let s :=
        if (getHart s m.target).tenure = .running && (getHart s m.target).gen = m.gen then modHart s m.target raiseMpend
        else s
      let l := (findOp s m.op).map (·.launch)
      let s := modCore s core fun c => { c with received := countUp c.received (l.getD 0) }
      .next (endHandler s core 0)

/-- HANDLER_BUDGET_EXHAUSTED (R50): a handler that has executed 4,096 instructions ends with status FAILED. -/
def execHandlerBudgetExhausted (core : Nat) (s : State) : Result :=
  let v := getHart s (hartKey core 8)
  if v.tenure = .running && 4096 ≤ v.budget then .next (endHandler s core 3) else idleEvent s

/-- Read and clear MPEND, with the acquire at core (R370, R379). -/
def takeMpend (s : State) (d : Reg) : Result :=
  let m := (me s).mpend
  let s := acquireAt s (coreOf s.cur) .core
  .next (modMe s fun h => retireHart 4 (writeX { h with mpend := 0 } d (m.setWidth 64)))

/-- MWAIT (R379). -/
def execMwait (d : Reg) (s : State) : Result :=
  if isHandler s.cur then illegal s (.mwait d)
  else if (me s).mpend = 0 then waitFor s .message
  else takeMpend s d

/-- MPOLL (R370): 0 in the handler context. -/
def execMpoll (d : Reg) (s : State) : Result :=
  if isHandler s.cur then done4With s d 0
  else takeMpend s d

/-! ### Replies -/

/-- The register after d. -/
def writePair (h : Hart) (d : Reg) (lo hi : Word) : Hart := if d = 0 then h else writeX (writeX h d lo) (nextReg d) hi

/-- What a hart that waits for a reply does with it: the result, the acquire, the completion, or the trap (R197, R469). -/
def completeReply (s : State) (o : Op) (r : Reply) : State :=
  let finish := fun (f : Hart → Hart) =>
    let s := modHart s o.hart fun h => endReplyWait (f h)
    match o.acq with
    | some sc => acquireAt s (coreOf o.hart) sc
    | none => s
  match r with
  | .value v bad =>
    finish fun h => if bad && decide (o.dest ≠ 0) then markFailed o.dest.toNat o.ptr (writeX h o.dest v) else writeX h o.dest v
  | .pair lo hi => finish fun h => writePair h o.dest lo hi
  | .latched lo hi pr l =>
    finish fun h => { (if pr then writePair h o.dest lo hi else writeX h o.dest lo) with latch := l }
  | .counts l => finish fun h => writePair h o.dest l.seq (l.b ++ l.f ++ l.n)
  | .ack => finish id
  | .misuse => takeTrap s o.hart ⟨0x0C, o.ptr, 0⟩
  | .illegal w => takeTrap s o.hart ⟨0x01, w, 0⟩
  | .memoryError => takeTrap s o.hart ⟨0x10, o.ptr, 0⟩

/-- The result of an instruction that did not wait reaches its register, unless that has been written since. -/
def lateResult (s : State) (o : Op) (r : Reply) : State :=
  match r with
  | .value v bad =>
    modHart s o.hart fun h =>
      if mapGet 0 h.xpend o.dest.toNat = o.id then
        (if bad then markFailed o.dest.toNat o.ptr (writeX h o.dest v) else writeX h o.dest v)
      else h
  | _ => s

/-- A message that bounced, was refused or failed counts as received at the sender's core (R53). DESIGN CHOICE (log entry 66): a message to another
device that ends DONE counts as received nowhere on this one, since the sweeps of R54 cover one package and no rule says more. -/
def countStatus (s : State) (o : Op) (r : Reply) : State :=
  match o.kind, r with
  | .msg _ _ _ _, .value v _ =>
    if v = 0 then s else modCore s (coreOf o.hart) fun c => { c with received := countUp c.received o.launch }
  | _, _ => s

/-- Hart keys from here up stand for requesters on other devices, by the Krytuk port they reach this one through. -/
def remoteBase : Nat := 0x100000000

/-- Whether what an operation did at its home has still to reach the view of the sender's die: the writes that its answer follows (R118), and
on a REPL page, whose writes no vector counts, the home's own writes to the sender's replica (R109, R125). -/
def replyBehind (s : State) (o : Op) : Bool :=
  let die := dieOfHart o.hart
  !o.replyStamp.le (stampOf s die) ||
    (o.atHome && s.flights.any fun f =>
      decide (f.prop = .repl) && f.id < o.replySerial && f.src = homeDie o.key && f.dst = die)

/-- HOME_REPLY_ARRIVAL (R48, R197): what the home answered reaches the sender, once its lines of DRAM have been served (R279) and the writes
it follows have been applied in the sender's view. -/
def execHomeReplyArrival (op : Nat) (s : State) : Result :=
  match findOp s op with
  | none => idleEvent s
  | some o =>
    match o.reply with
    | none => idleEvent s
    | some r =>
      if remoteBase ≤ o.hart then
        let st : List Byte :=
          match r with
          | .value v _ => leBytes 8 v.toNat
          | _ => []
        let s := dropOp s op
        .next (sendAnswer s (o.hart - remoteBase) (o.ptr.toNat / 2 ^ 36 % 2 ^ 20) 0 st)
      else if lineWaits s op then .next (post s (.homeReplyArrival op))
      else if replyBehind s o then .next (post s (.homeReplyArrival op))
      else
        let s := countStatus (dropOp s op) o r
        -- the copy that another access of the core may have filled meanwhile is older than what the reply has read (R91, R92)
        let s := if o.atHome then dropL1 s (coreOf o.hart) o.key else s
        let v := getHart s o.hart
        if v.tenure ≠ .running || decide (v.gen ≠ o.gen) then .next s
        else if v.wait = some (.reply op) then .next (completeReply s o r)
        else .next (lateResult s o r)

end Sys2Proof.Machine
end

