-- ==== Sys2Proof/Machine/Propagate.lean ====
section
/-!
DEFINITION. How a write reaches the views of the other dies: causal application (R121), visibility of an MCA write (R124), REPL replicas
(R125) and settle writes (R123).
-/

namespace Sys2Proof.Machine

/-- Whether an arriving write may be applied: on an NA page every write its sender's view held has been applied here, the sender's own
earlier writes among them (R121); on a REPL page the sender's earlier writes to the same bytes (R125). -/
def flightDue (s : State) (f : Flight) : Bool :=
  if f.prop = .repl then
    !s.flights.any fun g => g.src = f.src && g.dst = f.dst && decide (g.prop = .repl) && g.id < f.id &&
      overlap g.key g.bytes.length f.key f.bytes.length
  else f.stamp.le (stampOf s f.dst)

/-- Aligned 8-byte units that a stretch touches. -/
def unitsOf (key n : Nat) : List Nat := (List.range ((key % 8 + n + 7) / 8)).map fun i => key / 8 * 8 + 8 * i

/-- Whether a die's view of an aligned unit is the home's, in its bytes and in what its line was written under. -/
def unitSettled (s : State) (die key : Nat) : Bool :=
  let home := homeDie key
  if key = ptrootKey then decide (ptrootOf s die = ptrootOf s home)
  else decide (mapBytes (viewOf s die) key 8 = mapBytes (viewOf s home) key 8) &&
    (!isDram key || decide (lineKeyOf s die key = lineKeyOf s home key))

/-- Dies whose view of a unit ends differently from the home's are sent the home's value (R123). -/
def settleUnit (s : State) (key : Nat) : State :=
  ([0, 1, 2, 3].filter fun d => !unitSettled s d key).foldl (fun s d => post s (.settleWrite d key)) s

/-- A write reaches a die: its view of memory, or its view of PTROOT (R121). -/
def landWrite (s : State) (die key : Nat) (bytes : List Byte) (u : LineKey) : State :=
  if key = ptrootKey then setPtroot s die (leWord bytes) else applyUnder s die key bytes u

/-- An arrived write is applied in the view of its die. -/
def applyFlight (s : State) (f : Flight) : State :=
  let s := landWrite { s with flights := s.flights.filter (·.id ≠ f.id) } f.dst f.key f.bytes f.under
  let s := if f.prop = .repl then s else setStamp s f.dst ((stampOf s f.dst).set f.src f.seq)
  settleBarriers ((unitsOf f.key f.bytes.length).foldl settleUnit s)

/-- Whether an MCA write may become visible: its predecessors, every write in the view of its die at that instant among them (R120, R121),
have been applied everywhere, and the earlier MCA writes to the same bytes are visible (R124). -/
def mcaDue (s : State) (w : McaWrite) : Bool :=
  viewSettled s (w.stamp.join (stampOf s w.die)) && !s.mca.any fun v => v.id < w.id && overlap v.key v.bytes.length w.key w.bytes.length

/-- The L1 of the core that a write became visible for: a hart's write updates the copy there, an engine's removes it (R91). -/
def afterMca (s : State) (w : McaWrite) : State :=
  if engineAgent 0 0 ≤ w.hart then dropL1 s (mcaCore w) w.key
  else if noHart ≤ w.hart then s
  else updateL1 s (coreOf w.hart) w.key w.bytes w.under none

/-- An MCA write becomes visible in all four views at one instant (R124). -/
def applyMca (s : State) (w : McaWrite) : State :=
  settleBarriers (afterMca (applyEverywhere { s with mca := s.mca.filter (·.id ≠ w.id) } w.key w.bytes w.under) w)

/-- REMOTE_WRITE_APPLY (R121, R124, R125): the write is held until it may be applied. -/
def execRemoteWriteApply (flight : Nat) (s : State) : Result :=
  match s.flights.find? (·.id = flight) with
  | some f => .next (if flightDue s f then applyFlight s f else post s (.remoteWriteApply flight))
  | none =>
    match s.mca.find? (·.id = flight) with
    | some w => .next (if mcaDue s w then applyMca s w else post s (.remoteWriteApply flight))
    | none => idleEvent s

/-- SETTLE_WRITE (R123): once every write to the unit has been applied everywhere, the die takes the home's value. -/
def execSettleWrite (die key : Nat) (s : State) : Result :=
  if isOuter key || s.flights.any fun f => overlap f.key f.bytes.length key 8 then idleEvent s
  else
    let home := homeDie key
    if unitSettled s die key then idleEvent s
    else if !(stampOf s home).le (stampOf s die) then .next (post s (.settleWrite die key))
    else if key = ptrootKey then .next (setPtroot s die (ptrootOf s home))
    else .next (applyUnder s die key (mapBytes (viewOf s home) key 8) (lineKeyOf s home key))

end Sys2Proof.Machine
end

