-- ==== Sys2Proof/Machine/Ranges.lean ====
section
/-!
DEFINITION. Ranges as the operating services allocate and free them, and the tags that freed bytes keep (R226).
-/

namespace Sys2Proof.Machine

/-- A part of an entry with other rights; none where it is empty. -/
def rightPart (e : Right) (a b : Nat) (rights : BitVec 8) : List Right :=
  if a < b && decide (rights ≠ 0) then [{ e with base := a, len := (b - a) / 64, rights := rights, epoch := e.epoch + 1 }] else []

/-- The parts of an entry when rights are removed from [lo, hi): what lies before, within (with what is left) and after (R222). -/
def cutRight (lo hi : Nat) (gone : BitVec 8) (e : Right) : List Right :=
  let top := e.base + e.len * 64
  rightPart e e.base (min top lo) e.rights ++ rightPart e (max e.base lo) (min top hi) (e.rights &&& ~~~gone) ++
    rightPart e (max e.base hi) top e.rights

/-- Every grant on a stretch is removed, whoever holds it (R226). -/
def stripGrants (s : State) (lo n : Nat) : State :=
  { s with
    rights := mapVals [] (fun _ l =>
      l.flatMap fun e => if overlap e.base (e.len * 64) lo n then cutRight lo (lo + n) 0x3F e else [e]) s.rights }

/-- The parts of a range outside a stretch. -/
def rangeOutside (lo n : Nat) (r : Range) : List Range :=
  if !overlap r.base r.len lo n then [r]
  else
    (if r.base < lo then [{ r with len := lo - r.base }] else []) ++
      (if lo + n < r.base + r.len then [{ r with base := lo + n, len := r.base + r.len - (lo + n) }] else [])

/-- Whether the world that allocated a range has retired (R226). -/
def worldGone (s : State) (launch : Nat) : Bool :=
  decide (launch ≠ 0) &&
    (match getLaunch s launch with
     | some l => decide (l.phase = .retired)
     | none => true)

/-- A range whose free completes leaves the table and every lookaside buffer; its bytes keep the next tag. At tag 255 it is withdrawn until its
world retires (R226). -/
def dropRange (s : State) (r : Range) : State :=
  let gone := fun (e : PlbEntry) =>
    match e with
    | .range _ x => overlap x.base x.len r.base r.len
    | .right _ => false
  let s :=
    { s with
      ranges := s.ranges.filter (· ≠ r)
      cores := mapVals .reset (fun _ c => { c with plb := c.plb.filter fun e => !gone e }) s.cores }
  if r.tag ≠ 255 then { s with freed := { r with tag := r.tag + 1 } :: s.freed }
  else if worldGone s r.launch then { s with freed := { r with tag := 0 } :: s.freed.flatMap (rangeOutside r.base r.len) }
  else { s with withdrawn := s.withdrawn ++ [r] }

/-- The effect of a shootdown's last acknowledgement on the range table: a range under free returns to the allocator only now (R226). -/
def endFree (s : State) (w : ShootWhat) : State :=
  match w with
  | .range base len =>
    (match s.ranges.find? fun r => r.base = base && r.len = len with
     | some r => dropRange s r
     | none => s)
  | _ => s

/-- The withdrawn ranges of a world that retires return to the allocator with tag 0 (R226). -/
def returnWithdrawn (s : State) (launch : Nat) : State :=
  let back := s.withdrawn.filter (·.launch = launch)
  { s with
    withdrawn := s.withdrawn.filter (·.launch ≠ launch)
    freed := back.map (fun r => { r with tag := 0 }) ++
      back.foldl (fun l r => l.flatMap (rangeOutside r.base r.len)) s.freed }

/-- The tag of a range allocated over a stretch: the highest tag that a freed byte of it keeps, 0 where there is none (R226). -/
def allocTag (s : State) (lo n : Nat) : BitVec 8 :=
  (s.freed.filter fun r => overlap r.base r.len lo n).foldl (fun t r => if t.toNat < r.tag.toNat then r.tag else t) 0

/-- Whether a stretch meets an allocated or a withdrawn range. -/
def stretchTaken (s : State) (lo n : Nat) : Bool :=
  s.ranges.any (fun r => overlap r.base r.len lo n) || s.withdrawn.any fun r => overlap r.base r.len lo n

end Sys2Proof.Machine
end

