-- ==== Sys2Proof/Machine/Rights.lean ====
section
/-!
DEFINITION. Rights and translations while they change: GRANT and REVOKE at the rights units (R217, R221, R222), shootdowns and their
acknowledgements (R223 to R226, R228), page requests (R237), walks (R213, R215) and the address translation caches (R216, R239).
-/

namespace Sys2Proof.Machine

/-! ### Shootdowns (R223, R228) -/

/-- Whether a lookaside entry is stale under a shootdown. -/
def plbStale (w : ShootWhat) (e : PlbEntry) : Bool :=
  match w, e with
  | .right o base units rights, .right r =>
    decide (r.owner = o) && overlap r.base (r.len * 64) base (units * 64) && decide (r.rights &&& rights ≠ 0)
  | .range base len, .range _ r => overlap r.base r.len base len
  | .range base len, .right r => overlap r.base (r.len * 64) base len
  | _, _ => false

/-- Whether an operation in flight was admitted under what a shootdown removes, as far as its owner and address tell. -/
def admittedUnder (w : ShootWhat) (o : Op) : Bool :=
  match w with
  | .right own base units _ => decide (o.owner = own) && overlap (addrOf o.ptr) o.size base (units * 64)
  | .range base len => overlap (addrOf o.ptr) o.size base len
  | .page base size => overlap (addrOf o.ptr) o.size base size
  | .tensor base len => overlap (addrOf o.ptr) o.size base len

/-- An access that has not completed: a load or store until its response, a home operation until its home has executed it (R223). -/
def opPending (o : Op) : Bool :=
  match o.kind with
  | .load | .store => true
  | _ => o.reply.isNone

/-- What the last acknowledgement completes. -/
def shootDone (s : State) (t : ShootThen) : State :=
  match t with
  | .none => s
  | .command t j => finishEntry s t j doneState 0
  | .service slot status =>
    let s := { s with migrations := s.migrations.filter (·.slot ≠ slot) }
    (match (s.dies.flatMap fun e => e.2.ring).find? fun v => v.id = slot && v.status.isNone with
     | none => s
     | some v =>
       post
         { s with dies := mapVals .reset (fun _ d =>
           { d with ring := d.ring.map fun v => if v.id = slot then { v with status := some status } else v }) s.dies }
         (.svcStatusReturn v.hart))
  | .hart h gen w d v acq =>
    if (getHart s h).gen ≠ gen || (getHart s h).tenure ≠ .running || (getHart s h).wait ≠ some w then s
    else
      let s :=
        match acq with
        | some sc => acquireAt s (coreOf h) sc
        | none => s
      modHart s h fun x => endReplyWait (writeX x d v)

/-- The last acknowledgement has come: what the shootdown freed returns to the allocator, and whoever waits goes on. -/
def endShoot (s : State) (what : List ShootWhat) (next : ShootThen) : State := shootDone (what.foldl endFree s) next

/-- The die whose view the last acknowledgement completes: that of the hart, or of the caller of the service (R225). -/
def shootDie (s : State) : ShootThen → Option Nat
  | .hart h _ _ _ _ _ => some (dieOfHart h)
  | .service slot _ => ((s.dies.flatMap fun e => e.2.ring).find? (·.id = slot)).map fun v => dieOfHart v.hart
  | .command _ _ => none
  | .none => none

/-- Whether the writes of a vector, and the writes to replicas on their way there, are in a die's view (R225). -/
def inViewOf (s : State) (stamp : Stamp) : Option Nat → Bool
  | none => true
  | some die => stamp.le (stampOf s die) && s.flights.all fun f => f.dst ≠ die || decide (f.prop ≠ .repl)

/-- A shootdown goes to every core of the device that holds anything (R223, R224). -/
def startShoot (s : State) (what : List ShootWhat) (next : ShootThen) : State :=
  let cores := mapKeys s.cores
  if cores = [] then endShoot s what next
  else
    let (id, s) := fresh s
    postAll { s with shootdowns := s.shootdowns ++ [⟨id, what, cores, cores, [], [], .zero, next⟩] } (cores.map fun c => .plbShootdown c id)

/-- Free a range as the free service does: its grants go at once; `next` follows the last acknowledgement (R226). -/
def freeRange (s : State) (r : Range) (next : ShootThen) : State :=
  startShoot (stripGrants s r.base r.len) [.range r.base r.len] next

/-- What a walk has told a hart is stale under a shootdown: the hart asks again (R228). -/
def dropWalk (what : List ShootWhat) (v : Hart) : Hart :=
  match v.walk with
  | some (.leaf l) =>
    if what.any fun w => leafStale w l then
      { v with
        walk := none
        wait :=
          match v.wait with
          | some (.walk _) => none
          | w => w }
    else v
  | _ => v

/-- The weight loads that run on a core, by the numbers their commands have (R177). -/
def loadingOn (s : State) (core : Nat) : List Nat :=
  ((getCore s core).matrixQ.filter fun c =>
    c.running &&
      (match c.op with
       | .mldw _ => true
       | .mswap | .joint _ => false)).map (·.issue)

/-- PLB_SHOOTDOWN (R223): the core's buffers drop the stale entries; what it admitted before is still to complete, an MCA write of the core
among it until it is visible, and a weight load that has read under it (R255, R405). -/
def execPlbShootdown (core shoot : Nat) (s : State) : Result :=
  match s.shootdowns.find? (·.id = shoot) with
  | none => idleEvent s
  | some d =>
    if !d.unsent.contains core then idleEvent s
    else
      let s := modCore s core fun c =>
        { c with
          plb := c.plb.filter fun e => !d.what.any fun w => plbStale w e
          tlb := c.tlb.filter fun l => !d.what.any fun w => leafStale w l
          l2 := c.l2.filter fun l => !d.what.any fun w => leafStale w l }
      let s := { s with harts := mapVals .reset (fun k v => if coreOf k = core then dropWalk d.what v else v) s.harts }
      let held := ((s.ops.filter fun o => coreOf o.hart = core && opPending o && d.what.any fun w => admittedUnder w o).map
        fun o => (core, o.id)) ++ (s.mca.filter (mcaCore · = core)).map fun w => (core, w.id)
      .next (post
        { s with
          shootdowns := s.shootdowns.map fun x =>
            if x.id = shoot then
              { x with
                unsent := x.unsent.filter (· ≠ core), admitted := x.admitted ++ held
                loading := x.loading ++ (loadingOn s core).map fun i => (core, i) }
            else x }
        (.plbShootdownAck core shoot))

/-- Whether something that a core admitted before it received a shootdown has still to complete. -/
def ackHeld (s : State) (d : Shootdown) (core : Nat) : Bool :=
  (d.admitted.any fun e => e.1 = core && ((s.ops.any fun o => o.id = e.2 && opPending o) || s.mca.any (·.id = e.2))) ||
    d.loading.any fun e => e.1 = core && (loadingOn s core).contains e.2

/-- The writes that a core has performed: those in its die's view, and those that its operations made at homes whose answers are still on their
way (R225). -/
def performedStamp (s : State) (core : Nat) : Stamp :=
  (s.ops.filter fun o => coreOf o.hart = core && o.reply.isSome).foldl (fun t o => t.join o.replyStamp) (stampOf s (dieOf core))

/-- PLB_SHOOTDOWN_ACK (R223): sent once every access admitted under the old entries has completed; the last one completes the instruction
or service, once the writes that were admitted are in its die's view (R225). -/
def execPlbShootdownAck (core shoot : Nat) (s : State) : Result :=
  match s.shootdowns.find? (·.id = shoot) with
  | none => idleEvent s
  | some d =>
    if d.unsent.contains core || !d.waiting.contains core then idleEvent s
    else if ackHeld s d core then .next (post s (.plbShootdownAck core shoot))
    else
      let left := d.waiting.filter (· ≠ core)
      let stamp := d.stamp.join (performedStamp s core)
      if left ≠ [] then
        .next
          { s with shootdowns := s.shootdowns.map fun x => if x.id = shoot then { x with waiting := left, stamp := stamp } else x }
      else if !inViewOf s stamp (shootDie s d.next) then .next (post s (.plbShootdownAck core shoot))
      else .next (endShoot { s with shootdowns := s.shootdowns.filter (·.id ≠ shoot) } d.what d.next)

/-! ### Pointers of GRANT and REVOKE -/

/-- The range tag of a pointer (check 6). -/
def tagCheck (s : State) (h : Nat) (p : Word) : Check :=
  let va := addrOf p
  match plbRange s (coreOf h) (getHart s h).sr.own va with
  | (_, none) => denied p 1
  | (s, some rg) =>
    if tagOf p ≠ rg.tag then .trap ⟨0x07, p, 0⟩ else .ok s (.plain va va false)

/-- Checks 2 to 6 of Table 13.6 on a pointer (R354, R388). -/
def pointerCheck (s : State) (h : Nat) (p : Word) : Check :=
  let va := addrOf p
  let here : Target := .plain va va false
  match regionOf va with
  | .nowhere => denied p 1
  | .self | .localMem => if tagOf p ≠ 0 then denied p 1 else .ok s here
  | .control =>
    if tagOf p ≠ 0 then denied p 1 else if (getHart s h).mode = .U then .trap ⟨0x02, p, 0⟩ else .ok s here
  | .host => .trap ⟨0x05, p, 4⟩
  | .vault => tagCheck s h p
  | .translated =>
    match findLeaf s h va with
    | .trap d => .trap ⟨0x05, p, d⟩
    | .walk => .walk va
    | .leaf s l => if !l.direct then .trap ⟨0x05, p, 3⟩ else tagCheck s h p

/-- Go on once a pointer has passed its checks. -/
def withPointer (s : State) (p : Word) (k : State → Result) : Result :=
  match pointerCheck s s.cur p with
  | .ok s _ => k s
  | .trap t => trapR s t
  | .walk va => waitWalk s .read va

/-! ### GRANT and REVOKE at issue -/

/-- Owner, rights and length of x[b] (R221). -/
def grantOwner (b : Word) : BitVec 16 := b.extractLsb' 48 16
def grantRights (b : Word) : BitVec 8 := b.extractLsb' 40 8
def grantUnits (b : Word) : Nat := (b.extractLsb' 0 40).toNat

/-- The request travels to the rights unit of die owner mod 4 (R217); the hart waits. -/
def askRights (s : State) (isGrant : Bool) (a b : Word) : Result :=
  let h := me s
  let die := (grantOwner b).toNat % 4
  let r : RightsReq := ⟨s.cur, h.gen, isGrant, a, b, h.sr.own, h.sr.tenant, decide (h.mode ≠ .U)⟩
  let s := modDie s die fun d => { d with rightsQ := d.rightsQ ++ [r] }
  waitFor (post s (.rightsRequestArrival die)) .rights

/-- GRANT (R221, R354). -/
def execGrant (a b : Reg) (s : State) : Result :=
  let p := readX (me s) a
  if isHandler s.cur then illegal s (.grant a b)
  else if p.toNat % 64 ≠ 0 then trapR s ⟨0x04, p, 0⟩
  else withPointer s p fun s => askRights s true p (readX (me s) b)

/-- REVOKE (R222, R388): it releases at pkg before its request (R225). -/
def execRevoke (a b : Reg) (s : State) : Result :=
  let p := readX (me s) a
  let w := readX (me s) b
  if isHandler s.cur then illegal s (.revoke a b)
  else if p.toNat % 64 ≠ 0 then trapR s ⟨0x04, p, 0⟩
  else
    withPointer s p fun s =>
      if grantUnits w = 0 || 0x40 ≤ (grantRights w).toNat then trapR s ⟨0x06, p, 5⟩
      else afterRelease s .pkg (askRights s false p w)

/-! ### At the rights unit -/

/-- Whether the stretch [lo, hi) is covered by intervals: at each step the one that reaches furthest. -/
def coveredFrom : Nat → List (Nat × Nat) → Nat → Nat → Bool
  | 0, _, lo, hi => hi ≤ lo
  | f + 1, l, lo, hi =>
    if hi ≤ lo then true
    else
      let reach := (l.filter fun e => e.1 ≤ lo).foldl (fun m e => max m e.2) lo
      if reach ≤ lo then false else coveredFrom f l reach hi

/-- Whether every line of a stretch is admitted to an owner by entries under a tag that hold every right of `need` (R221). -/
def ownerCovers (s : State) (own : BitVec 16) (tag need : BitVec 8) (lo n : Nat) : Bool :=
  let l := ((rightsOf s own).filter fun e => decide (e.tag = tag) && decide (e.rights &&& need = need)).map
    fun e => (e.base, e.base + e.len * 64)
  coveredFrom (l.length + 1) l lo (lo + n)

/-- Tenant that an owner belongs to (R221). -/
def ownerTenant (s : State) (o : BitVec 16) : Option Nat :=
  let t := mapGet 0 s.owners o.toNat
  if t = 0 then none else some (t - 1)

/-- GRANT at the unit: the entry installed, or the detail of its refusal (R221). -/
def grantAt (s : State) (r : RightsReq) : Except (BitVec 16) State :=
  let units := grantUnits r.b
  let rights := grantRights r.b
  let who := grantOwner r.b
  let base := addrOf r.a
  let tag := tagOf r.a
  if units = 0 || 0x40 ≤ rights.toNat || !ownerCovers s r.own tag (rights ||| rightG) base (units * 64) then .error 5
  else if ownerTenant s who ≠ some r.tenant.toNat then .error 6
  else
    let l := rightsOf s who
    let same := fun (e : Right) => e.base = base && e.len = units && decide (e.tag = tag) && decide (e.grantor = r.own)
    if l.any same then
      .ok (setRights s who (l.map fun e => if same e then { e with rights := e.rights ||| rights, epoch := e.epoch + 1 } else e))
    else if 4096 ≤ l.length then .error 7
    else .ok (setRights s who (l ++ [⟨base, tag, units, rights, who, r.own, 1⟩]))

/-- Whether a removal reaches an entry. -/
def cutReaches (grantor : Option (BitVec 16)) (lo hi : Nat) (gone : BitVec 8) (e : Right) : Bool :=
  (match grantor with
   | some g => decide (e.grantor = g)
   | none => true) && overlap e.base (e.len * 64) lo (hi - lo) && decide (e.rights &&& gone ≠ 0)

/-- Remove rights from the entries of an owner, and, transitively, those it granted onward from them (R222): the state and the owners'
stretches that changed. DESIGN CHOICE (log entry 81): the parts of a split entry all stay, in a table that thereby holds more than the 4,096
entries of R217. -/
def revokeFrom : Nat → State → BitVec 16 → Option (BitVec 16) → Nat → Nat → BitVec 8 → List ShootWhat → State × List ShootWhat
  | 0, s, _, _, _, _, _, acc => (s, acc)
  | f + 1, s, who, grantor, lo, hi, gone, acc =>
    let l := rightsOf s who
    let hit := l.filter (cutReaches grantor lo hi gone)
    if hit = [] then (s, acc)
    else
      let s := setRights s who (l.flatMap fun e => if cutReaches grantor lo hi gone e then cutRight lo hi gone e else [e])
      let acc := acc ++ hit.map fun e => .right who (max e.base lo) ((min (e.base + e.len * 64) hi - max e.base lo) / 64) (e.rights &&& gone)
      hit.foldl (fun r e =>
        let a := max e.base lo
        let b := min (e.base + e.len * 64) hi
        (mapKeys r.1.rights).foldl (fun r o =>
          revokeFrom f r.1 (BitVec.ofNat 16 o) (some who) a b (e.rights &&& gone) r.2) r) (s, acc)

/-- Entries of every table: no chain of grants is longer (R222). -/
def grantDepth (s : State) : Nat := ((s.rights.map fun e => e.2.length).sum) + 1

/-- REVOKE at the unit: an owner of another tenant matches nothing (R388). -/
def revokeAt (s : State) (r : RightsReq) : State × List ShootWhat :=
  let who := grantOwner r.b
  let lo := addrOf r.a
  if ownerTenant s who ≠ some r.tenant.toNat then (s, [])
  else revokeFrom (grantDepth s) s who (if r.fromS then none else some r.own) lo (lo + grantUnits r.b * 64) (grantRights r.b) []

/-- RIGHTS_REQUEST_ARRIVAL (R217): the unit serves its requests in arrival order. -/
def execRightsRequestArrival (die : Nat) (s : State) : Result :=
  match (getDie s die).rightsQ with
  | [] => idleEvent s
  | r :: rest =>
    let s := modDie s die fun d => { d with rightsQ := rest }
    let here := decide ((getHart s r.hart).gen = r.gen) && decide ((getHart s r.hart).tenure = .running)
    if r.isGrant then
      match grantAt s r with
      | .error d => .next (if here then takeTrap s r.hart ⟨0x06, r.a, d⟩ else s)
      | .ok s => .next (if here then modHart s r.hart endReplyWait else s)
    else
      let (s, what) := revokeAt s r
      .next (startShoot s what (.hart r.hart r.gen .rights 0 0 (some .pkg)))

/-! ### Walks (R213 to R215) -/

/-- Page walkers of a die (R214). -/
def walkers : Nat := 16

/-- PAGE_WALK_COMPLETE: a walk that has a walker ends; a leaf fills its home slice, and the answer returns to the context that missed. -/
def execPageWalkComplete (h : Nat) (s : State) : Result :=
  let die := dieOfHart h
  let l := (getDie s die).walks
  match l.find? (·.hart = h) with
  | none => idleEvent s
  | some q =>
    if !(l.take walkers).contains q then .next (post s (.pageWalkComplete h))
    else
      let r := walkUnder s q.store q.kind die q.va
      let s := chargeWalk (getHart s h).launch die q.va (modDie s die fun d => { d with walks := d.walks.erase q })
      let s :=
        match r with
        | .leaf l => fillSlice s die q.va l
        | _ => s
      .next (if (getHart s h).wait = some (.walk q.va) then modHart s h fun v => { v with walk := some r } else s)

/-! ### PGREQ (R237, R384) -/

/-- Time a page request waits for its response, in nanoseconds. -/
def pageTimeout : Nat := 20000000

/-- PGREQ (R237, R384). -/
def execPgreq (d a b : Reg) (s : State) : Result :=
  let h := me s
  let p := readX h a
  let k := readX h b
  let va := addrOf p
  let region := regionOf va
  if isHandler s.cur || 4 ≤ k.toNat || k = 0 then illegal s (.pgreq d a b)
  else if region ≠ .host && region ≠ .translated then trapR s ⟨0x06, p, 1⟩
  else
    match plbRange s (coreOf s.cur) h.sr.own va with
    | (_, none) => trapR s ⟨0x06, p, 1⟩
    | (s, some rg) =>
      if tagOf p ≠ rg.tag then trapR s ⟨0x07, p, 0⟩
      else
        match plbRight s (coreOf s.cur) h.sr.own va rg.tag (if k.getLsbD 1 then rightR ||| rightW else rightR) with
        | (_, false) => trapR s ⟨0x06, p, 3⟩
        | (s, true) =>
          if (getTenant s h.sr.tenant.toNat).prFailed then done4With s d 2
          else if region = .translated then waitFor (postAll s [.residency s.cur 0, .pgreqTimeout s.cur]) (.page false va s.time d)
          else if 64 ≤ pageRequests s h.sr.tenant then waitFor s .pageSlot
          else
            let page := va % 0x80000000000000 / 4096 * 4096
            let s := modTenant s h.sr.tenant.toNat fun t => { t with pageReqs := t.pageReqs ++ [(s.cur, s.time)] }
            waitFor (post (sendOut s (.pageRequest h.sr.tenant.toNat page (k.getLsbD 0) (k.getLsbD 1))) (.pgreqTimeout s.cur))
              (.page true va s.time d)

/-- The status of a page request reaches its hart. -/
def pageAnswer (s : State) (h : Nat) (d : Reg) (v : Word) : State := modHart s h fun x => endReplyWait (writeX x d v)

/-- Page requests of a hart that the host has not answered: tenant and when they were made. -/
def askedPages (s : State) (h : Nat) : List (Nat × Nat) :=
  s.tenants.flatMap fun e => (e.2.pageReqs.filter (·.1 = h)).map fun r => (e.1, r.2)

/-- PAGE_REQUEST_RESPONSE (R237): the PCIe response code 0 is success, 1 an invalid request, any other a failure, after which the tenant's
requests fail at once. A request whose hart has gone on, or has been stopped, counts as outstanding until its answer comes (R274); where
a hart has more than one, nothing fixes which is answered. -/
def execPageRequestResponse (h : Nat) (code : BitVec 4) (s : State) : Result :=
  let l := askedPages s h
  match l[Config.choose s.tick 6 % l.length]? with
  | none => idleEvent s
  | some (tenant, since) =>
    let s := modTenant (raiseExternal s) tenant fun t => { t with pageReqs := t.pageReqs.erase (h, since) }
    match (getHart s h).wait with
    | some (.page true _ at' d) =>
      if at' ≠ since then .next s
      else
        let v : Word := if code = 0 then 0 else if code = 1 then 1 else 2
        let s := if v = 2 then modTenant s tenant fun t => { t with prFailed := true } else s
        .next (pageAnswer s h d v)
    | _ => .next s

/-- PGREQ_TIMEOUT (R237). -/
def execPgreqTimeout (h : Nat) (s : State) : Result :=
  match (getHart s h).wait with
  | some (.page _ _ since d) => .next (if since + pageTimeout ≤ s.time then pageAnswer s h d 3 else post s (.pgreqTimeout h))
  | _ => idleEvent s

/-! ### Address translation caches (R216, R239) -/

/-- ATS_TRANSLATION_COMPLETION (R216): what the host grants fills the cache; a request that it does not satisfy stands denied, and its command
stops with NOT_PRESENT at the line that needs it. -/
def execAtsTranslationCompletion (die tenant page : Nat) (reply : AtsReply) (s : State) : Result :=
  let mine := fun (r : AtsRequest) => r.tenant = tenant && r.page = page
  let waiting := (getDie s die).atsPending.filter mine
  if waiting = [] then idleEvent s
  else
    let refuses := fun (r : AtsRequest) =>
      match reply with
      | .denied => true
      | .granted _ rd wr => if r.write then !wr else !rd
    let s := modDie s die fun d =>
      { d with
        atsPending := d.atsPending.filter fun r => !mine r
        atsDenied := (d.atsDenied.filter fun r => !mine r) ++ waiting.filter refuses }
    .next
      (match reply with
       | .denied => s
       | .granted size r w =>
         let n := max size 4096
         -- a completion that denies the kind asked leaves no entry: the next access asks again (R245)
         if waiting.all refuses then s else modDie s die fun d => { d with atc := ⟨tenant, page / n * n, n, r, w⟩ :: d.atc })

/-- Whether the chunk at hand of a command, whose reads have begun, reads or writes a host page, from one side on (R239). -/
def usesPage (m : Cmd) (tenant page len : Nat) (side : Word) : Bool :=
  let p := side + BitVec.ofNat 64 m.moved
  m.asked && m.tenant.toNat = tenant && decide (regionOf (addrOf p) = .host) && overlap (addrOf p % 0x80000000000000) (chunkLen m) page len

/-- Commands of a die's cores whose chunk an engine has taken. -/
def runningChunks (s : State) (die : Nat) : List (Nat × Cmd) :=
  (s.cores.filter fun e => dieOf e.1 = die).flatMap fun e =>
    (e.2.cmds.filter fun m => decide (m.state = .running) && (getDie s die).bulkRunning.contains m.serial).map fun m => (e.1, m)

/-- ATS_INVALIDATION_REQUEST (R239): the entries leave every die's cache at once; a bulk chunk whose reads have begun is abandoned at its
start. -/
def execAtsInvalidationRequest (tenant page len : Nat) (s : State) : Result :=
  let hit := fun (e : AtcEntry) => e.tenant = tenant && overlap e.page e.size page len
  let s := { s with dies := mapVals .reset (fun _ d => { d with atc := d.atc.filter fun e => !hit e }) s.dies }
  let s := ([0, 1, 2, 3].flatMap (runningChunks s)).foldl (fun s e =>
    let stop := fun (side : Word) => faultCmd s e.1 e.2.tag 0x25 (side + BitVec.ofNat 64 e.2.moved)
    if usesPage e.2 tenant page len e.2.src then stop e.2.src
    else if usesPage e.2 tenant page len e.2.dst then stop e.2.dst
    else s) s
  let (id, s) := fresh s
  .next (post { raiseExternal s with invalidations := s.invalidations ++ [⟨id, tenant, page, len⟩] } (.atsInvalidationCompletion id))

/-- ATS_INVALIDATION_COMPLETION (R239): every line an engine has begun under the old translation has been read or written. -/
def execAtsInvalidationCompletion (inval : Nat) (s : State) : Result :=
  match s.invalidations.find? (·.id = inval) with
  | none => idleEvent s
  | some v =>
    .next (sendOut { s with invalidations := s.invalidations.filter (·.id ≠ inval) } (.invalidationDone v.tenant v.page))

end Sys2Proof.Machine
end

