-- ==== Sys2Proof/Machine/Work.lean ====
section
/-!
DEFINITION. The work of a node as its harts take it: TFETCH, TDONE, HALT and TSPAWN (R43 to R47, R355, R401 to R404), and the work queues
of the clusters (R64).
-/

namespace Sys2Proof.Machine

/-! ### Work queues -/

/-- Whether a node of a launch has harts saved (R64). -/
def nodeSaved (s : State) (launch node : Nat) : Bool :=
  s.saves.any fun v => decide (v.launch = launch) && decide (v.sr.node.toNat = node)

def nodeAt (s : State) (launch node : Nat) : Option Node := (getLaunch s launch).bind fun l => getNode l node

/-- Whether every sub-tile of a node has completed. -/
def nodeComplete (s : State) (launch node : Nat) : Bool :=
  match nodeAt s launch node with
  | some n => decide (n.phase = .complete)
  | none => true

/-- A node leaves the work queue of a cluster when it has completed and none of its harts is saved (R64); once it has completed, no hart
of it starts any more. -/
def settleWork (s : State) (clus : Nat) : State :=
  let c := getCluster s clus
  let q := c.workQ.filter fun w => !(nodeComplete s w.launch w.node && !nodeSaved s w.launch w.node)
  let q := q.map fun w => if nodeComplete s w.launch w.node then { w with starts := [] } else w
  let s' := modCluster s clus fun c => { c with workQ := q }
  if q.length < c.workQ.length then post (noteEmpty s' clus) (.dispatchArbitration clus) else s'

/-- Every cluster that a node is bound to settles its work queue (R64). -/
def settleNode (s : State) (launch node : Nat) : State :=
  match nodeAt s launch node with
  | some n => n.bound.foldl settleWork s
  | none => s

/-- The hart's sub-tile completes; a completed node leaves the pools and the work queues. -/
def tileDone (s : State) (h : Nat) : State :=
  let v := getHart s h
  let id := v.sr.node.toNat
  let s := completeTile s h
  if nodeComplete s v.launch id then
    let s :=
      { s with
        dies := mapVals .reset (fun _ d => { d with pool := d.pool.filter fun e => !(e.launch = v.launch && e.node = id) }) s.dies }
    settleNode s v.launch id
  else s

/-- The widest of the scopes at which TDONE releases: clus and every bound scope up to the node's level (R44). -/
def tileScope (s : State) (h : Hart) : Scope :=
  match getLaunch s h.launch with
  | none => .clus
  | some l =>
    match getNode l h.sr.node.toNat with
    | none => .clus
    | some n => (l.levels.take (n.level + 1)).foldl (fun acc v => if scopeAtLeast v.scope acc then v.scope else acc) .clus

/-- Complete a sub-tile that the hart holds, after its release. -/
def withTileDone (s : State) (k : State → Result) : Result :=
  if (me s).tile.isNone then k s else afterRelease s (tileScope s (me s)) (k (tileDone s s.cur))

/-! ### TFETCH and TDONE -/

/-- No sub-tile is left (R43). -/
def fetchNone (d : Reg) (h : Hart) : Hart :=
  retireHart 4 { writeX (writeX h d (BitVec.allOnes 64)) (nextReg d) 0 with
    sr := { h.sr with subt := BitVec.allOnes 64 } }

/-- Sub-tile k of a node (R43, Table 3.7). -/
def fetchTile (n : Node) (k : Nat) (d : Reg) (h : Hart) : Hart :=
  let nx := n.tilesX
  let ny := n.tilesY
  let xo := k % nx * n.tw
  let yo := k / nx % ny * n.th
  let tz := k / (nx * ny)
  let h := writeX h d (BitVec.ofNat 64 (yo * 2 ^ 32 + xo))
  let h := writeX h (nextReg d) (BitVec.ofNat 64 (min n.th (n.sy - yo) * 2 ^ 32 + min n.tw (n.sx - xo)))
  retireHart 4 { h with tile := some k, sr := { h.sr with subt := BitVec.ofNat 64 (tz * 2 ^ 32 + k % 2 ^ 32) } }

/-- Hand the hart the next sub-tile of its node: the cursor moves on, and at the last one the node is dispatch-complete (R40). -/
def handTile (s : State) (d : Reg) : Result :=
  let h := me s
  let id := h.sr.node.toNat
  match nodeAt s h.launch id with
  | none => .next (modMe s (fetchNone d))
  | some n =>
    let s := modNode s h.launch id fun m => { m with cursor := m.cursor + 1 }
    if n.total ≤ n.cursor then .next (modMe s (fetchNone d))
    else
      let s := modMe s (fetchTile n n.cursor d)
      .next (if n.cursor + 1 = n.total then dispatchComplete s h.launch id (dieOfHart s.cur) else s)

/-- TFETCH (R402): it completes the sub-tile held; in an ended slice it then stops the hart (R76); it waits for saved harts of its node
that hold sub-tiles (R57, R86). -/
def execTfetch (d : Reg) (s : State) : Result :=
  if isHandler s.cur then illegal s (.tfetch d)
  else
    withTileDone s fun s =>
      if decide ((me s).preempt ≠ .none) && decide ((me s).mode = .U) then
        (if busyHart s s.cur then waitFor s .drain else .next (waitStop s s.cur))
      else if heldBack s s.cur then waitFor s .cursor
      else handTile s d

/-- TDONE (R401). -/
def execTdone (s : State) : Result := withTileDone s done4

/-! ### HALT -/

/-- The context is given up once nothing of the hart is in flight and every access to the banks that power down has been made (R13, R355); `borrower` is
where its banks go. -/
def haltHart (s : State) (borrower : State → Option Nat) : Result :=
  if busyHart s s.cur then waitFor s .drain
  else
    withTileDone s fun s =>
      let core := coreOf s.cur
      let b := borrower s
      if b.isNone && banksBusy s s.cur then waitFor s .bank
      else
        let tags := faultedTags (getCore s core) s.cur (me s).gen
        .next (freeContext (tags.foldl (fun s t => abandonCmd s core t) s) s.cur b false)

def execHalt (s : State) : Result := if isHandler s.cur then illegal s .halt else haltHart s fun _ => none

/-- The hart that R46 admits as the borrower of the banks: a running hart of the same core and launch, of the generation named, that is
not the halting one. -/
def borrowerOf (s : State) (hid : BitVec 32) : Option Nat :=
  let core := coreOf s.cur
  let k := hartKey core (hid.extractLsb' 0 3).toNat
  let v := getHart s k
  if decide ((hid.extractLsb' 3 14).toNat = core) && decide (hid.extractLsb' 17 6 = s.dev) && !hid.getLsbD 23 &&
      k ≠ s.cur && decide (v.tenure = .running) && decide (v.gen = hid.extractLsb' 24 8) && decide (v.launch = (me s).launch) then
    some k
  else none

/-- HALT retain (R46). -/
def execHaltRetain (a : Reg) (s : State) : Result :=
  if isHandler s.cur then illegal s (.haltRetain a)
  else
    let hid := (readX (me s) a).setWidth 32
    haltHart s fun s => borrowerOf s hid

/-! ### TSPAWN -/

/-- A node enters the work queue of a cluster; its harts may start there (R42, R64). -/
def placeNode (s : State) (clus : Nat) (l : Launch) (id : Nat) (n : Node) (isLocal : Bool) : State :=
  let starts := (nodeStarts s l n).filter fun e => clusOf e.1 = clus
  let s := modCluster s clus fun c => { c with workQ := c.workQ ++ [⟨l.id, id, isLocal, starts⟩] }
  let s := modNode s l.id id fun n => { n with phase := .handedOut }
  -- a tenant's slice may now have work waiting against it
  let s := (getCluster s clus).slices.foldl (fun s e => if e.2.held then post s (.sliceEnd clus (e.1 / 2) (e.1 % 2)) else s) s
  offerCluster s clus

/-- The index a refused descriptor returns (R47). -/
def noNode : Word := BitVec.allOnes 64

/-- A TSPAWN counts as sent and, with its arrival or its refusal, as received, at the spawning core (R47, R53). DESIGN CHOICE (log entry 66):
the spec does not say which core counts the arrival, nor that a descriptor that is refused has ended as a refused message has. -/
def countSpawn (s : State) (l : Nat) : State :=
  modCore s (coreOf s.cur) fun c => { c with sent := countUp c.sent l, received := countUp c.received l }

/-- Add a node to a launch (R47). -/
def addNode (s : State) (l : Launch) (n : Node) : State :=
  let core := coreOf s.cur
  let id := l.nodeCount
  let st := stampOf s (dieOf core)
  let n := { n with bound := nodeClusters s l n, stamp := st }
  let s := modLaunch s l.id fun v => { v with nodeCount := v.nodeCount + 1, nodes := mapPut none v.nodes id (some n) }
  let s := countSpawn s l.id
  if n.bound = [clusOf core] && nodeDue s n && (getCluster s (clusOf core)).workQ.length < 4 then
    placeNode (modNode s l.id id fun n => { n with stamp := n.stamp.join (ctrStamp s n) }) (clusOf core) l id n true
  else readyNode s l.id id false

/-- TSPAWN (R404): the descriptor is read at issue. -/
def execTspawn (d a : Reg) (s : State) : Result :=
  let p := readX (me s) a
  if isHandler s.cur then illegal s (.tspawn d a)
  else if p.toNat % 128 ≠ 0 then trapR s ⟨0x04, p, 0⟩
  else
    withLines p (.read 64) 2 p s [] fun s ts => withServed s ts fun s =>
      let r := ts.foldl (fun acc t =>
        match acc with
        | (s, none) => (s, none)
        | (s, some bs) =>
          let r := loadBytes s s.cur t 64
          (r.1, r.2.map (bs ++ ·))) (s, some [])
      match r with
      | (s, none) => trapR s ⟨0x10, p, 0⟩
      | (s, some bs) =>
        let n := parseNode bs
        match getLaunch s (me s).launch with
        | none => done4With s d noNode
        | some l =>
          if n.preds ≠ 0 || n.nsucc ≠ 0 || 0x1000000 ≤ l.nodeCount || l.phase ≠ .running || !nodeCheck s l n then
            done4With (countSpawn s l.id) d noNode
          else afterRelease s (nodeScope l n) (done4With (addNode s l n) d (BitVec.ofNat 64 l.nodeCount))

end Sys2Proof.Machine
end

