-- ==== Sys2Proof/Machine/Submit.lean ====
section
/-!
DEFINITION. Launch records: their layout (R35, Table 3.2), the checks of Table 3.4, and what accepting a launch does (R38, R247, R301).
Counters as the operating services assign them (R68, Table 18.6).
-/

namespace Sys2Proof.Machine

/-! ### The record -/

/-- A level entry as its bytes give it (Table 3.3). -/
structure RawLevel where
  domain : Nat
  scope : Nat
  extent : Nat
  reserved : Bool
  zero : Bool
  deriving DecidableEq, Repr

/-- A launch record as its bytes give it (Table 3.2). -/
structure LaunchRec where
  format : Nat
  tenant : Nat
  owner : BitVec 16
  keyh : BitVec 16
  prio : Nat
  nlevels : Nat
  hctl : Nat
  nodes : Nat
  graph : Word
  image : Word
  imageLen : Nat
  endctr : BitVec 16
  endadd : Word
  levels : List RawLevel
  /-- Bytes 42–47, 56–63 and 192–255 are zero. -/
  reservedOk : Bool
  deriving DecidableEq, Repr

def parseLevel (b : List Byte) : RawLevel :=
  { domain := numAt b 0 1, scope := numAt b 1 1, extent := numAt b 4 4
    reserved := numAt b 2 2 = 0 && numAt b 8 8 = 0, zero := numAt b 0 16 = 0 }

def parseRecord (b : List Byte) : LaunchRec :=
  { format := numAt b 0 2, tenant := numAt b 2 2, owner := BitVec.ofNat 16 (numAt b 4 2), keyh := BitVec.ofNat 16 (numAt b 6 2)
    prio := numAt b 8 1, nlevels := numAt b 9 1, hctl := numAt b 10 2, nodes := numAt b 12 4
    graph := leWord (slice b 16 8), image := leWord (slice b 24 8), imageLen := numAt b 32 8
    endctr := BitVec.ofNat 16 (numAt b 40 2), endadd := leWord (slice b 48 8)
    levels := (List.range 8).map fun i => parseLevel (slice b (64 + 16 * i) 16)
    reservedOk := numAt b 42 6 = 0 && numAt b 56 8 = 0 && numAt b 192 64 = 0 }

/-- Domain and scope codes (Table 2.1); code 7 is reserved. -/
def scopeOfCode (n : Nat) : Option Scope := [Scope.hart, .core, .clus, .dist, .die, .pkg, .sys][n]?

/-! ### Checks (Table 3.4) -/

/-- Check 0x01: the entries at NLEVELS and above are zero, whatever NLEVELS is. -/
def recReserved (r : LaunchRec) : Bool :=
  r.format = 1 && r.reservedOk && r.keyh.toNat < 0x1000 && r.prio < 8 && r.hctl < 8 && r.levels.all (·.reserved) &&
    (r.levels.drop r.nlevels).all (·.zero)

/-- Whether a handle may be the world of a new launch of a tenant (R247). -/
def handleFree (s : State) (tenant : Nat) (k : BitVec 16) : Bool :=
  decide (k = 0) ||
    (k.toNat < 0x800 && mapGet 0 s.handleTenants k.toNat = tenant + 1 && (getKey s (k.setWidth 12)).isNone &&
      !s.launches.any fun e =>
        match e.2 with
        | some l => decide (l.keyh = k.setWidth 12) && decide (l.phase ≠ .retired)
        | none => false)

/-- Check 0x02. -/
def recOwned (s : State) (submitter : Nat) (r : LaunchRec) : Bool :=
  r.tenant = submitter && decide (mapGet 0 s.owners r.owner.toNat = submitter + 1) && handleFree s submitter r.keyh

/-- The levels in use, where every code is one of Table 2.1. -/
def recLevels (r : LaunchRec) : Option (List Level) :=
  (r.levels.take r.nlevels).foldr (fun v acc =>
    match scopeOfCode v.domain, scopeOfCode v.scope, acc with
    | some d, some sc, some l => some (⟨d, sc, v.extent⟩ :: l)
    | _, _, _ => none) (some [])

/-- Domains rise strictly from one level to the next. -/
def domainsRise : List Level → Bool
  | a :: b :: l => decide (a.domain.code.toNat < b.domain.code.toNat) && domainsRise (b :: l)
  | _ => true

/-- Check 0x03. -/
def levelShape (r : LaunchRec) : Option (List Level) :=
  if r.nlevels = 0 || 8 < r.nlevels then none
  else
    match recLevels r with
    | none => none
    | some l => if domainsRise l && l.all (fun v => scopeAtLeast v.scope v.domain) then some l else none

/-- The most instances of a domain that every instance of the next level's domain holds (R36). -/
def extentLimit (s : State) (d next : Scope) : Nat :=
  match (instancesIn s next (0, 16384)).map fun p => (instancesIn s d p).length with
  | [] => 0
  | n :: l => l.foldl min n

/-- The extents of the levels, innermost first (R36). -/
def extentsOk (s : State) : List Level → Bool
  | [] => true
  | [v] =>
    1 ≤ v.extent && (if v.domain = .hart then v.extent ≤ 8 else v.extent ≤ (instancesIn s v.domain (0, 16384)).length)
  | v :: w :: l =>
    1 ≤ v.extent && (if v.domain = .hart then v.extent ≤ 8 else v.extent ≤ extentLimit s v.domain w.domain) &&
      extentsOk s (w :: l)

/-- The agent that reads for a launch that is not accepted yet. -/
def recAgent (r : LaunchRec) : Agent := ⟨0, noHart, r.owner, BitVec.ofNat 4 r.tenant, 0⟩

/-- Addresses that the rights tables speak of (R218). -/
def ranged (p : Word) : Bool :=
  match regionOf (addrOf p) with
  | .vault | .translated | .host => true
  | .self | .localMem | .control | .nowhere => false

/-- Check 0x05. -/
def recRights (s : State) (r : LaunchRec) : Bool :=
  1 ≤ r.nodes && r.nodes ≤ 65536 && r.graph.toNat % 128 = 0 && r.image.toNat % 64 = 0 && 64 ≤ r.imageLen &&
    r.imageLen ≤ 0x1000000 && ranged r.graph && ranged r.image &&
    agentMay s (recAgent r) r.graph (r.nodes * 128) rightR && agentMay s (recAgent r) r.image r.imageLen rightX

/-- The first failing check of Table 3.4, or the levels of a record that passes (R38). -/
def checkRecord (s : State) (submitter : Nat) (r : LaunchRec) : Except (BitVec 8) (List Level) :=
  if !recReserved r then .error 0x01
  else if !recOwned s submitter r then .error 0x02
  else
    match levelShape r with
    | none => .error 0x03
    | some l =>
      if !extentsOk s l then .error 0x04
      else if !recRights s r then .error 0x05
      else if !(decide (r.endctr = 0xFFFF) || ownsCounter s r.endctr (BitVec.ofNat 4 submitter)) then .error 0x06
      else .ok l

/-! ### Acceptance -/

/-- A fresh world key for a launch (Table 16.1); a launch with KEYH 0 has none. -/
def makeWorldKey (s : State) (tenant : Nat) (keyh : BitVec 12) (launch : Nat) : State :=
  if keyh = 0 then s
  else
    { s with
      keys := mapPut none s.keys keyh.toNat (some ⟨BitVec.ofNat 4 tenant, s.nextKey, true, launch, []⟩)
      nextKey := s.nextKey + 1 }

/-- The node array of a graph. DESIGN CHOICE (log entry 86): it is read whole when the launch is accepted, in the view of die 0; a node that cannot
be read counts as all zeros, which fails its check. -/
def readNodes (s : State) (r : LaunchRec) : SMap (Option Node) :=
  (List.range r.nodes).map fun i =>
    (i, some (parseNode ((agentRead s (recAgent r) (r.graph + BitVec.ofNat 64 (128 * i)) 128).getD [])))

/-- SHA-384 of an image (R38), read by the security engine under the right that the check asks of it, X. -/
def measureImage (s : State) (r : LaunchRec) : BitVec 384 :=
  Crypto.digest ((agentReadFor s (recAgent r) r.image r.imageLen rightX).getD [])

/-- The launch enters the device under its journal sequence, RUNNING; its nodes without predecessors become ready (R38, R40). -/
def acceptLaunch (s : State) (r : LaunchRec) (levels : List Level) (jseq : Nat) : State :=
  let (id, s) := fresh s
  let keyh := r.keyh.setWidth 12
  let l : Launch :=
    { id := id, tenant := BitVec.ofNat 4 r.tenant, seq := BitVec.ofNat 64 jseq, owner := r.owner, keyh := keyh, prio := r.prio
      levels := levels, hctl := BitVec.ofNat 4 r.hctl, graph := r.graph, image := r.image, imageLen := r.imageLen
      endctr := r.endctr, endadd := r.endadd, measure := measureImage s r, inst := if keyh = 0 then 0 else s.nextKey
      phase := .running, final := 0, reason := 0, nodes := readNodes s r, nodeCount := r.nodes, swept := none
      evec := Config.supervisorEntry s.firmware.loads, loaded := false }
  let s := makeWorldKey s r.tenant keyh id
  let s := { s with launches := mapPut none s.launches id (some l) }
  let s := chargeAgent (launchAgent l 0) r.graph (128 * r.nodes) s
  let s := journalSet s r.tenant jseq runningState 0
  readyNodes (post s (.launchEndSweep id)) id

/-- The launch of a tenant under a journal sequence (R270). -/
def findLaunch (s : State) (tenant : Nat) (seq : Word) : Option Launch :=
  s.launches.findSome? fun e =>
    match e.2 with
    | some l => if l.tenant.toNat = tenant && decide (l.seq = seq) then some l else none
    | none => none

/-- Abort a launch as R41 ends one; a launch that is final is left as it is (Table 17.3). -/
def abortLaunch (s : State) (l : Launch) : State := endLaunch s l.id abortedState 0

/-- First 32 bytes of the SHA-384 of a byte string (Table 17.4, DIGEST). -/
def journalDigest (b : List Byte) : List Byte := slice (leBytes 48 (Crypto.digest b).toNat) 0 32

/-! ### Counters -/

/-- A counter passes to a tenant with a value (Table 18.1, services 12 and 26). -/
def giveCounter (s : State) (id tenant : Nat) (v : Word) : State :=
  retestCounter
    { s with
      counterOwner := mapPut 0 s.counterOwner id (tenant + 1)
      counters := mapPut 0 s.counters id v
      counterStamp := mapErase s.counterStamp id } id

/-- A counter belongs to no tenant any more; its waiters are tested again. -/
def takeCounter (s : State) (id : Nat) : State := retestCounter { s with counterOwner := mapErase s.counterOwner id } id

end Sys2Proof.Machine
end

