-- ==== Sys2Proof/Machine/Supervisor.lean ====
section
/-!
DEFINITION. What the launch supervisor does at EVEC for a hart of a launch: reflection of refused accesses (R240), trap reports
and the end of the launch (R286, R287), the save of a stopped hart (R80 to R83).
-/

namespace Sys2Proof.Machine

/-! ### Reflection -/

/-- Whether the supervisor reflects the trap that a hart took (R240). -/
def reflects (v : Hart) : Bool :=
  (decide (v.sr.ecause = 0x06) || decide (v.sr.ecause = 0x07)) && decide (returnMode v.sr.estat = .U) && uefEn v && !uefAct v

/-- Reflect a refusal to the hart's own handler (R240): the record holds the length of the access refused, and UEPC the address after the
instruction or its unit. -/
def reflect (s : State) (h : Nat) : State :=
  let v := getHart s h
  let s := writeRecord s h ⟨if v.sr.ecause = 0x06 then 0x21 else 0x22, 0, 0, false, v.sr.eval, 0, v.remain⟩
  modHart s h fun v =>
    setUefAct true
      { v with sr := { v.sr with uepc := v.after }, mode := .U, pc := evenPc v.sr.uevec, sup := none, wait := none }

/-! ### Trap reports -/

/-- Journal a trap report for a hart (R273, R286). -/
def reportTrap (s : State) (h : Nat) : State :=
  let v := getHart s h
  let t := v.sr.tenant.toNat
  let tail := leBytes 8 v.sr.epc.toNat ++ leBytes 8 v.sr.eval.toNat ++ leBytes 8 v.sr.estat.toNat ++
    [v.sr.ecause, 0, 0, 0, 0, 0, 0, 0]
  sendOut (journalAdd s t 0 0x83 doneState 0 (hidOf s h) tail).2 (.msix t 1)

/-- The trap is reported and ends the launch (R286, R287). -/
def trapEndsLaunch (s : State) (h : Nat) : State := endLaunch (reportTrap s h) (getHart s h).launch failedState 0x09

/-! ### Saves -/

/-- The live-register map that a SAFEPT at an address names: that of the kernel of the launch's image which encloses it (R79, R300). -/
def liveMap (s : State) (launch : Nat) (pc : Word) (map : Nat) : Option (BitVec 64) :=
  match getLaunch s launch with
  | some l => Config.imageMap l.measure (Config.imageKernel l.measure (pc - l.image).toNat) map
  | none => none

/-- Kind and mask of a save (R78, R79): a SAFEPT whose map is absent is saved as a forced stop. -/
def saveMask (s : State) (v : Hart) (kind : Nat) : Nat × BitVec 64 :=
  let all : BitVec 64 := v.live ++ 0xFFFFFFFE#32
  if kind = 0 then
    match liveMap s v.launch (v.sr.epc - 4) (field v.sr.eval.toNat 0 12) with
    | some m => (0, (m.extractLsb' 32 32 &&& v.live) ++ (m.extractLsb' 0 32 &&& 0xFFFFFFFE#32))
    | none => (2, all)
  else (kind, all)

/-- Whether another hart of the launch runs on the core (R81). -/
def othersRun (s : State) (h : Nat) : Bool :=
  let v := getHart s h
  (List.range 8).any fun j =>
    let k := hartKey (coreOf h) j
    k ≠ h && decide ((getHart s k).tenure = .running) && decide ((getHart s k).launch = v.launch)

/-- What PLANES records (Table 4.4, R81). -/
def planesOf (c : MatrixSlice) : PlanesRec :=
  ⟨c.wtid, c.atid, c.mode, c.cls, c.split, c.flush, c.faulted, c.flags, { c.active with elems := [], scales := [] },
    { c.shadow with elems := [], scales := [] }⟩

/-- Both planes zero and empty, their marks cleared (R81, R169). -/
def scrubPlanes (c : MatrixSlice) : MatrixSlice := { c with active := .reset, shadow := .reset }

/-- Bytes of a bank as a sparse map by offset. -/
def bankBytes (s : State) (core j : Nat) : SMap Byte :=
  let lo := localOf core + j * 0x4000
  ((viewOf s (dieOf core)).filter fun e => lo ≤ e.1 && e.1 < lo + 0x4000).map fun e => (e.1 - lo, e.2)

/-- Registers in a mask, zero elsewhere: only the registers that the kind names are written (R80). -/
def maskedX (v : Hart) (m : BitVec 64) : Vector Word 32 :=
  Vector.ofFn fun i => if m.getLsbD i.val then v.x[i] else 0
def maskedV (v : Hart) (m : BitVec 64) : Vector VWord 32 :=
  Vector.ofFn fun i => if m.getLsbD (32 + i.val) then v.v[i] else 0

/-- The save record of a stopped hart (R80, R81). -/
def saveOf (s : State) (h kind : Nat) : Save :=
  let v := getHart s h
  let core := coreOf h
  let c := (getCore s core).slice
  let km := saveMask s v kind
  let mine := decide (c.owner = v.launch)
  { core := core, ctx := ctxOf h, launch := v.launch, hidOld := hidOf s h, kind := km.1
    map := if km.1 = 0 then field v.sr.eval.toNat 0 12 else 0
    pc := v.sr.epc, inS := decide (returnMode v.sr.estat = .S), mask := km.2
    subt := if v.tile.isNone then BitVec.allOnes 64 else v.sr.subt, tile := v.tile
    pend := v.ipend ||| (if v.faults = [] then 0 else 2), sr := v.sr, mpend := v.mpend
    planes := if !othersRun s h && mine then some (planesOf c) else none
    x := maskedX v km.2, v := maskedV v km.2
    acc := if mine && v.ganged then some c.acc else none
    bank := bankBytes s core (ctxOf h), loans := v.loans, faults := v.faults, serial := s.serial }

/-- Whether the save can be made: nothing of the hart is in flight, every access to its bank has been made (R13), and the core's matrix command
queue is empty where its launch uses the slice (R82). -/
def saveReady (s : State) (h : Nat) : Bool :=
  let c := getCore s (coreOf h)
  !busyHart s h && !bankBusy s (coreOf h) (ctxOf h) && (decide (c.slice.owner ≠ (getHart s h).launch) || decide (c.matrixQ = []))

/-! ### The save record in memory (Table 4.4) -/

/-- The 16 bytes of a plane entry. -/
def planeBytes (p : Plane) : List Byte :=
  leBytes 2 p.tid.toNat ++ leBytes 2 0 ++ leBytes 4 p.version.toNat ++ leBytes 3 p.k0 ++ leBytes 3 p.n0 ++
    leBytes 2 (match p.state with
      | .empty => 0
      | .loaded => 1
      | .loadedSealed => 2)

/-- The 40 bytes of PLANES. -/
def planesBytes : Option PlanesRec → List Byte
  | none => List.replicate 40 0
  | some p =>
    leBytes 2 p.wtid.toNat ++ leBytes 2 p.atid.toNat ++
      [BitVec.setWidth 8 (BitVec.ofBool true ++ BitVec.ofBool p.faulted ++ BitVec.ofBool p.flush ++ BitVec.ofBool p.split ++ p.mode),
        BitVec.setWidth 8 p.flags, 0, 0] ++ planeBytes p.active ++ planeBytes p.shadow

/-- Bytes 0 to 127. -/
def saveHead (r : Save) : List Byte :=
  leBytes 4 r.hidOld.toNat ++ leBytes 2 r.kind ++ leBytes 2 r.map ++
    leBytes 8 (BitVec.ofBool r.inS ++ r.pc.extractLsb' 0 63).toNat ++ leBytes 8 r.mask.toNat ++ leBytes 8 r.subt.toNat ++
    leBytes 8 r.pend.toNat ++ leBytes 4 r.sr.hctl.toNat ++ leBytes 4 r.sr.vstat.toNat ++ leBytes 8 r.sr.msgb.toNat ++
    leBytes 8 r.mpend.toNat ++ leBytes 8 r.sr.uevec.toNat ++ leBytes 8 r.sr.uepc.toNat ++ planesBytes r.planes ++
    leBytes 8 r.sr.efr.toNat

/-- The parts of a record that are written, by offset: only the registers of MASK, and the accumulator block of a member of a gang (R80). -/
def saveParts (r : Save) : List (Nat × List Byte) :=
  (0, saveHead r) ::
    ((List.range 32).filterMap fun i => if 0 < i && r.mask.getLsbD i then some (128 + 8 * i, leBytes 8 (r.x[i]?.getD 0).toNat) else none) ++
    ((List.range 32).filterMap fun i =>
      if r.mask.getLsbD (32 + i) then some (384 + 64 * i, leBytes 64 (r.v[i]?.getD 0).toNat) else none) ++
    (match r.acc with
     | some a => [(2432, (List.range 512).flatMap fun i => leBytes 4 (mapGet 0 a i).toNat)]
     | none => []) ++
    [(4480, mapBytes r.bank 0 0x4000)]

/-- Write bytes of a record under the key of its world (R80, R250). -/
def writePart (l : Launch) (core ctx : Nat) (s : State) (p : Nat × List Byte) : State :=
  let phys := 64 * Config.saveLine l.id core ctx
  (pieces (BitVec.ofNat 64 p.1) p.2.length).foldl (fun s e =>
    let off := e.1.toNat
    let u := if l.inst = 0 then .plain else ⟨l.inst, l.keyh.toNat, Config.saveVirtual l.id core ctx + off / 64, false⟩
    let key := dramBase + phys + off
    applyEverywhere (chargeLine l.id true s key) key (slice p.2 (off - p.1) e.2) u) s

/-- Keys of the lines that hold a record's parts. -/
def saveKeys (r : Save) : List Nat :=
  let phys := 64 * Config.saveLine r.launch r.core r.ctx
  let lines := (saveParts r).flatMap fun p => (pieces (BitVec.ofNat 64 p.1) p.2.length).map fun e => e.1.toNat / 64
  (lines.foldl (fun acc k => if acc.contains k then acc else acc ++ [k]) []).map fun k => dramBase + phys + 64 * k

/-- Whether the lines of a record are served to its tenant's core now (R279). -/
def saveServed (s : State) (r : Save) : Bool := (linesHeld s r.launch (saveKeys r)).isNone

/-- The record lies in the save area of its launch, inside the world's memory (R80). -/
def writeSave (s : State) (r : Save) : State :=
  match getLaunch s r.launch with
  | none => s
  | some l => (saveParts r).foldl (writePart l r.core r.ctx) s

/-- Whether the supervisor meets a synchronous trap while it saves a hart (R83): a register that it is to write holds the data of a failed
read (R90), or the bank does. -/
def saveTraps (s : State) (h kind : Nat) : Bool :=
  let v := getHart s h
  let m := (saveMask s v kind).2
  let lo := (localOf (coreOf h) + ctxOf h * 0x4000) / 64
  v.poison.any (fun e => m.getLsbD e.1) || s.badLines.any fun k => lo ≤ k && k < lo + 256

/-- The record is written and the context released as HALT does, its bank kept in the record (R83). -/
def saveHart (s : State) (h kind : Nat) : State :=
  let r := saveOf s h kind
  let s := writeSave { s with saves := s.saves ++ [r], serial := s.serial + 1 } r
  let s := if r.planes.isSome then modCore s r.core fun c => { c with slice := scrubPlanes c.slice } else s
  freeContext s h none true

/-- The supervisor's save of a stopped hart: a trap in it abandons the save and ends the launch with reason 0x08 (R83). -/
def releaseStopped (s : State) (h kind : Nat) : State :=
  if saveTraps s h kind then endLaunch s (getHart s h).launch failedState 0x08 else saveHart s h kind

/-- Whether the supervisor can do its task for a hart now: until then its context is not ready, and the core's other contexts issue (R73). -/
def superviseReady (s : State) (h : Nat) (t : SupTask) : Bool :=
  let v := getHart s h
  match t with
  | .trap => reflects v || journalFree s v.sr.tenant.toNat
  | .engineFault => journalFree s v.sr.tenant.toNat
  | .stop kind => saveReady s h && saveServed s (saveOf s h kind)

/-- What the supervisor does in its turn. -/
def supervise (s : State) (h : Nat) (t : SupTask) : State :=
  if superviseReady s h t then
    match t with
    | .trap => if reflects (getHart s h) then reflect s h else trapEndsLaunch s h
    | .engineFault => trapEndsLaunch s h
    | .stop kind => releaseStopped s h kind
  else s

end Sys2Proof.Machine
end

