-- ==== Sys2Proof/Machine/Elementary.lean ====
section
/-!
DEFINITION. The defined functions (R151): reciprocal, reciprocal square root, base-2 exponential and logarithm, sine and cosine.
The exact value is bounded by series in fixed point with 256 fraction bits, far finer than any rounding boundary comes to a
value of these functions on their inputs.
-/

namespace Sys2Proof.Machine

/-- Fraction bits of the fixed-point working values. -/
def fxBits : Nat := 256
def fxOne : Nat := 2 ^ fxBits

/-- a·b and a/b in fixed point. -/
def fxMul (a b : Nat) : Nat := a * b / fxOne
def fxDiv (a b : Nat) : Nat := a * fxOne / b

/-- Σ z^(2k+1)/(2k+1) for k from `k` up, given the power z^(2k+1). -/
def atanhSum (z2 : Nat) : Nat → Nat → Nat → Nat
  | 0, _, _ => 0
  | n + 1, k, pw => pw / (2 * k + 1) + atanhSum z2 n (k + 1) (fxMul pw z2)

/-- atanh z for z at most 1/3. -/
def fxAtanh (z : Nat) : Nat := atanhSum (fxMul z z) 90 0 z

/-- ln 2 = 2 atanh(1/3). -/
def fxLn2 : Nat := 2 * fxAtanh (fxOne / 3)

/-- Σ of y^k/k! from term `k` up, given y^k/k!. -/
def expSum (y : Nat) : Nat → Nat → Nat → Nat
  | 0, _, _ => 0
  | n + 1, k, t => t + expSum y n (k + 1) (fxMul t y / (k + 1))

/-- exp y for y in [0, 1). -/
def fxExp (y : Nat) : Nat := expSum y 70 0 fxOne

/-- Alternating Σ (−1)^k z^(2k+1)/(2k+1). -/
def atanSum (z2 : Nat) : Nat → Nat → Nat → Int
  | 0, _, _ => 0
  | n + 1, k, pw => ((pw / (2 * k + 1) : Nat) : Int) - atanSum z2 n (k + 1) (fxMul pw z2)

def fxAtan (n : Nat) : Int := atanSum (fxOne / (n * n)) 130 0 (fxOne / n)

/-- π by Machin's formula. -/
def fxPi : Nat := (16 * fxAtan 5 - 4 * fxAtan 239).toNat

/-- Alternating series of sine and cosine: t, then t·r²/((k+1)(k+2)) subtracted and so on. -/
def trigSum (r2 : Nat) : Nat → Nat → Nat → Int
  | 0, _, _ => 0
  | n + 1, k, t => (t : Int) - trigSum r2 n (k + 2) (fxMul t r2 / ((k + 1) * (k + 2)))

/-- sin r and cos r for r in [0, 2). -/
def fxSin (r : Nat) : Int := trigSum (fxMul r r) 60 1 r
def fxCos (r : Nat) : Int := trigSum (fxMul r r) 60 0 fxOne

/-- m × 2^e in fixed point, rounded down. -/
def fxOf (m : Nat) (e : Int) : Nat :=
  if 0 ≤ e + fxBits then m * 2 ^ (e + fxBits).toNat else m / 2 ^ (-(e + fxBits)).toNat

/-- Round a fixed-point value that is not exact. -/
def roundFx (f : Fmt) (p : Nat) (flush neg : Bool) (v : Nat) : Nat × FpFlags :=
  roundMag f p .rne flush neg v (-(fxBits : Int)) true

/-- Significant bits of a function's result (R151). -/
def fnPrec (f : Fmt) (n : Nat) : Nat := if f = fp32 then n else f.prec

/-- VRCP: 1/x. A result below the normal range raises UF whether or not it is exact (Table 8.6). -/
def rcpVal (f : Fmt) (flush : Bool) (x : FVal) : Nat × FpFlags :=
  let r := divVal f (fnPrec f 12) flush (.fin false 1 0) x
  match x with
  | .fin _ _ _ => (r.1, r.2 ||| raiseIf (expField f r.1 = 0) flagUF)
  | _ => r

/-- VRSQ: 1/√x. -/
def rsqVal (f : Fmt) (flush : Bool) : FVal → Nat × FpFlags
  | .nan => (f.nan, 0)
  | .zero n => (f.infinity n, flagDZ)
  | .inf n => if n then invalid f else (0, 0)
  | .fin n m e =>
    if n then invalid f
    else
      -- x = M × 2^(2k); 1/√x = √(2^(2w)/M) × 2^(−w−k)
      let odd := (e % 2).toNat
      let mm := m * 2 ^ odd
      let k := (e - odd) / 2
      let w := bitLength mm + 2 * f.prec + 8
      let r := natSqrt (2 ^ (2 * w) / mm)
      roundMag f (fnPrec f 16) .rne flush false r (-(w : Int) - k) (decide (r * r * mm ≠ 2 ^ (2 * w)))

/-- Floor and fraction (in fixed point) of an exact number. -/
def splitFx (d : Dy) : Int × Nat :=
  if 0 ≤ d.2 then (d.1 * (2 ^ d.2.toNat : Nat), 0)
  else
    let den : Nat := 2 ^ (-d.2).toNat
    let fl := d.1 / (den : Int)
    let r := (d.1 - fl * den).toNat
    (fl, r * fxOne / den)

/-- VEXP2: 2^x. -/
def exp2Val (f : Fmt) (flush : Bool) : FVal → Nat × FpFlags
  | .nan => (f.nan, 0)
  | .zero _ => roundMag f (fnPrec f 16) .rne flush false 1 0 false
  | .inf n => if n then (0, 0) else (f.infinity false, 0)
  | .fin n m e =>
    if (9 : Int) ≤ (bitLength m : Int) - 1 + e then
      -- |x| is at least 512: out of range either way
      if n then roundMag f (fnPrec f 16) .rne flush false 1 (-1024) true
      else roundMag f (fnPrec f 16) .rne flush false 1 1024 true
    else
      let s := splitFx (if n then -(m : Int) else m, e)
      if s.2 = 0 then roundMag f (fnPrec f 16) .rne flush false 1 s.1 false
      else roundMag f (fnPrec f 16) .rne flush false (fxExp (fxMul s.2 fxLn2)) (s.1 - fxBits) true

/-- VLOG2: log2 x. -/
def log2Val (f : Fmt) (flush : Bool) : FVal → Nat × FpFlags
  | .nan => (f.nan, 0)
  | .zero _ => (f.infinity true, flagDZ)
  | .inf n => if n then invalid f else (f.infinity false, 0)
  | .fin n m e =>
    if n then invalid f
    else
      let top := (bitLength m : Int) - 1
      let ex := top + e
      if m = 2 ^ top.toNat then
        (if ex = 0 then (0, 0) else roundMag f (fnPrec f 16) .rne flush (ex < 0) ex.natAbs 0 false)
      else
        let t := fxOf m (-top)
        let l := fxDiv (2 * fxAtanh (fxDiv (t - fxOne) (t + fxOne))) fxLn2
        let v : Int := ex * (fxOne : Int) + l
        -- a negative result lies just above v: its magnitude is |v| less a unit, and a little
        if v < 0 then roundFx f (fnPrec f 16) flush true (v.natAbs - 1) else roundFx f (fnPrec f 16) flush false v.natAbs

/-- Sine (or cosine) of a nonzero finite argument below 2^16 in magnitude: sign and fixed-point magnitude. -/
def trigFx (cosine neg : Bool) (m : Nat) (e : Int) : Bool × Nat :=
  let x := fxOf m e
  let half := fxPi / 2
  let q := x / half
  let r := x - q * half
  let quad := (q + if cosine then 1 else 0) % 4
  let v := if quad % 2 = 0 then fxSin r else fxCos r
  ((decide (2 ≤ quad) != (neg && !cosine)), v.toNat)

/-- VSIN and VCOS. Below 2^-48 the result is the next number under x (or under 1) at every precision used. -/
def trigVal (cosine : Bool) (f : Fmt) (flush : Bool) : FVal → Nat × FpFlags
  | .nan => (f.nan, 0)
  | .zero n => if cosine then roundMag f (fnPrec f 16) .rne flush false 1 0 false else (signBit f n, 0)
  | .inf _ => invalid f
  | .fin n m e =>
    if (16 : Int) ≤ (bitLength m : Int) - 1 + e then invalid f
    else if (bitLength m : Int) + e < -48 then
      (if cosine then roundMag f (fnPrec f 16) .rne flush false (2 ^ 64 - 1) (-64) true
       else roundMag f (fnPrec f 16) .rne flush n (m * 2 ^ 64 - 1) (e - 64) true)
    else
      let r := trigFx cosine n m e
      roundFx f (fnPrec f 16) flush r.1 r.2

end Sys2Proof.Machine
end

