-- ==== Sys2Proof/Machine/Wacc.lean ====
section
/-!
DEFINITION. Window accumulators: the operators (R192), the object (R190, R191), the issue checks (R195), the home checks (R196) and
the algorithm (R198).
-/

namespace Sys2Proof.Machine

/-! ### Operators (Table 11.2) -/

/-- Bytes of a slot. -/
def waccSlot (op : Nat) : Nat :=
  if op = 1 || (7 ≤ op) then 8 else 4

/-- The element size code that an operator takes. -/
def waccEsize (op : Nat) : Nat := if waccSlot op = 8 then 3 else 2

/-- Whether an operator takes a pair. -/
def waccPair (op : Nat) : Bool := decide (0xA ≤ op)

def pairOf (lo hi : Nat) : Nat := lo % 2 ^ 32 + 2 ^ 32 * (hi % 2 ^ 32)

/-- The identity encoding. -/
def waccIdentity (op : Nat) : Nat :=
  match op with
  | 0x3 => 0x80000000
  | 0x4 => 0xFF800000
  | 0x5 => 0x7FFFFFFF
  | 0x6 => 0x7F800000
  | 0x7 => 2 ^ 64 - 1
  | 0xA => pairOf 0xFF800000 0
  | 0xB => pairOf 0x3F800000 0
  | 0xC => pairOf 0xFF800000 0xFFFFFFFF
  | _ => 0

def f32 (b : Nat) : FVal := unpack fp32 false b
def add32 (a b : Nat) : Nat := (addVal fp32 false (f32 a) (f32 b)).1
def mul32 (a b : Nat) : Nat := (mulVal fp32 false (f32 a) (f32 b)).1

/-- The factor of one side of LSE: 1 for the larger component, else the VEXP2 of its distance. -/
def lseFactor (mi m : Nat) : Nat :=
  if fEqual (f32 mi) (f32 m) then 0x3F800000
  else (exp2Val fp32 false (f32 (addVal fp32 false (f32 mi) (f32 m).negate).1)).1

/-- LSE.F32: (m, s) stands for m + log2 s. -/
def lse (a b : Nat) : Nat :=
  let m1 := field a 0 32
  let s1 := field a 32 32
  let m2 := field b 0 32
  let s2 := field b 32 32
  if isNan (f32 m1) || isNan (f32 s1) || isNan (f32 m2) || isNan (f32 s2) then pairOf 0x7FC00000 0x7FC00000
  else
    let m := repack fp32 (maxVal (f32 m1) (f32 m2))
    pairOf m (add32 (mul32 s1 (lseFactor m1 m)) (mul32 s2 (lseFactor m2 m)))

/-- AFFINE.F32: the newer map after the older one. -/
def affine (a b : Nat) : Nat :=
  let a1 := field a 0 32
  let b1 := field a 32 32
  let a2 := field b 0 32
  let b2 := field b 32 32
  pairOf (mul32 a2 a1) (fmaVal fp32 false (f32 a2) (f32 b1) (f32 b2)).1

/-- ARGMAX.F32: the newer pair wins on equal values. -/
def argmax (a b : Nat) : Nat :=
  let v1 := f32 (field a 0 32)
  let v2 := f32 (field b 0 32)
  if isNan v1 && isNan v2 then pairOf 0x7FC00000 (field b 32 32)
  else if isNan v2 then a
  else if isNan v1 then b
  else if fBelow v2 v1 then a
  else b

/-- a ⊕ b: a older, b newer. -/
def waccCombine (op a b : Nat) : Nat :=
  match op with
  | 0x0 => (a + b) % 2 ^ 32
  | 0x1 => (a + b) % 2 ^ 64
  | 0x2 => add32 a b
  | 0x3 => if signedOf 32 a < signedOf 32 b then b else a
  | 0x4 => repack fp32 (maxVal (f32 a) (f32 b))
  | 0x5 => if signedOf 32 b < signedOf 32 a then b else a
  | 0x6 => repack fp32 (minVal (f32 a) (f32 b))
  | 0x7 => a &&& b
  | 0x8 => a ||| b
  | 0x9 => a ^^^ b
  | 0xA => lse a b
  | 0xB => affine a b
  | _ => argmax a b

/-- An aggregate as WREAD returns it: x[d], and x[d + 1] for a pair (R193). -/
def waccResult (op v : Nat) : Word × Word :=
  if waccPair op then
    (BitVec.ofNat 64 (field v 0 32),
      if op = 0xC then (BitVec.ofNat 32 (field v 32 32)).signExtend 64 else BitVec.ofNat 64 (field v 32 32))
  else if waccSlot op = 8 || op = 2 || op = 4 || op = 6 then (BitVec.ofNat 64 v, 0)
  else ((BitVec.ofNat 32 v).signExtend 64, 0)

/-! ### The object -/

/-- A header (Table 11.1). -/
structure Header where
  op : Nat
  esize : Nat
  w : Nat
  n : Nat
  seq : Word
  f : Nat
  b : Nat
  flags : Nat
  bagg : Nat
  deriving DecidableEq, Repr

def readHeader (bs : List Byte) : Header :=
  let op := numAt bs 0 1
  ⟨op, numAt bs 1 1, numAt bs 2 2, numAt bs 4 4, BitVec.ofNat 64 (numAt bs 8 8), numAt bs 16 2, numAt bs 18 2, numAt bs 20 4,
    numAt bs 24 (waccSlot op)⟩

/-- The header line with the fields that an operation changes written over `old`; its other bytes stay. -/
def Header.image (h : Header) (old : List Byte) : List Byte :=
  [BitVec.ofNat 8 h.op, BitVec.ofNat 8 h.esize] ++ leBytes 2 h.w ++ leBytes 4 h.n ++ leBytes 8 h.seq.toNat ++ leBytes 2 h.f ++
    leBytes 2 h.b ++ leBytes 4 h.flags ++ leBytes (waccSlot h.op) h.bagg ++ old.drop (24 + waccSlot h.op)

/-- The home's check of a header (R196); `even` is whether the instruction's register pair is even. -/
def Header.sound (h : Header) (even : Bool) : Bool :=
  h.flags = 1 && h.op ≤ 0xC && h.esize = waccEsize h.op && 1 ≤ h.w && h.w ≤ 4096 && h.n ≤ h.w && h.n = h.f + h.b &&
    (even || !waccPair h.op)

/-- The target of slot `i` of an object of an operator. -/
def slotTarget (t : Target) (op i : Nat) : Target :=
  let d := 64 + i * waccSlot op
  { t with va := t.va + d, key := t.key + d }

/-- Whether slot `i` lies in a line with an uncorrectable error. -/
def slotBad (s : State) (t : Target) (op i : Nat) : Bool := s.badLines.contains ((slotTarget t op i).key / 64)

def readSlot (s : State) (die : Nat) (t : Target) (op i : Nat) : Option Nat :=
  (readStored s die noHart (slotTarget t op i) (waccSlot op)).map leNat

def writeSlot (s : State) (die : Nat) (t : Target) (op i v : Nat) : State :=
  writeStored s die noHart (slotTarget t op i) (leBytes (waccSlot op) v) (decide (t.prop = .mca))

def writeHeader (s : State) (die : Nat) (t : Target) (old : List Byte) (h : Header) : State :=
  writeStored s die noHart t (h.image old) (decide (t.prop = .mca))

/-- The front that a flip leaves, newest first: slot 0 the newest back value alone, each next one with an older value before
it. -/
def flipFold (op : Nat) : List Nat → List Nat → List Nat
  | [], acc => acc.reverse
  | e :: es, [] => flipFold op es [e]
  | e :: es, p :: acc => flipFold op es (waccCombine op e p :: p :: acc)

/-- The back values, newest first: slots W − B to W − 1. None where one of them cannot be read. -/
def backValues (s : State) (die : Nat) (t : Target) (h : Header) : Option (List Nat) :=
  (List.range h.b).mapM fun i => readSlot s die t h.op (h.w - h.b + i)

/-- Turn the back into the front (R198). -/
def flip (s : State) (die : Nat) (t : Target) (h : Header) : Option (State × Header) :=
  (backValues s die t h).map fun vs =>
    let front := flipFold h.op vs []
    let s := (front.zipIdx).foldl (fun s e => writeSlot s die t h.op e.2 e.1) s
    (s, { h with f := h.b, b := 0, bagg := waccIdentity h.op })

/-- Whether an operation needs a flip first. -/
def needsFlip (w : WaccOp) (h : Header) : Bool :=
  match w with
  | .push _ _ _ _ => h.n = h.w && h.f = 0
  | .flip => h.f = 0 && 1 ≤ h.b
  | _ => false

/-- Slots that an operation on a sound header reads, and those it writes, its flip included (R198). -/
def waccReads (w : WaccOp) (h : Header) : List Nat :=
  if needsFlip w h then (List.range h.b).map fun i => h.w - h.b + i
  else
    match w with
    | .read _ _ => if h.n = 0 || h.f = 0 then [] else [h.f - 1]
    | _ => []

def waccWrites (w : WaccOp) (h : Header) : List Nat :=
  let front := if needsFlip w h then List.range h.b else []
  match w with
  | .push _ _ _ _ => front ++ [h.w - 1 - (if needsFlip w h then 0 else h.b)]
  | _ => front

/-- The value a push carries in the operator's slot. -/
def pushValue (op : Nat) (lo hi : Word) : Nat :=
  if waccPair op then pairOf lo.toNat hi.toNat else lo.toNat % 2 ^ (8 * waccSlot op)

/-- The aggregate of the window. None where a slot it needs cannot be read. -/
def aggregate (s : State) (die : Nat) (t : Target) (h : Header) : Option Nat :=
  if h.n = 0 then some (waccIdentity h.op)
  else if h.f = 0 then some h.bagg
  else
    (readSlot s die t h.op (h.f - 1)).map fun top => if h.b = 0 then top else waccCombine h.op top h.bagg

def latchOf (h : Header) : Latch :=
  ⟨h.seq, BitVec.ofNat 32 h.n, BitVec.ofNat 16 h.f, BitVec.ofNat 16 h.b⟩

/-- WINIT at the home (R198): it reads nothing; the bytes between BAGG and the reserved ones stay. -/
def waccInit (s : State) (die : Nat) (t : Target) (cfg : Nat) : State × Reply :=
  let op := field cfg 0 8
  let h : Header := ⟨op, field cfg 8 8, field cfg 16 13, 0, 0, 0, 0, 1, waccIdentity op⟩
  if s.badLines.contains (t.key / 64) then (s, .memoryError)
  else
    (writeStored (writeHeader s die t [] h) die noHart { t with va := t.va + 40, key := t.key + 40 } (leBytes 24 0)
      (decide (t.prop = .mca)), .ack)

/-- An operation on a sound header, `flipped` when its flip has been made. -/
def waccOn (s : State) (die : Nat) (t : Target) (old : List Byte) (h : Header) (w : WaccOp) (flipped : Bool) : State × Reply :=
  match w with
  | .init _ => (s, .ack)
  | .push lo hi _ _ =>
    let h := if h.n = h.w then { h with f := h.f - 1, n := h.n - 1 } else h
    let v := pushValue h.op lo hi
    let s := writeSlot s die t h.op (h.w - 1 - h.b) v
    let bagg := if h.b = 0 then v else waccCombine h.op h.bagg v
    let h := { h with bagg := bagg, b := h.b + 1, n := h.n + 1, seq := h.seq + 1 }
    (writeHeader s die t old h, .value h.seq false)
  | .read _ _ =>
    (match aggregate s die t h with
     | none => (s, .memoryError)
     | some v =>
       let r := waccResult h.op v
       (s, .latched r.1 r.2 (waccPair h.op) (latchOf h)))
  | .flip => (if flipped then writeHeader s die t old h else s, .value (if flipped then 1 else 0) false)
  | .reset =>
    (writeHeader s die t old { h with n := 0, f := 0, b := 0, bagg := waccIdentity h.op }, .value h.seq false)
  | .stat => (s, .counts (latchOf h))

/-- Whether the register pair of the instruction is even (R193). -/
def waccEven : WaccOp → Bool
  | .push _ _ r _ | .read r _ => !r.getLsbD 0
  | _ => true

/-- The trap of an instruction whose second register would be beyond x31, on the object of a pair operator (R315). -/
def waccBeyond (h : Header) : WaccOp → Option Reply
  | .push _ _ r word | .read r word =>
    if r = 31 && h.flags = 1 && waccPair h.op && h.op ≤ 0xC then some (.illegal word) else none
  | _ => none

/-- Why the home does not carry out an operation on a header (R196, R315). -/
def waccRefused (h : Header) (w : WaccOp) : Option Reply :=
  match waccBeyond h w with
  | some r => some r
  | none => if h.sound (waccEven w) then none else some .misuse

/-- An operation carried out whole, its flip included. -/
def waccApply (s : State) (die : Nat) (t : Target) (w : WaccOp) : State × Reply :=
  match w with
  | .init cfg => waccInit s die t cfg.toNat
  | w =>
    match readStored s die noHart t 64 with
    | none => (s, .memoryError)
    | some old =>
      let h := readHeader old
      match waccRefused h w with
      | some r => (s, r)
      | none =>
      -- an uncorrectable error anywhere in what the operation writes leaves the object unchanged (R197)
      if (waccWrites w h).any (slotBad s t h.op) then (s, .memoryError)
      else if needsFlip w h then
        match flip s die t h with
        | none => (s, .memoryError)
        | some (s', h') => waccOn s' die t old h' w true
      else waccOn s die t old h w false

/-- Whether an operation writes the header line. -/
def writesHeader : WaccOp → Bool
  | .init _ | .push _ _ _ _ | .flip | .reset => true
  | .read _ _ | .stat => false

/-- Lines that an operation at its home reads and writes (R278): the header, and those of the slots it touches. -/
def waccLines (s : State) (die : Nat) (t : Target) (w : WaccOp) : List (Nat × Bool) :=
  match w with
  | .init _ => [(t.key, true)]
  | w =>
    match readStored s die noHart t 64 with
    | none => [(t.key, false)]
    | some old =>
      let h := readHeader old
      let lines := fun (l : List Nat) => lineKeysOf (l.map (slotTarget t h.op))
      if (waccRefused h w).isSome then [(t.key, false)]
      else
        (t.key, false) :: (if writesHeader w then [(t.key, true)] else []) ++ ((lines (waccReads w h)).map fun k => (k, false)) ++
          (lines (waccWrites w h)).map fun k => (k, true)

/-! ### Issue -/

/-- Whether a WINIT configuration is valid (check 5). -/
def waccConfigOk (cfg : Nat) : Bool :=
  let op := field cfg 0 8
  field cfg 29 35 = 0 && op ≤ 0xC && field cfg 8 8 = waccEsize op && 1 ≤ field cfg 16 13 && field cfg 16 13 ≤ 4096

/-- Bytes of the object a configuration describes. -/
def waccExtent (cfg : Nat) : Nat := 64 + field cfg 16 13 * waccSlot (field cfg 0 8)

/-- The first line of a stretch that the tag or the owner's rights refuse for right A (checks 6 and 7). -/
def extentTrap (s : State) (h : Nat) (p : Word) (len : Nat) : Option Trap :=
  let own := (getHart s h).sr.own
  (List.range ((len + 63) / 64)).findSome? fun i =>
    let va := addrOf p + 64 * i
    match (plbRange s (coreOf h) own va).2 with
    | none => some ⟨0x06, p, 1⟩
    | some rg =>
      if tagOf p ≠ rg.tag then some ⟨0x07, p, 0⟩
      else if (plbRight s (coreOf h) own va rg.tag rightA).2 then none
      else some ⟨0x06, p, 3⟩

/-- Checks 1 to 5 of Table 11.4, and for a WINIT of configuration `cfg` checks 6 and 7 over the whole object. -/
def waccEarly (s : State) (h : Nat) (p : Word) (cfg : Option Nat) : Option Trap :=
  let va := addrOf p
  let misuse : Trap := ⟨0x0C, p, 0⟩
  let config :=
    match cfg with
    | some c => if waccConfigOk c then extentTrap s h p (waccExtent c) else some misuse
    | none => none
  if p.toNat % 64 ≠ 0 then some ⟨0x04, p, 0⟩
  else
    match regionOf va with
    | .self | .localMem | .control => some misuse
    | .vault => config
    | .host => none
    | .nowhere => none
    | .translated =>
      match findLeaf s h va with
      | .leaf _ l => if !l.direct || (routeTrap p l.route).isSome then none else config
      | _ => none

/-- Whether an object lies within its vault or its page, and the page may hold one (check 9): the page of the table, of which the leaf at hand
may be a fragment (R214). -/
def waccPlaced (s : State) (h : Nat) (t : Target) (len : Nat) : Bool :=
  if t.va < controlBase then t.va / 0x1000000 = (t.va + len - 1) / 0x1000000
  else
    match findLeaf s h t.va with
    | .leaf _ l => decide (l.prop ≠ .repl) && t.va + len ≤ l.page + l.pageSize
    | _ => false

/-- Bytes that an operation of a hart reads or writes: the object that a WINIT describes, or that the header does as the hart finds it, its own
stores that are not yet visible among it (R108, R190, R202). -/
def waccSpan (s : State) (h : Nat) (t : Target) (w : WaccOp) : Nat :=
  match w with
  | .init cfg => waccExtent cfg.toNat
  | _ =>
    match readStored s (dieOfHart h) h t 64 with
    | none => 64
    | some bs => let h := readHeader bs; 64 + h.w * waccSlot h.op

/-! ### Pages that move (R206) -/

/-- Whether a migration has committed: its shootdown is out. -/
def committed (s : State) (m : Migration) : Bool := s.shootdowns.any fun d => d.next = .service m.slot 0

/-- Whether a key lies in a page of DRAM. -/
def inPage (l : Leaf) (key : Nat) : Bool := dramBase + l.phys ≤ key && key < dramBase + l.phys + l.size

/-- Where a window-accumulator operation goes: to the source until the migration commits, whether or not its line has been copied. -/
def sourceKey (s : State) (key : Nat) : Nat :=
  match s.migrations.find? fun m => !committed s m && inPage m.dst key with
  | some m => if m.copied.contains ((key - m.dst.phys + m.src.phys) / 64) then key - m.dst.phys + m.src.phys else key
  | none => key

/-- Whether the page of an operation is moving and has not committed. -/
def migrating (s : State) (o : Op) : Bool := s.migrations.any fun m => !committed s m && inPage m.src o.key

/-- A window-accumulator operation as a request over the link (log entry 14). -/
def waccAsk : WaccOp → PeerAsk
  | .init cfg => .wacc 0 cfg 0
  | .push lo hi _ _ => .wacc 1 lo hi
  | .read _ _ => .wacc 2 0 0
  | .flip => .wacc 3 0 0
  | .reset => .wacc 4 0 0
  | .stat => .wacc 5 0 0

/-- Send a window-accumulator operation to its home and wait for the reply (R197). -/
def waccSend (s : State) (w : WaccOp) (d : Reg) (p : Word) (t : Target) : Result :=
  let h := me s
  withSlots s 1
    (afterFences s true true (orderedBefore s
      (afterSettle s t.prop
        (let t := { t with key := sourceKey s t.key }
         let s := dropL1 s (coreOf s.cur) t.key
         let (id, s) :=
           startOp s (.wacc w) (orderedTarget h t) p (waccSpan s s.cur t w) 1 d (acquireScope h) (releaseScope h)
         if isOuter t.key then
           let r := waccApply (sendPeer (hartAgent s s.cur) (waccAsk w) s t) (dieOfHart s.cur) t w
           awaitReply (sendReply r.1 id r.2 .zero) id
         else awaitReply (sendHome s (homeCore t.key) id (.waccHomeExecute (homeCore t.key))) id))))

/-- The issue checks of an operation on an existing object (Table 11.4). -/
def waccChecked (s : State) (p : Word) (k : State → Target → Result) : Result :=
  match waccEarly s s.cur p none with
  | some t => trapR s t
  | none => withAccess s p (.amo 64) fun s t => if !waccPlaced s s.cur t 1 then trapR s ⟨0x0C, p, 0⟩ else k s t

/-- An operation on an existing object. -/
def waccIssue (s : State) (w : WaccOp) (d a : Reg) : Result :=
  let p := readX (me s) a
  waccChecked s p fun s t => waccSend s w d p t

/-- Whether a hart finds an object of a pair operator at a target. -/
def pairObject (s : State) (h : Nat) (t : Target) : Bool :=
  match readStored s (dieOfHart h) h t 64 with
  | some bs => decide ((readHeader bs).flags = 1) && waccPair (readHeader bs).op
  | none => false

/-- The second component of a push. Only a pair operator reads its register (Table 24.4); for another object, a register that is still to
be written, or holds the data of a failed read, gives a value that nothing fixes. -/
def secondOperand (s : State) (b : Reg) : Word :=
  let h := me s
  let r := nextReg b
  if mapGet 0 h.xpend r.toNat ≠ 0 || h.poison.any (fun e => e.1 = r.toNat) then Config.freeWord s.tick 110 else readX h r

def execWinit (a b : Reg) (s : State) : Result :=
  let h := me s
  if isHandler s.cur then illegal s (.winit a b)
  else
    let p := readX h a
    let cfg := readX h b
    match waccEarly s s.cur p (some cfg.toNat) with
    | some t => trapR s t
    | none =>
      withAccess s p (.amo 64) fun s t =>
        if !waccPlaced s s.cur t (waccExtent cfg.toNat) then trapR s ⟨0x0C, p, 0⟩ else waccSend s (.init cfg) 0 p t

def execWpush (d a b : Reg) (s : State) : Result :=
  let h := me s
  let p := readX h a
  let r := (nextReg b).toNat
  if isHandler s.cur then illegal s (.wpush d a b)
  else
    waccChecked s p fun s t =>
      if pairObject s s.cur t && mapGet 0 h.xpend r ≠ 0 then waitFor s (.operand r)
      else
        match if pairObject s s.cur t then (h.poison.find? fun e => e.1 = r) else none with
        | some e => trapR s ⟨0x10, e.2.getD 0, 0⟩
        | none => waccSend s (.push (readX h b) (secondOperand s b) b ((encodeWord (.wpush d a b)).setWidth 64)) d p t

def execWread (d a : Reg) (s : State) : Result :=
  if isHandler s.cur then illegal s (.wread d a) else waccIssue s (.read d ((encodeWord (.wread d a)).setWidth 64)) d a

def execWflip (d a : Reg) (s : State) : Result :=
  if isHandler s.cur then illegal s (.wflip d a) else waccIssue s .flip d a

def execWreset (d a : Reg) (s : State) : Result :=
  if isHandler s.cur then illegal s (.wreset d a) else waccIssue s .reset d a

/-- WSTAT: with a = x0 the latch, without an access (R199). -/
def execWstat (d a : Reg) (s : State) : Result :=
  if isHandler s.cur then illegal s (.wstat d a)
  else if a = 0 then
    orderedBefore s
      (let l := (me s).latch
       .next (retire (modMe (orderedAfter s) fun h => writePair h d l.seq (l.b ++ l.f ++ l.n)) 4))
  else waccIssue s .stat d a

/-! ### At the home -/

def waccKind (o : Op) : Option WaccOp :=
  match o.kind with
  | .wacc w => some w
  | _ => none

/-- Whether a flip of the object of an operation is under way (R203). -/
def flipping (s : State) (core : Nat) (o : Op) : Bool := (getCore s core).flips.any (·.1 = o.key)

/-- Whether an earlier arrival to the same object was held and has still to execute (R206). -/
def behindHeld (s : State) (core : Nat) (o : Op) : Bool :=
  match (getCore s core).held.find? fun id => (findOp s id).any fun e => e.key = o.key with
  | some id => id ≠ o.id
  | none => false

/-- Window-accumulator operations that may be next at a home: not one whose flip is under way, and of a moving page only one that has not
arrived. -/
def waccMayArrive (s : State) (core : Nat) (o : Op) : Bool :=
  let c := getCore s core
  (waccKind o).isSome && !c.flips.any (·.2 = o.id) && !(migrating s o && c.held.contains o.id) &&
    (migrating s o || !behindHeld s core o)

/-- Whether an operation has a flip to wait for. -/
def flipDue (s : State) (die : Nat) (o : Op) (w : WaccOp) : Bool :=
  match readStored s die noHart (opTarget o) 64 with
  | none => false
  | some old =>
    let h := readHeader old
    (waccRefused h w).isNone && needsFlip w h

/-- An operation executes and its answer leaves. -/
def waccFinish (s : State) (core : Nat) (o : Op) (w : WaccOp) : State :=
  let s := askLines o.launch o.id (waccLines s (dieOf core) (opTarget o) w) (leaveHome s core o.id)
  let r := waccApply s (dieOf core) (opTarget o) w
  sendReply r.1 o.id r.2 (stampOf r.1 (dieOf core))

/-- WACC_HOME_EXECUTE (R198). A flip runs in the background; its operation, and every later one on the object, wait for it
(R203). An operation on a page that moves is held until the migration commits (R206). -/
def execWaccHomeExecute (core : Nat) (s : State) : Result :=
  atHome s core (waccMayArrive s core) (.waccHomeExecute core) fun o =>
    match waccKind o with
    | none => idleEvent s
    | some w =>
      if migrating s o then .next (modCore s core fun c => { c with held := c.held ++ [o.id] })
      else if flipping s core o then .next (post s (.waccHomeExecute core))
      else if flipDue s (dieOf core) o w then
        .next (post (modCore s core fun c => { c with flips := c.flips ++ [(o.key, o.id)] }) (.waccFlipComplete core o.key))
      else .next (waccFinish s core o w)

/-- WACC_FLIP_COMPLETE (R203): the flip has been made and the operation that needed it is carried out. -/
def execWaccFlipComplete (core header : Nat) (s : State) : Result :=
  match (getCore s core).flips.find? (·.1 = header) with
  | none => idleEvent s
  | some (_, id) =>
    let s := modCore s core fun c => { c with flips := c.flips.filter (·.1 ≠ header) }
    match findOp s id with
    | none => .next s
    | some o =>
      match waccKind o with
      | none => .next s
      | some w => .next (waccFinish s core o w)

end Sys2Proof.Machine
end

