-- ==== Sys2Proof/Machine/Svc.lean ====
section
/-!
DEFINITION. System calls: SVC and its rings (R275, R276, R397), and the services that need no proxy (Table 18.1, Table 18.6, R241).
-/

namespace Sys2Proof.Machine

/-! ### SVC -/

/-- Services open to U and S, and those open to S alone (Table 18.1). -/
def userServices : List Nat := [0, 1, 2, 3, 4, 5, 6, 7, 12, 13, 15, 16, 17, 18, 23, 24]
def systemServices : List Nat := [8, 9, 11, 14, 19, 20, 25]

def serviceOpen (m : Mode) (n : Nat) : Bool := userServices.contains n || (decide (m ≠ .U) && systemServices.contains n)

/-- The event that serves a slot, by service number; none for a number no SVC reaches. -/
def serviceEvent (n slot : Nat) : Option Event :=
  [some (Event.svcNop slot), some (.console slot), some (.fileOpen slot), some (.fileRead slot), some (.fileWrite slot),
    some (.fileClose slot), some (.rangeAlloc slot), some (.rangeFree slot), some (.pageMap slot), some (.pageUnmap slot), none,
    some (.migrate slot), some (.counterAlloc slot), some (.counterFree slot), some (.keyDestroy slot), some (.connOpen slot),
    some (.connSend slot), some (.connRecv slot), some (.connClose slot), some (.launchSubmit slot), some (.launchAbort slot), none, none,
    some (.perfRead slot), some (.timeRead slot), some (.trapReport slot)].getD n none

/-- The caller takes a slot of its die's ring and waits for the status. -/
def takeSlot (s : State) (d : Reg) (req : Word) (n : Nat) : State :=
  let h := me s
  let die := dieOfHart s.cur
  let (id, s) := fresh s
  let v : SvcSlot :=
    { id := id, hart := s.cur, gen := h.gen, n := n, req := req, tenant := h.sr.tenant, launch := h.launch, own := h.sr.own
      fromS := decide (h.mode ≠ .U), dest := d, status := none, proxy := none, since := s.time, begun := false }
  let s := modDie s die fun x => { x with ring := x.ring ++ [v], ringWait := x.ringWait.filter (· ≠ s.cur) }
  let s := raiseOs 0x08 (· = die) (modMe s fun h => { h with wait := some .service })
  match serviceEvent n id with
  | some e => post s e
  | none => s

/-- Whether a slot of the ring is free for the hart at hand: callers are served in order of arrival, none during a handover (R275, R288). -/
def ringOpen (s : State) : Bool :=
  let d := getDie s (dieOfHart s.cur)
  decide (d.ring.length < 1024) && !s.firmware.quiesced &&
    (match d.ringWait with
     | [] => true
     | h :: _ => h = s.cur)

/-- SVC (R275, R397). -/
def execSvc (d a : Reg) (n : BitVec 14) (s : State) : Result :=
  let p := readX (me s) a
  let die := dieOfHart s.cur
  if isHandler s.cur || n.msb then illegal s (.svc d a n)
  else if p.toNat % 8 ≠ 0 then trapR s ⟨0x04, p, 0⟩
  else if !serviceOpen (me s).mode n.toNat then trapR s ⟨0x0D, BitVec.ofNat 64 n.toNat, 0⟩
  else
    withAccess s p (.read 8) fun s _ =>
      afterRelease s .pkg
        (if ringOpen s then .next (takeSlot s d p n.toNat)
         else
           waitFor
             (modDie s die fun x => { x with ringWait := if x.ringWait.contains s.cur then x.ringWait else x.ringWait ++ [s.cur] })
             .ringSlot)

/-- Every slot of every ring. -/
def allSlots (s : State) : List SvcSlot := s.dies.flatMap fun e => e.2.ring
def findSlot (s : State) (id : Nat) : Option SvcSlot := (allSlots s).find? (·.id = id)
def modSlot (s : State) (id : Nat) (f : SvcSlot → SvcSlot) : State :=
  { s with dies := mapVals .reset (fun _ d => { d with ring := d.ring.map fun v => if v.id = id then f v else v }) s.dies }
def dropSlot (s : State) (id : Nat) : State :=
  { s with dies := mapVals .reset (fun _ d => { d with ring := d.ring.filter (·.id ≠ id) }) s.dies }

/-- The service writes its status; it travels to the caller. -/
def answer (s : State) (v : SvcSlot) (st : Word) : State :=
  post (modSlot s v.id fun x => { x with status := some st }) (.svcStatusReturn v.hart)

/-- SVC_STATUS_RETURN (R275): what the service wrote is visible; the caller acquires at pkg, takes the status, and the slot is free. -/
def execSvcStatusReturn (h : Nat) (s : State) : Result :=
  match (allSlots s).find? fun v => v.hart = h && v.status.isSome with
  | none => idleEvent s
  | some v =>
    if unperformed s (serviceAgent (coreOf h)) then .next (post s (.svcStatusReturn h))
    else
    let s := dropSlot s v.id
    let here := decide ((getHart s h).gen = v.gen) && decide ((getHart s h).wait = some .service)
    if here then
      .next (modHart (acquireAt s (coreOf h) .pkg) h fun x => endReplyWait (writeX x v.dest (v.status.getD 0)))
    else .next s

/-! ### Serving a slot -/

/-- Status codes (R276, Table 18.2). -/
def stDenied : Word := 1
def stNoResource : Word := 2
def stInvalid : Word := 3
def stTimeout : Word := 4
def stNotFound : Word := 5
def stRequestFault : Word := 0xF0
def stAborted : Word := 0xF1

/-- On whose behalf a service acts. -/
def slotAgent (v : SvcSlot) : Agent := ⟨coreOf v.hart, serviceAgent (coreOf v.hart), v.own, v.tenant, v.launch⟩

/-- The event that serves the slot again. -/
def again (s : State) (v : SvcSlot) : State :=
  match serviceEvent v.n v.id with
  | some e => post s e
  | none => s

/-- Whether every slot before one in its die's ring has begun to be served. The rings are served in slot order (R288). DESIGN CHOICE (log entry
84): always, and not only once a new image has been released. -/
def slotTurn (s : State) (v : SvcSlot) : Bool := ((getDie s (dieOfHart v.hart)).ring.takeWhile fun x => x.id ≠ v.id).all (·.begun)

/-- A slot whose service begins. -/
def beginSlot (s : State) (v : SvcSlot) : State := modSlot s v.id fun x => { x with begun := true }

/-- Serve a slot of service `n` that has no status yet, in its turn. -/
def serve (n slot : Nat) (s : State) (k : State → SvcSlot → State) : Result :=
  match findSlot s slot with
  | none => idleEvent s
  | some v =>
    if v.n = n && v.status.isNone then .next (if slotTurn s v then k (beginSlot s v) { v with begun := true } else again s v)
    else idleEvent s

/-- The request's first bytes under the caller's OWN, or REQUEST_FAULT (R276). -/
def withRequest (s : State) (v : SvcSlot) (n : Nat) (k : List Byte → State) : State :=
  match agentRead s (slotAgent v) v.req n with
  | some b => k b
  | none => answer s v stRequestFault

/-- Write bytes of the request and answer 0; where they cannot be written the effect `s` does not take place. -/
def answerWith (old s : State) (v : SvcSlot) (off : Nat) (bytes : List Byte) : State :=
  match agentWrite s (slotAgent v) (v.req + BitVec.ofNat 64 off) bytes with
  | some s => answer s v 0
  | none => answer old v stRequestFault

/-- NOP (service 0). -/
def execSvcNop (slot : Nat) (s : State) : Result := serve 0 slot s fun s v => answer s v 0

/-! ### Ranges (R241) -/

/-- Whether a stretch lies within the vaults or within translated space. -/
def stretchOk (lo n : Nat) : Bool :=
  (vaultBase ≤ lo && lo + n ≤ controlBase) || (0x10000000000 ≤ lo && lo + n ≤ 0x80000000000000)

/-- A base for the allocator to choose (R241): a free choice where it fits, otherwise the first of the ends of ranges that does. -/
def chooseBase (s : State) (n : Nat) : Option Nat :=
  let fits := fun b => b % 64 = 0 && stretchOk b n && !stretchTaken s b n
  let free := 64 * Config.choose s.tick 60
  if fits free then some free
  else (vaultBase :: 0x10000000000 :: (s.ranges ++ s.withdrawn).map fun r => r.base + r.len).find? fits

/-- Rights that the allocation of a stretch grants: R, W, A and G, and no W where a window of route 3 serves it (R230). -/
def allocRights (s : State) (lo n : Nat) : BitVec 8 :=
  let readOnly := s.windows.any fun e =>
    match e.2 with
    | some w => decide (w.route = 3) && overlap w.base.toNat (w.gib * 0x40000000) lo n
    | none => false
  if readOnly then rightR ||| rightA ||| rightG else rightR ||| rightW ||| rightA ||| rightG

/-- Add a range to the table and grant its owner rights on it (R241). -/
def addRange (s : State) (r : Range) (own : BitVec 16) (rights : BitVec 8) : State :=
  setRights { s with ranges := s.ranges ++ [r] } own (rightsOf s own ++ [⟨r.base, r.tag, r.len / 64, rights, own, 0xFFFF, 1⟩])

/-- RANGE_ALLOC (R241, Table 18.6). DESIGN CHOICE (log entry 48): an owner whose rights table is full is answered NO_RESOURCE. -/
def execRangeAlloc (slot : Nat) (s : State) : Result :=
  serve 6 slot s fun s v =>
    withRequest s v 16 fun b =>
      let want := numAt b 0 7
      let n := numAt b 8 8
      if want % 64 ≠ 0 || n % 64 ≠ 0 || n < 64 || 2 ^ 46 < n || (want ≠ 0 && !stretchOk want n) then answer s v stInvalid
      else
        match if want = 0 then chooseBase s n else if stretchTaken s want n then none else some want with
        | none => answer s v stNoResource
        | some lo =>
          if Config.rangeCapacity ≤ s.ranges.length || 4096 ≤ (rightsOf s v.own).length then answer s v stNoResource
          else
            let tag := allocTag s lo n
            let r : Range := ⟨lo, n, tag, v.launch, v.tenant.toNat, false⟩
            answerWith s (addRange s r v.own (allocRights s lo n)) v 16 (leBytes 7 lo ++ [tag])

/-- RANGE_FREE (R241, Table 18.6): the status follows the last acknowledgement (R226). -/
def execRangeFree (slot : Nat) (s : State) : Result :=
  serve 7 slot s fun s v =>
    withRequest s v 16 fun b =>
      let lo := numAt b 0 7
      let tag := b.getD 7 0
      let n := numAt b 8 8
      match s.ranges.find? fun r => r.base = lo && decide (r.tag = tag) with
      | none => answer s v stNotFound
      | some r =>
        if r.len ≠ n then answer s v stInvalid
        else if !ownerCovers s v.own tag rightG lo n then answer s v stDenied
        else freeRange s r (.service slot 0)

/-! ### Pages (R228) -/

/-- Write a page table entry. -/
def writeEntryAt (s : State) (pa w : Nat) : State := plainWrite s (dramBase + pa) (leBytes 8 w)

/-- The address of the entry of a level for an address, with new tables where none are; none where an entry above is a leaf, is malformed,
or names another walk routine (R212). `n` levels are still to go. -/
def entryFor (va target : Nat) : Nat → Nat → State → Option (State × Nat)
  | 0, table, s => some (s, entryAt table target va)
  | n + 1, table, s =>
    let level := target + n + 1
    let here := entryAt table level va
    match readEntry level va (physWord s 0 here) with
    | .table next routine => if routine = 0 then entryFor va target n next s else none
    | .invalid =>
      let next := Config.tablePage s.tick level % 2 ^ 48 * 256
      entryFor va target n next (writeEntryAt (zeroKeys s (dramBase + next) 4096) here (next + 0xC1))
    | _ => none

/-- The entry that maps an address and the level it lies at, from a level down. -/
def mappedAt (s : State) (va : Nat) : Nat → Nat → Option (Nat × Nat × Leaf)
  | 0, table =>
    match readEntry 0 va (physWord s 0 (entryAt table 0 va)) with
    | .leaf l => some (entryAt table 0 va, 0, l)
    | _ => none
  | n + 1, table =>
    match readEntry (n + 1) va (physWord s 0 (entryAt table (n + 1) va)) with
    | .leaf l => some (entryAt table (n + 1) va, n + 1, l)
    | .table next routine => if routine = 0 then mappedAt s va n next else none
    | _ => none

def mappedEntry (s : State) (va : Nat) : Option (Nat × Nat × Leaf) := mappedAt s va 3 (ptrootOf s 0).toNat

/-- A field of a request whose layout no table gives. -/
def requestField (v : SvcSlot) (i : Nat) (b : List Byte) : Nat := Config.requestField v.n i b

/-- PAGE_MAP (service 8): a leaf is installed under a translation shootdown. -/
def execPageMap (slot : Nat) (s : State) : Result :=
  serve 8 slot s fun s v =>
    withRequest s v (Config.requestBytes 8) fun b =>
      let va := requestField v 0 b
      let level := requestField v 1 b
      let w := requestField v 2 b
      if regionOf va ≠ .translated || 3 ≤ level then answer s v stInvalid
      else
        match readEntry level va w with
        | .leaf l =>
          (match entryFor va level (3 - level) (ptrootOf s 0).toNat s with
           | some (s, pa) => startShoot (writeEntryAt s pa w) [.page l.base l.size] (.service slot 0)
           | none => answer s v stInvalid)
        | _ => answer s v stInvalid

/-- PAGE_UNMAP (service 9): the leaf is removed under a shootdown. -/
def execPageUnmap (slot : Nat) (s : State) : Result :=
  serve 9 slot s fun s v =>
    withRequest s v (Config.requestBytes 9) fun b =>
      match mappedEntry s (requestField v 0 b) with
      | none => answer s v stNotFound
      | some (pa, _, l) => startShoot (writeEntryAt s pa 0) [.page l.base l.size] (.service slot 0)

/-- The entry of a granule that the residency service maps. DESIGN CHOICE (log entry 85): a DIRECT leaf of 64 KiB with PROP NA and no key, on a
free frame. -/
def granuleEntry (s : State) : Nat := 3 + Config.pageFrame s.tick % 2 ^ 36 * 2 ^ 20

/-- RESIDENCY (service 10): a status other than 0 is what the service reports; with 0 the leaf is made DIRECT under a shootdown, or the 64 KiB
granule mapped where no leaf covers the address (R213, R237, R384). -/
def execResidency (h : Nat) (status : BitVec 4) (s : State) : Result :=
  let v := getHart s h
  match v.wait with
  | some (.page false va since d) =>
    if status ≠ 0 then
      let st : Word := status.setWidth 64
      let s := if st = 2 then modTenant s v.sr.tenant.toNat fun t => { t with prFailed := true } else s
      .next (pageAnswer s h d st)
    else
      (match mappedEntry s va with
       | none =>
         (match entryFor va 0 3 (ptrootOf s 0).toNat s with
          | none => .next (pageAnswer s h d 1)
          | some (s, pa) =>
            .next
              (startShoot (writeEntryAt s pa (granuleEntry s)) [.page (va / 0x10000 * 0x10000) 0x10000]
                (.hart h v.gen (.page false va since d) d 0 none)))
       | some (pa, _, l) =>
         let w := physWord s 0 pa
         let s := if bit w 1 then s else writeEntryAt s pa (w + 2)
         .next (startShoot s [.page l.base l.size] (.hart h v.gen (.page false va since d) d 0 none)))
  | _ => idleEvent s

/-- An operation that waits for a home waits for another one. -/
def rehome (s : State) (src dst id : Nat) (e : Event) : State := sendHome (leaveHome s src id) dst id e

/-- One line of a page moves: the stored bytes with the key each is stored under, and what is on its way to it, the values that views have still
to settle to among it (R123); an atomic that has not executed
is forwarded to the destination (R229, R250). Window-accumulator operations wait at the source (R206). -/
def moveLine (s : State) (src dst : Nat) : State :=
  let inLine := fun k => src ≤ k && k < src + 64
  let shift := fun k => if inLine k then dst + (k - src) else k
  let atoms := s.ops.filter fun o => inLine o.key && isAmo o && (getCore s (homeCore o.key)).homeQ.contains o.id
  let s := [0, 1, 2, 3].foldl (fun s d => setLineKey (applyView s d dst (mapBytes (viewOf s d) src 64)) d dst (lineKeyOf s d src)) s
  let s :=
    { s with
      flights := s.flights.map fun f => { f with key := shift f.key }
      mca := s.mca.map fun w => { w with key := shift w.key }
      ops := s.ops.map fun o => if (waccKind o).isSome then o else { o with key := shift o.key }
      cores := mapVals .reset (fun _ c => { c with l1 := c.l1.filter (·.line ≠ dst / 64) }) s.cores
      badLines := if s.badLines.contains (src / 64) then s.badLines ++ [dst / 64] else s.badLines.filter (· ≠ dst / 64) }
  let s := (unitsOf dst 64).foldl settleUnit s
  atoms.foldl (fun s o =>
    let home := homeCore (shift o.key)
    rehome s (homeCore o.key) home o.id (.amoHomeExecute home)) s

/-- A window-accumulator operation goes on at the home to which its object has moved; one that was held there goes before those that arrive
later (R206). -/
def moveWacc (m : Migration) (s : State) (o : Op) : State :=
  let key := o.key - m.src.phys + m.dst.phys
  let src := homeCore o.key
  let dst := homeCore key
  let wasHeld := (getCore s src).held.contains o.id
  let s := rehome { s with ops := s.ops.map fun x => if x.id = o.id then { x with key := key } else x } src dst o.id (.waccHomeExecute dst)
  if wasHeld then modCore s dst fun c => { c with held := c.held ++ [o.id] } else s

/-- Operations on window accumulators of a page that have not executed, those that were held first, in their order. -/
def waccsOf (s : State) (m : Migration) : List Op :=
  let mine := s.ops.filter fun o => (waccKind o).isSome && o.reply.isNone && inPage m.src o.key
  let held := s.cores.flatMap fun e => e.2.held
  held.filterMap (fun id => mine.find? (·.id = id)) ++ mine.filter fun o => !held.contains o.id

/-- Whether a flip of an object in a page is under way: the page waits for it. -/
def flipsIn (s : State) (l : Leaf) : Bool := s.cores.any fun e => e.2.flips.any fun f => inPage l f.1

/-- The migration commits: its shootdown goes out, and window-accumulator operations go on at the destination (R206, R229). -/
def commitMigration (s : State) (m : Migration) : State :=
  (waccsOf s m).foldl (moveWacc m) (startShoot s [.page m.src.base m.src.size] (.service m.slot 0))

/-- One step of a migration: the next line is copied, or the new leaf is written and the migration commits (R229). -/
def migrateStep (s : State) (slot : Nat) (m : Migration) : State :=
  let first := (dramBase + m.src.phys) / 64
  if flipsIn s m.src then post s (.migrate slot)
  else
    match (List.range (m.src.size / 64)).find? fun i => !m.copied.contains (first + i) with
    | some i =>
      let s := moveLine s ((first + i) * 64) (dramBase + m.dst.phys + i * 64)
      post
        { s with
          migrations := s.migrations.map fun x => if x.slot = slot then { x with copied := (first + i) :: x.copied } else x }
        (.migrate slot)
    | none =>
      match mappedEntry s m.src.base with
      | none => commitMigration s m
      | some (pa, _, _) =>
        let w := physWord s 0 pa
        commitMigration (writeEntryAt s pa (w - field w 20 36 * 2 ^ 20 + m.dst.phys / 0x10000 * 2 ^ 20)) m

/-- MIGRATE (service 11, R229): the page moves line by line under a copied-line bitmap. A call that a tenant reset has ended leaves the page
to move to its end. -/
def execMigrate (slot : Nat) (s : State) : Result :=
  match s.migrations.find? (·.slot = slot) with
  | some m => if committed s m then idleEvent s else .next (migrateStep s slot m)
  | none =>
    serve 11 slot s fun s v =>
      withRequest s v (Config.requestBytes 11) fun b =>
        let to' := requestField v 1 b
        match mappedEntry s (requestField v 0 b) with
        | none => answer s v stNotFound
        | some (_, _, l) =>
          if to' % l.size ≠ 0 || (dieOfPhys to').isNone || overlap to' l.size l.phys l.size ||
              s.migrations.any fun m => m.src.base = l.base then answer s v stInvalid
          else post { s with migrations := s.migrations ++ [⟨slot, l, { l with phys := to' }, []⟩] } (.migrate slot)

/-! ### Counters, keys, launches, readings -/

/-- COUNTER_ALLOC (service 12): a free counter of the caller's die, set to 0. -/
def execCounterAlloc (slot : Nat) (s : State) : Result :=
  serve 12 slot s fun s v =>
    let base := dieOfHart v.hart * 4096
    let free := fun i => mapGet 0 s.counterOwner (base + i) = 0
    let first := Config.choose s.tick 61 % 4096
    match if free first then some first else (List.range 4096).find? free with
    | none => answer s v stNoResource
    | some i => answerWith s (giveCounter s (base + i) v.tenant.toNat 0) v 0 (leBytes 8 (base + i))

/-- COUNTER_FREE (service 13): its waiters wake and are refused. -/
def execCounterFree (slot : Nat) (s : State) : Result :=
  serve 13 slot s fun s v =>
    withRequest s v 8 fun b =>
      let id := numAt b 0 8
      if 0x4000 ≤ id then answer s v stInvalid
      else if counterOf s id ≠ some v.tenant.toNat then answer s v stNotFound
      else answer (takeCounter s id) v 0

/-- KEY_DESTROY (service 14): the key of a shared handle of the caller's tenant (Table 16.1). -/
def execKeyDestroy (slot : Nat) (s : State) : Result :=
  serve 14 slot s fun s v =>
    withRequest s v (Config.requestBytes 14) fun b =>
      let k := requestField v 0 b
      match getKey s (BitVec.ofNat 12 k) with
      | none => answer s v stNotFound
      | some x =>
        if k < 0x800 || 0x1000 ≤ k || x.tenant ≠ v.tenant then answer s v stNotFound
        else answer { s with keys := mapErase s.keys k } v 0

/-- LAUNCH_SUBMIT (service 19): the record is checked and started as LAUNCH does, with an entry of KIND 1 in the tenant's journal (R270). -/
def execLaunchSubmit (slot : Nat) (s : State) : Result :=
  serve 19 slot s fun s v =>
    withRequest s v (Config.requestBytes 19) fun b =>
      let t := v.tenant.toNat
      if !journalFree s t then post s (.launchSubmit slot)
      else
        match agentRead s (slotAgent v) (BitVec.ofNat 64 (requestField v 0 b)) 256 with
        | none => answer s v stRequestFault
        | some rec =>
          let r := parseRecord rec
          let (j, s) := journalAdd s t 0 1 accepted 0 0 (journalDigest rec)
          match checkRecord s t r with
          | .error code => answer (sendOut (journalSet s t j failedState code) (.msix t 1)) v stInvalid
          | .ok levels => answer (sendOut (acceptLaunch s r levels j) (.msix t 1)) v 0

/-- LAUNCH_ABORT (service 20, Table 18.6). -/
def execLaunchAbort (slot : Nat) (s : State) : Result :=
  serve 20 slot s fun s v =>
    withRequest s v 8 fun b =>
      match findLaunch s v.tenant.toNat (leWord (slice b 0 8)) with
      | none => answer s v stNotFound
      | some l => answer (abortLaunch s l) v 0

/-- PERF_READ (service 23): the counters of the caller's cluster, or of its half-array in split mode (R184). -/
def execPerfRead (slot : Nat) (s : State) : Result :=
  serve 23 slot s fun s v =>
    let core := coreOf v.hart
    let row := if (getCore s core).slice.split then rowOf core else 2
    answerWith s s v 0
      ((List.range Config.perfCount).flatMap fun i => leBytes 8 (Config.perfCounter (clusOf core) row i s.tick).toNat)

/-- TIME_READ (service 24, Table 18.6). -/
def execTimeRead (slot : Nat) (s : State) : Result :=
  serve 24 slot s fun s v => answerWith s s v 0 (leBytes 8 s.time ++ leBytes 8 (Config.hostOffset s.tick).toNat)

/-- TRAP_REPORT (service 25): the caller's saved trap is journalled (R273). -/
def execTrapReport (slot : Nat) (s : State) : Result :=
  serve 25 slot s fun s v =>
    if journalFree s v.tenant.toNat then answer (reportTrap s v.hart) v 0 else post s (.trapReport slot)

end Sys2Proof.Machine
end

