-- ==== Sys2Proof/Machine/Proxy.lean ====
section
/-!
DEFINITION. Proxied services: the request in the exchange area and the journal, the reply, the timeout (R272, R273, R285).
-/

namespace Sys2Proof.Machine

/-! ### Requests -/

/-- Time within which the proxy answers, in nanoseconds (R273). -/
def proxyLimit : Nat := 20000000

/-- A block of the exchange area (R273). -/
def blockOffset (k : Nat) : Nat := 0x20000 + k * 0x10000

/-- Services that open something; their handle field is 0, as that of CONSOLE. -/
def opens (n : Nat) : Bool := n = 2 || n = 15
def closes (n : Nat) : Bool := n = 5 || n = 18
/-- Services whose buffer goes out to the host, and those whose buffer comes in. -/
def outbound (n : Nat) : Bool := n = 1 || n = 2 || n = 4 || n = 16
def inbound (n : Nat) : Bool := n = 3 || n = 17

def noHandle (n : Nat) : Bool := n = 1 || opens n

/-- The request of a proxied service (R273). -/
structure ProxyCall where
  handle : Word
  buffer : Word
  len : Nat
  args : List Byte
  deriving DecidableEq, Repr

def parseCall (b : List Byte) : ProxyCall := ⟨leWord (slice b 0 8), leWord (slice b 8 8), numAt b 16 8, slice b 24 16⟩

/-- Journal the request for the proxy and start its time (R273). -/
def sendProxy (s : State) (v : SvcSlot) (c : ProxyCall) (k : Nat) (data : List Byte) : State :=
  let t := v.tenant.toNat
  let s := if data = [] then s else hdmWrite s t (blockOffset k) data
  let tail := [BitVec.ofNat 8 v.n, 0, 0, 0] ++ leBytes 4 c.len ++ leBytes 8 c.handle.toNat ++ c.args
  let (j, s) := journalAdd s t 0 0x82 accepted 0 (BitVec.ofNat 32 k) tail
  let s := modTenant s t fun x => { x with blocks := k :: x.blocks }
  let s := modSlot (sendOut s (.msix t 1)) v.id fun x => { x with proxy := some (j, k, s.time) }
  post s (.proxyTimeout t j)

/-- A request that finds no block, or no room in the journal, waits for it, at most the service's worst-case time (R273). -/
def waitBlock (s : State) (v : SvcSlot) : State :=
  if v.since + proxyLimit ≤ s.time then answer s v stNoResource else again s v

/-- A proxied service (R273). -/
def proxied (n slot : Nat) (s : State) : Result :=
  serve n slot s fun s v =>
    if v.proxy.isSome then s
    else
      withRequest s v 48 fun b =>
        let c := parseCall b
        let t := getTenant s v.tenant.toNat
        if 0x10000 < c.len || (noHandle n && c.handle ≠ 0) then answer s v stInvalid
        else if !noHandle n && !t.handles.contains c.handle then answer s v stNotFound
        else if inbound n && !agentMay s (slotAgent v) c.buffer c.len rightW then answer s v stDenied
        else
          match if outbound n then agentRead s (slotAgent v) c.buffer c.len else some [] with
          | none => answer s v stDenied
          | some data =>
            match (List.range 16).find? fun k => !t.blocks.contains k with
            | none => waitBlock s v
            | some k => if journalFree s v.tenant.toNat then sendProxy s v c k data else waitBlock s v

/-- CONSOLE, FILE_OPEN, FILE_READ, FILE_WRITE, FILE_CLOSE (services 1 to 5). -/
def execConsole (slot : Nat) (s : State) : Result := proxied 1 slot s
def execFileOpen (slot : Nat) (s : State) : Result := proxied 2 slot s
def execFileRead (slot : Nat) (s : State) : Result := proxied 3 slot s
def execFileWrite (slot : Nat) (s : State) : Result := proxied 4 slot s
def execFileClose (slot : Nat) (s : State) : Result := proxied 5 slot s
/-- CONN_OPEN, CONN_SEND, CONN_RECV, CONN_CLOSE (services 15 to 18). -/
def execConnOpen (slot : Nat) (s : State) : Result := proxied 15 slot s
def execConnSend (slot : Nat) (s : State) : Result := proxied 16 slot s
def execConnRecv (slot : Nat) (s : State) : Result := proxied 17 slot s
def execConnClose (slot : Nat) (s : State) : Result := proxied 18 slot s

/-- The slot that waits for the proxy under a journal sequence of a tenant. -/
def waitingProxy (s : State) (t j : Nat) : Option SvcSlot :=
  (allSlots s).find? fun v =>
    v.tenant.toNat = t && v.status.isNone &&
      (match v.proxy with
       | some (k, _, _) => k = j
       | none => false)

/-- The block is free and the call no longer waits. -/
def endProxy (s : State) (v : SvcSlot) : State :=
  match v.proxy with
  | some (_, k, _) =>
    modSlot (modTenant s v.tenant.toNat fun t => { t with blocks := t.blocks.filter (· ≠ k) }) v.id fun x => { x with proxy := none }
  | none => s

/-- The operating services close a handle that the proxy holds for the tenant (R272). -/
def closeHandle (t : Nat) (s : State) (h : Word) : State :=
  noteClosed t (modTenant s t fun x => { x with handles := x.handles.filter (· ≠ h) }) h

/-- Shaten's part of a reply: inbound bytes go to the caller's buffer, the result and the status to the request (R273). -/
def replyProxy (s : State) (v : SvcSlot) (j : Nat) (status result : Word) : State :=
  let t := v.tenant.toNat
  let k := (v.proxy.map (·.2.1)).getD 0
  let s := journalSet s t j (if status = 0 then doneState else failedState) 0
  let a := slotAgent v
  let c := parseCall ((agentRead s a v.req 48).getD [])
  let moved :=
    if inbound v.n && status = 0 then agentWrite s a c.buffer (hdmRead s t (blockOffset k) (min result.toNat c.len)) else some s
  let written := moved.bind fun s => agentWrite s a (v.req + 40) (leBytes 8 result.toNat)
  let s' := endProxy (written.getD s) v
  let s' :=
    if status = 0 && opens v.n then modTenant s' t fun x => { x with handles := x.handles ++ [result] }
    else if status = 0 && closes v.n then closeHandle t s' c.handle
    else s'
  answer s' v (if moved.isNone then stDenied else if written.isNone then stRequestFault else status)

/-- PROXY_TIMEOUT (R273). -/
def execProxyTimeout (tenant jseq : Nat) (s : State) : Result :=
  match waitingProxy s tenant jseq with
  | none => idleEvent s
  | some v =>
    let since := (v.proxy.map (·.2.2)).getD 0
    if s.time < since + proxyLimit then .next (post s (.proxyTimeout tenant jseq))
    else .next (pollWindow (answer (endProxy (journalSet s tenant jseq abortedState 0) v) v stTimeout) tenant)

end Sys2Proof.Machine
end

