-- ==== Sys2Proof/Machine/Link.lean ====
section
/-!
DEFINITION. Traffic at the edges of the device: DRAM requests and occupancy budgets (R278, R279), CXL.mem requests of the host (R249, R265,
R283), the Krytuk Link (R18, R280, R281).
-/

namespace Sys2Proof.Machine

/-! ### Occupancy (R278, R279) -/

/-- DRAM_REQUEST_ISSUE (R278, R279): the request is charged to the tenant of its launch, unless it is put off. -/
def execDramRequestIssue (req : DramRequest) (s : State) : Result :=
  if putOff s req then .next (post s (.dramRequestIssue req))
  else .next (chargeRequest s req)

/-- BUDGET_REFRESH (R279): at the µs boundary the budgets refresh and parked bulk commands resume; a debt lasts until the next boundary. -/
def execBudgetRefresh (s : State) : Result :=
  if s.charges = [] && s.debts = [] then idleEvent s
  else if s.time / 1000 ≤ s.budgetAt then .next (post s .budgetRefresh)
  else
    let s := refreshBudgets s
    .next (if s.debts = [] then s else postOnce s .budgetRefresh)

/-! ### CXL.mem (R265, R283) -/

/-- Whether an isolation entry admits a request. -/
def isolationAdmits (r : CxlRequest) (n : Nat) (c : IsolationConfig) : Bool :=
  c.spid = r.spid && c.base ≤ r.addr && r.addr + n ≤ c.base + c.size &&
    (match r.data with
     | some _ => c.write
     | none => c.read)

/-- Entries of a table of a level, and the shift of a level's index (Table 13.2). -/
def levelEntries (level : Nat) : Nat := if level = 3 then 0x20000 else if level = 0 then 32 else 512
def levelShift (level : Nat) : Nat := if level = 3 then 39 else if level = 2 then 30 else if level = 1 then 21 else 16

/-- Indices of the entries of a table that are not zero. -/
def tableIndices (s : State) (level table : Nat) : List Nat :=
  let lo := dramBase + table
  ((mapKeys (viewOf s 0)).filter fun k => lo ≤ k && k < lo + 8 * levelEntries level).map fun k => (k - lo) / 8

/-- Whether a routine of the walk store maps a physical address on a page with KEYH ≠ 0 (R215, R249), for some address that its level-3 entry
serves and some kind of access. -/
def routineMaps (s : State) (pa routine base : Nat) : Bool :=
  3 ≤ routine && routine < 15 && Config.walkHas s.firmware.walkStore routine &&
    (List.range 0x800000).any fun i =>
      [WalkKind.read, .write, .atomic, .fetch].any fun k =>
        let va := base + 0x10000 * i
        match routineLeaf va (Config.walkRoutine s.firmware.walkStore routine k.code va s.tick) with
        | .leaf l => l.route = 0 && decide (l.keyh ≠ 0) && l.phys ≤ pa && pa < l.phys + l.size
        | _ => false

/-- Whether a leaf below a table maps a physical address on a page with KEYH ≠ 0; `va` is the first address that the table serves. -/
def mapsKeyed (s : State) (pa : Nat) : Nat → Nat → Nat → Bool
  | level, table, va =>
    match level with
    | 0 =>
      (tableIndices s 0 table).any fun i =>
        match readEntry 0 (va + i * 2 ^ levelShift 0) (physWord s 0 (table + 8 * i)) with
        | .leaf l => decide (l.keyh ≠ 0) && l.phys ≤ pa && pa < l.phys + l.size
        | _ => false
    | n + 1 =>
      (tableIndices s (n + 1) table).any fun i =>
        let va := va + i * 2 ^ levelShift (n + 1)
        match readEntry (n + 1) va (physWord s 0 (table + 8 * i)) with
        | .leaf l => decide (l.keyh ≠ 0) && l.phys ≤ pa && pa < l.phys + l.size
        | .table next routine => if routine = 0 then mapsKeyed s pa n next va else routineMaps s pa routine va
        | _ => false

/-- Whether an address of device memory lies on a page with KEYH ≠ 0, where the host meets poison (R249). -/
def keyedPage (s : State) (pa : Nat) : Bool := mapsKeyed s pa 3 (ptrootOf s 0).toNat 0

/-- Tenants whose logical device holds an address. -/
def tenantsAtAddr (s : State) (pa : Nat) : List Nat :=
  (s.tenants.filter fun e => e.2.partBase ≤ pa && pa < e.2.partBase + e.2.partSize).map (·.1)

/-- CXL_MEM_REQUEST (R283): a read takes one 64-byte line, a write its bytes; a request that no entry admits completes with poison. A write
to a command ring lets the device read its window (R267). -/
def execCxlMemRequest (req : CxlRequest) (s : State) : Result :=
  let n := (req.data.map (·.length)).getD 64
  let key := dramBase + req.addr
  let admitted := s.isolation.any fun e =>
    match e.2 with
    | some c => isolationAdmits req n c
    | none => false
  let keyed := (List.range (n / 64 + 2)).any fun i => key / 64 + i ≤ (key + n - 1) / 64 && keyedPage s (req.addr + 64 * i)
  if !admitted || (dieOfPhys req.addr).isNone || keyed then .next (sendOut s .cxlPoison)
  else
    match req.data with
    | none =>
      if s.badLines.contains (key / 64) then .next (sendOut s .cxlPoison)
      else .next (sendOut s (.cxlData (plainBytes s key n)))
    | some bytes =>
      let s := sendOut (plainWrite s key bytes) .cxlDone
      .next ((tenantsAtAddr s req.addr).foldl pollWindow s)

/-! ### Krytuk Link (R280, R281) -/

/-- A flit whose length, CRC and zero bytes are right. -/
def flitOk (f : List Byte) : Bool :=
  f.length = 256 && numAt f 244 4 = 0 && decide (leWord (slice f 248 8) = crc64 (f.take 248))

/-- Slots of data that follow the head slot of a request. -/
def dataCount (kind detail : Nat) : Nat :=
  match kind with
  | 2 => (detail % 64 + 16) / 16
  | 3 => 1
  | 4 => 1
  | 6 => (min detail 64 + 15) / 16
  | _ => 0

/-- The atomic that a request's detail and data give. -/
def parseAmo (detail : Nat) (slots : List Byte) : LinkKind :=
  match [AmoOp.add, .and, .or, .xor, .min, .max, .minu, .maxu, .swap, .cas, .fadd][detail % 16]? with
  | some op => if detail < 32 then .amo ⟨op, if detail < 16 then .w else .d, leWord (slice slots 16 8), leWord (slice slots 24 8)⟩ else .unknown
  | none => .unknown

/-- The request whose head slot comes first, as `askSlots` and `answerSlots` lay one out (R280). -/
def parseRequest (port kind detail : Nat) (slots : List Byte) : LinkReq :=
  let addr := numAt slots 8 7
  let k : LinkKind :=
    match kind with
    | 1 => .read (detail % 64 + 1)
    | 2 => .write (slice slots 16 (detail % 64 + 1))
    | 3 => parseAmo detail slots
    | 4 => .msend (BitVec.ofNat 32 addr) (BitVec.ofNat 4 (addr / 2 ^ 32)) (leWord (slice slots 16 8))
    | 5 => .release
    | _ => .response (addr % 2 ^ 48) (leWord (slice slots 16 8))
  { id := 0, port := port, kind := k, hid := BitVec.ofNat 32 (numAt slots 0 4), own := BitVec.ofNat 16 (numAt slots 4 2)
    group := numAt slots 6 1 % 64, addr := BitVec.ofNat 64 (numAt slots 7 1 * 2 ^ 56 + addr)
    number := if kind = 4 then addr / 2 ^ 36 % 2 ^ 20 else addr % 2 ^ 48 }

/-- The requests in the slots of a flit; a head slot of kind 0 or 7 is empty. -/
def parseSlots (port : Nat) : Nat → List Byte → List LinkReq
  | 0, _ => []
  | f + 1, slots =>
    if slots.length < 16 then []
    else
      let kind := numAt slots 15 1 % 8
      let detail := numAt slots 6 1 / 64 + numAt slots 15 1 / 8 * 4
      if kind = 0 || kind = 7 then parseSlots port f (slots.drop 16)
      else parseRequest port kind detail slots :: parseSlots port f (slots.drop (16 * (1 + dataCount kind detail)))

/-- The requests of the fifteen slots of a flit. -/
def flitRequests (port : Nat) (slots : List Byte) : List LinkReq := parseSlots port 15 slots

/-- The requests of a flit are delivered. -/
def deliverSlots (s : State) (port : Nat) (slots : List Byte) : State :=
  (flitRequests port slots).foldl (fun s r =>
    let (id, s) := fresh s
    post { s with linkReqs := s.linkReqs ++ [{ r with id := id }] } (.remoteRequestExecute id)) s

/-- Flits that an acknowledged sequence number leaves in a sender's buffer. -/
def dropAcked (seq : Nat) (buffer : List (Nat × List Byte)) : List (Nat × List Byte) :=
  if buffer.any (·.1 = seq) then (buffer.dropWhile (·.1 ≠ seq)).drop 1 else buffer

/-- The port sends its unacknowledged flits again, where the peer has refused one (R280). DESIGN CHOICE (log entry 78): the spec does not say how
the peer tells the sender of a flit that fails its CRC, so whether this happens is free. -/
def replayFlits (s : State) (port : Nat) : State :=
  if Config.freeBool s.tick 21 then
    { s with sentOut := s.sentOut ++ (mapGet .reset s.ports port).buffer.map fun f => .flit port f.2 }
  else s

/-- KRYTUK_FLIT_RECEIVE (R280): a flit that fails its CRC is replayed by its sender; flits are delivered in sequence. What the flit acknowledges
leaves the buffer, and its requests are owed as credits. -/
def execKrytukFlitReceive (port : Nat) (flit : List Byte) (s : State) : Result :=
  let p := mapGet .reset s.ports port
  let header := numAt flit 0 4
  if !flitOk flit || field header 0 12 ≠ p.expected then .next (sendOut s (.linkReplay port p.expected))
  else
    let slots := slice flit 4 240
    let s :=
      { s with
        ports := mapPut .reset s.ports port
          { p with
            expected := (p.expected + 1) % 4096, acked := field header 12 12, credits := p.credits + field header 24 8
            buffer := dropAcked (field header 12 12) p.buffer, owed := p.owed + (flitRequests port slots).length } }
    .next (deliverSlots (replayFlits s port) port slots)

/-- The local tenant of a group tenant of a device (R281, R282). -/
def localTenant (s : State) (r : LinkReq) : Option Nat :=
  let t := mapGet 0 s.groupTenants ((hidDev r.hid).toNat * 64 + r.group)
  if t = 0 then none else some (t - 1)

def dropReq (s : State) (id : Nat) : State := { s with linkReqs := s.linkReqs.filter (·.id ≠ id) }

def respond (s : State) (r : LinkReq) (status : BitVec 8) (data : List Byte) : State := sendAnswer s r.port r.number status data

/-- The check of a peer's line: its own owner and tag, under the local rights tables (R281). -/
def remoteLine (s : State) (r : LinkReq) (need : BitVec 8) (write : Bool) (n : Nat) : Except (BitVec 8) (State × Target) :=
  match localTenant s r with
  | none => .error 0x21
  | some t =>
    if !ranged r.addr || r.addr.toNat % 64 + n > 64 || ownerTenant s r.own ≠ some t then .error 0x21
    else
      match engineCheck s ⟨0, noHart, r.own, BitVec.ofNat 4 t, 0⟩ r.addr need write n with
      | .ok s t => if t.route = 0 then .ok (chargeLine 0 write s t.key, t) else .error 0x21
      | .code c => .error c
      | .needAts _ => .error 0x20

/-- The operation that stands for a peer's request at its home. -/
def remoteOp (r : LinkReq) (kind : OpKind) (t : Target) (n : Nat) : Op :=
  ⟨r.id, kind, remoteBase + r.port, 0, 0, t.key, r.addr, n, 1, t.inst, t.keyh, t.prop, t.route, r.own, 0, none, none, .zero, none, .zero, 0⟩

/-- A peer's message, judged by R48 at its target's core; refused where the group tenant maps to no tenant here. -/
def remoteMessage (s : State) (r : LinkReq) (target : BitVec 32) (n : BitVec 4) (arg : Word) : State :=
  let core := hidCore target
  let k := hartKey core (hidCtx target)
  let v := getHart s k
  if hidHnd target || decide (v.tenure ≠ .running) || decide (v.gen ≠ hidGen target) || retiring s v.launch then
    respond (dropReq s r.id) r 0 (leBytes 8 1)
  else if localTenant s r ≠ some v.sr.tenant.toNat || decide (handlerEntry s k n.toNat = 0) then
    respond (dropReq s r.id) r 0 (leBytes 8 2)
  else if handlerBusy s core then post s (.remoteRequestExecute r.id)
  else
    let s := chargeHandler s k n.toNat
    let o := remoteOp r (.msg target n arg r.hid) (.plain 0 (messageKey core) false) 0
    let s := { dropReq s r.id with ops := s.ops ++ [o] }
    setHart s (hartKey core 8) (handlerStart s o k (handlerEntry s k n.toNat) arg r.hid target)

/-- A peer's atomic at the home core of its line, between the operations of that core's handler context. -/
def remoteAmo (s : State) (r : LinkReq) (a : AmoArgs) : State :=
  let n := amoWidth a.sz / 8
  match remoteLine s r rightA true n with
  | .error c => respond (dropReq s r.id) r c []
  | .ok (s', t) =>
    let core := homeCore t.key
    if handlerBusy s core then post s (.remoteRequestExecute r.id)
    else
      let x := amoApply (dropReq s' r.id) (dieOf core) (remoteOp r (.amo a) t n) a
      match x.2 with
      | .value v bad => respond x.1 r (if bad then 0x26 else 0) (leBytes 8 v.toNat)
      | _ => respond x.1 r 0x26 []

/-- The message to a peer that a response with a number answers. -/
def awaited (s : State) (n : Nat) : Option Op :=
  s.ops.find? fun o => o.route = 1 && isMessage o && o.reply.isNone && o.id % 2 ^ 20 = n % 2 ^ 20

/-- REMOTE_REQUEST_EXECUTE (R281): a load, store or atomic executes at the home core of its line, under the local rights tables; a store is
acknowledged once it is performed. A response ends the operation that waited for it. -/
def execRemoteRequestExecute (req : Nat) (s : State) : Result :=
  match s.linkReqs.find? (·.id = req) with
  | none => idleEvent s
  | some r =>
    match r.kind with
    | .read n =>
      (match remoteLine s r rightR false n with
       | .error c => .next (respond (dropReq s req) r c [])
       | .ok (s, t) =>
         match readTarget s (homeDie t.key) noHart t n with
         | none => .next (respond (dropReq s req) r 0x26 [])
         | some bs => .next (respond (dropReq s req) r 0 bs))
    | .write bs =>
      (match remoteLine s r rightW true bs.length with
       | .error c => .next (respond (dropReq s req) r c [])
       | .ok (s', t) =>
         -- acknowledged once it is performed: on an MCA page once it is visible everywhere
         if t.prop = .mca && !viewSettled s (stampOf s (homeDie t.key)) then .next (post s (.remoteRequestExecute req))
         else
           let s := writeStored (dropL1 s' (homeCore t.key) t.key) (homeDie t.key) noHart t (applyPad t bs) (decide (t.prop = .mca))
           .next (respond (dropReq s req) r 0 []))
    | .amo a => .next (remoteAmo s r a)
    | .msend target n arg => .next (remoteMessage s r target n arg)
    | .release => .next (respond (dropReq s req) r 0 [])
    | .unknown => .next (respond (dropReq s req) r 0x21 [])
    | .response n v =>
      let s := dropReq s req
      match awaited s n with
      | some o => .next (sendReply s o.id (.value v false) .zero)
      | none => .next s

/-- LINK_TRAINING (R18): DEV of every HID takes the device's number in its group, 0 where it is ungrouped; the ports are up. -/
def execLinkTraining (dev : BitVec 6) (grouped : Bool) (s : State) : Result :=
  .next
    { s with
      dev := if grouped then dev else 0
      grouped := grouped
      ports := (List.range 16).map fun i => (i, { mapGet .reset s.ports i with up := true }) }

end Sys2Proof.Machine
end

