-- ==== Sys2Proof/Machine/ControlSpace.lean ====
section
/-!
DEFINITION. The device control space (R20, R21): the tables that S mode reads there, the fence counters that it reads and
sets, and PTROOT.
-/

namespace Sys2Proof.Machine

/-- The 64 bytes of a tensor record (Table 10.2). -/
def Tensor.image (t : Tensor) : List Byte :=
  leBytes 8 t.base.toNat ++ [t.format, t.flags, t.scaleb, 0, t.tenant.setWidth 8, 0] ++ leBytes 2 t.keyh.toNat ++
    leBytes 4 t.dim0 ++ leBytes 4 t.dim1 ++ leBytes 8 t.stride ++ leBytes 4 t.version.toNat ++ leBytes 4 0 ++
    leBytes 8 t.hseed.toNat ++ leBytes 16 0

/-- The 32 bytes of a rights table entry (Table 13.4). -/
def Right.image (r : Right) : List Byte :=
  leBytes 7 r.base ++ [r.tag] ++ leBytes 5 r.len ++ [r.rights] ++ leBytes 2 r.owner.toNat ++ leBytes 2 r.grantor.toNat ++
    leBytes 2 0 ++ leBytes 4 r.epoch.toNat ++ leBytes 8 0

/-- The 32 bytes of a window table entry (R282); zero where there is none. -/
def windowImage (w : Option Window) : List Byte :=
  match w with
  | none => leBytes 32 0
  | some w =>
    leBytes 8 w.base.toNat ++ leBytes 4 w.gib ++ leBytes 1 w.route ++ leBytes 1 w.dev ++ leBytes 2 (if w.direct then 1 else 0) ++
      leBytes 8 w.target.toNat ++ leBytes 8 0

/-- The fence counter at an address of the counter table (R68): its identifier. -/
def counterAt (va : Nat) : Option Nat :=
  let off := va - 0x604000000
  if 0x604000000 ≤ va && va < 0x604000000 + 0x40000 && off % 0x10000 < 0x8000 && off % 8 = 0 then
    some (off / 0x10000 * 4096 + off % 0x10000 / 8)
  else none

/-- What an aligned read of `n` bytes of the device control space returns, where the rule defining the location admits it
(R68, R170, R212, R217, R278, R282). -/
def controlRead (s : State) (h : Nat) (va n : Nat) : Option (List Byte) :=
  let v := getHart s h
  if controlBase ≤ va && va < controlBase + 0x400000 then
    let off := va - controlBase
    match getTensor s (off / 64) with
    | some t => some (slice t.image (off % 64) n)
    | none => some (leBytes n 0)
  else if n = 8 && (counterAt va).isSome then (counterAt va).map fun i => leBytes 8 (counterValue s i).toNat
  else if 0x608000000 ≤ va && va < 0x608000000 + 0x20000 then
    let off := va - 0x608000000
    match (rightsOf s v.sr.own)[off / 32]? with
    | some r => some (slice r.image (off % 32) n)
    | none => some (leBytes n 0)
  else if 0x60A000000 ≤ va && va < 0x60A000000 + 128 then
    let off := va - 0x60A000000
    let t := getTenant s (off / 8)
    some (slice (leBytes 2 t.hbmBudget.toNat ++ leBytes 2 t.lpddrBudget.toNat ++ leBytes 4 0) (off % 8) n)
  else if 0x60B000000 ≤ va && va < 0x60B000000 + 0x2000 then
    let off := va - 0x60B000000
    some (slice (windowImage (mapGet none s.windows (off / 32))) (off % 32) n)
  else if v.mode = .M && va = ptrootKey && n = 8 then some (leBytes 8 (ptrootOf s (dieOfHart h)).toNat)
  else none

/-- What a read of a counter waits for: the writes that a write of the counter follows, where the reader's die has not applied them all; counters
propagate as NA pages do (R121). -/
def counterUnsettled (s : State) (h va : Nat) : Option Stamp :=
  match counterAt va with
  | some i =>
    let t := mapGet .zero s.counterStamp i
    if t.le (stampOf s (dieOfHart h)) then none else some t
  | none => none

/-- A write of PTROOT: it is performed in the view of the writer's die and reaches the others as a write to an NA page does (R121). -/
def writePtroot (s : State) (die : Nat) (w : Word) : State :=
  let st := stampOf s die
  let n := st.get die + 1
  sendFlights (setStamp (setPtroot s die w) die (st.set die n)) die ptrootKey (leBytes 8 w.toNat) .na .plain n st

/-- An aligned store of `n` bytes to the device control space, where it is admitted: a fence counter, whose waiters are tested
again (R68), and PTROOT in M mode (R212). -/
def controlWrite (s : State) (h : Nat) (va n : Nat) (w : Word) : Option State :=
  if n = 8 && (counterAt va).isSome then
    (counterAt va).map fun i =>
      setCounter { s with counterStamp := mapMod .zero s.counterStamp i (Stamp.join (stampOf s (dieOfHart h))) } i w
  else if (getHart s h).mode = .M && va = ptrootKey && n = 8 then some (writePtroot s (dieOfHart h) w)
  else none

/-- Whether a pointer of a hart that is not in U mode names an aligned location of the device control space. -/
def controlAccess (h : Hart) (p : Word) (n : Nat) : Bool :=
  decide (h.mode ≠ .U) && decide (regionOf (addrOf p) = .control) && decide (tagOf p = 0) && decide (p.toNat % n = 0)

end Sys2Proof.Machine
end

