-- ==== Sys2Proof/Machine/LoadStore.lean ====
section
/-!
DEFINITION. LD, ST and the return of what they have in flight.
-/

namespace Sys2Proof.Machine

/-- Bytes of a load (R362) and of a store (R394). -/
def loadSize : LdSize → Nat
  | .b | .bu => 1
  | .h | .hu => 2
  | .w | .wu => 4
  | .d => 8

def storeSize : StSize → Nat
  | .b => 1
  | .h => 2
  | .w => 4
  | .d => 8

/-- The value a load writes: sign-extended for B, H, W and D, zero-extended for BU, HU and WU (R362). -/
def extendLoad (sz : LdSize) (bs : List Byte) : Word :=
  let w := leWord bs
  match sz with
  | .b => (w.setWidth 8).signExtend 64
  | .h => (w.setWidth 16).signExtend 64
  | .w => (w.setWidth 32).signExtend 64
  | .d | .bu | .hu | .wu => w

/-- x[d] takes the value of a load that is in flight, or becomes the destination of a failed read (R90). -/
def loadInto (s : State) (d : Reg) (p : Word) (id : Nat) (r : Option Word) : State :=
  if d = 0 then s
  else
    modMe s fun h =>
      match r with
      | some v => markPending d.toNat id (writeX h d v)
      | none => markFailed d.toNat p (markPending d.toNat id (writeX h d (Config.freeWord s.tick d.toNat)))

/-- LD (R362). In S and M mode it reads the device control space where that is admitted. -/
def execLd (sz : LdSize) (d a : Reg) (off : BitVec 11) (s : State) : Result :=
  let n := loadSize sz
  let p := memAddr (me s) a off n
  match if controlAccess (me s) p n then controlRead s s.cur (addrOf p) n else none with
  | some bs =>
    (match counterUnsettled s s.cur (addrOf p) with
     | some t => waitFor s (.view t)
     | none =>
       afterFences s true false
         (orderedBefore s (.next (retire (modMe (orderedAfter s) fun h => writeX h d (extendLoad sz bs)) 4))))
  | none =>
    withAccess s p (.read n) fun s t =>
      withSlots s 1
        (inOrder s t.key n true false
          (let out := missing s [t]
           let (s, r) := orderedLoad s t n
           let (id, s) := startOp s .load t p n 1 d none none
           .next (issued (loadInto (sendAccess id (hartAgent s s.cur) false (out.map (askRead n)) s) d p id (r.map (extendLoad sz))) id 4)))

/-- ST (R394). -/
def execSt (sz : StSize) (r a : Reg) (off : BitVec 11) (s : State) : Result :=
  let n := storeSize sz
  let h := me s
  let p := memAddr h a off n
  match if controlAccess h p n then controlWrite s s.cur (addrOf p) n (readX h r) else none with
  | some t => afterFences s false true (orderedBefore s (.next (retire (orderedAfter t) 4)))
  | none =>
    withAccess s p (.store n) fun s t =>
      withSlots s 1
        (inOrder s t.key n false true
          (afterSettle s t.prop
            (let s := orderedStore s t (leBytes n (readX h r).toNat)
             let (id, s) := startOp s .store t p n 1 0 none none
             .next (issued (sendAccess id (hartAgent s s.cur) true [(t, .write (leBytes n (readX h r).toNat))] s) id 4))))

/-- Registers that wait for an operation wait no more. -/
def clearPending (id : Nat) (h : Hart) : Hart := { h with xpend := h.xpend.filter (·.2 ≠ id) }

/-- Whether a write of a store has still to be performed at its home: it is not visible yet (R124), or on its way to the home's die. -/
def storeUnderWay (s : State) (o : Op) : Bool :=
  (s.mca.any fun w => w.hart = o.hart && w.id < o.id && overlap w.key w.bytes.length o.key o.size) ||
    s.flights.any fun f =>
      f.src = dieOfHart o.hart && f.id < o.id && f.dst = homeDie f.key && overlap f.key f.bytes.length o.key o.size

/-- MEMORY_RESPONSE (R89), once its DRAM requests have been served (R279): the data of a load has returned, or the home has acknowledged a store; the slot is free, and with the
last slot of the operation its destination has its result. -/
def execMemoryResponse (op : Nat) (s : State) : Result :=
  match findOp s op with
  | none => idleEvent s
  | some o =>
    match o.kind with
    | .load | .store =>
      if lineWaits s op || (decide (o.kind = .store) && storeUnderWay s o) then .next (post s (.memoryResponse op))
      else if 1 < o.slots then .next (post (modOp s op fun o => { o with slots := o.slots - 1 }) (.memoryResponse op))
      else .next (modHart (dropOp s op) o.hart (clearPending op))
    | _ => idleEvent s

end Sys2Proof.Machine
end

