-- ==== Sys2Proof/Machine/Manage.lean ====
section
/-!
DEFINITION. What the operating services and the management controller do on their own behalf: tenant, group, isolation and layout settings
(R60, R263, R278, R282, R283), firmware update (R288, R289), sensors (R290), power (R292), service timers (R326).
-/

namespace Sys2Proof.Machine

/-! ### Settings -/

/-- The partition layout has changed (R263). -/
def nextLayout (s : State) : State := { s with layoutEpoch := s.layoutEpoch + 1 }

/-- Every cluster that a pooled node waits for arbitrates again. -/
def arbitrateAll (s : State) : State :=
  postAll s (s.dies.flatMap fun e => e.2.pool.flatMap fun p => p.clusters.map fun c => .dispatchArbitration c)

/-- TENANT_CONFIG (R60, R278). A value outside Table 4.1 changes nothing. -/
def execTenantConfig (tenant : Nat) (cfg : TenantConfig) (s : State) : Result :=
  if 16 ≤ tenant then idleEvent s
  else
    match cfg with
    | .entry w sl dl =>
      if dl.toNat = 0 || 10000 < dl.toNat then idleEvent s
      else .next (arbitrateAll (nextLayout (modTenant s tenant fun t => { t with weight := w, slice := sl, deadline := dl })))
    | .budget hbm lp => .next (modTenant s tenant fun t => { t with hbmBudget := hbm, lpddrBudget := lp })

/-- The addresses of a window. -/
def windowSpan (w : Option Window) : List ShootWhat :=
  match w with
  | some w => [.page w.base.toNat (w.gib * 0x40000000)]
  | none => []

/-- GROUP_CONFIG (R282): an entry of the window table, whose leaves change under a translation shootdown (R228), or a group tenant's local
tenant. A window of length 0 is no window. -/
def execGroupConfig (cfg : GroupConfig) (s : State) : Result :=
  match cfg with
  | .window i base gib route dev direct target =>
    if 256 ≤ i || base.toNat % 0x40000000 ≠ 0 || route = 0 || 3 < route.toNat || 64 ≤ dev.toNat then idleEvent s
    else
      let old := mapGet none s.windows i
      let new : Option Window := if gib = 0 then none else some ⟨base, gib.toNat, route.toNat, dev.toNat, direct, target⟩
      .next (startShoot { s with windows := mapPut none s.windows i new } (windowSpan old ++ windowSpan new) .none)
  | .tenant d g t =>
    if 64 ≤ d || 64 ≤ g then idleEvent s
    else .next { s with groupTenants := mapPut 0 s.groupTenants (d * 64 + g) ((t.map (· % 16 + 1)).getD 0) }

/-- COUNTER_ASSIGN (service 26). -/
def execCounterAssign (ctr tenant : Nat) (s : State) : Result :=
  if 0x4000 ≤ ctr || 16 ≤ tenant then idleEvent s
  else .next (retestCounter { s with counterOwner := mapPut 0 s.counterOwner ctr (tenant + 1) } ctr)

/-- ISOLATION_SET (R283). -/
def execIsolationSet (entry : Nat) (cfg : IsolationConfig) (s : State) : Result :=
  if 512 ≤ entry then idleEvent s else .next (nextLayout { s with isolation := mapPut none s.isolation entry (some cfg) })

/-- LAYOUT_SET (R263, R265): a logical device's partition, and LDBASE in its control region. -/
def execLayoutSet (tenant base size : Nat) (va : Word) (s : State) : Result :=
  if 16 ≤ tenant then idleEvent s
  else
    let s := modTenant s tenant fun t => { t with partBase := base, partSize := size, ldbase := va }
    .next (pollWindow (setControl (nextLayout s) tenant 0x18 va.toNat) tenant)

/-! ### Firmware update (R288, R289) -/

def bankOf (s : State) (b : Nat) : Option FirmwareImage := mapGet none s.firmware.banks b
def stagedBank (s : State) : Nat := 1 - s.firmware.active

def pldm (s : State) (r : PldmReply) : State := sendOut s (.pldm r)

def secureSession (s : State) : Bool :=
  match s.spdm with
  | .secure _ => true
  | _ => false

/-- FIRMWARE_IMAGE_RECEIVE (R288): only inside a secure session, into the inactive bank, and not while an update is under way. -/
def execFirmwareImageReceive (image : FirmwareImage) (s : State) : Result :=
  if !secureSession s then .next (pldm s .noSession)
  else if s.firmware.updating then .next (pldm s .busy)
  else
    .next (pldm { s with firmware := { s.firmware with banks := mapPut none s.firmware.banks (stagedBank s) (some image) } } .success)

/-- The checks of R288. -/
def imageVerifies (s : State) (i : FirmwareImage) : Bool :=
  Config.ecdsaVerifies i.digest i.ecdsa && Config.lmsVerifies i.digest i.lms && s.firmware.secVersion ≤ i.version &&
    s.firmware.lastLeaf < i.leaf

/-- FIRMWARE_ACTIVATE (R288, R289). -/
def execFirmwareActivate (s : State) : Result :=
  if s.firmware.updating then .next (pldm s .busy)
  else
    match bankOf s (stagedBank s) with
    | none => .next (pldm s .verifyFailed)
    | some i =>
      if !imageVerifies s i then .next (pldm s .verifyFailed)
      else
        let s := { s with firmware := { s.firmware with updating := true, switched := false, lastLeaf := i.leaf } }
        .next (post (pldm s .success) (.handover .quiesce))

/-- Services in flight have run to their status, but for proxied ones that wait for the host (R288). -/
def servicesQuiet (s : State) : Bool := (allSlots s).all fun v => v.status.isSome || v.proxy.isSome

/-- The walk store of the image in a bank; none where no update has written the bank. -/
def bankWalkStore (s : State) (b : Nat) : Option (List Byte) := (bankOf s b).map (·.walkStore)

/-- The operating services are loaded from a bank, and the dies' walkers with them: walks that have begun keep the store they began with. -/
def loadBank (s : State) (b : Nat) : State :=
  { s with firmware := { s.firmware with loads := s.firmware.loads + 1, walkStore := bankWalkStore s b } }

/-- HANDOVER (R288): quiesce, with the slices' time standing still; switch; release. -/
def execHandover (step : HandoverStep) (s : State) : Result :=
  let f := s.firmware
  match step with
  | .quiesce =>
    if f.updating && !f.quiesced then .next (post (pauseSlices { s with firmware := { f with quiesced := true } }) (.handover .switch))
    else idleEvent s
  | .switch =>
    if !f.updating || !f.quiesced || f.switched then idleEvent s
    else if !servicesQuiet s then .next (post s (.handover .switch))
    else .next (post (loadBank { s with firmware := { f with switched := true } } (stagedBank s)) (.handover .release))
  | .release =>
    if !f.updating || !f.switched then idleEvent s
    else
      let version := ((bankOf s (stagedBank s)).map (·.version)).getD f.secVersion
      .next
        (resumeSlices
          { s with
            firmware :=
              { f with
                updating := false, quiesced := false, switched := false, active := stagedBank s
                secVersion := max f.secVersion version } })

/-- FIRMWARE_SELFTEST_FAIL (R289): the old bank is reloaded and the update reported failed. -/
def execFirmwareSelftestFail (s : State) : Result :=
  let f := s.firmware
  if f.updating && f.switched then
    let s := loadBank { s with firmware := { f with updating := false, quiesced := false, switched := false } } f.active
    .next (pldm (resumeSlices s) .updateFailed)
  else idleEvent s

/-! ### Sensors (R290) -/

/-- Instances of a sensor (Table 18.3); 0 for an identifier that names none. -/
def sensorInstances (id : Nat) : Nat :=
  match id with
  | 0x01 | 0x60 | 0x61 | 0x70 | 0x80 => 1
  | 0x02 | 0x03 | 0x30 | 0x40 | 0x41 => 4
  | 0x10 => 5
  | 0x20 => 8
  | 0x50 => 16
  | _ => 0

/-- The power state, by its row in Table 18.5. -/
def powerState (p : Power) : Nat := if p.off then 4 else if p.stepsDown ≠ 0 then 2 else if p.cap.isSome then 1 else 0

/-- Occupancy that a tenant has used on all pseudo-channels. -/
def occupancy (s : State) (t : Nat) : Nat := ((s.charges.filter fun e => e.1 % 16 = t).map (·.2)).sum

/-- What a sensor shows when it is updated: what the model holds, otherwise a reading that it does not compute. -/
def sensorNow (s : State) (id inst : Nat) : Word :=
  match id with
  | 0x41 => BitVec.ofNat 64 (mapGet 0 s.errors inst)
  | 0x50 => BitVec.ofNat 64 (occupancy s inst)
  | 0x60 => BitVec.ofNat 64 (s.firmware.active + 256 * s.firmware.secVersion)
  | 0x61 => BitVec.ofNat 64 s.layoutEpoch
  | 0x70 => s.firmware.bootState.setWidth 64
  | 0x80 => BitVec.ofNat 64 (powerState s.power)
  | _ => Config.sensor id inst s.tick

/-- Sensors that are updated on change (Table 18.3). -/
def onChange (id : Nat) : Bool := [0x60, 0x61, 0x70, 0x80].contains id

/-- SENSOR_READ (R290). -/
def execSensorRead (id : BitVec 16) (inst : Nat) (s : State) : Result :=
  if sensorInstances id.toNat ≤ inst then .next (pldm s .noSensor)
  else if onChange id.toNat then .next (pldm s (.reading (sensorNow s id.toNat inst)))
  else .next (pldm s (.reading (mapGet 0 s.sensors (16 * id.toNat + inst))))

/-- SENSOR_UPDATE (R290). -/
def execSensorUpdate (id : BitVec 16) (inst : Nat) (s : State) : Result :=
  if sensorInstances id.toNat ≤ inst then idleEvent s
  else .next { s with sensors := mapPut 0 s.sensors (16 * id.toNat + inst) (sensorNow s id.toNat inst) }

/-! ### Power (R292) -/

/-- THERMAL_THROTTLE (R292): the clock stands `steps` steps of 100 MHz below 3.3 GHz, at most 21. -/
def execThermalThrottle (steps : Nat) (s : State) : Result := .next { s with power := { s.power with stepsDown := min 21 steps } }

/-- POWER_CAP_SET (R292): a cap lies between 1,200 and 2,400 W. -/
def execPowerCapSet (watts : Nat) (s : State) : Result :=
  if 1200 ≤ watts && watts ≤ 2400 then .next { s with power := { s.power with cap := some watts } } else idleEvent s

/-- CLUSTER_IDLE_ENTRY (R292): after 10 µs without context, command or node the cluster is power-gated; its L1 caches, TLB slices and
lookaside buffers are emptied. -/
def execClusterIdleEntry (clus : Nat) (s : State) : Result :=
  let c := getCluster s clus
  if c.idle || !clusterEmpty s clus || isOsCluster s clus then idleEvent s
  else if s.time < c.emptySince + 10000 then .next (post s (.clusterIdleEntry clus))
  else
    let s := modCluster s clus fun c => { c with idle := true }
    .next ((List.range 16).foldl (fun s i => modCore s (clus * 16 + i) fun c => { c with l1 := [], icache := [], tlb := [], l2 := [], plb := [] }) s)

/-- CLUSTER_WAKE (R292): the 10 µs begin again. -/
def execClusterWake (clus : Nat) (s : State) : Result := .next (noteEmpty (modCluster s clus fun c => { c with idle := false }) clus)

/-- Contexts in which an operating service may raise SOFTWARE: of a launch, or of operating-service cores (R326). -/
def softwareTargets (s : State) : List Nat :=
  (s.harts.filter fun e =>
    decide (e.2.tenure = .running) && !isHandler e.1 && (decide (e.2.launch ≠ 0) || isOsCluster s (clusOf (coreOf e.1)))).map (·.1)

/-- An operating service that runs may raise SOFTWARE in a context: whether, and in which, is a free choice (R326, log entry 11). -/
def raiseSoftware (s : State) : State :=
  let l := softwareTargets s
  match if Config.freeBool s.tick 24 then l[Config.choose s.tick 62 % l.length]? else none with
  | some h => modHart s h fun v => { v with ipend := v.ipend ||| 0x01 }
  | none => s

/-- SERVICE_TIMER_EXPIRY (R326): TIMER is pending in a context of an operating-service core, whose service may raise SOFTWARE. -/
def execServiceTimerExpiry (h : Nat) (s : State) : Result :=
  if isOsCluster s (clusOf (coreOf h)) && decide ((getHart s h).tenure = .running) && !isHandler h then
    .next (raiseSoftware (modHart s h fun v => { v with ipend := v.ipend ||| 0x04 }))
  else idleEvent s

end Sys2Proof.Machine
end

