-- ==== Sys2Proof/Machine/Quant.lean ====
section
/-!
DEFINITION. Narrow and block-scaled elements (R152 to R155), ternary bytes (R156 to R158), and the Hadamard transform and its sign
words (R162, R163), as the vector unit and the matrix array both use them.
-/

namespace Sys2Proof.Machine

/-! ### Elements -/

/-- Block formats by their number in VQNT and VDEQ: 0 SB8, 1 SB8W, 2 SB4, 3 SBI8 (R153). -/
def blockFmt : Nat → Option Fmt
  | 0 => some fmtE4M3
  | 1 => some fmtE5M2
  | 2 => some fmtE2M1
  | _ => none

/-- An exact integer as a value. -/
def intVal (i : Int) : FVal := if i = 0 then .zero false else .fin (i < 0) i.natAbs 0

/-- The value of an element code of a block format, before its scale; an SBI8 element is the integer it holds (R153). -/
def blockElem (f : Nat) (flush : Bool) (code : Nat) : FVal :=
  match blockFmt f with
  | some fmt => unpack fmt flush code
  | none => intVal (signedOf 8 code)

/-- A value times 2^k. -/
def scaleVal (k : Int) : FVal → FVal
  | .fin n m e => .fin n m (e + k)
  | v => v

/-- floor(log2 |v|) of a finite value. -/
def floorLog : FVal → Int
  | .fin _ m e => (bitLength m : Int) - 1 + e
  | _ => 0

/-- The largest magnitude of a block, zero where all are zero. -/
def blockMax (l : List FVal) : FVal :=
  l.foldl (fun acc v =>
    let a : Dy := (acc.dy.1.natAbs, acc.dy.2)
    let b : Dy := (v.dy.1.natAbs, v.dy.2)
    if 0 < dyCmp b a then v else acc) (.zero false)

/-- emax of R154. -/
def blockEmax : Nat → Int
  | 0 => 8
  | 1 => 15
  | 2 => 2
  | _ => 6

/-- One element of a quantised block: rounded RNE, saturated, with NX for what saturation loses (R154). -/
def quantElem (f : Nat) (flush : Bool) (v : FVal) : Nat × FpFlags :=
  match blockFmt f with
  | some fmt =>
    let r := pack fmt .rne flush v
    if r.2 &&& flagOF ≠ 0 then (fmt.largest v.neg?, flagNX) else r
  | none =>
    match v with
    | .fin n m e =>
      let r := roundAt .rne n m e false 0
      let i : Int := if n then -(r.1 : Int) else r.1
      if 127 < r.1 then (wrapTo 8 (if n then -127 else 127), flagNX) else (wrapTo 8 i, raiseIf r.2 flagNX)
    | _ => (0, 0)

/-- The scale byte, the element codes and the flags of a block (R154). -/
def quantBlock (f : Nat) (flush : Bool) (l : List FVal) : Nat × List Nat × FpFlags :=
  if l.any fun v => isNan v || isInf v then (0xFF, l.map fun _ => 0, flagNV)
  else
    let top := blockMax l
    let e : Int := if top.isZero then 0 else floorLog top - blockEmax f
    let e := min (max e (-127)) 127
    let r := l.map fun v => quantElem f flush (scaleVal (-e) v)
    ((e + 127).toNat, r.map (·.1), allFlags (r.map (·.2)))

/-- The memory image of a block: elements, two to a byte for SB4, then the scale byte (Table 8.7). -/
def blockImage (f scale : Nat) (codes : List Nat) : List Byte :=
  let elems :=
    if f = 2 then
      (List.range 16).map fun m => BitVec.ofNat 8 (codes.getD (2 * m) 0 % 16 + 16 * (codes.getD (2 * m + 1) 0 % 16))
    else codes.map (BitVec.ofNat 8)
  elems ++ [BitVec.ofNat 8 scale]

/-- Bytes of a block (Table 8.7). -/
def blockBytes (f : Nat) : Nat := if f = 2 then 17 else 33

/-- The element code at place k of a block image. -/
def blockCode (f : Nat) (img : List Byte) (k : Nat) : Nat :=
  if f = 2 then (numAt img (k / 2) 1) / 16 ^ (k % 2) % 16 else numAt img k 1

/-- The exponent of a scale byte, none for the NaN scale (R138). -/
def scaleOf (b : Nat) : Option Int := if b = 0xFF then none else some ((b : Int) - 127)

/-- An element times its scale; a NaN scale makes every element NaN (R153). -/
def scaled (sc : Option Int) (v : FVal) : FVal :=
  match sc with
  | none => .nan
  | some k => scaleVal k v

/-- Lane k of VDEQ (R155, R420). -/
def dequant (f : Nat) (flush : Bool) (img : List Byte) (k : Nat) : Nat × FpFlags :=
  pack bf16 .rne flush (scaled (scaleOf (numAt img (blockBytes f - 1) 1)) (blockElem f flush (blockCode f img k)))

/-! ### Ternary bytes (R156) -/

def t3Mult : Nat → Nat
  | 0 => 65536
  | 1 => 21846
  | 2 => 7282
  | 3 => 2428
  | _ => 810

/-- A byte that encodes no five digits. -/
def t3Illegal (b : Nat) : Bool := 243 ≤ b

/-- Weight i of a T3 byte. -/
def t3Weight (b i : Nat) : Int :=
  if t3Illegal b then 0
  else
    match b * t3Mult i / 65536 % 3 with
    | 0 => 0
    | 1 => 1
    | _ => -1

/-- The digit of an INT8 code, none for a code that is no ternary weight (R157). -/
def t3Digit (code : Nat) : Option Nat :=
  match signedOf 8 code with
  | 0 => some 0
  | 1 => some 1
  | -1 => some 2
  | _ => none

/-- What a ternary weight selects of an activation (R158); none for a weight outside −1, 0, +1. -/
def t3Select (weight act : Nat) : Option Int :=
  (t3Digit weight).map fun d => if d = 0 then 0 else if d = 1 then signedOf 8 act else -(signedOf 8 act)

/-! ### The Hadamard transform (R162) -/

/-- A transform lane: its FP32 code and the flags its own operation raised, with those of what fed it. -/
abbrev HLane := Nat × FpFlags

/-- One stage at distance d: sums below, differences above. -/
def hadStage (flush : Bool) (d : Nat) (t : List HLane) : List HLane :=
  (List.range 32).map fun i =>
    let lo := if i / d % 2 = 0 then i else i - d
    let a := t.getD lo (0, 0)
    let b := t.getD (lo + d) (0, 0)
    let bv := unpack fp32 flush b.1
    let r := addVal fp32 flush (unpack fp32 flush a.1) (if i / d % 2 = 0 then bv else bv.negate)
    (r.1, a.2 ||| b.2 ||| r.2)

/-- The input lanes under a sign word. -/
def hadInput (flush : Bool) (sign : Nat) (x : List Nat) : List HLane :=
  (List.range 32).map fun i =>
    let v := unpack bf16 flush (x.getD i 0)
    (repack fp32 (if bit sign i then v.negate else v), 0)

/-- The transform of 32 BF16 codes: BF16 codes with the flags of every operation that feeds each lane (R162, R436). -/
def hadamard (flush : Bool) (sign : Nat) (x : List Nat) : List HLane :=
  let t := [1, 2, 4, 8, 16].foldl (fun t d => hadStage flush d t) (hadInput flush sign x)
  t.map fun e =>
    let r := pack bf16 .rne flush (unpack fp32 flush e.1)
    (r.1, e.2 ||| r.2)

/-- One bit step of the reflected CRC-32C. -/
def crcBits : Nat → Nat → Nat
  | 0, c => c
  | n + 1, c => crcBits n (if c % 2 = 1 then (c / 2) ^^^ 0x82F63B78 else c / 2)

/-- CRC-32C of a byte list (R163). -/
def crc32c (bs : List Byte) : Nat := (bs.foldl (fun c b => crcBits 8 (c ^^^ b.toNat)) 0xFFFFFFFF) ^^^ 0xFFFFFFFF

/-- The sign word of block j of a tensor with a Hadamard seed (R163). -/
def signWord (seed : Word) (j : Nat) : Nat := crc32c (leBytes 8 seed.toNat ++ leBytes 4 j)

end Sys2Proof.Machine
end

