-- ==== Sys2Proof/Machine/Matrix.lean ====
section
/-!
DEFINITION. The joint matrix array: configuration (R174, R365), the command queue (R177), gangs (R178, R179), the fill of a weight plane
(R175, R185), streams and drains (R159, R180, R181), faults (R186) and status (R182).
-/

namespace Sys2Proof.Machine

/-! ### The slice -/

def getSlice (s : State) (core : Nat) : MatrixSlice := (getCore s core).slice

def modSlice (s : State) (core : Nat) (f : MatrixSlice → MatrixSlice) : State :=
  modCore s core fun c => { c with slice := f c.slice }

/-- The slice scrubbed where another launch used it last (R169). -/
def claimSlice (launch : Nat) (c : MatrixSlice) : MatrixSlice :=
  if c.owner = launch then c else { MatrixSlice.reset with owner := launch }

/-- A matrix instruction of the hart at hand comes to its core's slice. DESIGN CHOICE (log entry 38): that scrubs the slice of another launch also
while the instruction still waits for room in the queue. -/
def ownSlice (s : State) : State := modSlice s (coreOf s.cur) (claimSlice (me s).launch)

/-! ### Operand classes (Table 10.1) -/

/-- The class of a weight format under a mode, by the row of Table 10.1; 0 for none. -/
def weightClass (mode : Nat) (f : Nat) : Nat :=
  match mode with
  | 0 => if [0x10, 0x11, 0x20, 0x21, 0x23].contains f then 1 else if [0x01, 0x02].contains f then 2
      else if [0x12, 0x22].contains f then 3 else 0
  | 1 => if f = 0x30 then 4 else 0
  | _ => if f = 0x40 then 5 else 0

/-- The class of an activation format. -/
def actClass (mode : Nat) (f : Nat) : Nat := if mode = 2 then (if f = 0x30 then 5 else 0) else weightClass mode f

/-- KP of a class (R168). -/
def classKp : Nat → Nat
  | 1 => 256
  | 2 => 128
  | 3 => 512
  | 4 => 256
  | 5 => 1024
  | _ => 0

/-- Block number (Table 8.7) of a block-scaled format. -/
def blockOf (f : Nat) : Option Nat := if 0x20 ≤ f && f ≤ 0x23 then some (f - 0x20) else none

/-- Bytes that elements k to k + n - 1 of a row take: first byte and count (R172). -/
def elemSpan (f k n : Nat) : Nat × Nat :=
  match blockOf f with
  | some b => (k / 32 * blockBytes b, (n + 31) / 32 * blockBytes b)
  | none =>
    if f = 0x40 then (k / 5, (k + n + 4) / 5 - k / 5)
    else if f = 0x12 then (k / 2, (k + n + 1) / 2 - k / 2)
    else if f = 0x01 || f = 0x02 then (2 * k, 2 * n)
    else (k, n)

/-- Element `i` counted from element k, as its code, from the bytes of its span; a T3 element is the INT8 code of its weight. -/
def elemCode (f k : Nat) (bs : List Byte) (i : Nat) : Nat :=
  match blockOf f with
  | some b => blockCode b (slice bs (i / 32 * blockBytes b) (blockBytes b)) (i % 32)
  | none =>
    if f = 0x40 then wrapTo 8 (t3Weight (numAt bs ((k + i) / 5 - k / 5) 1) ((k + i) % 5))
    else if f = 0x12 then numAt bs ((k + i) / 2 - k / 2) 1 / 16 ^ ((k + i) % 2) % 16
    else if f = 0x01 || f = 0x02 then numAt bs (2 * i) 2
    else numAt bs i 1

/-- The scale of block `b` of a span: s - 127 + β (R152), 0 for a plain format. -/
def spanScale (f : Nat) (beta : Int) (bs : List Byte) (b : Nat) : Option Int :=
  match blockOf f with
  | some k => (scaleOf (numAt bs (b * blockBytes k + blockBytes k - 1) 1)).map (· + beta)
  | none => some 0

/-- The value of an element code, before its scale (R153, R159). -/
def elemValue (f : Nat) (flush : Bool) (code : Nat) : FVal :=
  match blockOf f with
  | some b => blockElem b flush code
  | none =>
    match f with
    | 0x01 => unpack bf16 flush code
    | 0x02 => unpack fp16 flush code
    | 0x10 => unpack fmtE4M3 flush code
    | 0x11 => unpack fmtE5M2 flush code
    | 0x12 => unpack fmtE2M1 flush code
    | _ => intVal (signedOf 8 code)

/-- A TID that is valid for a tenant (R172). -/
def tidFor (s : State) (tenant : BitVec 4) (t : BitVec 16) : Option Tensor :=
  match getTensor s t.toNat with
  | some r => if r.valid && decide (r.tenant = tenant) && decide (t ≠ 0) then some r else none
  | none => none

/-! ### MCFG (R174, R365) -/

/-- The check of the two TIDs: the first that fails, or the class. -/
def configCheck (s : State) (tenant : BitVec 4) (w a : BitVec 16) (mode : Nat) : Except (BitVec 16) (Nat × Bool) :=
  match tidFor s tenant w with
  | none => .error w
  | some wr =>
    let c := weightClass mode wr.format.toNat
    if c = 0 then .error w
    else
      match tidFor s tenant a with
      | none => .error a
      | some ar =>
        if actClass mode ar.format.toNat ≠ c || (ar.hadamard && decide (ar.format ≠ 0x01)) then .error a
        else .ok (c, ar.isSealed)

/-- Whether a core of the cluster's other row runs a hart of another launch. -/
def otherRowBusy (s : State) (core launch : Nat) : Bool :=
  (List.range 16).any fun i =>
    let g := clusOf core * 16 + i
    rowOf g ≠ rowOf core &&
      (List.range 8).any fun j =>
        let v := getHart s (hartKey g j)
        decide (v.tenure = .running) && v.launch ≠ launch

def execMcfg (a b : Reg) (s : State) : Result :=
  let h := me s
  let ta := readX h a
  let tb := readX h b
  if isHandler s.cur || ta.toNat / 2 ^ 32 ≠ 0 || tb.toNat / 8 ≠ 0 || tb.toNat % 4 = 3 then illegal s (.mcfg a b)
  else if (getCore s (coreOf s.cur)).matrixQ ≠ [] then waitFor s .matrixEmpty
  else
    let w := ta.extractLsb' 0 16
    let t := ta.extractLsb' 16 16
    let mode := tb.toNat % 4
    let split := tb.getLsbD 2
    match configCheck s h.sr.tenant w t mode with
    | .error tid => trapR s ⟨0x0B, tid.setWidth 64, 0⟩
    | .ok (cls, sealed') =>
      if sealed' then trapR s ⟨0x08, t.setWidth 64, 0⟩
      else if !split && otherRowBusy s (coreOf s.cur) h.launch then illegal s (.mcfg a b)
      else
        let s := ownSlice s
        done4 (modSlice s (coreOf s.cur) fun c =>
          { c with
            wtid := w, atid := t, mode := BitVec.ofNat 2 mode, cls := BitVec.ofNat 3 cls, split := split, flush := flushOn h
            faulted := false, flags := 0 })

/-! ### MSTAT (R182, R374) -/

def planeCode : PlaneState → Nat
  | .empty => 0
  | .loaded => 1
  | .loadedSealed => 2

def sliceStatus (c : MatrixSlice) (queued : Nat) : Nat :=
  queued + (if c.faulted then 4 else 0) + 2 ^ 8 * c.flags.toNat + 2 ^ 16 * planeCode c.active.state + 2 ^ 18 * planeCode c.shadow.state +
    (if c.split then 2 ^ 20 else 0) + 2 ^ 21 * c.mode.toNat

def execMstat (d : Reg) (s : State) : Result :=
  if isHandler s.cur then illegal s (.mstat d)
  else
    let s := ownSlice s
    let core := coreOf s.cur
    let q := (getCore s core).matrixQ.length
    let s := if q = 0 then acquireAt s core .core else s
    done4With s d (BitVec.ofNat 64 (sliceStatus (getSlice s core) q))

/-! ### The command queue (R177) -/

/-- A command of the hart at hand. -/
def newMatrixCmd (h : Hart) (key : Nat) (op : MatrixOp) (issue : Nat) : MatrixCmd :=
  ⟨op, key, h.gen, h.launch, h.sr.own, h.sr.tenant, decide (h.mode ≠ .U), false, issue⟩

/-- Queue a command of the hart at hand, or wait for an entry. -/
def queueMatrix (s : State) (op : MatrixOp) (e : Event) : Result :=
  let core := coreOf s.cur
  if 2 ≤ (getCore s core).matrixQ.length then waitFor s .matrixQueue
  else
    let c := newMatrixCmd (me s) s.cur op s.serial
    done4 (post (modCore s core fun v => { v with matrixQ := v.matrixQ ++ [c] }) e)

/-- MLDW (R369). -/
def execMldw (a : Reg) (s : State) : Result :=
  if isHandler s.cur then illegal s (.mldw a)
  else queueMatrix (ownSlice s) (.mldw (readX (me s) a)) (.mldwExecute (coreOf s.cur))

/-- MSWAP (R376). -/
def execMswap (s : State) : Result :=
  if isHandler s.cur then illegal s .mswap else queueMatrix (ownSlice s) .mswap (.mswapExecute (coreOf s.cur))

/-- Whether a command may not overlap an earlier one (Table 10.4). -/
def conflicts (cmd earlier : MatrixOp) : Bool :=
  match cmd, earlier with
  | .mswap, _ => true
  | .mldw _, .mldw _ => true
  | .mldw _, .mswap => true
  | .mldw _, .joint _ => false
  | .joint _, .mldw _ => false
  | .joint _, .mswap => true
  | .joint _, .joint _ => true

/-- Whether the first command that `p` selects may start: every earlier one has started and none that still runs conflicts (R177). -/
def mayStart (p : MatrixCmd → Bool) : List MatrixCmd → List MatrixCmd → Bool
  | _, [] => false
  | before, c :: l =>
    if !c.running && p c then before.all fun e => e.running && !conflicts c.op e.op else mayStart p (before ++ [c]) l

/-- Mark the first command that `p` selects as running. -/
def markRunning (p : MatrixCmd → Bool) : List MatrixCmd → List MatrixCmd
  | [] => []
  | c :: l => if !c.running && p c then { c with running := true } :: l else c :: markRunning p l

def firstOf (p : MatrixCmd → Bool) (l : List MatrixCmd) : Option MatrixCmd := l.find? fun c => !c.running && p c

def isMldw (c : MatrixCmd) : Bool :=
  match c.op with
  | .mldw _ => true
  | _ => false

def isMswap (c : MatrixCmd) : Bool := decide (c.op = .mswap)

def isGangCmd (id : Nat) (c : MatrixCmd) : Bool := decide (c.op = .joint id)

def anyJoint (c : MatrixCmd) : Bool :=
  match c.op with
  | .joint _ => true
  | _ => false

/-- A command of one core starts; it runs until its MATRIX_COMMAND_COMPLETE. -/
def startOwn (s : State) (core : Nat) (p : MatrixCmd → Bool) : State :=
  post (modCore s core fun c => { c with matrixQ := markRunning p c.matrixQ }) (.matrixCommandComplete core)

/-- A record of a matrix command (R186, Table 13.9). -/
def matrixRecord (code : BitVec 8) (fromS : Bool) (addr : Word) : FaultRec := ⟨code, 4, 0xFF, fromS, addr, 0, 0⟩

/-! ### Filling a plane (R175, R185) -/

/-- Whether a launch's image is admitted by the policy of a handle (R257). -/
def admitted (s : State) (launch : Nat) (keyh : BitVec 12) : Bool :=
  match getLaunch s launch, getKey s keyh with
  | some l, some k => k.live && k.policy.contains l.measure
  | _, _ => false

/-- Rights of a line read by MLDW: right M, the page's key, the admission to a sealed page, and the pad of the tensor page (R175, R254,
R258). -/
def planeRights (s : State) (a : Agent) (p : Word) (n : Nat) (t : Target) (keyh : BitVec 12) : EngineCheck :=
  match plbRange s a.core a.own t.va with
  | (_, none) => .code 0x21
  | (s, some rg) =>
    if tagOf p ≠ rg.tag then .code 0x22
    else
      match plbRight s a.core a.own t.va rg.tag rightM with
      | (_, false) => .code 0x21
      | (s, true) =>
        if !keyBelongs s a.tenant (worldHandle s a.launch) keyh then .code 0x21
        else if t.isSealed && !admitted s a.launch keyh then .code 0x24
        else
          let go := fun (t : Target) =>
            match peerCode s a.own a.tenant p rightM t with
            | some c => EngineCheck.code c
            | none => .ok s t
          if t.tcipher then
            match tensorAt s t.va n with
            | none => .code 0x28
            | some (tid, r) => go { t with pad := some (tid, r.version.toNat, t.va - r.start) }
          else go t

/-- The checks of `n` bytes of one line of a weight tensor: it must be core-direct (R175). -/
def planeCheck (s : State) (a : Agent) (p : Word) (n : Nat) : EngineCheck :=
  let va := addrOf p
  match regionOf va with
  | .vault => planeRights s a p n (.plain va va true) 0
  | .translated =>
    match engineLeaf s a.core va .read with
    | .absent _ => .code 0x21
    | .malformed _ => .code 0x26
    | .leaf l =>
      if unowned l (l.phys + (va - l.base)) then .code 0x26
      else if !l.direct then .code 0x21
      else planeRights s a p n (leafTarget s l va true) l.keyh
  | _ => .code 0x21

/-- What stops a fill: a code with the address or TID of its record, or a line that is not served to an exhausted tenant now (R279). -/
inductive FillStop
  | code (c : BitVec 8) (addr : Word)
  | busy

/-- Read the pieces of one row: its bytes, and whether a sealed page holds any of them (R258). -/
def readPieces (a : Agent) : List (Word × Nat) → State → List Byte × Bool → Except FillStop (State × List Byte × Bool)
  | [], s, acc => .ok (s, acc)
  | (p, n) :: l, s, acc =>
    match planeCheck s a p n with
    | .code c => .error (.code c p)
    | .needAts _ => .error (.code 0x21 p)
    | .ok s t =>
      if (heldFor s a.launch t.key).isSome then .error .busy
      else
        match readTarget s (dieOf a.core) noHart t n with
        | none => .error (.code 0x26 p)
        | some bs => readPieces a l (sendUnit a (.read n) false s t) (acc.1 ++ bs, acc.2 || t.isSealed)

/-- Load columns of a plane: `c` counts them, and column c comes from row n0 + c of the tensor. -/
def fillColumns (a : Agent) (r : Tensor) (k0 cnt kp : Nat) : List (Nat × Nat) → State → Plane → Bool →
    Except FillStop (State × Plane × Bool)
  | [], s, pl, iv => .ok (s, pl, iv)
  | (c, n) :: l, s, pl, iv =>
    if r.dim1 ≤ n || cnt = 0 then fillColumns a r k0 cnt kp l s pl iv
    else
      let f := r.format.toNat
      let sp := elemSpan f k0 cnt
      match readPieces a (pieces (r.base + BitVec.ofNat 64 (n * r.stride + sp.1)) sp.2) s ([], false) with
      | .error e => .error e
      | .ok (s, bs, fromSealed) =>
        let elems := (List.range cnt).foldl (fun m i => mapPut 0 m (8 * i + c) (BitVec.ofNat 16 (elemCode f k0 bs i))) pl.elems
        let scales :=
          (List.range (cnt / 32)).foldl (fun m b => mapPut (some 0) m (8 * b + c) (spanScale f r.scaleb.toInt bs b)) pl.scales
        let bad := decide (f = 0x40) && bs.any fun b => t3Illegal b.toNat
        fillColumns a r k0 cnt kp l s
          { pl with
            state := if fromSealed then .loadedSealed else pl.state, elems := elems
            scales := if (blockOf f).isSome then scales else pl.scales } (iv || bad)

/-- The plane that MLDW loads (R175), and whether an illegal T3 byte was met. -/
def fillPlane (s : State) (a : Agent) (tid : BitVec 16) (k0 n0 : Nat) : Except FillStop (State × Plane × Bool) :=
  let c := getSlice s a.core
  match tidFor s a.tenant tid with
  | none => .error (.code 0x28 (tid.setWidth 64))
  | some r =>
    let f := r.format.toNat
    if weightClass c.mode.toNat f ≠ c.cls.toNat || c.cls = 0 || ((blockOf f).isSome && k0 % 32 ≠ 0) || (f = 0x40 && k0 % 5 ≠ 0) then
      .error (.code 0x28 (tid.setWidth 64))
    else if r.isSealed && !admitted s a.launch r.keyh then .error (.code 0x24 (tid.setWidth 64))
    else
      let kp := classKp c.cls.toNat
      let g := if c.split then a.core % 8 else a.core % 16
      fillColumns a r k0 (min kp (r.dim0 - k0)) kp ((List.range 8).map fun i => (i, n0 + 8 * g + i)) s
        ⟨if r.isSealed then .loadedSealed else .loaded, tid, r.version, k0, n0, r.format, [], []⟩ false

/-- Whether an access that the issuing hart made before a command is not performed yet (R183). -/
def earlierPending (s : State) (c : MatrixCmd) : Bool :=
  (s.mca.any fun w => w.hart = c.hart && w.id < c.issue) || s.ops.any fun o => o.hart = c.hart && o.id < c.issue && o.atHome

/-- The agent that a matrix command acts for. -/
def matrixAgent (core : Nat) (c : MatrixCmd) : Agent := ⟨core, c.hart, c.own, c.tenant, c.launch⟩

/-- MLDW_EXECUTE (R175), after every earlier access of the issuing hart (R183): the shadow plane is filled, or left empty with a fault record
for the hart that issued the command. -/
def execMldwExecute (core : Nat) (s : State) : Result :=
  let q := (getCore s core).matrixQ
  match firstOf isMldw q with
  | none => idleEvent s
  | some c =>
    if !mayStart isMldw [] q || earlierPending s c then .next (post s (.mldwExecute core))
    else
      let again := post s (.mldwExecute core)
      let s := modSlice (startOwn s core isMldw) core (claimSlice c.launch)
      let x : Word :=
        match c.op with
        | .mldw x => x
        | _ => 0
      let tid : BitVec 16 := if x.extractLsb' 0 16 = 0 then (getSlice s core).wtid else x.extractLsb' 0 16
      match fillPlane s (matrixAgent core c) tid (field x.toNat 16 24) (field x.toNat 40 24) with
      | .error .busy => .next again
      | .error (.code code addr) =>
        let s := modSlice s core fun v => { v with shadow := .reset, faulted := true }
        .next (queueFault s c.hart c.gen (matrixRecord code c.fromS addr))
      | .ok (s, pl, iv) =>
        .next (modSlice s core fun v => mergeSlice (raiseIf iv flagIV) { v with shadow := pl })

/-- MSWAP_EXECUTE (R176). -/
def execMswapExecute (core : Nat) (s : State) : Result :=
  let q := (getCore s core).matrixQ
  match firstOf isMswap q with
  | none => idleEvent s
  | some c =>
    if !mayStart isMswap [] q then .next (post s (.mswapExecute core))
    else
      let s := startOwn s core isMswap
      .next (modSlice s core fun v =>
        let v := claimSlice c.launch v
        { v with active := v.shadow, shadow := v.active })

/-! ### Gangs (R178, R179) -/

def sameKind : JointKind → JointKind → Bool
  | .mzero, .mzero => true
  | .mstr, .mstr => true
  | .mdrn _, .mdrn _ => true
  | _, _ => false

/-- Whether a gathering is of the shape that a hart arrives with. -/
def sameShape (wide : Bool) (row : Nat) (g : Gathering) : Bool := g.wide = wide && (wide || g.row = row)

/-- GANG_MISMATCH in every member arrived, and nothing is queued (R178). -/
def mismatch (s : State) (members : List Nat) : State := members.foldl (fun s h => takeTrap s h ⟨0x0F, 0, 0⟩) s

def dropGathering (s : State) (clus id : Nat) : State :=
  modCluster s clus fun c => { c with gatherings := c.gatherings.filter (·.id ≠ id) }

def gangCount (wide : Bool) : Nat := if wide then 16 else 8

/-- The hart at hand arrives with its joint instruction. An arrival that conflicts with gatherings pending for its launch ends every one
of them (R178). -/
def arrive (s : State) (n : GangSize) (kind : JointKind) (a b : Word) : State :=
  let h := me s
  let core := coreOf s.cur
  let clus := clusOf core
  let wide := decide (n = .sixteen)
  let row := rowOf core
  let m : GangMember := ⟨s.cur, h.gen, decide (h.mode ≠ .U), kind, a, b⟩
  let mine := (getCluster s clus).gatherings.filter fun g => decide (g.launch = h.launch)
  match mine.filter fun g => !sameShape wide row g && (wide || g.wide) with
  | g :: l =>
    mismatch ((g :: l).foldl (fun s e => dropGathering s clus e.id) s) (((g :: l).flatMap fun e => e.members.map (·.hart)) ++ [s.cur])
  | [] =>
    let s := modMe s fun v => { v with wait := some .gang, ganged := true }
    match mine.find? fun g => sameShape wide row g && !g.members.any fun e => coreOf e.hart = core with
    | some g =>
      let s := modCluster s clus fun c =>
        { c with gatherings := c.gatherings.map fun x => if x.id = g.id then { x with members := x.members ++ [m] } else x }
      if g.members.length + 1 = gangCount wide then post s (.gangGatherComplete clus g.id) else s
    | none =>
      let (id, s) := fresh s
      modCluster s clus fun c => { c with gatherings := c.gatherings ++ [⟨id, h.launch, clus, wide, row, [m]⟩] }

/-- A joint instruction: directly after a GANG, it releases at clus and arrives (R178). Where the launch has ended, the hart gathers no more: it
stands at its GANG, where it stops (R41). -/
def joint (i : Instr) (kind : JointKind) (a b : Word) (s : State) : Result :=
  match isHandler s.cur, (me s).unit with
  | false, some (.gang _ n) =>
    if retiring s (me s).launch then .next (modMe s fun h => { h with pc := trapPc h, unit := none, wait := none })
    else afterRelease s .clus (.next (arrive (ownSlice s) n kind a b))
  | _, _ => illegal s i

/-- MSTR (R375). -/
def execMstr (a b : Reg) (s : State) : Result := joint (.mstr a b) .mstr (readX (me s) a) (readX (me s) b) s

/-- MDRN (R366). -/
def execMdrn (t : DrainType) (a : Reg) (s : State) : Result := joint (.mdrn t a) (.mdrn t) (readX (me s) a) 0 s

/-- MZERO (R380). -/
def execMzero (s : State) : Result := joint .mzero .mzero 0 0 s

/-- Members in the order of their cores, the leader first. -/
def byCore (l : List GangMember) : List GangMember := sortBy (fun a b => decide (coreOf a.hart ≤ coreOf b.hart)) l

/-- Whether all members agree with the first (R178). -/
def gangAgrees (s : State) (g : Gathering) (first : GangMember) : Bool :=
  let c := getSlice s (coreOf first.hart)
  g.members.all fun m =>
    let d := getSlice s (coreOf m.hart)
    sameKind m.kind first.kind && decide (d.mode = c.mode) && d.split = c.split && decide (d.atid = c.atid) && d.split = !g.wide

def jointEvent (k : JointKind) (id : Nat) : Event :=
  match k with
  | .mzero => .mzeroExecute id
  | .mstr => .mstrExecute id
  | .mdrn _ => .mdrnExecute id

/-- A member's joint command enters its queue; the member acquires and goes on. -/
def departGang (id : Nat) (s : State) (m : GangMember) : State :=
  let core := coreOf m.hart
  let cmd := { newMatrixCmd (getHart s m.hart) m.hart (.joint id) s.serial with gen := m.gen, fromS := m.fromS }
  let s := modCore s core fun c => { c with matrixQ := c.matrixQ ++ [cmd] }
  modHart (acquireAt s core .clus) m.hart (retireHart 4)

/-- GANG_GATHER_COMPLETE (R178). -/
def execGangGatherComplete (clus gather : Nat) (s : State) : Result :=
  match (getCluster s clus).gatherings.find? (·.id = gather) with
  | none => idleEvent s
  | some g =>
    match byCore g.members with
    | [] => idleEvent s
    | first :: rest =>
      if g.members.length < gangCount g.wide then idleEvent s
      else if g.members.any fun m => 2 ≤ (getCore s (coreOf m.hart)).matrixQ.length then .next (post s (.gangGatherComplete clus gather))
      else
        let s := dropGathering s clus gather
        if !gangAgrees s g first then .next (mismatch s (g.members.map (·.hart)))
        else
          let s := modCluster s clus fun c => { c with gangs := c.gangs ++ [⟨gather, g.launch, clus, g.wide, g.row, first :: rest⟩] }
          .next (post ((first :: rest).foldl (departGang gather) s) (jointEvent first.kind gather))

/-! ### Joint commands -/

/-- The gang of a joint command. -/
def findGang (s : State) (id : Nat) : Option Gang := s.clusters.findSome? fun e => e.2.gangs.find? (·.id = id)

/-- Whether a half-array of a cluster runs a joint command. -/
def halfRunning (s : State) (clus : Nat) : Bool :=
  let halves := ((getCluster s clus).gangs.filter fun g => !g.wide).map (·.id)
  (List.range 16).any fun i =>
    (getCore s (clus * 16 + i)).matrixQ.any fun c => c.running && halves.any fun g => isGangCmd g c

/-- A joint command starts when it may start in every member's queue; a command of the whole array also waits for the halves (R179). -/
def jointMayStart (s : State) (g : Gang) : Bool :=
  (g.members.all fun m => mayStart (isGangCmd g.id) [] (getCore s (coreOf m.hart)).matrixQ) && (!g.wide || !halfRunning s g.clus)

/-- The joint command runs in every member's queue; its slices belong to its launch. -/
def startJoint (s : State) (g : Gang) : State :=
  g.members.foldl (fun s m =>
    modCore s (coreOf m.hart) fun c =>
      { c with matrixQ := markRunning (isGangCmd g.id) c.matrixQ, slice := claimSlice g.launch c.slice }) s

def gangLeader (g : Gang) : Option GangMember := g.members.head?

/-- Joint commands of the gang or half that are queued behind a discarded one leave every queue they stand in (R186). -/
def laterJoint (s : State) (g : Gang) : List MatrixOp :=
  g.members.flatMap fun m =>
    (((getCore s (coreOf m.hart)).matrixQ.dropWhile fun c => !isGangCmd g.id c).drop 1).filterMap fun c =>
      if anyJoint c then some c.op else none

def dropJoint (s : State) (ops : List MatrixOp) (clus : Nat) : State :=
  let s := (List.range 16).foldl (fun s i =>
    modCore s (clus * 16 + i) fun c => { c with matrixQ := c.matrixQ.filter fun e => !ops.contains e.op }) s
  modCluster s clus fun c => { c with gangs := c.gangs.filter fun g => !ops.contains (.joint g.id) }

/-- A joint command stops: it and the later ones are discarded, and every member has its record (R186). -/
def stopJoint (s : State) (g : Gang) (code : BitVec 8) (addr : Word) : State :=
  let s := dropJoint s (.joint g.id :: laterJoint s g) g.clus
  g.members.foldl (fun s m =>
    queueFault (modSlice s (coreOf m.hart) fun c => { c with faulted := true }) m.hart m.gen (matrixRecord code m.fromS addr)) s

/-- Run a joint command once it may start. -/
def withJoint (s : State) (id : Nat) (retry : Event) (k : State → Gang → GangMember → Result) : Result :=
  match findGang s id with
  | none => idleEvent s
  | some g =>
    match gangLeader g with
    | none => idleEvent s
    | some l =>
      if (getCore s (coreOf l.hart)).matrixQ.any fun c => isGangCmd id c && c.running then idleEvent s
      else if jointMayStart s g then k (startJoint s g) g l else .next (post s retry)

/-- The command runs until MATRIX_COMMAND_COMPLETE of its leader. -/
def jointRuns (s : State) (l : GangMember) : Result := .next (post s (.matrixCommandComplete (coreOf l.hart)))

/-- Whether a member's slice has not been configured since it was cleared: it holds TID 0 (R169). -/
def unconfigured (s : State) (ms : List GangMember) : Bool := ms.any fun m => decide ((getSlice s (coreOf m.hart)).atid = 0)

/-- MZERO_EXECUTE (R169, R181). -/
def execMzeroExecute (gang : Nat) (s : State) : Result :=
  withJoint s gang (.mzeroExecute gang) fun s g l =>
    if unconfigured s g.members then .next (stopJoint s g 0x28 0)
    else jointRuns (g.members.foldl (fun s m => modSlice s (coreOf m.hart) fun c => { c with acc := [] }) s) l

/-- Where a stretch of a core's local SRAM lies, for an untagged address in SELF or, with `byCore`, in the core's part of the local-memory
range. -/
def localStretch (core : Nat) (p : Word) (n : Nat) (byCore : Bool) : Option Nat :=
  let va := addrOf p
  if tagOf p ≠ 0 then none
  else if va + n ≤ 0x20000 then some (localOf core + va)
  else if byCore && localOf core ≤ va && va + n ≤ localOf core + 0x20000 then some va
  else none

/-- The tenant a joint command runs for, as its leader's queue entry holds it. -/
def jointTenant (s : State) (g : Gang) (l : GangMember) : BitVec 4 :=
  match (getCore s (coreOf l.hart)).matrixQ.find? (isGangCmd g.id) with
  | some c => c.tenant
  | none => 0

/-! ### MSTR (R180) -/

/-- Why a stream does not start, with the address or TID of the record: for x[a] that is not aligned the address, for a plane that is not
loaded the leader's weight TID (DESIGN CHOICE, log entry 38). A plane loaded under another operand class than the one configured
since counts as not loaded: the model's choice, since the check of R180 speaks of loaded planes only (log 68). -/
def streamCheck (s : State) (g : Gang) (l : GangMember) (tenant : BitVec 4) : Except (BitVec 8 × Word) (Tensor × Nat) :=
  let core := coreOf l.hart
  let c := getSlice s core
  let n := l.b.toNat % 256
  let cls := c.cls.toNat
  if l.a.toNat % 64 ≠ 0 then .error (0x28, l.a)
  else
    match tidFor s tenant c.atid with
    | none => .error (0x28, c.atid.setWidth 64)
    | some r =>
      if cls = 0 || actClass c.mode.toNat r.format.toNat ≠ cls || n = 0 || 64 < n || field l.b.toNat 8 8 ≠ 0 ||
          field l.b.toNat 16 24 % 32 ≠ 0 ||
          (r.hadamard && (decide (r.format ≠ 0x01) || r.dim1 < field l.b.toNat 40 24 + n)) then .error (0x28, c.atid.setWidth 64)
      else if g.members.any fun m =>
          let p := (getSlice s (coreOf m.hart)).active
          decide (p.state = .empty) || decide (weightClass c.mode.toNat p.format.toNat ≠ cls) then .error (0x28, c.wtid.setWidth 64)
      else
        match localStretch core l.a (n * (elemSpan r.format.toNat 0 (classKp cls)).2) true with
        | none => .error (0x21, l.a)
        | some key => .ok (r, key)

/-- How far into a stretch of local SRAM that starts on a line its first line with an uncorrectable error lies. -/
def badOffset (s : State) (key n : Nat) : Option Nat :=
  ((List.range ((n + 63) / 64)).find? fun i => s.badLines.contains (key / 64 + i)).map (64 * ·)

/-- A row of activations: codes, and the scale of each block. -/
structure ActRow where
  codes : List Nat
  scales : List (Option Int)

/-- Row r of a stream from its bytes, the Hadamard transform applied (R163, R180), with the flags that raises. -/
def actRow (t : Tensor) (kp : Nat) (flush : Bool) (ak0 row : Nat) (bs : List Byte) : ActRow × FpFlags :=
  let f := t.format.toNat
  let codes := (List.range kp).map (elemCode f 0 bs)
  let scales := (List.range (kp / 32)).map (spanScale f t.scaleb.toInt bs)
  if t.hadamard then
    let blocks := (List.range (kp / 32)).map fun b =>
      hadamard flush (signWord t.hseed (row * (t.dim0 / 32) + ak0 / 32 + b)) (codes.drop (32 * b))
    (⟨blocks.flatMap fun l => l.map (·.1), scales⟩, allFlags (blocks.flatMap fun l => l.map (·.2)))
  else (⟨codes, scales⟩, 0)

/-- Column c of a plane as codes, and the scales of its blocks. -/
def planeColumn (p : Plane) (kp c : Nat) : ActRow :=
  ⟨(List.range kp).map fun k => (mapGet 0 p.elems (8 * k + c)).toNat, (List.range (kp / 32)).map fun b => mapGet (some 0) p.scales (8 * b + c)⟩

/-- The exact product of two elements (R159); an invalid one is a NaN with NV. R159 names no flag for ∞ × 0: NV, as R149 has it for the
vector unit, is the model's choice (log 67). -/
def productOf (a w : FVal) : FVal × FpFlags :=
  if zeroTimesInf a w then (.nan, flagNV)
  else if isNan a || isNan w then (.nan, 0)
  else
    let neg := a.neg? != w.neg?
    if isInf a || isInf w then (.inf neg, 0)
    else if a.isZero || w.isZero then (.zero neg, 0)
    else
      let d := dyMul a.dy w.dy
      (.fin (d.1 < 0) d.1.natAbs d.2, 0)

/-- The exact sum of a block's products (R159). NV for infinite products of both signs, unless some product is a NaN, is the model's choice:
R159 names no flag (log 67). -/
def blockSum (ps : List FVal) : FVal × FpFlags :=
  if ps.any isNan then (.nan, 0)
  else
    let pos := ps.any fun v => decide (v = .inf false)
    let neg := ps.any fun v => decide (v = .inf true)
    if pos && neg then (.nan, flagNV)
    else if pos || neg then (.inf neg, 0)
    else
      let d := dySum (ps.map FVal.dy)
      if d.1 = 0 then (.zero (ps.all fun v => v.isZero && v.neg?), 0) else (.fin (d.1 < 0) d.1.natAbs d.2, 0)

/-- The block step of R159 on an FP32 accumulator. A NaN scale makes every element of its block NaN, so no product of the block is invalid
and no flag is raised (R139, R153). -/
def blockStep (flush : Bool) (acc : Nat) (sa sw : Option Int) (a w : List FVal) : Nat × FpFlags :=
  let ps := List.zipWith productOf a w
  let pf := allFlags (ps.map (·.2))
  let sum := blockSum (ps.map (·.1))
  match sa, sw with
  | some x, some y =>
    let r := addVal fp32 flush (unpack fp32 flush acc) (scaleVal (x + y) sum.1)
    (r.1, pf ||| sum.2 ||| r.2)
  | _, _ => (fp32.nan, 0)

/-- One accumulator of a float stream: the blocks of a row against a column, in ascending order. -/
def floatDot (flush : Bool) (fa fw : Nat) (kp acc : Nat) (a w : ActRow) : Nat × FpFlags :=
  (List.range (kp / 32)).foldl (fun r b =>
    let t := blockStep flush r.1 (a.scales.getD b (some 0)) (w.scales.getD b (some 0))
      (((a.codes.drop (32 * b)).take 32).map (elemValue fa flush)) (((w.codes.drop (32 * b)).take 32).map (elemValue fw flush))
    (t.1, r.2 ||| t.2)) (acc, 0)

/-- One accumulator of an integer or ternary stream, wrapping in INT32 (R158, R159). -/
def intDot (acc : Nat) (a w : ActRow) : Nat :=
  wrapTo 32 ((acc : Int) + (List.zipWith (fun x y => signedOf 8 x * signedOf 8 y) a.codes w.codes).sum)

/-- One row past the plane of a member. -/
def streamRow (mode : Nat) (flush : Bool) (fa kp : Nat) (c : MatrixSlice) (r : Nat) (row : ActRow) : MatrixSlice :=
  (List.range 8).foldl (fun c i =>
    let w := planeColumn c.active kp i
    let old := (mapGet 0 c.acc (8 * r + i)).toNat
    let v := if mode = 0 then floatDot flush fa c.active.format.toNat kp old row w else (intDot old row w, 0)
    mergeSlice v.2 { c with acc := mapPut 0 c.acc (8 * r + i) (BitVec.ofNat 32 v.1) }) c

/-- Every accumulator of a member after an uncorrectable error (R186). -/
def errorAcc (mode : Nat) : SMap (BitVec 32) :=
  (List.range 512).map fun i => (i, if mode = 0 then 0x7FC00000 else 0x80000000)

/-- An uncorrectable error met while a joint command runs (R186). -/
def errorStop (s : State) (g : Gang) (mode : Nat) (addr : Word) : State :=
  stopJoint (g.members.foldl (fun s m => modSlice s (coreOf m.hart) fun v => { v with acc := errorAcc mode }) s) g 0x26 addr

/-- MSTR_EXECUTE (R180). DESIGN CHOICE (log entry 38): the flags of the Hadamard transform of the rows go to every member's slice. -/
def execMstrExecute (gang : Nat) (s : State) : Result :=
  withJoint s gang (.mstrExecute gang) fun s g l =>
    let core := coreOf l.hart
    let c := getSlice s core
    match streamCheck s g l (jointTenant s g l) with
    | .error (code, addr) => .next (stopJoint s g code addr)
    | .ok (t, key) =>
      let kp := classKp c.cls.toNat
      let n := l.b.toNat % 256
      let rb := (elemSpan t.format.toNat 0 kp).2
      let mode := c.mode.toNat
      match badOffset s key (n * rb) with
      | some off => .next (errorStop s g mode (l.a + BitVec.ofNat 64 off))
      | none =>
        let bs := rawBytes s (dieOf core) noHart key (n * rb)
        let rows := (List.range n).map fun r =>
          actRow t kp c.flush (field l.b.toNat 16 24) (field l.b.toNat 40 24 + r) (slice bs (r * rb) rb)
        let hf := allFlags (rows.map (·.2))
        let run := fun (v : MatrixSlice) =>
          (List.range n).foldl (fun v r =>
            match rows[r]? with
            | some row => streamRow mode c.flush t.format.toNat kp v r row.1
            | none => v) (mergeSlice hf v)
        jointRuns (g.members.foldl (fun s m => modSlice s (coreOf m.hart) run) s) l

/-! ### MDRN (R181) -/

/-- The bytes of a drained block and the flags of its conversion. -/
def drainBytes (t : DrainType) (flush : Bool) (acc : SMap (BitVec 32)) : List Byte × FpFlags :=
  let codes := (List.range 512).map fun i => (mapGet 0 acc i).toNat
  match t with
  | .f32 | .i32 => (codes.flatMap (leBytes 4), 0)
  | .bf16 =>
    let r := codes.map fun v => pack bf16 .rne flush (unpack fp32 flush v)
    ((r.map (·.1)).flatMap (leBytes 2), allFlags (r.map (·.2)))
  | .e4m3 =>
    let r := (List.range 16).map fun b => quantBlock 0 flush (((codes.drop (32 * b)).take 32).map (unpack fp32 flush))
    (r.flatMap fun q => blockImage 0 q.1 q.2.1, allFlags (r.map fun q => q.2.2))

def drainSize : DrainType → Nat
  | .f32 | .i32 => 2048
  | .bf16 => 1024
  | .e4m3 => 528

def drainOf : JointKind → DrainType
  | .mdrn t => t
  | _ => .f32

/-- Why a drain does not start: the first member that fails, with its x[a] (DESIGN CHOICE, log entry 38). -/
def drainCheck (mode : Nat) (ms : List GangMember) : Option (BitVec 8 × Word) :=
  ms.findSome? fun m =>
    let t := drainOf m.kind
    if m.a.toNat % 64 ≠ 0 || decide (t = .i32) ≠ decide (mode ≠ 0) then some (0x28, m.a)
    else if (localStretch (coreOf m.hart) m.a (drainSize t) false).isNone then some (0x21, m.a)
    else none

/-- Write a member's block to its SELF, line by line. -/
def drainMember (flush : Bool) (s : State) (m : GangMember) : State :=
  let core := coreOf m.hart
  let r := drainBytes (drainOf m.kind) flush (getSlice s core).acc
  let s := modSlice s core (mergeSlice r.2)
  (pieces (BitVec.ofNat 64 (addrOf m.a)) r.1.length).foldl (fun s p =>
    let off := p.1.toNat - addrOf m.a
    let key := localOf core + p.1.toNat
    engineWrite s core noHart (.plain p.1.toNat key false) ((r.1.drop off).take p.2)) s

/-- The first line of a drained block that has an uncorrectable error (R186). -/
def drainError (s : State) (ms : List GangMember) : Option Word :=
  ms.findSome? fun m =>
    (badOffset s (localOf (coreOf m.hart) + addrOf m.a) (drainSize (drainOf m.kind))).map fun off => m.a + BitVec.ofNat 64 off

/-- MDRN_EXECUTE (R169, R181, R186). -/
def execMdrnExecute (gang : Nat) (s : State) : Result :=
  withJoint s gang (.mdrnExecute gang) fun s g l =>
    let c := getSlice s (coreOf l.hart)
    match if unconfigured s g.members then some (0x28, 0) else drainCheck c.mode.toNat g.members with
    | some (code, addr) => .next (stopJoint s g code addr)
    | none =>
      match drainError s g.members with
      | some addr => .next (errorStop s g c.mode.toNat addr)
      | none => jointRuns (g.members.foldl (drainMember c.flush) s) l

/-! ### Completion (R177, R188) -/

/-- The running commands that a completion on a core may end: the core's own, and the joint ones it leads. -/
def runningOn (s : State) (core : Nat) : List MatrixOp :=
  ((getCore s core).matrixQ.filter fun c => c.running &&
    (match c.op with
     | .joint id =>
       (match (findGang s id).bind gangLeader with
        | some l => decide (coreOf l.hart = core)
        | none => true)
     | _ => true)).map (·.op)

/-- MATRIX_COMMAND_COMPLETE: the queue entries are free. -/
def execMatrixCommandComplete (core : Nat) (s : State) : Result :=
  let l := runningOn s core
  match l[Config.choose s.tick 3 % l.length]? with
  | none => idleEvent s
  | some (.joint id) => .next (dropJoint s [.joint id] (clusOf core))
  | some op => .next (modCore s core fun c => { c with matrixQ := c.matrixQ.filter fun e => !(e.running && decide (e.op = op)) })

/-! ### Debug reads (R185, Table 16.3) -/

/-- What a debug unit reads. -/
inductive DebugRead
  | plane (core : Nat) (shadow : Bool)
  | page (va : Nat)
  deriving DecidableEq, Repr

/-- Whether a debug read returns the status SEALED_DEBUG: a plane with the SEALED mark, or a sealed page. -/
def sealedDebug (s : State) : DebugRead → Bool
  | .plane core shadow => decide ((if shadow then (getSlice s core).shadow else (getSlice s core).active).state = .loadedSealed)
  | .page va =>
    match walk s .read 0 va with
    | .leaf l => l.isSealed
    | _ => false

/-! ### Reload at a resume (R81, R86) -/

/-- The plane that a save recorded, loaded again by the rules of MLDW. -/
def reloadPlane (s : State) (a : Agent) (p : Plane) : Except FillStop (State × Plane × Bool) :=
  if p.state = .empty then .ok (s, .reset, false)
  else
    match tidFor s a.tenant p.tid with
    | none => .error (.code 0x28 (p.tid.setWidth 64))
    | some r =>
      if r.version ≠ p.version then .error (.code 0x28 (p.tid.setWidth 64)) else fillPlane s a p.tid p.k0 p.n0

end Sys2Proof.Machine
end

