-- ==== Sys2Proof/Machine/Sched.lean ====
section
/-!
DEFINITION. Slices and pre-emption (R75 to R78), the claimants of a free context (R85), the start of a hart (R42, Table 3.6), the
release of a saved one (R83) and its resume (R84, R86).
-/

namespace Sys2Proof.Machine

/-! ### Slices -/

/-- Effective priority of a node of a launch. -/
def workPrio (s : State) (launch node : Nat) : Nat :=
  match getLaunch s launch with
  | none => 0
  | some l =>
    match getNode l node with
    | none => 0
    | some n => effPrio l n

def launchTenant (s : State) (launch : Nat) : Nat :=
  match getLaunch s launch with
  | none => 0
  | some l => l.tenant.toNat

/-- Harts of a node that have still to start on the part of a cluster that a slice counts. -/
def startsWaiting (s : State) (key : Nat) (w : WorkItem) : Bool :=
  w.starts.any fun e => e.2 ≠ 0 && sliceKey s e.1 (key / 2) = key

/-- Whether a slice of a cluster ended after another one; slices that ended together come in the order of their keys. -/
def endedAfter (k : Nat) (w : SliceState) (key : Nat) (v : SliceState) : Bool :=
  match w.ended, v.ended with
  | some t, some u => decide (u < t) || (decide (t = u) && decide (key < k))
  | _, _ => false

/-- Whether the work that ended a slice of a tenant still waits to start or resume (R57, R76): a node with harts not yet started, saved
harts, or an operating service that has the tenant stopped. Work that makes no claims itself, because a slice of its own tenant that ended
later bars it, does not count: else two ended slices would bar each other for ever and the work of neither would start (DEDUCED, log 8).
`fuel` bounds the chain of slices, each of which ended later than the one before. -/
def causeWaits (s : State) (clus : Nat) : (fuel : Nat) → (key : Nat) → SliceState → Bool
  | 0, _, _ => false
  | fuel + 1, key, v =>
    let held := fun core tenant =>
      let k := sliceKey s core tenant
      let w := sliceAt s clus k
      endedAfter k w key v && causeWaits s clus fuel k w
    match v.ended, v.cause with
    | some _, some (.node l n) =>
      (getCluster s clus).workQ.any fun w =>
        w.launch = l && w.node = n && w.starts.any fun e => e.2 ≠ 0 && !held e.1 (launchTenant s l)
    | some _, some (.saved ids) => s.saves.any fun r => ids.contains r.serial && !held r.core (launchTenant s r.launch)
    | some _, some .service => (getTenant s (key / 2)).stopped
    | _, _ => false

/-- Whether a tenant makes no claims on a core: its slice there ended, and the work that ended it still waits (R76, R85). A chain visits
each of the cluster's slices once at most. -/
def barred (s : State) (core tenant : Nat) : Bool :=
  let clus := clusOf core
  let key := sliceKey s core tenant
  causeWaits s clus ((getCluster s clus).slices.length + 1) key (sliceAt s clus key)


/-- The work of another tenant, of at least the priority given, that waits for contexts (R75): a node with harts not yet started, oldest
first, otherwise saved harts. -/
def waitingCause (s : State) (clus key prio : Nat) : Option SliceCause :=
  let tenant := key / 2
  let node := (getCluster s clus).workQ.find? fun w =>
    launchTenant s w.launch ≠ tenant && prio ≤ workPrio s w.launch w.node && startsWaiting s key w
  match node with
  | some w => some (.node w.launch w.node)
  | none =>
    match s.saves.filter fun r =>
        clusOf r.core = clus && sliceKey s r.core tenant = key && launchTenant s r.launch ≠ tenant &&
          prio ≤ workPrio s r.launch r.sr.node.toNat with
    | [] => none
    | l => some (.saved (l.map (·.serial)))

/-- Highest effective priority among harts. -/
def topPrio (s : State) (hs : List Nat) : Nat :=
  hs.foldl (fun m h => max m (workPrio s (getHart s h).launch (getHart s h).sr.node.toNat)) 0

/-- A slice ends: its harts drain, and the deadline runs (R76). -/
def endSlice (s : State) (clus key : Nat) (cause : SliceCause) : State :=
  let v := sliceAt s clus key
  let s := (sliceHarts s clus key).foldl (setPreempt .ended) s
  let s := setSlice s clus key { v with ended := some s.time, overdue := false, cause := some cause }
  offerCluster (post s (.deadlineExpiry clus (key / 2) (key % 2))) clus

/-- SLICE_END (R75): the tenant's harts have held contexts for SLICE µs and other work waits. Slices do not end by time during a handover
(R288). -/
def execSliceEnd (clus tenant row : Nat) (s : State) : Result :=
  let key := 2 * tenant + row % 2
  let v := sliceAt s clus key
  let len := (getTenant s tenant).slice.toNat
  if !v.held || v.ended.isSome then idleEvent s
  else if len = 0 || v.heldFor s.time < len * 1000 || s.firmware.quiesced then .next (post s (.sliceEnd clus tenant row))
  else
    match waitingCause s clus key (topPrio s (sliceHarts s clus key)) with
    | some c => .next (endSlice s clus key c)
    | none => .next (post s (.sliceEnd clus tenant row))

/-- An operating service ends every slice of a tenant (R75). -/
def endSlices (s : State) (tenant : Nat) : State :=
  s.clusters.foldl (fun s e =>
    (e.2.slices.filter fun x => x.1 / 2 = tenant && x.2.held && x.2.ended.isNone).foldl (fun s x => endSlice s e.1 x.1 .service) s) s

/-- DEADLINE_EXPIRY (R76): DEADLINE µs after the end of the slice every remaining hart is asked to stop. -/
def execDeadlineExpiry (clus tenant row : Nat) (s : State) : Result :=
  let key := 2 * tenant + row % 2
  let v := sliceAt s clus key
  let hs := sliceHarts s clus key
  match v.ended with
  | none => idleEvent s
  | some t =>
    if v.overdue || hs = [] then idleEvent s
    else if s.time < t + (getTenant s tenant).deadline.toNat * 1000 then .next (post s (.deadlineExpiry clus tenant row))
    else .next (setSlice (hs.foldl (setPreempt (.overdue 0)) s) clus key { v with overdue := true })

/-- FORCED_STOP (R77). -/
def execForcedStop (h : Nat) (s : State) : Result :=
  if forcedDue s h then .next (stopHart s h 2 (getHart s h).pc 0) else idleEvent s

/-- CONTEXT_RELEASE (R83): the supervisor completes the save of a stopped hart, or abandons it. -/
def execContextRelease (h : Nat) (s : State) : Result :=
  match (getHart s h).sup with
  | some (.stop kind) => if saveReady s h && saveServed s (saveOf s h kind) then .next (releaseStopped s h kind) else idleEvent s
  | _ => idleEvent s

/-! ### Claimants (R85) -/

/-- Who may take a free context. -/
inductive Claimant
  | saved (r : Save)
  | start (w : WorkItem)
  deriving DecidableEq, Repr

/-- A claim: whether the context was freed by a pre-emption made for this work (R57), effective priority, rank of Table 4.5, order within the
rank. -/
structure Claim where
  made : Bool
  prio : Nat
  rank : Nat
  first : Nat
  second : Nat
  who : Claimant
  deriving DecidableEq, Repr

def launchRuns (s : State) (launch : Nat) : Bool :=
  match getLaunch s launch with
  | some l => decide (l.phase = .running)
  | none => false

/-- The work for which harts of a context have been pre-empted, while it waits (R57). -/
def preemptors (s : State) (core ctx : Nat) : List SliceCause :=
  (s.saves.filter fun r => r.core = core && r.ctx = ctx).filterMap fun r =>
    let t := launchTenant s r.launch
    if barred s core t then (sliceOf s core t).cause else none

/-- Whether a node's start, or a saved hart, is among the work of some causes. -/
def startMade (cs : List SliceCause) (launch node : Nat) : Bool := cs.contains (.node launch node)
def savedMade (cs : List SliceCause) (serial : Nat) : Bool :=
  cs.any fun c =>
    match c with
    | .saved l => l.contains serial
    | _ => false

/-- Saved harts and nodes that would take a context but for the bar of R76. -/
def savedHere (s : State) (core ctx : Nat) : List Save :=
  s.saves.filter fun r => r.core = core && r.ctx = ctx && launchRuns s r.launch
def startsHere (s : State) (core : Nat) : List WorkItem :=
  (getCluster s (clusOf core)).workQ.filter fun w => launchRuns s w.launch && w.starts.any fun e => e.1 = core && e.2 ≠ 0

/-- The claims on a context. -/
def claimsOn (s : State) (core ctx : Nat) : List Claim :=
  let cs := preemptors s core ctx
  let saved := ((savedHere s core ctx).filter fun r => !barred s core (launchTenant s r.launch)).map
    fun r =>
      let p := workPrio s r.launch r.sr.node.toNat
      let m := savedMade cs r.serial
      match r.tile with
      | some k => Claim.mk m p 1 k r.serial (.saved r)
      | none => Claim.mk m p 2 r.serial 0 (.saved r)
  let starts := ((startsHere s core).filter fun w => !barred s core (launchTenant s w.launch)).mapIdx
    fun i w => Claim.mk (startMade cs w.launch w.node) (workPrio s w.launch w.node) 3 i 0 (.start w)
  saved ++ starts

/-- Whether a claim goes before another: the work a pre-emption was made for first (R57), then by R85. -/
def claimBefore (a b : Claim) : Bool :=
  if a.made ≠ b.made then a.made
  else
    decide (b.prio < a.prio) ||
      (decide (a.prio = b.prio) &&
        (decide (a.rank < b.rank) ||
          (decide (a.rank = b.rank) && (decide (a.first < b.first) || (decide (a.first = b.first) && decide (a.second ≤ b.second))))))

/-- The claimant that takes a context. -/
def claimant (s : State) (core ctx : Nat) : Option Claimant := ((sortBy claimBefore (claimsOn s core ctx)).head?).map (·.who)

/-- A context that may be taken: free, on a core that may run kernels, while nothing holds the cores in reset. -/
def contextFree (s : State) (core ctx : Nat) : Bool :=
  decide (ctx < 8) && decide ((getHart s (hartKey core ctx)).tenure = .free) && decide (s.firmware.bootState ≠ 3)

/-! ### Start (R42) -/

/-- Scalar registers of a starting hart (Table 3.6). -/
def startX (ctx : Nat) (hasLocal : Bool) (args : Nat → Word) : Vector Word 32 :=
  Vector.ofFn fun i =>
    if i.val = 2 then BitVec.ofNat 64 (if ctx = 7 && hasLocal then 0x1E000 else (ctx + 1) * 0x4000)
    else if 3 ≤ i.val && i.val ≤ 10 then args (i.val - 3)
    else 0

/-- The local sections of a launch's image, 8 KiB at most (R298). -/
def localSections (l : Launch) : List Byte := (Config.imageLocal l.measure).take 0x2000

/-- The argument block's doublewords; where it cannot be read any more they are values that the spec does not give. -/
def startArgs (s : State) (l : Launch) (n : Node) (die : Nat) : Nat → Word :=
  match agentRead s (launchAgent l die) n.args 64 with
  | some b => fun i => leWord (slice b (8 * i) 8)
  | none => fun i => Config.freeWord s.tick (100 + i)

/-- Where the handler table of a launch's image lies (R301), aligned as MSGB holds it (Table 20.8); 0 where the image has none. -/
def handlerTable (l : Launch) : Word :=
  match Config.imageHandlers l.measure with
  | some off => if off + 128 ≤ l.imageLen then (l.image + BitVec.ofNat 64 off) &&& ~~~7#64 else 0
  | none => 0

/-- A hart in the state of Table 3.6. -/
def startedHart (s : State) (l : Launch) (id : Nat) (n : Node) (core ctx : Nat) : Hart :=
  { Hart.reset with
    tenure := .running
    mode := .U
    pc := evenPc n.entry
    x := startX ctx (decide (localSections l ≠ [])) (startArgs s l n (dieOf core))
    gen := (getHart s (hartKey core ctx)).gen
    launch := l.id
    sr :=
      { SpecialRegs.reset with
        own := l.owner, tenant := l.tenant, launch := l.seq, keyh := l.keyh, hctl := l.hctl, evec := l.evec
        efr := BitVec.ofNat 64 (ctx * 0x4000), node := BitVec.ofNat 64 id, subt := BitVec.allOnes 64
        msgb := handlerTable l } }

/-- Power bank `ctx` of a core. -/
def powerUp (s : State) (core ctx : Nat) : State := modCore s core fun c => { c with banks := c.banks ||| BitVec.twoPow 8 ctx }

/-- The loader's writes of the local sections of an image into every core that the launch binds, once, before its first hart starts (R298). -/
def loadLocal (s : State) (l : Launch) : State :=
  let b := localSections l
  if b.isEmpty || l.loaded then s
  else
    modLaunch ((launchCores s l).foldl (fun s g => applyAll (powerUp s g 7) (localOf g + 0x1E000) b) s) l.id fun v =>
      { v with loaded := true }

/-- One start less of a node on a core. -/
def countStart (s : State) (clus launch node core : Nat) : State :=
  modCluster s clus fun c =>
    { c with
      workQ := c.workQ.map fun w =>
        if w.launch = launch && w.node = node then
          { w with starts := (w.starts.map fun e => if e.1 = core then (e.1, e.2 - 1) else e).filter (·.2 ≠ 0) }
        else w }

def startsLeft (s : State) (clus launch node : Nat) : Bool :=
  (getCluster s clus).workQ.any fun w => w.launch = launch && w.node = node && w.starts ≠ []

/-- The record of the slice that a launch left on a core is of no more use once a hart of the launch has taken a context there (R86). -/
def forgetPlanes (s : State) (core launch : Nat) : State :=
  { s with saves := s.saves.map fun r => if r.core = core && r.launch = launch then { r with planes := none } else r }

/-- The scope at which a starting hart acquires: that of its node's level, or of the level of a node that posted before it where that is
wider (R44, R72, Table 6.2). -/
def startScope (l : Launch) (n : Node) : Scope := widerOf (nodeScope l n) n.acqScope

/-- HART_START (R42): the claim of a node in the work queue. A claim that R76 bars is tried again. -/
def execHartStart (core ctx : Nat) (s : State) : Result :=
  if !contextFree s core ctx then idleEvent s
  else
    match claimant s core ctx with
    | none => if (startsHere s core).isEmpty then idleEvent s else .next (postOnce s (.hartStart core ctx))
    | some (.saved _) => .next (postOnce s (.hartResume core ctx))
    | some (.start w) =>
      match getLaunch s w.launch with
      | none => idleEvent s
      | some l =>
        match getNode l w.node with
        | none => idleEvent s
        | some n =>
          if !n.stamp.le (stampOf s (dieOf core)) then .next (post s (.hartStart core ctx))
          else
            let s := countStart s (clusOf core) l.id w.node core
            let s := acquireAt s core (startScope l n)
            let s := chargeAgent (launchAgent l (dieOf core)) n.args 64 s
            let s := takeSlice (powerUp (loadLocal s l) core ctx) core l.tenant.toNat
            let s := forgetPlanes (setHart s (hartKey core ctx) (startedHart s l w.node n core ctx)) core l.id
            -- the last start of a node may let others claim (R57)
            .next (if startsLeft s (clusOf core) l.id w.node then s else offerCluster s (clusOf core))

/-! ### Resume (R84, R86) -/

/-- Scalar registers at a resume: those of MASK, the others undefined (R79). -/
def resumedX (tick : Nat) (r : Save) : Vector Word 32 :=
  Vector.ofFn fun i =>
    if i.val = 0 then 0 else if r.mask.getLsbD i.val then r.x[i] else Config.freeWord tick (128 + i.val)

/-- A saved hart in its context again. Vector registers outside MASK are dead. -/
def resumedHart (s : State) (r : Save) : Hart :=
  { Hart.reset with
    tenure := .running
    mode := if r.inS then .S else .U
    pc := evenPc r.pc
    x := resumedX s.tick r
    v := Vector.ofFn fun i => if r.mask.getLsbD (32 + i.val) then r.v[i] else 0
    live := r.mask.extractLsb' 32 32
    sr := { r.sr with subt := r.subt }
    gen := (getHart s (hartKey r.core r.ctx)).gen
    launch := r.launch
    tile := r.tile
    mpend := r.mpend
    ipend := r.pend &&& ~~~2#8
    faults := r.faults
    loans := r.loans
    ganged := r.acc.isSome
    resumed := true }

/-- One plane of a slice restored, or left empty with a fault record for the hart that resumes first (R81); none where a line of it is not
served now (R279). -/
def restorePlane (s : State) (a : Agent) (h : Nat) (p : Plane) (put : Plane → MatrixSlice → MatrixSlice) : Option State :=
  match reloadPlane s a p with
  | .error .busy => none
  | .error (.code code addr) => some (queueFault (modSlice s a.core (put .reset)) h (getHart s h).gen (matrixRecord code false addr))
  | .ok (s, pl, iv) => some (modSlice s a.core fun v => mergeSlice (raiseIf iv flagIV) (put pl v))

/-- The slice of a launch restored from its record (R81, R86). -/
def restoreSlice (s : State) (r : Save) (p : PlanesRec) : Option State :=
  let h := hartKey r.core r.ctx
  let a : Agent := ⟨r.core, h, r.sr.own, r.sr.tenant, r.launch⟩
  let s := modSlice s r.core fun c =>
    { claimSlice r.launch c with
      wtid := p.wtid, atid := p.atid, mode := p.mode, cls := p.cls, split := p.split, flush := p.flush, faulted := p.faulted
      flags := p.flags, active := .reset, shadow := .reset }
  (restorePlane s a h p.active fun pl v => { v with active := pl }).bind fun s =>
    restorePlane s a h p.shadow fun pl v => { v with shadow := pl }

/-- Commands of a saved hart belong to it under its new generation (R81). -/
def adoptCmds (s : State) (h : Nat) (old new : BitVec 8) : State :=
  modCore s (coreOf h) fun c =>
    { c with
      cmds := c.cmds.map fun m => if m.hart = h && decide (m.gen = old) then { m with gen := new } else m
      matrixQ := c.matrixQ.map fun m => if m.hart = h && decide (m.gen = old) then { m with gen := new } else m }

/-- HART_RESUME (R84, R86): the best claimant, a saved hart, takes its own context back. A claim that R76 bars is tried again; a cluster in Idle
is woken first (R292). -/
def execHartResume (core ctx : Nat) (s : State) : Result :=
  if !contextFree s core ctx then idleEvent s
  else
    match claimant s core ctx with
    | none => if (savedHere s core ctx).isEmpty then idleEvent s else .next (postOnce s (.hartResume core ctx))
    | some (.start _) => .next (postOnce s (.hartStart core ctx))
    | some (.saved r) =>
      if (getCluster s (clusOf core)).idle then .next (postAll s [.clusterWake (clusOf core), .hartResume core ctx])
      else
      let h := hartKey core ctx
      let again := post s (.hartResume core ctx)
      let planes := ((s.saves.filter fun v => v.core = core && v.launch = r.launch).findSome? (·.planes))
      let s := { s with saves := s.saves.filter (· ≠ r) }
      let s := takeSlice (powerUp s core ctx) core (launchTenant s r.launch)
      let base := localOf core + ctx * 0x4000
      let s := r.bank.foldl (fun s e => applyAll s (base + e.1) [e.2]) s
      let s := setHart s h (resumedHart s r)
      let s := adoptCmds s h (r.hidOld.extractLsb' 24 8) (getHart s h).gen
      let s := forgetPlanes s core r.launch
      let s := (saveKeys r).foldl (chargeLine r.launch false) s
      let restored :=
        match planes with
        | some p => restoreSlice s r p
        | none => some s
      if !saveServed again r then .next again
      else
        match restored with
        | none => .next again
        | some s =>
          let s :=
            match r.acc with
            | some acc => modSlice s core fun c => { claimSlice r.launch c with acc := acc }
            | none => s
          .next (offerCluster (settleNode s r.launch r.sr.node.toNat) (clusOf core))

/-! ### Interrupts and engine faults (R231, R234) -/

/-- Where a hart at its boundary goes on: a WFI that wakes has completed (R467). -/
def boundaryPc (v : Hart) : Word := if v.wait = some .interrupt then v.pc + 4 else v.pc

/-- INTERRUPT_TAKE (R231): entry at EVEC with the interrupt's cause; its EVAL is not given. The supervisor then has nothing to do for
the hart. -/
def execInterruptTake (h : Nat) (s : State) : Result :=
  let v := getHart s h
  match dueInterrupt v with
  | none => idleEvent s
  | some c =>
    let v := { v with ipend := v.ipend &&& ~~~BitVec.twoPow 8 c }
    .next (setHart s h { enterS v (boundaryPc v) (BitVec.ofNat 8 (0x80 + c)) (Config.freeWord s.tick 30) 0 .trap with sup := none })

/-- ENGINE_FAULT_DELIVERY (R234): the oldest record that may be delivered is written and its handler entered. -/
def execEngineFaultDelivery (h : Nat) (s : State) : Result :=
  let v := getHart s h
  match dueFault v with
  | none => idleEvent s
  | some r =>
    let next := boundaryPc v
    let s := leaveWaits s h
    let s := modHart (writeRecord s h r) h fun v => { v with faults := v.faults.erase r }
    if !r.fromS && uefEn v then
      .next (modHart s h fun v =>
        setUefAct true
          { v with sr := { v.sr with uepc := next }, pc := evenPc v.sr.uevec, wait := none, met := none, walk := none })
    else
      -- a fault of a command submitted in S is left to the supervisor code that submitted it (R287)
      .next (modHart s h fun v =>
        let v := enterS v next 0x81 v.sr.efr 0 .engineFault
        if r.fromS then { v with sup := none } else v)

end Sys2Proof.Machine
end

