-- ==== Sys2Proof/Machine/Retire.lean ====
section
/-!
DEFINITION. The task dispatchers and cluster control cores: arbitration, aging and event records (R60 to R66); the end of a
launch (R53, R54) and the retirement of its world (R259, R260).
-/

namespace Sys2Proof.Machine

/-! ### Arbitration (R63, R66) -/

/-- The candidates of a cluster in the pool of its die. -/
def candidates (s : State) (clus : Nat) : List PoolEntry := (getDie s (clus / 256)).pool.filter (·.clusters.contains clus)

def weightOf (s : State) (tenant : Nat) : Nat := (getTenant s tenant).weight.toNat

/-- Tenants with a pool candidate at a level and a weight, in index order (R63). -/
def tenantsAt (s : State) (cands : List PoolEntry) (level : Nat) : List Nat :=
  (List.range 16).filter fun t => weightOf s t ≠ 0 && cands.any fun e => !e.isLocal && e.level = level && e.tenant = t

/-- Tenants in index order after one of them. -/
def afterTenant (last : Nat) (ts : List Nat) : List Nat := ts.filter (last < ·) ++ ts.filter (· ≤ last)

/-- The entry that has waited longest. -/
def oldestEntry (l : List PoolEntry) : Option PoolEntry := (sortBy (fun a b => decide (a.readyAt ≤ b.readyAt)) l).head?

/-- The node for a slot at one level, with the credits it costs (R63): a locally released node goes first (R66). -/
def selectAt (s : State) (die : Nat) (cands : List PoolEntry) (level : Nat) : Option (State × PoolEntry) :=
  match oldestEntry (cands.filter fun e => e.isLocal && e.level = level) with
  | some e => some (s, e)
  | none =>
    match tenantsAt s cands level with
    | [] => none
    | ts =>
      let d := getDie s die
      let credit := if ts.any fun t => mapGet 0 d.credit t ≠ 0 then d.credit
        else (List.range 16).foldl (fun m t => mapPut 0 m t (weightOf s t)) d.credit
      match (afterTenant (mapGet 15 d.lastServed level) ts).find? fun t => mapGet 0 credit t ≠ 0 with
      | none => none
      | some t =>
        let s := modDie s die fun d =>
          { d with credit := mapMod 0 credit t (· - 1), lastServed := mapPut 15 d.lastServed level t }
        (oldestEntry (cands.filter fun e => !e.isLocal && e.level = level && e.tenant = t)).map fun e => (s, e)

/-- The selection over the levels, 7 first. -/
def selectNode (s : State) (die : Nat) (cands : List PoolEntry) : Option (State × PoolEntry) :=
  [7, 6, 5, 4, 3, 2, 1, 0].findSome? (selectAt s die cands)

/-- The cluster has received a node: its entry leaves the pool with the last cluster (R62). -/
def receiveEntry (s : State) (clus : Nat) (e : PoolEntry) : State :=
  modDie s (clus / 256) fun d =>
    { d with
      pool := d.pool.filterMap fun x =>
        if x = e then
          let left := x.clusters.filter (· ≠ clus)
          if left = [] then none else some { x with clusters := left }
        else some x }

/-- DISPATCH_ARBITRATION (R63): one free slot of a cluster's work queue is filled. A cluster in Idle is woken first (R292). -/
def execDispatchArbitration (clus : Nat) (s : State) : Result :=
  if 4 ≤ (getCluster s clus).workQ.length || isOsCluster s clus then idleEvent s
  else
    match selectNode s (clus / 256) (candidates s clus) with
    | none => idleEvent s
    | some (s', e) =>
      if (getCluster s clus).idle then .next (postAll s [.clusterWake clus, .dispatchArbitration clus])
      else
        let s := receiveEntry s' clus e
        match getLaunch s e.launch with
        | none => .next s
        | some l =>
          match getNode l e.node with
          | none => .next s
          | some n => .next (post (placeNode s clus l e.node n e.isLocal) (.dispatchArbitration clus))

/-- One entry after the time it has waited: one level for each full 100 µs, up to level 7 (R62). -/
def agedEntry (now : Nat) (e : PoolEntry) : PoolEntry :=
  let n := (now - e.agedAt) / 100000
  if e.isLocal then e else { e with level := min 7 (e.level + n), agedAt := e.agedAt + n * 100000 }

/-- NODE_AGING (R62). -/
def execNodeAging (die : Nat) (s : State) : Result :=
  match (getDie s die).pool with
  | [] => idleEvent s
  | l => .next (post (modDie s die fun d => { d with pool := l.map (agedEntry s.time) }) (.nodeAging die))

/-! ### Event records (R65, R66) -/

/-- A completed predecessor: the count of a successor falls, and at zero it is released where its count is held (R66). It is to acquire at the
scope of the predecessor's level (R44). -/
def releaseSuccessor (l : Nat) (stamp : Stamp) (sc : Scope) (s : State) (id : Nat) : State :=
  readyNode
    (modNode s l id fun n =>
      { n with remaining := n.remaining - 1, stamp := n.stamp.join stamp, acqScope := widerOf n.acqScope sc }) l id true

/-- Successors of the node of a completion record. -/
def takeRecord (s : State) (clus : Nat) (r : EventRec) : State :=
  if r.kind ≠ 1 then s
  else
    match getLaunch s r.launch with
    | none => s
    | some l =>
      match getNode l r.node with
      | none => s
      | some n => (nodeSuccessors s l n (clus / 256)).foldl (releaseSuccessor l.id r.stamp (nodeScope l n)) (chargeSuccessors s l n (clus / 256))

/-- EVENT_RECORD_TAKE (R66): the control core takes the oldest record, which makes room for one poster (R65). -/
def execEventRecordTake (clus : Nat) (s : State) : Result :=
  match (getCluster s clus).eventQ with
  | [] => idleEvent s
  | r :: rest =>
    let s := modCluster s clus fun c => { c with eventQ := rest }
    let s :=
      match (getCluster s clus).posters with
      | [] => s
      | p :: ps => post (modCluster s clus fun c => { c with eventQ := c.eventQ ++ [p], posters := ps }) (.eventRecordTake clus)
    .next (noteEmpty (takeRecord s clus r) clus)

/-! ### The end of a launch (R53, R54) -/

/-- Total of a count over all cores. -/
def sentTotal (s : State) (l : Nat) : Word := s.cores.foldl (fun t e => t + mapGet 0 e.2.sent l) 0
def receivedTotal (s : State) (l : Nat) : Word := s.cores.foldl (fun t e => t + mapGet 0 e.2.received l) 0

/-- Every core is idle for the launch (R53). -/
def launchIdle (s : State) (l : Nat) : Bool :=
  launchHarts s l = [] && s.cores.all (fun e => e.2.cmds.all (·.launch ≠ l)) &&
    s.clusters.all fun e => e.2.workQ.all (·.launch ≠ l) && e.2.eventQ.all (·.launch ≠ l) && e.2.posters.all (·.launch ≠ l)

def allComplete (l : Launch) : Bool :=
  l.nodes.all fun e =>
    match e.2 with
    | some n => decide (n.phase = .complete)
    | none => true

/-- What the release at sys scope of a launch's end covers: every write in the view of a die. -/
def packageStamp (s : State) : Stamp := (((stampOf s 0).join (stampOf s 1)).join (stampOf s 2)).join (stampOf s 3)

/-- Whether that release may be performed (R114, R125, R127): no write waits to become visible, every REPL write has reached its replicas, and
no store of the launch outside the device is to be acknowledged. -/
def endReleased (s : State) (l : Nat) : Bool :=
  s.mca = [] && (s.flights.all fun f => decide (f.prop ≠ .repl)) && s.ops.all (·.launch ≠ l)

/-- The launch is DONE: ENDADD is added to ENDCTR as SIGC does at sys scope with release, the world retires, and the completion is posted
(R54). -/
def launchDone (s : State) (l : Launch) : State :=
  let s := modLaunch s l.id fun v => { v with phase := .ending, final := doneState.toNat, reason := 0 }
  let s := finishEntry s l.tenant.toNat l.seq.toNat doneState 0
  let s := if counterId l.endctr then addCounter s l.endctr.toNat l.endadd (packageStamp s) else s
  post s (.worldRetire l.id)

/-- LAUNCH_END_SWEEP (R54). -/
def execLaunchEndSweep (launch : Nat) (s : State) : Result :=
  match getLaunch s launch with
  | none => idleEvent s
  | some l =>
    if l.phase ≠ .running then idleEvent s
    else
      let totals := (sentTotal s launch, receivedTotal s launch)
      if !launchIdle s launch || totals.1 ≠ totals.2 then
        .next (post (modLaunch s launch fun v => { v with swept := none }) (.launchEndSweep launch))
      else if l.swept = some totals && allComplete l && s.saves.all (·.launch ≠ launch) && endReleased s launch then
        .next (launchDone s l)
      else .next (post (modLaunch s launch fun v => { v with swept := some totals }) (.launchEndSweep launch))

/-! ### Retirement (R259) -/

/-- Whether a command has begun nothing that must end before it is abandoned: it runs no piece, and no chunk. -/
def atRest (s : State) (core : Nat) (m : Cmd) : Bool :=
  match m.state with
  | .queued => true
  | .running => decide (m.kind = .bulk) && !(getDie s (dieOf core)).bulkRunning.contains m.serial
  | .faulted _ => true
  | .suspended => true
  | .moved => false
  | .flushing => false

/-- The engine commands of a world stop and end abandoned (R259). -/
def stopCmds (s : State) (l : Nat) : State :=
  s.cores.foldl (fun s e =>
    (e.2.cmds.filter (·.launch = l)).foldl (fun s m =>
      if atRest s e.1 m then abandonCmd s e.1 m.tag else modCmd s e.1 m.tag fun m => { m with abandoned := true }) s) s

/-- The handle of a world admits no new access. -/
def refuseHandle (s : State) (l : Launch) : State :=
  match getKey s l.keyh with
  | some k =>
    if l.keyh.toNat < 0x800 && k.launch = l.id then { s with keys := mapPut none s.keys l.keyh.toNat (some { k with live := false }) }
    else s
  | none => s

/-- WORLD_RETIRE (R259): its handle is refused, messages to its harts bounce, its engine commands stop. -/
def execWorldRetire (launch : Nat) (s : State) : Result :=
  match getLaunch s launch with
  | none => idleEvent s
  | some l =>
    if l.phase ≠ .ending then idleEvent s
    else .next (post (stopCmds (refuseHandle s l) launch) (.worldRetireScrub launch))

/-- Whether a write of a world has still to reach a view: one stored under its key, one to a vault range that it
allocated, or one to a bank of its harts. -/
def worldWrites (s : State) (l : Launch) : Bool :=
  (decide (l.inst ≠ 0) && (s.flights.any (·.under.inst = l.inst) || s.mca.any (·.under.inst = l.inst))) ||
    ((s.ranges ++ s.withdrawn).any fun r => r.launch = l.id && decide (regionOf r.base = .vault) && writesPending s r.base r.len) ||
    (heldContexts s l.id).any fun h => bankBusy s (coreOf h) (ctxOf h)

/-- Whether something of a world is still under way: a hart, a handler, an operation in flight, an engine or matrix command, a joint
command, a system call. -/
def worldBusy (s : State) (l : Nat) : Bool :=
  s.harts.any (fun e => decide (e.2.tenure = .running) && e.2.launch = l) || s.ops.any (·.launch = l) ||
    s.cores.any (fun e => e.2.cmds.any (·.launch = l) || e.2.matrixQ.any (·.launch = l)) ||
    s.clusters.any (fun e => e.2.gangs.any (·.launch = l)) || s.dies.any fun e => e.2.ring.any (·.launch = l)

/-- One core scrubbed of a world (Table 16.4): slice, queue entries, L1, translations and lookaside entries. -/
def scrubCore (l : Launch) (c : Core) : Core :=
  { c with
    slice := if c.slice.owner = l.id then .reset else c.slice
    queues := mapVals [] (fun _ q => q.filter (·.world ≠ l.id)) c.queues
    posts := c.posts.filter (·.world ≠ l.id)
    l1 := []
    icache := []
    tlb := c.tlb.filter fun x => l.keyh = 0 || decide (x.keyh ≠ l.keyh)
    l2 := c.l2.filter fun x => l.keyh = 0 || decide (x.keyh ≠ l.keyh)
    plb := c.plb.filter fun e =>
      match e with
      | .range o _ => decide (o ≠ l.owner)
      | .right r => decide (r.owner ≠ l.owner)
    sent := mapErase c.sent l.id
    received := mapErase c.received l.id }

/-- The vault ranges that a world allocated are zeroed and freed; its withdrawn ranges are zeroed too, and return (R226, Table 16.4). -/
def scrubVault (s : State) (l : Nat) : State :=
  let mine := s.ranges.filter fun r => r.launch = l && decide (regionOf r.base = .vault)
  let kept := s.withdrawn.filter fun r => r.launch = l && decide (regionOf r.base = .vault)
  let s := kept.foldl (fun s r => zeroKeys s r.base r.len) s
  let s := mine.foldl (fun s r => stripGrants (zeroKeys s r.base r.len) r.base r.len) s
  let s := if mine = [] then s else startShoot s (mine.map fun r => .range r.base r.len) .none
  returnWithdrawn s l

/-- The local sections of a world go from the banks 7 that no context of a hart has (Table 16.4). -/
def unloadLocal (s : State) (l : Launch) : State :=
  if !l.loaded then s
  else
    ((launchCores s l).filter fun g => decide ((getHart s (hartKey g 7)).tenure = .free)).foldl (fun s g => powerDown s g 7) s

/-- The world key is destroyed and the handle returns to the pool. -/
def dropHandle (s : State) (l : Launch) : State :=
  match getKey s l.keyh with
  | some k => if l.keyh.toNat < 0x800 && k.launch = l.id then { s with keys := mapErase s.keys l.keyh.toNat } else s
  | none => s

/-- WORLD_RETIRE_SCRUB (R259): once what was admitted has completed, the items of Table 16.4 are scrubbed and the key is destroyed. -/
def execWorldRetireScrub (launch : Nat) (s : State) : Result :=
  match getLaunch s launch with
  | none => idleEvent s
  | some l =>
    if l.phase ≠ .ending then idleEvent s
    else if worldBusy s launch || worldWrites s l then .next (post s (.worldRetireScrub launch))
    else
      let freed := mapKeys (s.clusters.filter fun e => e.2.workQ.any (·.launch = launch))
      let s := scrubVault s launch
      let held := heldContexts s launch
      let s := unloadLocal (held.foldl (fun s h => endLoan s (coreOf h) (ctxOf h)) s) l
      let s := { s with cores := mapVals .reset (fun _ c => scrubCore l c) s.cores }
      let s :=
        { s with
          clusters := mapVals .reset (fun _ c => { c with workQ := c.workQ.filter (·.launch ≠ launch) }) s.clusters
          dies := mapVals .reset (fun _ d => { d with pool := d.pool.filter (·.launch ≠ launch) }) s.dies }
      let s := modLaunch (dropHandle s l) launch fun v => { v with phase := .retired, nodes := [] }
      -- work-queue slots and contexts have become free
      let s := held.foldl (fun s h => noteEmpty s (clusOf (coreOf h))) s
      .next (freed.foldl (fun s c => post (noteEmpty s c) (.dispatchArbitration c)) s)

end Sys2Proof.Machine
end

