-- ==== Sys2Proof/Machine/Reset.lean ====
section
/-!
DEFINITION. Resets (R28, R277, R291, Table 18.4). A reset takes one step, but a tenant reset and a cold reset that is held: while the device is
off, other resets are absorbed; a tenant reset under way is superseded by every reset but a second one of its tenant. DESIGN CHOICE (log entry
73): a tenant reset that is superseded takes no further step, and the window of its tenant is read again.
-/

namespace Sys2Proof.Machine

/-! ### Resets that meet -/

/-- A tenant whose reset is superseded: what has been done stays done, and its window is read again (R291). -/
def renewTenant (s : State) (t : Nat) : State :=
  let s := modTenant s t fun v => { v with stopped := false }
  pollWindow (if (getTenant s t).completions = [] then s else postOnce s (.completionRecord t)) t

/-- A reset supersedes the tenant resets that are under way, since its scope lies inside none of them (R291, log entry 73). -/
def supersede (s : State) : State :=
  (mapKeys s.tenants).foldl (fun s t =>
    if (getTenant s t).stopped then renewTenant { s with agenda := s.agenda.filter (· ≠ .tenantReset t) } t else s) s

/-! ### Clearing cores -/

/-- Whether an operation belongs to a hart of a core that is cleared. -/
def opCleared (p : Nat → Bool) (o : Op) : Bool := decide (o.hart < remoteBase) && p (coreOf o.hart)

/-- Operations of a list that are not those of cleared harts. -/
def waitingOps (s : State) (p : Nat → Bool) (l : List Nat) : List Nat := l.filter fun id => s.ops.any fun o => o.id = id && !opCleared p o

/-- What is left of a core: operations of other cores that wait for its home, and below cluster level its engine commands. The last tag given
counts as 255 (R95). -/
def clearedCore (s : State) (p : Nat → Bool) (full : Bool) (c : Core) : Core :=
  let kept := { Core.reset with cycleBase := s.cycles, homeQ := waitingOps s p c.homeQ, held := waitingOps s p c.held }
  if full then kept
  else { kept with cmds := c.cmds, posts := c.posts, copyQ := c.copyQ, sent := c.sent, received := c.received }

/-- Serials of the engine commands of some cores. -/
def serialsOf (s : State) (p : Nat → Bool) : List Nat := (s.cores.filter fun e => p e.1).flatMap fun e => e.2.cmds.map (·.serial)

/-- The harts of the cores leave every gathering, rotation and barrier they are in. -/
def leaveAll (s : State) (p : Nat → Bool) : State :=
  s.harts.foldl (fun s e =>
    if p (coreOf e.1) && decide (e.2.tenure = .running) && !isHandler e.1 then leaveWaits (cancelGatherings s e.1 none) e.1 else s) s

/-- Joint commands with a member on the cores stop with DEVICE_ERROR. -/
def stopGangs (s : State) (p : Nat → Bool) : State :=
  (s.clusters.flatMap fun e => e.2.gangs).foldl (fun s g =>
    if g.members.any fun m => p (coreOf m.hart) then stopJoint s g 0x26 0 else s) s

/-- A call that waits for the proxy no longer does: its entry is final and its block free. -/
def leaveProxy (s : State) (v : SvcSlot) : State :=
  match v.proxy with
  | some (j, _, _) => endProxy (journalSet s v.tenant.toNat j abortedState 0) v
  | none => s

/-- The proxied calls of harts of the cores wait no more. -/
def leaveCalls (s : State) (p : Nat → Bool) : State := ((allSlots s).filter fun v => p (coreOf v.hart)).foldl leaveProxy s

/-- A handler that runs on a core that is cleared ends as one that fails: its sender is told (R50, log entry 73). -/
def failHandlers (s : State) (cores : List Nat) : State :=
  cores.foldl (fun s g => if (getHart s (hartKey g 8)).tenure = .running then endHandler s g 3 else s) s

/-- What waits elsewhere on behalf of harts of the cores is dropped, and with `full` the chunks of their engine commands. -/
def forgetHarts (s : State) (p : Nat → Bool) (full : Bool) : State :=
  let gone := fun h => p (coreOf h)
  let lost := if full then serialsOf s p else []
  { s with
    ops := s.ops.filter fun o => !opCleared p o
    mca := s.mca.filter fun w => !(decide (w.hart < noHart) && gone w.hart)
    tensorQ := s.tensorQ.filter fun r =>
      match r with
      | .tdef h _ _ _ _ => !gone h
      | .tver h _ _ _ => !gone h
      | .tkill h _ _ => !gone h
    shootdowns := s.shootdowns.map fun d =>
      match d.next with
      | .hart h _ _ _ _ _ => if gone h then { d with next := .none } else d
      | _ => d
    dies := mapVals .reset (fun _ d =>
      { d with
        ring := d.ring.filter fun v => !gone v.hart
        ringWait := d.ringWait.filter fun h => !gone h
        atsPending := d.atsPending.filter fun r => !p r.core, atsDenied := d.atsDenied.filter fun r => !p r.core
        rightsQ := d.rightsQ.filter fun r => !gone r.hart
        walks := d.walks.filter fun w => !gone w.hart
        bulkRunning := d.bulkRunning.filter fun n => !lost.contains n }) s.dies }

/-- Keys of memory that a reset clears read zero in every view, and writes on their way there change nothing. -/
def clearKeys (s : State) (gone : Nat → Bool) : State :=
  { s with
    views := mapVals [] (fun _ m => mapDrop gone m) s.views
    flights := s.flights.map fun f => if gone f.key then { f with bytes := [] } else f
    mca := s.mca.map fun w => if gone w.key then { w with bytes := [] } else w
    badLines := s.badLines.filter fun l => !gone (l * 64) }

/-- Local SRAM of the cores reads zero (Table 18.4). -/
def clearLocal (s : State) (p : Nat → Bool) : State :=
  clearKeys s fun k => localBase ≤ k && k < localBase + 16384 * 0x20000 && p ((k - localBase) / 0x20000)

/-- Shaten starts again on operating-service cores among those that were cleared (R27, R28). -/
def restartShaten (s : State) (cores : List Nat) : State :=
  if heldInReset s then s
  else
    ((osCores s.firmware.osMask).filter cores.contains).foldl (fun s g =>
      setHart (modCore s g fun c => { c with banks := 1 }) (hartKey g 0) Hart.shaten) s

/-- A home goes on with the operations that waited there for a flip or for their page. -/
def resumeHomes (s : State) (cores : List Nat) : State :=
  cores.foldl (fun s g =>
    (s.ops.filter fun o => (waccKind o).isSome && (getCore s g).homeQ.contains o.id).foldl (fun s _ => post s (.waccHomeExecute g)) s) s

/-- Clear some cores: contexts, SRAM, slices, queue registers, TLBs, lookaside buffers; at cluster level and above their engines too. -/
def clearCores (s : State) (cores : List Nat) (full : Bool) : State :=
  let p := fun g => cores.contains g
  let s := leaveCalls (failHandlers (leaveAll (stopGangs s p) p) cores) p
  let s := { s with harts := mapDrop (fun h => p (coreOf h)) s.harts }
  let s :=
    { s with
      cores := mapVals .reset (fun g c =>
        if p g then c else { c with homeQ := waitingOps s p c.homeQ, held := waitingOps s p c.held }) s.cores }
  let cleared := fun (s : State) => cores.foldl (fun s g => setCore s g (clearedCore s p full (getCore s g))) s
  let s := cleared (forgetHarts s p full)
  restartShaten (resumeHomes (settleBarriers (clearLocal s p)) cores) cores

/-- Cores of a cluster. -/
def coresOfCluster (clus : Nat) : List Nat := (List.range 16).map (clus * 16 + ·)

/-! ### Launches that a reset ends -/

/-- Whether a launch has something on clusters: a hart, a saved hart, a slice, an engine command, a node or record, an operation
in flight homed there, or a range in a vault there (R291). -/
def launchLoses (s : State) (p : Nat → Bool) (l : Nat) : Bool :=
  let onCore := fun g => p (clusOf g)
  s.harts.any (fun e => decide (e.2.tenure = .running) && e.2.launch = l && onCore (coreOf e.1)) ||
    s.saves.any (fun r => r.launch = l && onCore r.core) ||
    s.cores.any (fun e => onCore e.1 && (e.2.slice.owner = l || e.2.cmds.any (·.launch = l))) ||
    s.clusters.any (fun e => p e.1 && (e.2.workQ.any (·.launch = l) || e.2.eventQ.any (·.launch = l) || e.2.posters.any (·.launch = l))) ||
    s.ops.any (fun o => o.launch = l && o.route = 0 && onCore (homeCore o.key)) ||
    s.ranges.any fun r =>
      r.launch = l && decide (regionOf r.base = .vault) &&
        (List.range ((r.len + 0xFFFFFF) / 0x1000000 + 1)).any fun i =>
          r.base + i * 0x1000000 < r.base + r.len + 0x1000000 && p ((r.base - vaultBase) / 0x1000000 + i)

/-- Running launches. -/
def runningLaunches (s : State) : List Nat :=
  (s.launches.filter fun e =>
    match e.2 with
    | some l => decide (l.phase = .running)
    | none => false).map (·.1)

/-- End launches with reason 0x0A (R291). -/
def endByReset (s : State) (ls : List Nat) : State := ls.foldl (fun s l => endLaunch s l failedState 0x0A) s

/-! ### Core, cluster and unit resets -/

/-- CORE_RESET. -/
def execCoreReset (core : Nat) (s : State) : Result :=
  if s.power.off then idleEvent s
  else
    let s := clearCores (supersede s) [core] false
    .next (noteEmpty ((List.range 8).foldl (fun s j => offerContext s core j) s) (clusOf core))

/-- Vaults of clusters read zero. -/
def clearVaults (s : State) (p : Nat → Bool) : State :=
  clearKeys s fun k => vaultBase ≤ k && k < controlBase && p ((k - vaultBase) / 0x1000000)

/-- CLUSTER_RESET: its launches end with reason 0x0A. -/
def execClusterReset (clus : Nat) (s : State) : Result :=
  let p := fun c => c = clus
  if s.power.off then idleEvent s
  else
    let s := supersede s
    let s := endByReset s ((runningLaunches s).filter (launchLoses s p))
    let s := clearVaults (clearCores s (coresOfCluster clus) true) p
    .next (noteEmpty (offerCluster (modCluster s clus fun _ => .reset) clus) clus)

/-- ENGINE_RESET: queued commands fault DEVICE_ERROR; a home operation that runs finishes first, and what waits for the home datapath waits
on (R122). -/
def execEngineReset (core : Nat) (unit : CoreUnit) (s : State) : Result :=
  let s := supersede s
  match unit with
  | .copyEngine =>
    let tags := ((getCore s core).cmds.filter fun m =>
      decide (m.kind = .copy) && (decide (m.state = .queued) || decide (m.state = .running))).map (·.tag)
    .next (tags.foldl (fun s t =>
      match findCmd s core t with
      | some m => faultCmd s core t 0x26 (m.src + BitVec.ofNat 64 m.moved)
      | none => s) s)
  | .slice =>
    let s := stopGangs s (· = core)
    let s := (getCore s core).matrixQ.foldl (fun s c => queueFault s c.hart c.gen (matrixRecord 0x26 c.fromS 0)) s
    .next (modCore s core fun c => { c with matrixQ := [], slice := .reset })
  | .homeDatapath => if handlerBusy s core then .next (post s (.engineReset core .homeDatapath)) else idleEvent s

/-- The engine command of a serial number, and its core. -/
def cmdOfSerial (s : State) (n : Nat) : Option (Nat × Cmd) :=
  s.cores.findSome? fun e => (e.2.cmds.find? (·.serial = n)).map fun m => (e.1, m)

/-- BULK_RESET: the chunk that the engine runs ends at its start, and its command faults DEVICE_ERROR. -/
def execBulkReset (die unit : Nat) (s : State) : Result :=
  match (getDie s die).bulkRunning[unit]? with
  | none => idleEvent s
  | some n =>
    match cmdOfSerial s n with
    | some (core, m) => .next (faultCmd (supersede s) core m.tag 0x26 (m.src + BitVec.ofNat 64 m.moved))
    | none => idleEvent s

/-- WALKER_RESET: the walker's walk starts again on another walker, under the walk store that the die holds now. -/
def execWalkerReset (die unit : Nat) (s : State) : Result :=
  match if unit < walkers then (getDie s die).walks[unit]? else none with
  | none => idleEvent s
  | some w =>
    .next (modDie (supersede s) die fun d => { d with walks := d.walks.eraseIdx unit ++ [{ w with store := s.firmware.walkStore }] })

/-- An operation over a port that is reset gives DEVICE_ERROR: what waits for its data holds that of a failed read (R90). -/
def loseOp (s : State) (o : Op) : State :=
  if isMessage o then sendReply s o.id (.value (BitVec.allOnes 64) true) .zero
  else
    modHart (dropOp s o.id) o.hart fun v =>
      (v.xpend.filter (·.2 = o.id)).foldl (fun v e => markFailed e.1 o.ptr { v with xpend := mapErase v.xpend e.1 }) v

/-- LINK_RESET: the port's requests go, those received and those outstanding. -/
def execLinkReset (port : Nat) (s : State) : Result :=
  let s := supersede s
  let s :=
    { s with
      ports := mapPut .reset s.ports port { LinkPort.reset with up := true }
      linkReqs := s.linkReqs.filter (·.port ≠ port) }
  let out := s.ops.filter fun o => o.route = 1 && o.reply.isNone && Config.portOf (deviceOf o.key) % 16 = port
  .next (out.foldl loseOp s)

/-! ### Die, warm and cold resets -/

/-- An update that has not reached the switch is abandoned (R289). -/
def abandonUpdate (f : Firmware) : Firmware := if f.switched then f else { f with updating := false, quiesced := false }

/-- The memory contents: each location as the view of its home die holds it (R123). -/
def homeCells (s : State) (keep : Nat → Bool) : SMap Byte :=
  s.views.foldl (fun m e => e.2.foldl (fun m c => if homeDie c.1 = e.1 && keep c.1 then mapPut 0 m c.1 c.2 else m) m) []

/-- What each line was written under, as the view of its home die has it. -/
def homeLineKeys (s : State) : SMap LineKey :=
  s.lineKeys.foldl (fun m e => e.2.foldl (fun m c => if homeDie (c.1 * 64) = e.1 then mapPut .plain m c.1 c.2 else m) m) []

/-- The fence counters of a die are cleared and belong to no tenant; their waiters are tested again. -/
def clearCounters (s : State) (die : Nat) : State :=
  let mine := fun i => i / 4096 = die
  let ids := (mapKeys s.counterOwner).filter mine
  let s :=
    { s with
      counters := mapDrop mine s.counters, counterOwner := mapDrop mine s.counterOwner, counterStamp := mapDrop mine s.counterStamp }
  ids.foldl retestCounter s

/-- The view of a die after its reset: the memory contents, with every count that any die has reached. -/
def renewView (s : State) (die : Nat) : State :=
  let s := setView { s with lineKeys := mapPut [] s.lineKeys die (homeLineKeys s) } die (homeCells s fun _ => true)
  let all := [0, 1, 2, 3].foldl (fun t d => t.join (stampOf s d)) Stamp.zero
  { setStamp s die all with
    flights := s.flights.filter (·.dst ≠ die)
    mca := s.mca.filter (·.die ≠ die) }

/-- Clusters of a die. -/
def clustersOf (die : Nat) : List Nat := (List.range 256).map (die * 256 + ·)

/-- DIE_RESET: every launch ends, also those whose harts live on other dies (R291). -/
def execDieReset (die : Nat) (s : State) : Result :=
  if 4 ≤ die || s.power.off then idleEvent s
  else
    let s := supersede s
    let s := endByReset s (runningLaunches s)
    let s := clearCores s ((List.range 4096).map (die * 4096 + ·)) true
    let s := clearVaults s fun c => c / 256 = die
    let s :=
      { s with
        clusters := mapDrop (fun c => c / 256 = die) s.clusters
        dies := mapErase s.dies die
        firmware := abandonUpdate s.firmware }
    let s := if s.firmware.quiesced then s else resumeSlices s
    .next ((clustersOf die).foldl noteEmpty (renewView (clearCounters s die) die))

/-- A launch that a warm reset ends: its entry is final, and nothing of it is left. -/
def lostLaunch (s : State) (l : Nat) : State :=
  match getLaunch s l with
  | none => s
  | some v =>
    let s := if v.phase = .running then finishEntry s v.tenant.toNat v.seq.toNat failedState 0x0A else s
    modLaunch s l fun v =>
      if v.phase = .running then { v with phase := .retired, final := failedState.toNat, reason := 0x0A, nodes := [] }
      else { v with phase := .retired, nodes := [] }

/-- Entries of proxied calls that nothing waits for any more. -/
def abortProxies (s : State) (t : Nat) : State :=
  ((getTenant s t).journal.filter fun e => e.kind = 0x82 && decide (e.state = accepted)).foldl
    (fun s e => journalSet s t e.jseq abortedState 0) (modTenant s t fun v => { v with blocks := [] })

/-- The contexts, cores and events with which the device starts under a firmware: none of them where every core is held in reset (R28). An
update that has passed its switch goes on to its release (R289). -/
def startUp (f : Firmware) (s : State) : State :=
  let held := f.bootState = 3
  { s with
    firmware := f
    harts := if held then [] else shatenHarts f.osMask
    cores := if held then [] else shatenCores f.osMask
    agenda := idleChecks (if held then [] else f.osMask) ++ if f.updating && f.switched then [.handover .release] else [] }

/-- WARM_RESET: configuration, partition layout, tenant table and DRAM stay; the lines of DRAM keep the keys they were stored under. -/
def execWarmReset (s : State) : Result :=
  if s.power.off then idleEvent s
  else
    let s := (mapKeys s.launches).foldl lostLaunch s
    let s := (mapKeys s.tenants).foldl abortProxies s
    let cells := homeCells s fun k => dramBase ≤ k
    let keys := homeLineKeys s
    let s' : State :=
      { State.reset with
        tick := s.tick, serial := s.serial, time := s.time, outer := s.outer
        lineKeys := [0, 1, 2, 3].foldl (fun m d => mapPut [] m d keys) []
        badLines := s.badLines.filter fun l => dramBase ≤ l * 64
        owners := s.owners, handleTenants := s.handleTenants, ptroot := [0, 1, 2, 3].foldl (fun m d => mapPut 0 m d (ptrootOf s 0)) [], launches := s.launches, tenants := s.tenants
        nextKey := s.nextKey, layoutEpoch := s.layoutEpoch, windows := s.windows
        groupTenants := s.groupTenants, isolation := s.isolation, dev := s.dev, grouped := s.grouped, ports := s.ports
        sensors := s.sensors, errors := s.errors, power := s.power, sentOut := s.sentOut }
    let s' := startUp (abandonUpdate s.firmware) s'
    let s' := [0, 1, 2, 3].foldl (fun s d => setView s d cells) s'
    .next ((mapKeys s'.tenants).foldl renewTenant s')

/-- A mask names between 1 and 4 clusters of each die (R27). -/
def maskOk (mask : List Nat) : Bool :=
  mask.all (· < 1024) && [0, 1, 2, 3].all fun d =>
    let n := (mask.filter fun c => c / 256 = d).length
    1 ≤ n && n ≤ 4

/-- The mask of a bank's configuration block, where it passes (R28); a bank that no update has written holds the default block. -/
def bankMask (f : Firmware) (bank : Nat) : Option (List Nat) :=
  match mapGet none f.banks bank with
  | none => some Firmware.reset.osMask
  | some i =>
    if Config.ecdsaVerifies i.config i.configEcdsa && Config.lmsVerifies i.config i.configLms && maskOk i.osMask then some i.osMask
    else none

/-- The operating services and the walk store are loaded from a bank. -/
def loadedFrom (f : Firmware) (bank : Nat) : Firmware :=
  { f with loads := f.loads + 1, walkStore := (mapGet none f.banks bank).map (·.walkStore) }

/-- An update at a cold boot: one that has passed its switch is complete, and its bank is the active one (R288); another is abandoned (R289). -/
def settleUpdate (f : Firmware) : Firmware :=
  if f.switched then
    let bank := 1 - f.active
    let version := ((mapGet none f.banks bank).map (·.version)).getD f.secVersion
    { f with active := bank, secVersion := max f.secVersion version, updating := false, quiesced := false, switched := false }
  else { f with updating := false, quiesced := false }

/-- Boot (R28): the active bank's block, otherwise the other bank's (state 2), otherwise every core held in reset (state 3). DESIGN CHOICE (log
entry 74): after a fallback the active bank's number stays, so that the next image is written
over the bank whose block runs; the spec does not say which bank is then active. -/
def boot (f : Firmware) : Firmware :=
  let f := loadedFrom (settleUpdate f) (settleUpdate f).active
  match bankMask f f.active with
  | some m => { f with bootState := 0, osMask := m }
  | none =>
    match bankMask f (1 - f.active) with
    | some m => { loadedFrom f (1 - f.active) with bootState := 2, osMask := m }
    | none => { f with bootState := 3 }

/-- What a cold reset keeps: the banks, the monotonic store, and the layout epoch, which rises, since the reset clears the layout (R263). -/
def coldState (s : State) : State :=
  { State.reset with
    tick := s.tick, serial := s.serial, outer := s.outer, nextKey := s.nextKey, layoutEpoch := s.layoutEpoch
    firmware := s.firmware, sentOut := s.sentOut }

/-- COLD_RESET: everything is cleared and the device is off (Table 18.5) until the reset is released; then it boots. For how long the reset is
held is free. -/
def execColdReset (s : State) : Result :=
  if !s.power.off then
    let s := coldState { s with layoutEpoch := s.layoutEpoch + 1 }
    .next { s with harts := [], cores := [], agenda := [.coldReset], power := { s.power with off := true } }
  else if Config.freeBool s.tick 22 then .next (post s .coldReset)
  else .next (startUp (boot s.firmware) (coldState s))

/-! ### Tenant reset (R277) -/

/-- The tenant's launches that have not retired. -/
def tenantLaunches (s : State) (t : Nat) : List Nat :=
  (s.launches.filter fun e =>
    match e.2 with
    | some l => l.tenant.toNat = t && decide (l.phase ≠ .retired)
    | none => false).map (·.1)

/-- A system call that the reset ends; a page that it is moving moves on to its end. -/
def abortCall (s : State) (v : SvcSlot) : State := if v.status.isSome then s else answer (leaveProxy s v) v stAborted

/-- Steps 1 to 4: the window stops, commands not started are ABORTED, launches and system calls end, proxies close, shared keys go. -/
def tenantStop (s : State) (t : Nat) : State :=
  let held := (getTenant s t).held
  let s := endSlices s t
  let s := modTenant s t fun v => { v with stopped := true, held := [] }
  let s := held.foldl (fun s c => finishEntry s t c.jseq abortedState 0) s
  let s := (tenantLaunches s t).foldl (fun s l => endLaunch s l abortedState 0) s
  let s := ((allSlots s).filter fun v => v.tenant.toNat = t).foldl abortCall s
  let s := (getTenant s t).handles.foldl (closeHandle t) s
  { s with
    keys := s.keys.filter fun e =>
      match e.2 with
      | some k => !(0x800 ≤ e.1 && k.tenant.toNat = t)
      | none => false }

/-- Steps 5 and 6: counters, debt and page-request state, the window's counts, and the TENANT_RESET entry. -/
def tenantRestart (s : State) (t : Nat) : State :=
  let ids := (s.counterOwner.filter fun e => e.2 = t + 1).map (·.1)
  let s := ids.foldl (fun s i => setCounter s i 0) s
  let mine := fun (k : Nat) => k % 16 = t
  let s := { s with debts := mapDrop mine s.debts }
  let s := modTenant s t fun v => { v with prFailed := false, consumed := 0, cprod := 0, completions := [], running := [], stopped := false }
  let s := setControl (setControl (setControl s t 0x00 0) t 0x08 0) t 0x10 0
  let s := (journalAdd s t 0 0x81 doneState 0 0 (leBytes 32 0)).2
  pollWindow (sendOut s (.msix t 1)) t

/-- TENANT_RESET (R277): it ends once every world of the tenant has retired, every call has returned and every closed handle stands in the
journal. One that arrives while it is in progress is absorbed (R291). -/
def execTenantReset (tenant : Nat) (s : State) : Result :=
  if 16 ≤ tenant || s.power.off then idleEvent s
  else if !(getTenant s tenant).stopped then .next (postOnce (tenantStop (raiseExternal (supersede s)) tenant) (.tenantReset tenant))
  else
    let s := flushClosed s tenant
    if tenantLaunches s tenant ≠ [] || (allSlots s).any (fun v => v.tenant.toNat = tenant) || (getTenant s tenant).closed ≠ [] ||
        !journalFree s tenant then .next (postOnce s (.tenantReset tenant))
    else .next (tenantRestart { s with agenda := s.agenda.filter (· ≠ .tenantReset tenant) } tenant)

end Sys2Proof.Machine
end

