-- ==== Sys2Proof/Machine/Spdm.lean ====
section
/-!
DEFINITION. The security engine: attestation (R262, Table 16.5) and key release (R264, Tables 16.6 and 16.7).
-/

namespace Sys2Proof.Machine

/-! ### Answers -/

/-- A request enters the transcript under its code. -/
def hear (s : State) (code : Byte) (body : List Byte) : State := { s with spdmLog := s.spdmLog ++ code :: body }

def reply (s : State) (r : SpdmReply) : State := sendOut s (.spdm r)

/-- An answer enters the transcript as well. -/
def plainReply (s : State) (body : List Byte) : State := reply { s with spdmLog := s.spdmLog ++ body } (.plain body)

/-- What an answer holds where the spec names only its request. -/
def openBody (s : State) (code : Nat) : List Byte := Config.spdmBody code s.tick

/-- A signed answer: an ECDSA P-384 signature over the transcript hash, with the answer in it, and a post-quantum signature over the same hash
(R262). -/
def signedReply (s : State) (body : List Byte) : State :=
  let s := { s with spdmLog := s.spdmLog ++ body }
  let h := Crypto.digest s.spdmLog
  reply { s with spdmSigned := some h } (.signed body (Config.ecdsaSignature h) (Config.lmsSignature h))

/-- Whether the algorithms have been agreed, so that evidence may be asked for. -/
def negotiated (p : SpdmPhase) : Bool :=
  match p with
  | .negotiated | .exchanged _ | .secure _ => true
  | .none | .versioned | .capable => false

/-! ### Requests (R262) -/

/-- GET_VERSION: a new exchange begins, with a new transcript; the version is 1.3. -/
def execGetVersion (s : State) : Result := .next (plainReply (hear { s with spdm := .versioned, spdmLog := [] } 0x84 []) [0x13])

/-- GET_CAPABILITIES. -/
def execGetCapabilities (s : State) : Result :=
  match s.spdm with
  | .versioned => .next (plainReply (hear { s with spdm := .capable } 0xE1 []) (openBody s 0xE1))
  | _ => .next (reply s .error)

/-- NEGOTIATE_ALGORITHMS: ECDSA P-384 and SHA-384 are the only ones offered. -/
def execNegotiateAlgorithms (asym hash : Bool) (s : State) : Result :=
  match s.spdm with
  | .capable => if asym && hash then .next (plainReply (hear { s with spdm := .negotiated } 0xE3 []) (openBody s 0xE3)) else .next (reply s .error)
  | _ => .next (reply s .error)

/-- GET_DIGESTS: the digest of the certificate chain. -/
def execGetDigests (s : State) : Result :=
  if negotiated s.spdm then .next (plainReply (hear s 0x81 []) (leBytes 48 (Crypto.digest Config.certificate).toNat))
  else .next (reply s .error)

/-- GET_CERTIFICATE: a part of the chain. -/
def execGetCertificate (offset len : Nat) (s : State) : Result :=
  if negotiated s.spdm then .next (plainReply (hear s 0x82 []) ((Config.certificate.drop offset).take len)) else .next (reply s .error)

/-- CHALLENGE: signed. -/
def execChallenge (nonce : BitVec 256) (s : State) : Result :=
  if negotiated s.spdm then .next (signedReply (hear s 0x83 (leBytes 32 nonce.toNat)) (openBody s 0x83)) else .next (reply s .error)

/-- Digest of the 16 KiB of a walk store: what its bytes leave of them is zero. -/
def storeDigest (b : List Byte) : BitVec 384 := Crypto.digest ((b ++ List.replicate (0x4000 - b.length) 0).take 0x4000)

/-- Digest of a part of a bank: 0 the image, 1 the walk store, 2 the configuration block. -/
def bankDigest (s : State) (bank part : Nat) : BitVec 384 :=
  match bankOf s bank with
  | none => Config.factoryDigest bank part
  | some i => if part = 0 then i.digest else if part = 1 then storeDigest i.walkStore else i.config

def digestBytes (d : BitVec 384) : List Byte := leBytes 48 d.toNat

/-- The partition layout as bytes: the logical-device partitions, the tenant table and the isolation table (R263). DESIGN CHOICE (log entry 72):
the spec names what the layout comprises and gives it no byte order. -/
def layoutBytes (s : State) : List Byte :=
  (List.range 16).flatMap (fun t =>
    let v := getTenant s t
    leBytes 8 v.partBase ++ leBytes 8 v.partSize ++ leBytes 8 v.ldbase.toNat ++ leBytes 1 v.weight.toNat ++ leBytes 4 v.slice.toNat ++
      leBytes 4 v.deadline.toNat) ++
    s.isolation.flatMap fun e =>
      match e.2 with
      | none => []
      | some c =>
        leBytes 2 e.1 ++ leBytes 8 c.spid ++ leBytes 8 c.base ++ leBytes 8 c.size ++
          leBytes 1 ((if c.read then 1 else 0) + if c.write then 2 else 0)

/-- A measurement block (Table 16.5); none where the index or the launch named does not exist. -/
def measurement (s : State) (index : BitVec 8) (tenant jseq : Nat) : Option (List Byte) :=
  match index.toNat with
  | 0x01 => some (digestBytes (bankDigest s s.firmware.active 0))
  | 0x02 => some (digestBytes (bankDigest s (stagedBank s) 0))
  | 0x03 => some (digestBytes ((s.firmware.walkStore.map storeDigest).getD (Config.factoryDigest s.firmware.active 1)))
  | 0x04 => some (digestBytes (bankDigest s s.firmware.active 2))
  | 0x05 => some (leBytes 8 s.layoutEpoch ++ digestBytes (Crypto.digest (layoutBytes s)))
  | 0x10 =>
    (findLaunch s tenant (BitVec.ofNat 64 jseq)).map fun l => leBytes 8 l.seq.toNat ++ digestBytes l.measure ++ leBytes 2 l.keyh.toNat
  | 0xFE => s.spdmSigned.map Config.lmsSignature
  | _ => none

/-- GET_MEASUREMENTS: signed. Block 0xFE is the LMS signature of the last signed answer. -/
def execGetMeasurements (index : BitVec 8) (tenant : Nat) (jseq : Nat) (s : State) : Result :=
  if negotiated s.spdm then
    let s := hear s 0xE0 (index :: leBytes 1 tenant ++ leBytes 8 jseq)
    match measurement s index tenant jseq with
    | some b => .next (signedReply s b)
    | none => .next (reply s .error)
  else .next (reply s .error)

/-- KEY_EXCHANGE: signed; the session waits for FINISH. -/
def execKeyExchange (exch : BitVec 768) (s : State) : Result :=
  if negotiated s.spdm then
    .next (signedReply (hear { s with spdm := .exchanged (Config.sessionKey exch s.tick) } 0xE4 (leBytes 96 exch.toNat)) (openBody s 0xE4))
  else .next (reply s .error)

/-- FINISH: the session is secure where the verify data fit its key. -/
def execFinish (verify : BitVec 384) (s : State) : Result :=
  match s.spdm with
  | .exchanged k =>
    if verify = Config.finishTag k then .next (plainReply (hear { s with spdm := .secure k } 0xE5 (digestBytes verify)) (openBody s 0xE5))
    else .next (reply s .error)
  | _ => .next (reply s .error)

/-! ### Key release (R264) -/

def keyReply (s : State) (r : KeyReply) : State := sendOut s (.keyRelease r)

/-- Whether a handle may take a key for a tenant: a shared handle that holds none and belongs to no other tenant. -/
def handleOpen (s : State) (k : BitVec 16) (tenant : Nat) : Bool :=
  let owner := mapGet 0 s.handleTenants k.toNat
  0x800 ≤ k.toNat && k.toNat < 0xFFF && (getKey s (k.setWidth 12)).isNone && (owner = 0 || owner = tenant + 1)

/-- Key instance of released material under a handle: the same material under the same handle is the same key (R248, R251). -/
def releasedInst (handle : BitVec 16) (material : BitVec 256) : Nat := 2 ^ 64 + handle.toNat * 2 ^ 256 + material.toNat

/-- The fields of a request (Table 16.6); bytes that it does not have count as zero. -/
def parseKeyRequest (b : List Byte) : KeyRequest :=
  let n := numAt b 2 2
  ⟨BitVec.ofNat 16 (numAt b 0 2), BitVec.ofNat 16 n, leWord (slice b 4 8), BitVec.ofNat 320 (numAt b 12 40),
    (List.range (min n 16)).map fun i => BitVec.ofNat 384 (numAt b (52 + 48 * i) 48)⟩

/-- The material that a request's wrapping holds, under the session key (AES-256-KW); none where the unwrapping fails. -/
def unwrapMaterial (key : BitVec 256) (wrapped : BitVec 320) : Option (BitVec 256) :=
  (Crypto.unwrap (Crypto.keyBytes key) (Crypto.toNats (leBytes 40 wrapped.toNat))).map fun k =>
    BitVec.ofNat 256 (leNat (Crypto.ofNats k))

/-- KEY_RELEASE (R264): requests and layout changes are served in arrival order, each against the epoch it finds. -/
def execKeyRelease (bytes : List Byte) (s : State) : Result :=
  let req := parseKeyRequest bytes
  match s.spdm with
  | .secure k =>
    let tenant := Config.sessionTenant k % 16
    if req.epoch.toNat ≠ s.layoutEpoch then .next (keyReply s .layoutStale)
    else if !handleOpen s req.handle tenant then .next (keyReply s .handleBusy)
    else
      match if 16 < req.count.toNat then none else unwrapMaterial k req.wrapped with
      | none => .next (keyReply s .policyInvalid)
      | some material =>
        let v : KeyState :=
          ⟨BitVec.ofNat 4 tenant, releasedInst req.handle material, true, 0, req.measurements⟩
        .next (keyReply { s with keys := mapPut none s.keys req.handle.toNat (some v) } .success)
  | _ => .next (keyReply s .noSession)

end Sys2Proof.Machine
end

