-- ==== Sys2Proof/Machine/Sync.lean ====
section
/-!
DEFINITION. Fence counters (R69 to R71, R391, R466), the barrier (R339), the ring rotation (R103, R346) and GANG (R178, R353).
-/

namespace Sys2Proof.Machine

/-! ### SIGC and WAITC -/

/-- Whether x[a] names a counter on another die under a scope below pkg (R71). DESIGN CHOICE (log entry 69): bits [13:12] are read whatever
bits [63:14] hold, so that this trap goes before the one for those bits; the spec does not order the two. -/
def counterTooFar (s : State) (a : Word) (sc : Scope) : Bool :=
  decide (field a.toNat 12 2 ≠ dieOfHart s.cur) && !scopeAtLeast sc .pkg

/-- Whether x[a] names a counter that the hart's tenant owns (R71). -/
def counterMine (s : State) (h : Hart) (a : Word) : Bool :=
  decide (a.toNat < 0x4000) && ownsCounter s (a.setWidth 16) h.sr.tenant

/-- SIGC (R70): the release, then the add, which re-tests the waiters. -/
def execSigc (d a b : Reg) (sc : Scope) (s : State) : Result :=
  let h := me s
  let id := readX h a
  if !bindsScope s h sc || counterTooFar s id sc then illegal s (.sigc d a b sc)
  else if !counterMine s h id then trapR s ⟨0x06, id, 0⟩
  else
    afterRelease s sc
      (let old := counterValue s id.toNat
       done4With (addCounter s id.toNat (readX h b) (stampOf s (dieOfHart s.cur))) d old)

/-- The value of a counter that met a WAITC's target, and the writes released before it: the first that did while it waited, otherwise the value
that the counter has (R70). -/
def reached (s : State) (h : Hart) (id : Nat) (target : Word) : Option (Word × Stamp) :=
  let now := if target.toNat ≤ (counterValue s id).toNat then some (counterValue s id, mapGet .zero s.counterStamp id) else none
  match h.met with
  | some (.counter i v t) => if i = id then some (v, t) else now
  | _ => now

/-- WAITC (R70): it waits for the target and for the writes that the releases before it cover (R118). -/
def execWaitc (d a b : Reg) (sc : Scope) (s : State) : Result :=
  let h := me s
  let id := readX h a
  if isHandler s.cur || !bindsScope s h sc || counterTooFar s id sc then illegal s (.waitc d a b sc)
  else if !counterMine s h id then trapR s ⟨0x06, id, 0⟩
  else
    match reached s h id.toNat (readX h b) with
    | some (v, t) =>
      if t.le (stampOf s (dieOfHart s.cur)) then done4With (acquireAt s (coreOf s.cur) sc) d v
      else waitFor (modMe s fun h => { h with met := some (.counter id.toNat v t) }) (.counter id.toNat (readX h b))
    | none => waitFor s (.counter id.toNat (readX h b))

/-! ### BAR -/

/-- The hart joins the current episode of the barrier of its node in its instance of a scope. -/
def joinBarrier (s : State) (sc : Scope) : State :=
  let h := me s
  let inst := instanceOf (coreOf s.cur) sc
  let node := h.sr.node.toNat
  let mine := fun b : Barrier => b.launch = h.launch && b.node = node && decide (b.scope = sc) && b.inst = inst
  let st := stampOf s (dieOfHart s.cur)
  if s.barriers.any mine then
    { s with
      barriers := s.barriers.map fun b =>
        if mine b then { b with arrived := b.arrived ++ [s.cur], stamp := b.stamp.join st } else b }
  else { s with barriers := s.barriers ++ [⟨h.launch, node, sc, inst, [s.cur], st⟩] }

/-- BAR (R339). -/
def execBar (sc : Scope) (s : State) : Result :=
  if isHandler s.cur || decide (sc = .hart) || !bindsScope s (me s) sc then illegal s (.bar sc)
  else
    afterRelease s sc
      (.next (settleBarriers (joinBarrier (modMe s fun h => { h with wait := some .barrier }) sc)))

/-! ### CROT -/

/-- The core a tile moves to (R103). -/
def ringNext (s : State) (core : Nat) : Nat :=
  if (ringRow s core).isSome then core / 8 * 8 + (core % 8 + 1) % 8 else core / 16 * 16 + (core % 16 + 1) % 16

/-- Move every member's tile to the next core's offset.
DESIGN CHOICE (log 79): a line of a tile with an uncorrectable error moves as the bytes it holds. -/
def rotate (s : State) (ms : List (Nat × Word × Word)) : State :=
  let tiles := ms.map fun m => (m, rawBytes s (dieOfHart m.1) m.1 (localOf (coreOf m.1) + m.2.1.toNat) m.2.2.toNat)
  tiles.foldl (fun s t =>
    match ms.find? fun m => coreOf m.1 = ringNext s (coreOf t.1.1) with
    | some m => performWrite s (dieOfHart m.1) m.1 (localOf (coreOf m.1) + m.2.1.toNat) t.2 .na false
    | none => s) s

/-- End a round: the tiles move and every member goes on, or every member traps (R103). -/
def endRound (s : State) (ms : List (Nat × Word × Word)) : State :=
  let clus :=
    match ms with
    | m :: _ => clusOf (coreOf m.1)
    | [] => 0
  let s := modCluster s clus fun c => { c with rings := c.rings.filter fun e => !ms.any (·.1 = e.1) }
  let len :=
    match ms with
    | m :: _ => m.2.2
    | [] => 0
  if ms.all fun m => decide (m.2.2 = len) then
    ms.foldl (fun s m => modHart (acquireAt s (coreOf m.1) .clus) m.1 (retireHart 4)) (rotate s ms)
  else ms.foldl (fun s m => takeTrap s m.1 ⟨0x0F, 0, 0⟩) s

/-- Complete the round of a hart's ring if it has all its members. -/
def settleRound (s : State) (h : Nat) : State :=
  let ms := ringMembers s h
  if ms.length = (if (ringRow s (coreOf h)).isSome then 8 else 16) then endRound s ms else s

/-- Complete the round of a hart's ring, and the next ones that second contexts have filled meanwhile. -/
def settleRing (s : State) (h : Nat) : State :=
  let s' := settleRound s h
  (getCluster s' (clusOf (coreOf h))).rings.foldl (fun s e => settleRound s e.1) s'

/-- CROT (R346). -/
def execCrot (a b : Reg) (s : State) : Result :=
  let h := me s
  let off := readX h a
  let len := readX h b
  if isHandler s.cur || !bindsScope s h .clus then illegal s (.crot a b)
  else if off.toNat % 64 ≠ 0 || len.toNat % 64 ≠ 0 || len.toNat < 64 || 16384 < len.toNat then trapR s ⟨0x04, off, 0⟩
  else if 0x20000 < off.toNat + len.toNat then trapR s ⟨0x06, off, 0⟩
  else
    afterRelease s .clus
      (let s := modMe s fun h => { h with wait := some .ring }
       let s := modCluster s (clusOf (coreOf s.cur)) fun c => { c with rings := c.rings ++ [(s.cur, off, len)] }
       .next (settleRing s s.cur))

/-! ### GANG -/

/-- GANG (R178): the head of a unit; the joint instruction after it arrives at the gathering. -/
def execGang (n : GangSize) (s : State) : Result :=
  if isHandler s.cur || !bindsScope s (me s) .clus then illegal s (.gang n)
  else .next (modMe s fun h => { h with pc := h.pc + 4, unit := some (.gang h.pc n), wait := none })

end Sys2Proof.Machine
end

