-- ==== Sys2Proof/Machine/TensorTable.lean ====
section
/-!
DEFINITION. The tensor table: TDEF (R398, R399), TVER (R405) and TKILL (R403), which it serves one at a time (R400).
-/

namespace Sys2Proof.Machine

/-! ### Issue -/

/-- The operation travels to the table; the hart waits until it completes. -/
def askTable (s : State) (r : TensorReq) : Result :=
  waitFor (post { s with tensorQ := s.tensorQ ++ [r] } .tensorTableOperation) .tensor

/-- TDEF (R398): the image is read at issue. -/
def execTdef (d a : Reg) (s : State) : Result :=
  let p := readX (me s) a
  if isHandler s.cur then illegal s (.tdef d a)
  else
    withAccess s p (.read 64) fun s t => withServed s [t] fun s =>
      match loadBytes s s.cur t 64 with
      | (s, none) => trapR s ⟨0x10, p, 0⟩
      | (s, some bs) => askTable s (.tdef s.cur (me s).gen d bs p)

/-- TVER (R405). -/
def execTver (d a : Reg) (s : State) : Result :=
  if isHandler s.cur then illegal s (.tver d a) else askTable s (.tver s.cur (me s).gen d (readX (me s) a))

/-- TKILL (R403). -/
def execTkill (a : Reg) (s : State) : Result :=
  if isHandler s.cur then illegal s (.tkill a) else askTable s (.tkill s.cur (me s).gen (readX (me s) a))

/-! ### Record images -/

/-- Bits of an element of a plain format, four to a nibble (R152). -/
def plainBits : Nat → Option Nat
  | 0x00 => some 32
  | 0x01 => some 16
  | 0x02 => some 16
  | 0x03 => some 64
  | 0x10 => some 8
  | 0x11 => some 8
  | 0x12 => some 4
  | 0x30 => some 8
  | 0x31 => some 32
  | _ => none

/-- A format code of R152. -/
def formatOk (f : Nat) : Bool := (plainBits f).isSome || f = 0x40 || (blockOf f).isSome

/-- Bytes of a row of `n` elements (R172). -/
def rowSize (f n : Nat) : Nat :=
  match blockOf f, plainBits f with
  | some b, _ => n / 32 * blockBytes b
  | none, some w => (n * w + 7) / 8
  | none, none => (n + 4) / 5

/-- A record from its image (Table 10.2). -/
def parseTensor (b : List Byte) (tenant : BitVec 4) (version : BitVec 32) : Tensor :=
  { base := leWord (slice b 0 8), format := BitVec.ofNat 8 (numAt b 8 1), flags := BitVec.ofNat 8 (numAt b 9 1)
    scaleb := BitVec.ofNat 8 (numAt b 10 1), tenant := tenant, keyh := BitVec.ofNat 12 (numAt b 14 2), dim0 := numAt b 16 4
    dim1 := numAt b 20 4, stride := numAt b 24 8, version := version, hseed := leWord (slice b 40 8) }

/-- Check 3 of R399. -/
def imageForm (b : List Byte) : Bool :=
  formatOk (numAt b 8 1) && numAt b 9 1 % 2 = 1 && numAt b 9 1 < 16 && numAt b 11 1 = 0 && numAt b 13 1 = 0 && numAt b 14 2 < 0x1000 &&
    numAt b 36 4 = 0 && numAt b 48 16 = 0

/-- Check 4. -/
def imageShape (t : Tensor) : Bool :=
  dimOk t.dim0 && dimOk t.dim1 && rowSize t.format.toNat t.dim0 ≤ t.stride && t.base.toNat % 64 = 0 &&
    (!((blockOf t.format.toNat).isSome || t.hadamard) || t.dim0 % 32 = 0)

/-- A shared handle (Table 16.1). -/
def isShared (keyh : BitVec 12) : Bool := 0x800 ≤ keyh.toNat && decide (keyh.toNat ≤ 0xFFE)

/-- Check 5 (R257). -/
def imageSeal (t : Tensor) : Bool := (!t.isSealed || (t.encrypted && isShared t.keyh)) && (!t.encrypted || t.keyh ≠ 0)

/-- Whether every line of a stretch is admitted to an owner under a tag by an entry holding R or M (check 7). -/
def readableLines (s : State) (own : BitVec 16) (tag : BitVec 8) (lo n : Nat) : Bool :=
  let l := ((rightsOf s own).filter fun e => decide (e.tag = tag) && decide (e.rights &&& (rightR ||| rightM) ≠ 0)).map
    fun e => (e.base, e.base + e.len * 64)
  coveredFrom (l.length + 1) l (lo / 64 * 64) (lo + n)

/-- Whether every page of a stretch is one of the record's tensor pages (check 8): `f` bounds the pages. -/
def pagesMatch (s : State) (die : Nat) (t : Tensor) : Nat → Nat → Nat → Bool
  | 0, va, hi => hi ≤ va
  | f + 1, va, hi =>
    if hi ≤ va then true
    else
      match regionOf va, walk s .read die va with
      | .translated, .leaf l =>
        l.tcipher && decide (l.keyh = t.keyh) && l.isSealed = t.isSealed && pagesMatch s die t f (l.base + l.size) hi
      | _, _ => false

/-- Check 9 (R254). -/
def padOverlap (s : State) (t : Tensor) : Bool :=
  s.tensors.any fun e =>
    match e.2 with
    | some r => r.valid && r.encrypted && overlap r.start r.extent t.start t.extent
    | none => false

/-- The lowest free TID from `t` up, of the next `f`. -/
def freeTid (s : State) : Nat → Nat → Option Nat
  | 0, _ => none
  | f + 1, t =>
    if !((getTensor s t).map Tensor.valid).getD false && !s.tidWithdrawn.contains t then some t else freeTid s f (t + 1)

/-- The checks of TDEF at the table, in the order of R399. -/
def tdefCheck (s : State) (h : Hart) (die : Nat) (a : Word) (b : List Byte) : Except Trap Nat :=
  let t := parseTensor b h.sr.tenant 0
  if !imageForm b || !imageShape t || !imageSeal t then .error ⟨0x0B, a, 0⟩
  else if !keyBelongs s h.sr.tenant h.sr.keyh t.keyh then .error ⟨0x06, t.base, 8⟩
  else
    match rangeAt s t.start with
    | none => .error ⟨0x06, t.base, 3⟩
    | some rg =>
      if tagOf t.base ≠ rg.tag then .error ⟨0x07, t.base, 0⟩
      else if !readableLines s h.sr.own rg.tag t.start t.extent then .error ⟨0x06, t.base, 3⟩
      else if t.encrypted && (!pagesMatch s die t (t.extent / 0x10000 + 2) t.start (t.start + t.extent) || padOverlap s t) then
        .error ⟨0x0B, t.base, 0⟩
      else
        -- one more than are listed holds a free one
        match freeTid s (min 65535 (s.tensors.length + s.tidWithdrawn.length + 1)) 1 with
        | none => .error ⟨0x0B, 0, 0⟩
        | some tid => .ok tid

/-- The version a new record of a TID takes (R256). -/
def firstVersion (s : State) (tid : Nat) : BitVec 32 :=
  match mapGet none s.keptVersion tid with
  | some v => v + 1
  | none => 0

def setTensor (s : State) (tid : Nat) (t : Tensor) : State := { s with tensors := mapPut none s.tensors tid (some t) }

/-! ### TVER and TKILL at the table -/

/-- Whether an owner holds W over the line at a tensor's BASE (R403, R405). -/
def baseWritable (s : State) (own : BitVec 16) (t : Tensor) : Bool :=
  (rangeAt s t.start).any fun rg =>
    decide (tagOf t.base = rg.tag) && ownerCovers s own rg.tag rightW (t.start / 64 * 64) 64

/-- The checks that TVER and TKILL share. -/
def tidCheck (s : State) (h : Hart) (a : Word) : Except Trap (Nat × Tensor) :=
  if 0x10000 ≤ a.toNat then .error ⟨0x0B, a, 0⟩
  else
    match tidFor s h.sr.tenant (a.setWidth 16) with
    | none => .error ⟨0x0B, a, 0⟩
    | some t => if baseWritable s h.sr.own t then .ok (a.toNat, t) else .error ⟨0x06, t.base, 3⟩

/-- A TID that no TDEF takes any more (R256). -/
def withdrawTid (s : State) (tid : Nat) : State := { s with tidWithdrawn := tid :: s.tidWithdrawn.filter (· ≠ tid) }

/-- Complete once every access under the old record has completed (R255, R403). -/
def settleTensor (s : State) (t : Tensor) (h : Nat) (gen : BitVec 8) (d : Reg) (v : Word) : State :=
  startShoot s [.tensor t.start t.extent] (.hart h gen .tensor d v none)

/-- The length of the stretch that check 7 judges, DIM1 × STRIDE of the image that was read, for the record of a refusal (Table 14.7).
DESIGN CHOICE (log entry 83): it stands also for a refusal by check 6, for which the table gives no length. -/
def noteExtent (s : State) (h : Nat) (b : List Byte) : State :=
  modHart s h fun v => { v with remain := BitVec.ofNat 64 (numAt b 20 4 * numAt b 24 8) }

/-- One operation (R398, R403, R405). -/
def tableStep (s : State) (r : TensorReq) : State :=
  match r with
  | .tdef h gen d b a =>
    if (getHart s h).gen ≠ gen then s
    else
      match tdefCheck s (getHart s h) (dieOfHart h) a b with
      | .error t => takeTrap (noteExtent s h b) h t
      | .ok tid =>
        modHart (setTensor s tid (parseTensor b (getHart s h).sr.tenant (firstVersion s tid))) h fun v =>
          endReplyWait (writeX v d (BitVec.ofNat 64 tid))
  | .tver h gen d a =>
    if (getHart s h).gen ≠ gen then s
    else
      match tidCheck s (getHart s h) a with
      | .error t => takeTrap s h t
      | .ok (tid, t) =>
        if t.version = BitVec.allOnes 32 then takeTrap (withdrawTid s tid) h ⟨0x0B, a, 0⟩
        else settleTensor (setTensor s tid { t with version := t.version + 1 }) t h gen d ((t.version + 1).setWidth 64)
  | .tkill h gen a =>
    if (getHart s h).gen ≠ gen then s
    else
      match tidCheck s (getHart s h) a with
      | .error t => takeTrap s h t
      | .ok (tid, t) =>
        let s := setTensor s tid { t with flags := t.flags &&& 0xFE }
        let s := { s with keptVersion := mapPut none s.keptVersion tid (some t.version) }
        settleTensor (if t.version = BitVec.allOnes 32 then withdrawTid s tid else s) t h gen 0 0

/-- Whether a table operation still waits for accesses. -/
def tableBusy (s : State) : Bool :=
  s.shootdowns.any fun d => d.what.any fun w =>
    match w with
    | .tensor _ _ => true
    | _ => false

/-- TENSOR_TABLE_OPERATION (R400): the oldest operation is performed once the one before it has completed. -/
def execTensorTableOperation (s : State) : Result :=
  match s.tensorQ with
  | [] => idleEvent s
  | r :: rest => if tableBusy s then .next (post s .tensorTableOperation) else .next (tableStep { s with tensorQ := rest } r)

end Sys2Proof.Machine
end

