-- ==== Sys2Proof/Machine/Vector.lean ====
section
/-!
DEFINITION. What every register-only vector instruction shares (R407, R408): lanes under a mask, the last-use marks, the flags, and the
16-bit forms as V-format fields (R313).
-/

namespace Sys2Proof.Machine

/-! ### Element types (Table 8.1) -/

/-- The float type of an element code. -/
def fltFmt (et : Nat) : Fmt :=
  match et with
  | 0 => fp32
  | 1 => bf16
  | 2 => fp16
  | 3 => fp64
  | 4 => fmtE4M3
  | 5 => fmtE5M2
  | _ => fmtE2M1

/-- Lanes of a width in a register. -/
def laneCount (w : Nat) : Nat := 512 / w

/-- Width and lane count of an integer code. -/
def intLanes (f : VFmt) : Nat := laneCount (intWidth f.et)

/-! ### Completion -/

/-- The sources with a last-use mark are dead (R32). -/
def killMarked (f : VFmt) (h : Hart) : Hart := (vKills f).foldl killV h

/-- The instruction of `len` bytes completes with vd ← v and its flags in VSTAT: marks kill before the write (R32). -/
def vFinish (f : VFmt) (len : Nat) (v : VWord) (fl : FpFlags) (s : State) : Result :=
  .next (modMe s fun h => retireHart len (writeV (killMarked f (mergeVstat fl h)) f.vd v))

/-- The instruction completes with a scalar result in x[vd]. -/
def vFinishX (f : VFmt) (v : Word) (s : State) : Result :=
  .next (modMe s fun h => retireHart 4 (writeX (killMarked f h) f.vd v))

/-! ### Lanes computed from dead registers (R408) -/

/-- The flags that a register-only vector instruction can raise (Table 23.1, Table 24.3). -/
def raises : Instr → FpFlags
  | .vfadd _ | .vfsub _ | .vfmul _ | .vfma _ | .vfnma _ | .vcvt _ | .vfredsum _ | .vhad _ | .vfadd16 _ _ _ | .vfsub16 _ _ _
  | .vfmul16 _ _ _ => flagNV ||| flagOF ||| flagUF ||| flagNX
  | .vfdiv _ => flagNV ||| flagDZ ||| flagOF ||| flagUF ||| flagNX
  | .vcos _ | .vfsqrt _ => flagNV ||| flagNX
  | .vsin _ | .vqnt _ => flagNV ||| flagUF ||| flagNX
  | .vcvti _ | .vcvtiu _ => flagNV ||| flagOF ||| flagNX
  | .vdeq _ | .vexp2 _ => flagOF ||| flagUF ||| flagNX
  | .vfcmplt _ | .vfcmple _ => flagNV
  | .vlog2 _ | .vrsq _ => flagNV ||| flagDZ ||| flagNX
  | .vrcp _ => flagDZ ||| flagOF ||| flagUF ||| flagNX
  | .vpack3 _ | .vtdot _ | .vunpk3 _ => flagIV
  | .vscan f => if f.vb.getLsbD 0 then flagNV ||| flagOF ||| flagUF ||| flagNX else 0
  | _ => 0

def isDead (h : Hart) (r : VReg) : Bool := !h.live.getLsbD r.toNat

/-- Whether the mask of an instruction is a dead register. -/
def deadMask (h : Hart) (f : VFmt) : Bool := decide (f.mask ≠ 0) && isDead h (maskReg f.mask)

/-- Whether a lane is computed from a dead register: the mask, or one of those that the lane's operation reads. -/
def openLane (h : Hart) (f : VFmt) (regs : List VReg) : Bool := deadMask h f || regs.any (isDead h)

/-- What a lane of `w` bits receives: computed from a dead register an undefined result, with any of the flags that the instruction can
raise (R408). -/
def laneResult (s : State) (i : Instr) (w k : Nat) (isOpen : Bool) (r : Nat × FpFlags) : Nat × FpFlags :=
  if isOpen then ((Config.freeWord s.tick (256 + k)).toNat % 2 ^ w, Config.freeFlags s.tick k &&& raises i) else r

/-- Lanes of width w under the mask: `op` takes the lane number (R407), and `regs` are the registers that it reads there. -/
def vLanes (i : Instr) (len : Nat) (f : VFmt) (w n : Nat) (regs : State → Hart → Nat → List VReg)
    (op : State → Hart → Nat → Nat × FpFlags) (s : State) : Result :=
  withVector s i
    (let h := me s
     let r := maskedLanes n (fun k => deadMask h f || selects s h f.mask k) f.z (lane (readV s h f.vd) w)
       fun k => laneResult s i w k (openLane h f (regs s h k)) (op s h k)
     vFinish f len (ofLanes w r.1) r.2 s)

/-- An element operation of vector sources and the old lane of vd, `op old a b`, which reads the registers `regs`. -/
def vBinary (i : Instr) (len : Nat) (f : VFmt) (w : Nat) (regs : List VReg) (op : Nat → Nat → Nat → Nat × FpFlags) (s : State) : Result :=
  vLanes i len f w (laneCount w) (fun _ _ _ => regs)
    (fun s h k => op (lane (readV s h f.vd) w k) (lane (readV s h f.va) w k) (lane (readV s h f.vb) w k)) s

/-- An integer element operation that raises no flag. -/
def vInt (i : Instr) (len : Nat) (f : VFmt) (op : Nat → Nat → Nat → Nat) (s : State) : Result :=
  vBinary i len f (intWidth f.et) [f.va, f.vb] (fun _ a b => (op (intWidth f.et) a b, 0)) s

/-- An integer operation of one vector source. -/
def vInt1 (i : Instr) (f : VFmt) (op : Nat → Nat → Nat) (s : State) : Result :=
  vBinary i 4 f (intWidth f.et) [f.va] (fun _ a _ => (op (intWidth f.et) a, 0)) s

/-- A float element operation on values, with the hart's FLUSH. -/
def vFloatOf (i : Instr) (len : Nat) (f : VFmt) (regs : List VReg) (op : Fmt → Bool → FVal → FVal → FVal → Nat × FpFlags) (s : State) : Result :=
  let fmt := fltFmt f.et.toNat
  let fl := flushOn (me s)
  vBinary i len f fmt.width regs (fun o a b => op fmt fl (unpack fmt fl o) (unpack fmt fl a) (unpack fmt fl b)) s

/-- A float operation of two vector sources. -/
def vFloat (i : Instr) (len : Nat) (f : VFmt) (op : Fmt → Bool → FVal → FVal → Nat × FpFlags) (s : State) : Result :=
  vFloatOf i len f [f.va, f.vb] (fun fmt fl _ a b => op fmt fl a b) s

/-- A float operation of one vector source. -/
def vFloat1 (i : Instr) (f : VFmt) (op : Fmt → Bool → FVal → Nat × FpFlags) (s : State) : Result :=
  vFloatOf i 4 f [f.va] (fun fmt fl _ a _ => op fmt fl a) s

/-- A compare: a mask of n bits, the bits above it zero (R414, R427). -/
def vCompare (i : Instr) (f : VFmt) (w : Nat) (test : Nat → Nat → Bool × FpFlags) (s : State) : Result :=
  withVector s i
    (let h := me s
     let r := maskedLanes (laneCount w) (fun k => deadMask h f || selects s h f.mask k) f.z (lane (readV s h f.vd) 1) fun k =>
       let t := test (lane (readV s h f.va) w k) (lane (readV s h f.vb) w k)
       laneResult s i 1 k (openLane h f [f.va, f.vb]) (if t.1 then 1 else 0, t.2)
     vFinish f 4 (ofLanes 1 r.1) r.2 s)

/-- The selected lanes of va, lowest first (R430, R451, R454): none for one that the mask excludes. -/
def inputLanes (s : State) (h : Hart) (f : VFmt) (w : Nat) : List (Option Nat) :=
  (List.range (laneCount w)).map fun k => if selects s h f.mask k then some (lane (readV s h f.va) w k) else none

/-- Whether a result over some lanes is computed from a dead register. -/
def openInput (h : Hart) (f : VFmt) (l : List (Option Nat)) : Bool := deadMask h f || (isDead h f.va && l.any Option.isSome)

/-- A reduction: lane 0 takes the result and every other lane is zero. -/
def vReduce (i : Instr) (f : VFmt) (w : Nat) (op : Hart → List (Option Nat) → Nat × FpFlags) (s : State) : Result :=
  withVector s i
    (let h := me s
     let l := inputLanes s h f w
     let r := laneResult s i w 0 (openInput h f l) (op h l)
     vFinish f 4 (ofLanes w [r.1]) r.2 s)

/-! ### 16-bit forms (R313) -/

/-- vd ← vd op va of a 16-bit form as V-format fields. -/
def halfFmt (et : BitVec 3) (d a : VReg) : VFmt := ⟨false, false, false, 0, a, d, d, et⟩

/-- The integer type of a 16-bit form. -/
def halfInt (w : Bool) : BitVec 3 := if w then 1 else 2

/-- The float type of a 16-bit form. -/
def halfFlt (w : Bool) : BitVec 3 := if w then 1 else 0

end Sys2Proof.Machine
end

