-- ==== Sys2Proof/Machine/VecFloat.lean ====
section
/-!
DEFINITION. Float vector arithmetic, compares, functions, conversions, reductions, scan, the Hadamard transform and block quantisation
(R145 to R163, R415 to R432, R436, R440, R449 to R458).
-/

namespace Sys2Proof.Machine

/-! ### Arithmetic -/

/-- VFADD, VFSUB, VFMUL, VFDIV (R425). -/
def execVfadd (f : VFmt) (s : State) : Result := vFloat (.vfadd f) 4 f (fun t fl a b => addVal t fl a b) s
def execVfsub (f : VFmt) (s : State) : Result := vFloat (.vfsub f) 4 f (fun t fl a b => addVal t fl a b.negate) s
def execVfmul (f : VFmt) (s : State) : Result := vFloat (.vfmul f) 4 f (fun t fl a b => mulVal t fl a b) s
def execVfdiv (f : VFmt) (s : State) : Result := vFloat (.vfdiv f) 4 f (fun t fl a b => divVal t t.prec fl a b) s
/-- VFMA, VFNMA (R428). -/
def execVfma (f : VFmt) (s : State) : Result := vFloatOf (.vfma f) 4 f [f.va, f.vb, f.vd] (fun t fl o a b => fmaVal t fl a b o) s
def execVfnma (f : VFmt) (s : State) : Result := vFloatOf (.vfnma f) 4 f [f.va, f.vb, f.vd] (fun t fl o a b => fmaVal t fl a.negate b o) s
/-- VFMIN, VFMAX (R429). -/
def execVfmin (f : VFmt) (s : State) : Result := vFloat (.vfmin f) 4 f (fun t _ a b => (repack t (minVal a b), 0)) s
def execVfmax (f : VFmt) (s : State) : Result := vFloat (.vfmax f) 4 f (fun t _ a b => (repack t (maxVal a b), 0)) s

/-- VFABS and VFNEG act on the sign bit alone (R424). -/
def clearSign (w a : Nat) : Nat := a % 2 ^ (w - 1)
def flipSign (w a : Nat) : Nat := a ^^^ 2 ^ (w - 1)

def execVfabs (f : VFmt) (s : State) : Result :=
  vBinary (.vfabs f) 4 f (fltFmt f.et.toNat).width [f.va] (fun _ a _ => (clearSign (fltFmt f.et.toNat).width a, 0)) s
def execVfneg (f : VFmt) (s : State) : Result :=
  vBinary (.vfneg f) 4 f (fltFmt f.et.toNat).width [f.va] (fun _ a _ => (flipSign (fltFmt f.et.toNat).width a, 0)) s

/-- VFSQRT (R432), and the functions of R151. -/
def execVfsqrt (f : VFmt) (s : State) : Result := vFloat1 (.vfsqrt f) f sqrtVal s
def execVrcp (f : VFmt) (s : State) : Result := vFloat1 (.vrcp f) f rcpVal s
def execVrsq (f : VFmt) (s : State) : Result := vFloat1 (.vrsq f) f rsqVal s
def execVexp2 (f : VFmt) (s : State) : Result := vFloat1 (.vexp2 f) f exp2Val s
def execVlog2 (f : VFmt) (s : State) : Result := vFloat1 (.vlog2 f) f log2Val s
def execVsin (f : VFmt) (s : State) : Result := vFloat1 (.vsin f) f (trigVal false) s
def execVcos (f : VFmt) (s : State) : Result := vFloat1 (.vcos f) f (trigVal true) s

/-! ### 16-bit forms (R313) -/

def execVfadd16 (w : Bool) (d a : VReg) (s : State) : Result :=
  vFloat (.vfadd16 w d a) 2 (halfFmt (halfFlt w) d a) (fun t fl x y => addVal t fl x y) s
def execVfsub16 (w : Bool) (d a : VReg) (s : State) : Result :=
  vFloat (.vfsub16 w d a) 2 (halfFmt (halfFlt w) d a) (fun t fl x y => addVal t fl x y.negate) s
def execVfmul16 (w : Bool) (d a : VReg) (s : State) : Result :=
  vFloat (.vfmul16 w d a) 2 (halfFmt (halfFlt w) d a) (fun t fl x y => mulVal t fl x y) s
def execVfmin16 (w : Bool) (d a : VReg) (s : State) : Result :=
  vFloat (.vfmin16 w d a) 2 (halfFmt (halfFlt w) d a) (fun t _ x y => (repack t (minVal x y), 0)) s
def execVfmax16 (w : Bool) (d a : VReg) (s : State) : Result :=
  vFloat (.vfmax16 w d a) 2 (halfFmt (halfFlt w) d a) (fun t _ x y => (repack t (maxVal x y), 0)) s
def execVfabs16 (w : Bool) (d a : VReg) (s : State) : Result :=
  let n := (fltFmt (halfFlt w).toNat).width
  vBinary (.vfabs16 w d a) 2 ⟨false, false, false, 0, 0, a, d, halfFlt w⟩ n [a] (fun _ x _ => (clearSign n x, 0)) s

/-! ### Compares (R427) -/

/-- A float compare: the test, and whether a NaN raises NV. -/
def vFloatCompare (i : Instr) (f : VFmt) (nv : Bool) (test : FVal → FVal → Bool) (s : State) : Result :=
  let fmt := fltFmt f.et.toNat
  let fl := flushOn (me s)
  vCompare i f fmt.width (fun a b =>
    let x := unpack fmt fl a
    let y := unpack fmt fl b
    (test x y, raiseIf (nv && (isNan x || isNan y)) flagNV)) s

def unordered (a b : FVal) : Bool := isNan a || isNan b

def execVfcmpeq (f : VFmt) (s : State) : Result := vFloatCompare (.vfcmpeq f) f false fEqual s
def execVfcmplt (f : VFmt) (s : State) : Result := vFloatCompare (.vfcmplt f) f true (fun a b => !unordered a b && fLess a b) s
def execVfcmple (f : VFmt) (s : State) : Result :=
  vFloatCompare (.vfcmple f) f true (fun a b => !unordered a b && (fLess a b || fEqual a b)) s
def execVfcmpun (f : VFmt) (s : State) : Result := vFloatCompare (.vfcmpun f) f false unordered s

/-! ### Conversions (R147, R148, R417 to R419) -/

/-- A conversion of lanes of `sw` bits to lanes of `dw` bits: n is the lane count of the wider, the bits above lane n - 1 are zero. -/
def vConvert (i : Instr) (f : VFmt) (sw dw : Nat) (op : Nat → Nat × FpFlags) (s : State) : Result :=
  vLanes i 4 f dw (laneCount (max sw dw)) (fun _ _ _ => [f.va]) (fun s h k => op (lane (readV s h f.va) sw k)) s

/-- VCVT (R418). -/
def execVcvt (f : VFmt) (s : State) : Result :=
  let src := fltFmt f.et.toNat
  let dst := fltFmt f.code.toNat
  let fl := flushOn (me s)
  vConvert (.vcvt f) f src.width dst.width (fun a => pack dst (rmOf (f.vb.extractLsb' 3 2)) fl (unpack src fl a)) s

/-- An integer of w bits to a float, rounded RNE (R148). -/
def intToFloat (fmt : Fmt) (flush : Bool) (w : Nat) (unsgn : Bool) (a : Nat) : Nat × FpFlags :=
  roundDy fmt .rne flush false (if unsgn then (a : Int) else signedOf w a, 0)

/-- A float to an integer of w bits, truncated (R148). -/
def floatToInt (w : Nat) (unsgn : Bool) (v : FVal) : Nat × FpFlags :=
  let hi : Int := if unsgn then (2 ^ w : Nat) - 1 else (2 ^ (w - 1) : Nat) - 1
  let lo : Int := if unsgn then 0 else -((2 ^ (w - 1) : Nat) : Int)
  match v with
  | .nan => (0, flagNV)
  | .inf n => (wrapTo w (if n then lo else hi), flagNV)
  | .zero _ => (0, 0)
  | .fin n m e =>
    let r := roundAt .rtz n m e false 0
    let t : Int := if n then -(r.1 : Int) else r.1
    if hi < t then (wrapTo w hi, flagNV) else if t < lo then (wrapTo w lo, flagNV) else (wrapTo w t, raiseIf r.2 flagNX)

/-- VCVTI and VCVTIU (R419): vb[3] is the direction, vb[4] the last of the selector that names the unsigned form. -/
def convertInt (i : Instr) (f : VFmt) (unsgn : Bool) (s : State) : Result :=
  let fmt := fltFmt f.code.toNat
  let w := intWidth f.et
  let fl := flushOn (me s)
  if f.vb.getLsbD 3 then vConvert i f fmt.width w (fun a => floatToInt w unsgn (unpack fmt fl a)) s
  else vConvert i f w fmt.width (fun a => intToFloat fmt fl w unsgn a) s

def execVcvti (f : VFmt) (s : State) : Result := convertInt (.vcvti f) f false s
def execVcvtiu (f : VFmt) (s : State) : Result := convertInt (.vcvtiu f) f true s

/-! ### Reductions and scan -/

/-- One stage of the pairwise tree (R160). -/
def treeStage (fmt : Fmt) (fl : Bool) : List Nat → List Nat × FpFlags
  | a :: b :: l =>
    let r := addVal fmt fl (unpack fmt fl a) (unpack fmt fl b)
    let t := treeStage fmt fl l
    (r.1 :: t.1, r.2 ||| t.2)
  | l => (l, 0)

/-- `n` stages. -/
def treeSum (fmt : Fmt) (fl : Bool) : Nat → List Nat → Nat × FpFlags
  | 0, l => (l.headD 0, 0)
  | n + 1, l =>
    let t := treeStage fmt fl l
    let r := treeSum fmt fl n t.1
    (r.1, t.2 ||| r.2)

/-- VFREDSUM (R431). -/
def execVfredsum (f : VFmt) (s : State) : Result :=
  let fmt := fltFmt f.et.toNat
  vReduce (.vfredsum f) f fmt.width
    (fun h l => treeSum fmt (flushOn h) (Nat.log2 (laneCount fmt.width)) (l.map fun x => x.getD 0)) s

/-- VFREDMAX (R430): −∞ over no lane. -/
def execVfredmax (f : VFmt) (s : State) : Result :=
  let fmt := fltFmt f.et.toNat
  vReduce (.vfredmax f) f fmt.width
    (fun h l =>
      match l.filterMap fun x => x.map (unpack fmt (flushOn h)) with
      | [] => (fmt.infinity true, 0)
      | v :: vs => (repack fmt (vs.foldl maxVal v), 0)) s

/-- The running result of a scan over the lanes (R161, R454): none until the first selected lane. -/
def scanFrom (first : Nat → Nat) (op : Nat → Nat → Nat × FpFlags) : Option Nat → List (Option Nat) → List Nat × FpFlags
  | _, [] => ([], 0)
  | acc, x :: l =>
    let step : Option Nat × FpFlags :=
      match acc, x with
      | none, none => (none, 0)
      | none, some v => (some (first v), 0)
      | some r, none => (some r, 0)
      | some r, some v => let t := op r v; (some t.1, t.2)
    let t := scanFrom first op step.1 l
    (step.1.getD 0 :: t.1, step.2 ||| t.2)

/-- VSCAN (R454): vb[0] selects float elements. -/
def execVscan (f : VFmt) (s : State) : Result :=
  let fmt := fltFmt f.et.toNat
  let isFloat := f.vb.getLsbD 0
  let w := if isFloat then fmt.width else intWidth f.et
  withVector s (.vscan f)
    (let h := me s
     let fl := flushOn h
     let r :=
       if isFloat then
         scanFrom (fun v => repack fmt (unpack fmt fl v)) (fun a b => addVal fmt fl (unpack fmt fl a) (unpack fmt fl b)) none
           (inputLanes s h f w)
       else scanFrom id (fun a b => ((a + b) % 2 ^ w, 0)) none (inputLanes s h f w)
     let l := r.1.mapIdx fun k v => laneResult s (.vscan f) w k (openInput h f ((inputLanes s h f w).take (k + 1))) (v, 0)
     let own := if openInput h f (inputLanes s h f w) then 0 else r.2
     vFinish f 4 (ofLanes w (l.map (·.1))) (own ||| allFlags (l.map (·.2))) s)

/-! ### Hadamard and blocks -/

/-- VHAD (R436): x[vb] holds the sign word. -/
def execVhad (f : VFmt) (s : State) : Result :=
  vLanes (.vhad f) 4 f 16 32 (fun _ _ _ => [f.va]) (fun s h k =>
    (hadamard (flushOn h) (readX h f.vb).toNat (lanes (readV s h f.va) 16 32)).getD k (0, 0)) s

/-- VQNT (R449): the block image in the low bytes, zeros above. -/
def execVqnt (f : VFmt) (s : State) : Result :=
  withVector s (.vqnt f)
    (let h := me s
     let q := quantBlock f.et.toNat (flushOn h) ((lanes (readV s h f.va) 16 32).map (unpack bf16 (flushOn h)))
     let b := blockImage f.et.toNat q.1 q.2.1
     let r := laneResult s (.vqnt f) 512 0 (openLane h f [f.va]) (leNat b, q.2.2)
     let v := if openLane h f [f.va] then (Config.freeVec s.tick 33).toNat % 2 ^ (8 * b.length) else r.1
     vFinish f 4 (BitVec.ofNat 512 v) r.2 s)

/-- VDEQ (R420). -/
def execVdeq (f : VFmt) (s : State) : Result :=
  vLanes (.vdeq f) 4 f 16 32 (fun _ _ _ => [f.va]) (fun s h k => dequant f.et.toNat (flushOn h) (leBytes 64 (readV s h f.va).toNat) k) s

end Sys2Proof.Machine
end

