-- ==== Sys2Proof/Machine/VecInt.lean ====
section
/-!
DEFINITION. Integer vector arithmetic, logic, shifts, compares, reductions and dot products (R146, R158, R160, R410 to R414, R421,
R441 to R446, R451, R453, R457, R462, R463, R465).
-/

namespace Sys2Proof.Machine

/-! ### Element operations on lanes of w bits -/

def eAdd (w a b : Nat) : Nat := (a + b) % 2 ^ w
def eSub (w a b : Nat) : Nat := (a + 2 ^ w - b) % 2 ^ w
def eMul (w a b : Nat) : Nat := a * b % 2 ^ w
def eMulh (w a b : Nat) : Nat := wrapTo w (signedOf w a * signedOf w b / (2 ^ w : Nat))
def eMin (w a b : Nat) : Nat := if signedOf w a ≤ signedOf w b then a else b
def eMax (w a b : Nat) : Nat := if signedOf w a ≤ signedOf w b then b else a
def eMinu (_ a b : Nat) : Nat := min a b
def eMaxu (_ a b : Nat) : Nat := max a b
def eAnd (_ a b : Nat) : Nat := a &&& b
def eOr (_ a b : Nat) : Nat := a ||| b
def eXor (_ a b : Nat) : Nat := a ^^^ b
def eShl (w a b : Nat) : Nat := a * 2 ^ (b % w) % 2 ^ w
def eShr (w a b : Nat) : Nat := a / 2 ^ (b % w)
def eSra (w a b : Nat) : Nat := wrapTo w (signedOf w a / (2 ^ (b % w) : Nat))

/-- Saturation to the signed range of w bits (R146). -/
def saturate (w : Nat) (v : Int) : Nat :=
  let top : Int := (2 ^ (w - 1) : Nat) - 1
  wrapTo w (max (-top - 1) (min top v))

def eSadd (w a b : Nat) : Nat := saturate w (signedOf w a + signedOf w b)
def eSsub (w a b : Nat) : Nat := saturate w (signedOf w a - signedOf w b)

/-! ### Arithmetic and logic -/

/-- VADD (R411). -/
def execVadd (f : VFmt) (s : State) : Result := vInt (.vadd f) 4 f eAdd s
/-- VSUB (R462). -/
def execVsub (f : VFmt) (s : State) : Result := vInt (.vsub f) 4 f eSub s
/-- VMUL (R442). -/
def execVmul (f : VFmt) (s : State) : Result := vInt (.vmul f) 4 f eMul s
/-- VMULH (R443). -/
def execVmulh (f : VFmt) (s : State) : Result := vInt (.vmulh f) 4 f eMulh s
/-- VMIN, VMAX, VMINU, VMAXU (R441). -/
def execVmin (f : VFmt) (s : State) : Result := vInt (.vmin f) 4 f eMin s
def execVmax (f : VFmt) (s : State) : Result := vInt (.vmax f) 4 f eMax s
def execVminu (f : VFmt) (s : State) : Result := vInt (.vminu f) 4 f eMinu s
def execVmaxu (f : VFmt) (s : State) : Result := vInt (.vmaxu f) 4 f eMaxu s
/-- VAND (R412), VOR (R446), VXOR (R465). -/
def execVand (f : VFmt) (s : State) : Result := vInt (.vand f) 4 f eAnd s
def execVor (f : VFmt) (s : State) : Result := vInt (.vor f) 4 f eOr s
def execVxor (f : VFmt) (s : State) : Result := vInt (.vxor f) 4 f eXor s
/-- VSHL, VSHR, VSRA (R457). -/
def execVshl (f : VFmt) (s : State) : Result := vInt (.vshl f) 4 f eShl s
def execVshr (f : VFmt) (s : State) : Result := vInt (.vshr f) 4 f eShr s
def execVsra (f : VFmt) (s : State) : Result := vInt (.vsra f) 4 f eSra s
/-- VSADD, VSSUB (R453). -/
def execVsadd (f : VFmt) (s : State) : Result := vInt (.vsadd f) 4 f eSadd s
def execVssub (f : VFmt) (s : State) : Result := vInt (.vssub f) 4 f eSsub s

/-- VABS (R410): the most negative value maps to itself. -/
def execVabs (f : VFmt) (s : State) : Result := vInt1 (.vabs f) f (fun w a => wrapTo w (signedOf w a).natAbs) s
/-- VNEG (R445). -/
def execVneg (f : VFmt) (s : State) : Result := vInt1 (.vneg f) f (fun w a => eSub w 0 a) s

/-! ### 16-bit forms (R313) -/

def execVadd16 (w : Bool) (d a : VReg) (s : State) : Result := vInt (.vadd16 w d a) 2 (halfFmt (halfInt w) d a) eAdd s
def execVsub16 (w : Bool) (d a : VReg) (s : State) : Result := vInt (.vsub16 w d a) 2 (halfFmt (halfInt w) d a) eSub s
def execVmul16 (w : Bool) (d a : VReg) (s : State) : Result := vInt (.vmul16 w d a) 2 (halfFmt (halfInt w) d a) eMul s
def execVmin16 (w : Bool) (d a : VReg) (s : State) : Result := vInt (.vmin16 w d a) 2 (halfFmt (halfInt w) d a) eMin s
def execVmax16 (w : Bool) (d a : VReg) (s : State) : Result := vInt (.vmax16 w d a) 2 (halfFmt (halfInt w) d a) eMax s
def execVsadd16 (w : Bool) (d a : VReg) (s : State) : Result := vInt (.vsadd16 w d a) 2 (halfFmt (halfInt w) d a) eSadd s
def execVand16 (d a : VReg) (s : State) : Result := vInt (.vand16 d a) 2 (halfFmt 0 d a) eAnd s
def execVor16 (d a : VReg) (s : State) : Result := vInt (.vor16 d a) 2 (halfFmt 0 d a) eOr s
def execVxor16 (d a : VReg) (s : State) : Result := vInt (.vxor16 d a) 2 (halfFmt 0 d a) eXor s

/-! ### Compares (R414) -/

def execVcmpeq (f : VFmt) (s : State) : Result :=
  vCompare (.vcmpeq f) f (intWidth f.et) (fun a b => (decide (a = b), 0)) s
def execVcmplt (f : VFmt) (s : State) : Result :=
  vCompare (.vcmplt f) f (intWidth f.et) (fun a b => (decide (signedOf (intWidth f.et) a < signedOf (intWidth f.et) b), 0)) s
def execVcmpltu (f : VFmt) (s : State) : Result :=
  vCompare (.vcmpltu f) f (intWidth f.et) (fun a b => (decide (a < b), 0)) s

/-! ### Reductions and scan (R160, R161, R451, R454) -/

/-- Fold the lanes from an identity that an excluded lane enters as. -/
def foldLanes (op : Nat → Nat → Nat) (unit : Nat) (l : List (Option Nat)) : Nat := l.foldl (fun acc x => op acc (x.getD unit)) unit

def execVredsum (f : VFmt) (s : State) : Result :=
  vReduce (.vredsum f) f (intWidth f.et) (fun _ l => (foldLanes (eAdd (intWidth f.et)) 0 l, 0)) s
def execVredmax (f : VFmt) (s : State) : Result :=
  vReduce (.vredmax f) f (intWidth f.et) (fun _ l => (foldLanes (eMax (intWidth f.et)) (2 ^ (intWidth f.et - 1)) l, 0)) s
def execVredmin (f : VFmt) (s : State) : Result :=
  vReduce (.vredmin f) f (intWidth f.et) (fun _ l => (foldLanes (eMin (intWidth f.et)) (2 ^ (intWidth f.et - 1) - 1) l, 0)) s

/-! ### Dot products (R158) -/

/-- The bytes of INT32 lane j of a register. -/
def quad (v : VWord) (j : Nat) : List Nat := (List.range 4).map fun k => lane v 8 (4 * j + k)

/-- VDOT (R421). -/
def execVdot (f : VFmt) (s : State) : Result :=
  vLanes (.vdot f) 4 f 32 16 (fun _ _ _ => [f.va, f.vb, f.vd]) (fun s h j =>
    let sum := (List.zipWith (fun x y => signedOf 8 x * signedOf 8 y) (quad (readV s h f.va) j) (quad (readV s h f.vb) j)).sum
    (wrapTo 32 ((lane (readV s h f.vd) 32 j : Int) + sum), 0)) s

/-- VTDOT (R463): a weight outside −1, 0, +1 adds nothing and raises IV. -/
def execVtdot (f : VFmt) (s : State) : Result :=
  vLanes (.vtdot f) 4 f 32 16 (fun _ _ _ => [f.va, f.vb, f.vd]) (fun s h j =>
    let ts := List.zipWith t3Select (quad (readV s h f.vb) j) (quad (readV s h f.va) j)
    (wrapTo 32 ((lane (readV s h f.vd) 32 j : Int) + (ts.map fun t => t.getD 0).sum), raiseIf (ts.any Option.isNone) flagIV)) s

/-- VUNPK3 (R157, R464). -/
def execVunpk3 (f : VFmt) (s : State) : Result :=
  vLanes (.vunpk3 f) 4 f 8 64 (fun _ _ i => if 60 ≤ i then [] else [f.va]) (fun s h i =>
    if 60 ≤ i then (0, 0)
    else
      let b := lane (readV s h f.va) 8 (12 * f.et.toNat + i / 5)
      (wrapTo 8 (t3Weight b (i % 5)), raiseIf (t3Illegal b) flagIV)) s

/-- Byte j of a packed group: five digits, and IV for a lane that is no ternary weight (R447). -/
def packByte (v : VWord) (j : Nat) : Nat × FpFlags :=
  let ds := (List.range 5).map fun i => t3Digit (lane v 8 (5 * j + i))
  (ds.foldr (fun d acc => d.getD 0 + 3 * acc) 0, raiseIf (ds.any Option.isNone) flagIV)

/-- VPACK3 (R447): every other byte of vd keeps its value. -/
def execVpack3 (f : VFmt) (s : State) : Result :=
  vLanes (.vpack3 f) 4 f 8 64
    (fun _ _ i => if 12 * f.et.toNat ≤ i && i < 12 * f.et.toNat + 12 then [f.va] else [f.vd]) (fun s h i =>
    let lo := 12 * f.et.toNat
    if lo ≤ i && i < lo + 12 then packByte (readV s h f.va) (i - lo) else (lane (readV s h f.vd) 8 i, 0)) s

end Sys2Proof.Machine
end

