-- ==== Sys2Proof/Machine/VecMem.lean ====
section
/-!
DEFINITION. Vector memory instructions (R433, R435, R438, R439, R455, R460, R461).
-/

namespace Sys2Proof.Machine

/-- Bytes and bits of an element (R433). -/
def elemBytes (f : VmFmt) : Nat := 2 ^ f.et.toNat
def elemBits (f : VmFmt) : Nat := 8 * elemBytes f
def elemCount (f : VmFmt) : Nat := 64 / elemBytes f

/-- Element addresses of Table 24.1: contiguous from p, strided, and indexed. -/
def lineAddr (h : Hart) (f : VmFmt) (i : Nat) : Word :=
  readX h f.base + readX h f.idx + BitVec.ofNat 64 (i * elemBytes f)

def strideAddr (h : Hart) (f : VmFmt) (i : Nat) : Word :=
  readX h f.base + BitVec.ofNat 64 i * (if f.idx = 0 then BitVec.ofNat 64 (elemBytes f) else readX h f.idx)

def indexAddr (s : State) (h : Hart) (f : VmFmt) (i : Nat) : Word :=
  readX h f.base + BitVec.ofInt 64 (signedOf (elemBits f) (lane (readV s h f.idx) (elemBits f) i)) * BitVec.ofNat 64 (elemBytes f)

/-- The selected elements with their addresses, lowest first. -/
def picked (s : State) (h : Hart) (f : VmFmt) (addr : Nat → Word) : List (Nat × Word) :=
  ((List.range (elemCount f)).filter (selects s h f.mask)).map fun i => (i, addr i)

/-- Check every selected element in ascending order (R433); the targets come in the same order. -/
def withElems (w : Want) : List (Nat × Word) → State → List (Nat × Word × Target) →
    (State → List (Nat × Word × Target) → Result) → Result
  | [], s, acc, k => k s acc.reverse
  | (i, p) :: l, s, acc, k =>
    match checkAccess s s.cur p w with
    | .ok s t => withElems w l s ((i, p, t) :: acc) k
    | .trap t => trapR s t
    | .walk va => waitWalk s w.kind va

/-- Distinct 64-byte lines of a list of targets (R433, slots). -/
def lineCount (ts : List (Nat × Word × Target)) : Nat :=
  (ts.foldl (fun acc t => if acc.contains (t.2.2.va / 64) then acc else acc ++ [t.2.2.va / 64]) ([] : List Nat)).length

/-- The stretch of addresses that the targets lie in, as pointer and length. -/
def spanOf (n : Nat) (ts : List (Nat × Word × Target)) : Word × Nat :=
  match ts with
  | [] => (0, 0)
  | t :: l =>
    let lo := l.foldl (fun m e => if e.2.2.va < m.2.2.va then e else m) t
    let hi := l.foldl (fun m e => max m (e.2.2.va + n)) (t.2.2.va + n)
    (lo.2.1, hi - lo.2.2.va)

/-- Registers that the mark of a VM-format instruction kills: the index vector of VGTH and VSCT, the stored vector of VST and VSTS
(R316). -/
def killVm (f : VmFmt) (r : VReg) (h : Hart) : Hart := if f.lu then killV h r else h

/-- The elements read, in order: lane, pointer and value, none for a failed read. -/
def readElems (n : Nat) : List (Nat × Word × Target) → State → List (Nat × Word × Option Nat) → State × List (Nat × Word × Option Nat)
  | [], s, acc => (s, acc.reverse)
  | (i, p, t) :: l, s, acc =>
    let r := orderedLoad s t n
    readElems n l r.1 ((i, p, r.2.map leNat) :: acc)

/-- The register a load leaves: elements read, zeros or old lanes, and a value that nothing gives for a failed element (R90). -/
def loadedVec (s : State) (h : Hart) (f : VmFmt) (rs : List (Nat × Word × Option Nat)) : VWord :=
  let w := elemBits f
  ofLanes w ((List.range (elemCount f)).map fun i =>
    match rs.find? (·.1 = i) with
    | some (_, _, some v) => v
    | some (_, _, none) => lane (Config.freeVec s.tick (32 + i)) w i
    | none => if f.z then 0 else lane (readV s h f.vd) w i)

/-- The order in which the elements of an instruction go out, as `inOrder` says of one stretch. -/
def elemsInOrder (s : State) (n : Nat) (ts : List (Nat × Word × Target)) (load store : Bool) (k : Result) : Result :=
  match ts.find? fun t => overlapBusy s s.cur t.2.2.key n with
  | some t => waitFor s (.overlap t.2.2.key n)
  | none => afterFences s load store (orderedBefore s k)

/-- A vector load: vd is written at issue and waits for its operation; a failed element makes it the destination of a failed read. -/
def vLoad (s : State) (f : VmFmt) (kill : Hart → Hart) (es : List (Nat × Word)) : Result :=
  let n := elemBytes f
  withElems (.read n) es s [] fun s ts =>
    let slots := lineCount ts
    withSlots s slots
      (elemsInOrder s n ts true false
        (let out := missing s (ts.map (·.2.2))
         let (s, rs) := readElems n ts s []
         let v := loadedVec s (me s) f rs
         match ts with
         | [] => .next (retire (modMe (orderedAfter s) fun h => writeV (kill h) f.vd v) 4)
         | t :: _ =>
           let sp := spanOf n ts
           let (id, s) := startOp s .load t.2.2 sp.1 sp.2 slots 0 none none
           let s := sendAccess id (hartAgent s s.cur) false (out.map (askRead n)) s
           let s := modMe s fun h => markPending (32 + f.vd.toNat) id (writeV (kill h) f.vd v)
           let s :=
             match rs.find? fun r => r.2.2.isNone with
             | some r => modMe s (markFailed (32 + f.vd.toNat) r.2.1)
             | none => s
           .next (issued s id 4)))

/-- The propagation attribute that the elements of a store have in common for the wait before it: REPL if one of them has it. -/
def propOf (ts : List (Nat × Word × Target)) : PageProp := if ts.any fun t => decide (t.2.2.prop = .repl) then .repl else .na

/-- A vector store: the elements are written in ascending order, so the higher-numbered one stands (R110). -/
def vStore (s : State) (f : VmFmt) (kill : Hart → Hart) (es : List (Nat × Word)) : Result :=
  let n := elemBytes f
  withElems (.store n) es s [] fun s ts =>
    let slots := lineCount ts
    withSlots s slots
      (elemsInOrder s n ts false true
        (afterSettle s (propOf ts)
          (let v := readV s (me s) f.vd
           let s := ts.foldl (fun s t => orderedStore s t.2.2 (leBytes n (lane v (elemBits f) t.1))) s
           match ts with
           | [] => .next (retire (modMe (orderedAfter s) kill) 4)
           | t :: _ =>
             let sp := spanOf n ts
             let (id, s) := startOp s .store t.2.2 sp.1 sp.2 slots 0 none none
             let out := ts.map fun t => (t.2.2, PeerAsk.write (leBytes n (lane v (elemBits f) t.1)))
             .next (issued (modMe (sendAccess id (hartAgent s s.cur) true out s) kill) id 4))))

/-- VLD (R438): the line is aligned to 64 bytes, whether or not an element is selected. -/
def execVld (f : VmFmt) (s : State) : Result :=
  withVector s (.vld f)
    (let h := me s
     let p := lineAddr h f 0
     if p.toNat % 64 ≠ 0 then trapR s ⟨0x04, p, 0⟩ else vLoad s f id (picked s h f (lineAddr h f)))

/-- VST (R460). -/
def execVst (f : VmFmt) (s : State) : Result :=
  withVector s (.vst f)
    (let h := me s
     let p := lineAddr h f 0
     if p.toNat % 64 ≠ 0 then trapR s ⟨0x04, p, 0⟩ else vStore s f (killVm f f.vd) (picked s h f (lineAddr h f)))

/-- VLDS (R439). -/
def execVlds (f : VmFmt) (s : State) : Result :=
  withVector s (.vlds f) (vLoad s f id (picked s (me s) f (strideAddr (me s) f)))

/-- VSTS (R461). -/
def execVsts (f : VmFmt) (s : State) : Result :=
  withVector s (.vsts f) (vStore s f (killVm f f.vd) (picked s (me s) f (strideAddr (me s) f)))

/-- VGTH (R435). -/
def execVgth (f : VmFmt) (s : State) : Result :=
  withVector s (.vgth f) (vLoad s f (killVm f f.idx) (picked s (me s) f (indexAddr s (me s) f)))

/-- VSCT (R455). -/
def execVsct (f : VmFmt) (s : State) : Result :=
  withVector s (.vsct f) (vStore s f (killVm f f.idx) (picked s (me s) f (indexAddr s (me s) f)))

end Sys2Proof.Machine
end

