-- ==== Sys2Proof/Machine/VecMove.lean ====
section
/-!
DEFINITION. Vector moves: permutation, selection, broadcast, insertion, extraction, slides, compression, the mask operations and VMV
(R359 to R361, R413, R416, R423, R437, R444, R448, R456, R459).
-/

namespace Sys2Proof.Machine

/-- VPERM (R448). -/
def execVperm (f : VFmt) (s : State) : Result :=
  let w := intWidth f.et
  let n := intLanes f
  vLanes (.vperm f) 4 f w n (fun s h i => if lane (readV s h f.vb) w i < n then [f.vb, f.va] else [f.vb]) (fun s h i =>
    let k := lane (readV s h f.vb) w i
    (if k < n then lane (readV s h f.va) w k else 0, 0)) s

/-- VSEL (R456): every lane is written. -/
def execVsel (f : VFmt) (s : State) : Result :=
  let w := intWidth f.et
  withVector s (.vsel f)
    (let h := me s
     let l := (List.range (intLanes f)).map fun i =>
       (laneResult s (.vsel f) w i (deadMask h f)
         (if selects s h f.mask i then lane (readV s h f.va) w i else lane (readV s h f.vb) w i, 0)).1
     vFinish f 4 (ofLanes w l) 0 s)

/-- VBCAST (R413): x[va] in every selected lane. -/
def execVbcast (f : VFmt) (s : State) : Result :=
  let w := intWidth f.et
  vLanes (.vbcast f) 4 f w (intLanes f) (fun _ _ _ => []) (fun _ h _ => ((readX h f.va).toNat % 2 ^ w, 0)) s

/-- VINS (R437): x[va] into lane x[vb]. -/
def execVins (f : VFmt) (s : State) : Result :=
  let w := intWidth f.et
  vLanes (.vins f) 4 f w (intLanes f) (fun _ h i => if i = (readX h f.vb).toNat then [] else [f.vd]) (fun s h i =>
    (if i = (readX h f.vb).toNat then (readX h f.va).toNat % 2 ^ w else lane (readV s h f.vd) w i, 0)) s

/-- VEXT (R423): lane x[vb] of va, sign-extended, into x[vd]. -/
def execVext (f : VFmt) (s : State) : Result :=
  let w := intWidth f.et
  withVector s (.vext f)
    (let h := me s
     let k := (readX h f.vb).toNat
     let v : Int := if k < intLanes f then signedOf w (lane (readV s h f.va) w k) else 0
     vFinishX f (BitVec.ofInt 64 v) s)

/-- VSLUP and VSLDN (R459): x[vb] lanes up or down. -/
def execVslup (f : VFmt) (s : State) : Result :=
  let w := intWidth f.et
  vLanes (.vslup f) 4 f w (intLanes f) (fun _ h i => if (readX h f.vb).toNat ≤ i then [f.va] else []) (fun s h i =>
    let k := (readX h f.vb).toNat
    (if k ≤ i then lane (readV s h f.va) w (i - k) else 0, 0)) s

def execVsldn (f : VFmt) (s : State) : Result :=
  let w := intWidth f.et
  vLanes (.vsldn f) 4 f w (intLanes f) (fun _ h i => if i + (readX h f.vb).toNat < intLanes f then [f.va] else []) (fun s h i =>
    let k := (readX h f.vb).toNat
    (if i + k < intLanes f then lane (readV s h f.va) w (i + k) else 0, 0)) s

/-- VCPRS (R416): the selected lanes packed low; the lanes above them zero or those of vd. -/
def execVcprs (f : VFmt) (s : State) : Result :=
  let w := intWidth f.et
  let n := intLanes f
  withVector s (.vcprs f)
    (let h := me s
     let picked := ((List.range n).filter (selects s h f.mask)).map (lane (readV s h f.va) w)
     let rest := ((List.range n).drop picked.length).map fun k => if f.z then 0 else lane (readV s h f.vd) w k
     let l := (picked ++ rest).mapIdx fun k v => (laneResult s (.vcprs f) w k (deadMask h f) (v, 0)).1
     vFinish f 4 (ofLanes w l) 0 s)

/-! ### Mask operations (R359 to R361) -/

/-- An operation on the 512 bits of registers; computed from a dead one of them the result is undefined (R408). -/
def kOp (i : Instr) (f : VFmt) (op : VWord → VWord → VWord) (s : State) : Result :=
  withVector s i
    (vFinish f 4
      (if (vectorSources i).any (isDead (me s)) then Config.freeVec s.tick 33 else op (readV s (me s) f.vd) (readV s (me s) f.va)) 0 s)

def execKand (f : VFmt) (s : State) : Result := kOp (.kand f) f (· &&& ·) s
def execKor (f : VFmt) (s : State) : Result := kOp (.kor f) f (· ||| ·) s
def execKxor (f : VFmt) (s : State) : Result := kOp (.kxor f) f (· ^^^ ·) s
def execKandn (f : VFmt) (s : State) : Result := kOp (.kandn f) f (fun d a => d &&& ~~~a) s
def execKnot (f : VFmt) (s : State) : Result := kOp (.knot f) f (fun _ a => ~~~a) s

/-- KCNT (R360). -/
def execKcnt (f : VFmt) (s : State) : Result :=
  withVector s (.kcnt f) (vFinishX f (BitVec.ofNat 64 (popCount (intLanes f) (readV s (me s) f.va).toNat)) s)

/-- KFST (R361): all ones where no bit is set. -/
def execKfst (f : VFmt) (s : State) : Result :=
  withVector s (.kfst f)
    (let k := lowestSet (intLanes f) (readV s (me s) f.va).toNat
     vFinishX f (if k = intLanes f then BitVec.allOnes 64 else BitVec.ofNat 64 k) s)

/-- VMV (R444). -/
def execVmv (d a : VReg) (s : State) : Result :=
  withVector s (.vmv d a) (vFinish ⟨false, false, false, 0, 0, a, d, 0⟩ 2 (readV s (me s) a) 0 s)

end Sys2Proof.Machine
end

