-- ==== Sys2Proof/Machine/Window.lean ====
section
/-!
DEFINITION. The command window of a logical device: how commands are taken, held by their WAIT, started and completed (R267 to R270), and what
each kind does (Table 17.3).
-/

namespace Sys2Proof.Machine

/-! ### The ring -/

/-- An entry as a command. -/
def parseCommand (b record : List Byte) (jseq : Nat) : HostCmd :=
  { seq := leWord (slice b 0 8), kind := b.getD 8 0, flags := b.getD 9 0, waitctr := BitVec.ofNat 16 (numAt b 10 2)
    waitval := leWord (slice b 16 8), arg0 := leWord (slice b 24 8), arg1 := leWord (slice b 32 8), arg2 := leWord (slice b 40 8)
    record := record, jseq := jseq }

/-! ### Reasons to fail (R268) -/

/-- Reserved bytes and bits, and the arguments that Table 17.3 marks with a dash. -/
def commandReserved (b : List Byte) (c : HostCmd) : Bool :=
  numAt b 12 4 = 0 && numAt b 48 16 = 0 && c.flags.toNat < 4 &&
    (match c.kind.toNat with
     | 1 => decide (c.arg1 = 0) && decide (c.arg2 = 0)
     | 2 => decide (c.arg2 = 0)
     | 3 => decide (c.arg1 = 0) && decide (c.arg2 = 0)
     | 4 => decide (c.arg0 = 0) && decide (c.arg1 = 0) && decide (c.arg2 = 0)
     | 6 => decide (c.arg2 = 0)
     | 7 => decide (c.arg1.toNat < 0x100)
     | _ => true)

def waits (c : HostCmd) : Bool := c.flags.getLsbD 1

/-- Identifiers that must belong to the tenant. -/
def commandOwned (s : State) (t : Nat) (c : HostCmd) : Bool :=
  (!waits c || ownsCounter s c.waitctr (BitVec.ofNat 4 t)) &&
    (match c.kind.toNat with
     | 2 => c.arg0.toNat < 0x10000 && ownsCounter s (c.arg0.setWidth 16) (BitVec.ofNat 4 t)
     | 3 => (findLaunch s t c.arg0).isSome
     | 5 => decide (mapGet 0 s.owners (c.arg2.extractLsb' 0 16).toNat = t + 1)
     | _ => true)

/-- First address of the host window (Table 2.6). -/
def hostBase : Nat := 0x80000000000000

def mapOwner (c : HostCmd) : BitVec 16 := c.arg2.extractLsb' 0 16
/-- First address of the range that a HOSTMAP allocates. DESIGN CHOICE (log entry 71): the window holds 2^55 host addresses, and a host VA
beyond them is taken modulo 2^55. -/
def mapBase (c : HostCmd) : Nat := hostBase + c.arg0.toNat % hostBase
def mapRights (c : HostCmd) : BitVec 8 := c.arg2.extractLsb' 16 8

/-- The range of a HOSTUNMAP. -/
def unmapRange (s : State) (t : Nat) (c : HostCmd) : Option Range :=
  s.ranges.find? fun r =>
    r.host && r.tenant = t && r.base = addrOf c.arg0 && decide (r.tag = tagOf c.arg0) && r.len = c.arg1.toNat

/-- Arguments of HOSTMAP and HOSTUNMAP. -/
def mapArgsOk (s : State) (t : Nat) (c : HostCmd) : Bool :=
  match c.kind.toNat with
  | 5 =>
    let va := c.arg0.toNat
    let n := c.arg1.toNat
    va % 0x10000 = 0 && n % 0x10000 = 0 && n ≠ 0 && c.arg2.toNat < 0x1000000 &&
      decide (mapRights c ≠ 0) && (mapRights c).toNat < 4 && !stretchTaken s (mapBase c) n
  | 6 => (unmapRange s t c).isSome
  | _ => true

def mapRoom (s : State) (c : HostCmd) : Bool :=
  c.kind ≠ 5 || (s.ranges.length < Config.rangeCapacity && (rightsOf s (mapOwner c)).length < 4096)

/-- The first reason of R268 that applies, 0 where none does. -/
def failReason (s : State) (t : Nat) (b : List Byte) (c : HostCmd) : BitVec 8 :=
  if c.kind = 0 || 8 ≤ c.kind.toNat then 0x0B
  else if !commandReserved b c then 0x01
  else if !commandOwned s t c then 0x02
  else
    match if c.kind = 1 then checkRecord s t (parseRecord c.record) else .ok [] with
    | .error code => code
    | .ok _ =>
      if !mapArgsOk s t c then 0x0D
      else if !mapRoom s c then 0x0E
      else if c.kind = 7 && (waitingProxy s t c.arg0.toNat).isNone then 0x0C
      else 0

/-! ### What a command does (Table 17.3) -/

/-- The command is final. -/
def commandDone (s : State) (t : Nat) (c : HostCmd) : State := finishEntry s t c.jseq doneState 0
def commandFailed (s : State) (t : Nat) (c : HostCmd) (reason : BitVec 8) : State := finishEntry s t c.jseq failedState reason

/-- LAUNCH: its record passed its checks when it was taken. -/
def startLaunch (s : State) (_ : Nat) (c : HostCmd) : State :=
  let r := parseRecord c.record
  acceptLaunch s r ((recLevels r).getD []) c.jseq

/-- SIGNAL: as SIGC at sys scope with release. -/
def startSignal (s : State) (t : Nat) (c : HostCmd) : State := commandDone (addCounter s c.arg0.toNat c.arg1 .zero) t c

/-- ABORT: a launch that is final by now is left as it is. -/
def startAbort (s : State) (t : Nat) (c : HostCmd) : State :=
  match findLaunch s t c.arg0 with
  | some l => commandDone (abortLaunch s l) t c
  | none => commandDone s t c

/-- HOSTMAP: a host-window range of tag 0, granted by 0xFFFF. -/
def startMap (s : State) (t : Nat) (c : HostCmd) : State :=
  let base := mapBase c
  let n := c.arg1.toNat
  let own := mapOwner c
  let s := { s with ranges := s.ranges ++ [⟨base, n, 0, 0, t, true⟩] }
  commandDone (setRights s own (rightsOf s own ++ [⟨base, 0, n / 64, mapRights c, own, 0xFFFF, 1⟩])) t c

/-- HOSTUNMAP frees the range under R226; the command is final with the last acknowledgement. A range that has been freed since the command
was taken needs nothing more. -/
def startUnmap (s : State) (t : Nat) (c : HostCmd) : State :=
  match unmapRange s t c with
  | some r => freeRange (journalSet s t c.jseq runningState 0) r (.command t c.jseq)
  | none => commandDone s t c

/-- PROXY_REPLY: a call that no longer waits takes nothing. -/
def startReply (s : State) (t : Nat) (c : HostCmd) : State :=
  match waitingProxy s t c.arg0.toNat with
  | some v => commandDone (replyProxy s v c.arg0.toNat (c.arg1 &&& 0xFF) c.arg2) t c
  | none => commandDone s t c

/-- FENCE: commands are taken in order and each is final or RUNNING once it has started, so it is DONE when it starts. -/
def startCommand (s : State) (t : Nat) (c : HostCmd) : State :=
  match c.kind.toNat with
  | 1 => startLaunch s t c
  | 2 => startSignal s t c
  | 3 => startAbort s t c
  | 4 => commandDone s t c
  | 5 => startMap s t c
  | 6 => startUnmap s t c
  | _ => startReply s t c

/-- Whether the counter of a command's WAIT has reached its value (R72). -/
def waitReached (s : State) (c : HostCmd) : Bool :=
  !waits c || decide (c.waitval.toNat ≤ (counterValue s c.waitctr.toNat).toNat)

/-- Whether a command may start: its WAIT is satisfied, and with its acquire at sys scope every write that the counter's releases cover is in
every view (R72). -/
def waitPassed (s : State) (c : HostCmd) : Bool :=
  waitReached s c && (!waits c || viewSettled s (mapGet .zero s.counterStamp c.waitctr.toNat))

/-! ### Taking an entry -/

/-- The launch record that an entry names. -/
def recordOf (s : State) (t : Nat) (b : List Byte) : List Byte :=
  if b.getD 8 0 = 1 && numAt b 24 8 % 256 = 0 && numAt b 24 8 + 256 ≤ (getTenant s t).partSize then hdmRead s t (numAt b 24 8) 256 else []

/-- Take the next entry: CONSUMED and the journal move on; the command fails, is held by its WAIT, or starts (R267, R268, R270). -/
def takeEntry (s : State) (t : Nat) : State :=
  let b := entryBytes s t
  let record := recordOf s t b
  let seq := (getTenant s t).consumed + 1
  let s := setControl (modTenant s t fun v => { v with consumed := seq }) t 0 seq
  -- MESSAGE, for a journal event that awaits service (R326)
  let s := raiseOs 0x08 (fun _ => true) s
  let (j, s) := journalAdd s t (BitVec.ofNat 64 seq) (b.getD 8 0) accepted 0 0 (journalDigest (b ++ record))
  let c := parseCommand b record j
  let s := modTenant s t fun v => { v with running := v.running ++ [(c.seq, c.flags, j)] }
  let reason := failReason s t b c
  if reason ≠ 0 then pollWindow (commandFailed s t c reason) t
  else if waitPassed s c then pollWindow (startCommand s t c) t
  else post (modTenant s t fun v => { v with held := v.held ++ [c] }) (.commandWaitRelease t)

/-- Take an entry whose kind the event serves; a window whose journal has no room stalls (R270). -/
def takeKind (t : Nat) (mine : Nat → Bool) (s : State) : Result :=
  if entryReady s t then (if mine (numAt (entryBytes s t) 8 1) then .next (takeEntry s t) else idleEvent s) else idleEvent s

/-- LAUNCH; it also takes an entry of a KIND that is not assigned, which fails. -/
def execHostLaunch (tenant : Nat) (s : State) : Result := takeKind tenant (fun k => k = 1 || k = 0 || 8 ≤ k) s
def execHostSignal (tenant : Nat) (s : State) : Result := takeKind tenant (· = 2) s
def execHostAbort (tenant : Nat) (s : State) : Result := takeKind tenant (· = 3) s
def execHostFence (tenant : Nat) (s : State) : Result := takeKind tenant (· = 4) s
def execHostMap (tenant : Nat) (s : State) : Result := takeKind tenant (· = 5) s
def execHostUnmap (tenant : Nat) (s : State) : Result := takeKind tenant (· = 6) s
def execProxyReply (tenant : Nat) (s : State) : Result := takeKind tenant (· = 7) s

/-- COMMAND_WAIT_RELEASE (R268, R72): the test acquires at sys scope; the command starts and its window goes on. -/
def execCommandWaitRelease (tenant : Nat) (s : State) : Result :=
  match (getTenant s tenant).held with
  | [] => idleEvent s
  | c :: rest =>
    if waitPassed s c then
      .next (pollWindow (startCommand (modTenant s tenant fun v => { v with held := rest }) tenant c) tenant)
    else if waitReached s c then .next (post s (.commandWaitRelease tenant))
    else idleEvent s

/-! ### Completion records (R269) -/

/-- The 32 bytes of a completion record. -/
def completionBytes (seq : Word) (j : Nat) (state reason : BitVec 8) : List Byte :=
  leBytes 8 seq.toNat ++ leBytes 8 j ++ [state, reason] ++ leBytes 14 0

/-- COMPLETION_RECORD (R269): while the ring is full, further records wait. -/
def execCompletionRecord (tenant : Nat) (s : State) : Result :=
  let v := getTenant s tenant
  match v.completions with
  | [] => idleEvent s
  | (seq, flags, j, state, reason) :: rest =>
    let ccons := numAt (hdmRead s tenant 0x10 8) 0 8
    if v.cprod - ccons = 256 then .next (post s (.completionRecord tenant))
    else
      let s := hdmWrite s tenant (0x8000 + v.cprod % 256 * 32) (completionBytes seq j state reason)
      let s := modTenant s tenant fun v => { v with cprod := v.cprod + 1, completions := rest }
      let s := setControl s tenant 0x08 (v.cprod + 1)
      let s := if flags.getLsbD 0 then sendOut s (.msix tenant 0) else s
      .next (pollWindow (if rest = [] then s else post s (.completionRecord tenant)) tenant)

end Sys2Proof.Machine
end

