-- ==== Sys2Proof/Machine/Dispatch.lean ====
section
/-!
DEFINITION. One arm for each operation and event of the opcode table: a direct call of its meaning.
-/

namespace Sys2Proof.Machine

def exec (i : Instr) (s : State) : Host.Outcome State Fault Refusal :=
  match i with
  | .add d a b => Sys2Proof.Machine.execAdd d a b s
  | .sub d a b => Sys2Proof.Machine.execSub d a b s
  | .andR d a b => Sys2Proof.Machine.execAndR d a b s
  | .orR d a b => Sys2Proof.Machine.execOrR d a b s
  | .xorR d a b => Sys2Proof.Machine.execXorR d a b s
  | .shl d a b => Sys2Proof.Machine.execShl d a b s
  | .shr d a b => Sys2Proof.Machine.execShr d a b s
  | .sra d a b => Sys2Proof.Machine.execSra d a b s
  | .slt d a b => Sys2Proof.Machine.execSlt d a b s
  | .sltu d a b => Sys2Proof.Machine.execSltu d a b s
  | .minS d a b => Sys2Proof.Machine.execMinS d a b s
  | .maxS d a b => Sys2Proof.Machine.execMaxS d a b s
  | .minu d a b => Sys2Proof.Machine.execMinu d a b s
  | .maxu d a b => Sys2Proof.Machine.execMaxu d a b s
  | .mul d a b => Sys2Proof.Machine.execMul d a b s
  | .mulh d a b => Sys2Proof.Machine.execMulh d a b s
  | .mulhu d a b => Sys2Proof.Machine.execMulhu d a b s
  | .div d a b => Sys2Proof.Machine.execDiv d a b s
  | .divu d a b => Sys2Proof.Machine.execDivu d a b s
  | .rem d a b => Sys2Proof.Machine.execRem d a b s
  | .remu d a b => Sys2Proof.Machine.execRemu d a b s
  | .clz d a => Sys2Proof.Machine.execClz d a s
  | .ctz d a => Sys2Proof.Machine.execCtz d a s
  | .popc d a => Sys2Proof.Machine.execPopc d a s
  | .bswap d a => Sys2Proof.Machine.execBswap d a s
  | .addi d a imm => Sys2Proof.Machine.execAddi d a imm s
  | .andi d a imm => Sys2Proof.Machine.execAndi d a imm s
  | .ori d a imm => Sys2Proof.Machine.execOri d a imm s
  | .xori d a imm => Sys2Proof.Machine.execXori d a imm s
  | .shli d a sh => Sys2Proof.Machine.execShli d a sh s
  | .shri d a sh => Sys2Proof.Machine.execShri d a sh s
  | .srai d a sh => Sys2Proof.Machine.execSrai d a sh s
  | .slti d a imm => Sys2Proof.Machine.execSlti d a imm s
  | .sltui d a imm => Sys2Proof.Machine.execSltui d a imm s
  | .lui d imm => Sys2Proof.Machine.execLui d imm s
  | .extu d a pos len1 => Sys2Proof.Machine.execExtu d a pos len1 s
  | .exts d a pos len1 => Sys2Proof.Machine.execExts d a pos len1 s
  | .ins d a pos len1 => Sys2Proof.Machine.execIns d a pos len1 s
  | .addpc d imm => Sys2Proof.Machine.execAddpc d imm s
  | .bcond c a b off => Sys2Proof.Machine.execBcond c a b off s
  | .jal d off => Sys2Proof.Machine.execJal d off s
  | .jalr d a imm => Sys2Proof.Machine.execJalr d a imm s
  | .yield => Sys2Proof.Machine.execYield s
  | .wfi => Sys2Proof.Machine.execWfi s
  | .eret => Sys2Proof.Machine.execEret s
  | .ebreak => Sys2Proof.Machine.execEbreak s
  | .mfsr d n => Sys2Proof.Machine.execMfsr d n s
  | .mtsr n a => Sys2Proof.Machine.execMtsr n a s
  | .safept n => Sys2Proof.Machine.execSafept n s
  | .halt => Sys2Proof.Machine.execHalt s
  | .haltRetain a => Sys2Proof.Machine.execHaltRetain a s
  | .ld sz d a off => Sys2Proof.Machine.execLd sz d a off s
  | .st sz x a off => Sys2Proof.Machine.execSt sz x a off s
  | .amo op sz d a b => Sys2Proof.Machine.execAmo op sz d a b s
  | .ord o sc => Sys2Proof.Machine.execOrd o sc s
  | .fence kinds sc => Sys2Proof.Machine.execFence kinds sc s
  | .msend d a b n => Sys2Proof.Machine.execMsend d a b n s
  | .mwait d => Sys2Proof.Machine.execMwait d s
  | .mret => Sys2Proof.Machine.execMret s
  | .mpoll d => Sys2Proof.Machine.execMpoll d s
  | .qpush q b => Sys2Proof.Machine.execQpush q b s
  | .qpop d q => Sys2Proof.Machine.execQpop d q s
  | .qpeek d q => Sys2Proof.Machine.execQpeek d q s
  | .qcnt d q => Sys2Proof.Machine.execQcnt d q s
  | .tfetch d => Sys2Proof.Machine.execTfetch d s
  | .tspawn d a => Sys2Proof.Machine.execTspawn d a s
  | .tdone => Sys2Proof.Machine.execTdone s
  | .svc d a n => Sys2Proof.Machine.execSvc d a n s
  | .svcStatusReturn h => Sys2Proof.Machine.execSvcStatusReturn h s
  | .sigc d a b sc => Sys2Proof.Machine.execSigc d a b sc s
  | .waitc d a b sc => Sys2Proof.Machine.execWaitc d a b sc s
  | .bar sc => Sys2Proof.Machine.execBar sc s
  | .gang n => Sys2Proof.Machine.execGang n s
  | .gangGatherComplete clus gather => Sys2Proof.Machine.execGangGatherComplete clus gather s
  | .grant a b => Sys2Proof.Machine.execGrant a b s
  | .revoke a b => Sys2Proof.Machine.execRevoke a b s
  | .pgreq d a b => Sys2Proof.Machine.execPgreq d a b s
  | .cpcmd d a b acq rel => Sys2Proof.Machine.execCpcmd d a b acq rel s
  | .cpcmdResume d a b => Sys2Proof.Machine.execCpcmdResume d a b s
  | .cpstat d a => Sys2Proof.Machine.execCpstat d a s
  | .twait a => Sys2Proof.Machine.execTwait a s
  | .bkcmd d a b acq rel => Sys2Proof.Machine.execBkcmd d a b acq rel s
  | .bkcmdResume d a b => Sys2Proof.Machine.execBkcmdResume d a b s
  | .colcmd d a sc => Sys2Proof.Machine.execColcmd d a sc s
  | .crot a b => Sys2Proof.Machine.execCrot a b s
  | .tdef d a => Sys2Proof.Machine.execTdef d a s
  | .tver d a => Sys2Proof.Machine.execTver d a s
  | .tkill a => Sys2Proof.Machine.execTkill a s
  | .mcfg a b => Sys2Proof.Machine.execMcfg a b s
  | .mldw a => Sys2Proof.Machine.execMldw a s
  | .mswap => Sys2Proof.Machine.execMswap s
  | .mstr a b => Sys2Proof.Machine.execMstr a b s
  | .mdrn t a => Sys2Proof.Machine.execMdrn t a s
  | .mzero => Sys2Proof.Machine.execMzero s
  | .mstat d => Sys2Proof.Machine.execMstat d s
  | .winit a b => Sys2Proof.Machine.execWinit a b s
  | .wpush d a b => Sys2Proof.Machine.execWpush d a b s
  | .wread d a => Sys2Proof.Machine.execWread d a s
  | .wflip d a => Sys2Proof.Machine.execWflip d a s
  | .wreset d a => Sys2Proof.Machine.execWreset d a s
  | .wstat d a => Sys2Proof.Machine.execWstat d a s
  | .vadd f => Sys2Proof.Machine.execVadd f s
  | .vsub f => Sys2Proof.Machine.execVsub f s
  | .vmul f => Sys2Proof.Machine.execVmul f s
  | .vmulh f => Sys2Proof.Machine.execVmulh f s
  | .vmin f => Sys2Proof.Machine.execVmin f s
  | .vmax f => Sys2Proof.Machine.execVmax f s
  | .vminu f => Sys2Proof.Machine.execVminu f s
  | .vmaxu f => Sys2Proof.Machine.execVmaxu f s
  | .vand f => Sys2Proof.Machine.execVand f s
  | .vor f => Sys2Proof.Machine.execVor f s
  | .vxor f => Sys2Proof.Machine.execVxor f s
  | .vshl f => Sys2Proof.Machine.execVshl f s
  | .vshr f => Sys2Proof.Machine.execVshr f s
  | .vsra f => Sys2Proof.Machine.execVsra f s
  | .vsadd f => Sys2Proof.Machine.execVsadd f s
  | .vssub f => Sys2Proof.Machine.execVssub f s
  | .vfadd f => Sys2Proof.Machine.execVfadd f s
  | .vfsub f => Sys2Proof.Machine.execVfsub f s
  | .vfmul f => Sys2Proof.Machine.execVfmul f s
  | .vfma f => Sys2Proof.Machine.execVfma f s
  | .vfnma f => Sys2Proof.Machine.execVfnma f s
  | .vfmin f => Sys2Proof.Machine.execVfmin f s
  | .vfmax f => Sys2Proof.Machine.execVfmax f s
  | .vfdiv f => Sys2Proof.Machine.execVfdiv f s
  | .vabs f => Sys2Proof.Machine.execVabs f s
  | .vneg f => Sys2Proof.Machine.execVneg f s
  | .vfabs f => Sys2Proof.Machine.execVfabs f s
  | .vfneg f => Sys2Proof.Machine.execVfneg f s
  | .vfsqrt f => Sys2Proof.Machine.execVfsqrt f s
  | .vrcp f => Sys2Proof.Machine.execVrcp f s
  | .vrsq f => Sys2Proof.Machine.execVrsq f s
  | .vexp2 f => Sys2Proof.Machine.execVexp2 f s
  | .vlog2 f => Sys2Proof.Machine.execVlog2 f s
  | .vsin f => Sys2Proof.Machine.execVsin f s
  | .vcos f => Sys2Proof.Machine.execVcos f s
  | .vcmpeq f => Sys2Proof.Machine.execVcmpeq f s
  | .vcmplt f => Sys2Proof.Machine.execVcmplt f s
  | .vcmpltu f => Sys2Proof.Machine.execVcmpltu f s
  | .vfcmpeq f => Sys2Proof.Machine.execVfcmpeq f s
  | .vfcmplt f => Sys2Proof.Machine.execVfcmplt f s
  | .vfcmple f => Sys2Proof.Machine.execVfcmple f s
  | .vfcmpun f => Sys2Proof.Machine.execVfcmpun f s
  | .vcvt f => Sys2Proof.Machine.execVcvt f s
  | .vperm f => Sys2Proof.Machine.execVperm f s
  | .vsel f => Sys2Proof.Machine.execVsel f s
  | .vcvti f => Sys2Proof.Machine.execVcvti f s
  | .vcvtiu f => Sys2Proof.Machine.execVcvtiu f s
  | .vredsum f => Sys2Proof.Machine.execVredsum f s
  | .vredmax f => Sys2Proof.Machine.execVredmax f s
  | .vredmin f => Sys2Proof.Machine.execVredmin f s
  | .vfredsum f => Sys2Proof.Machine.execVfredsum f s
  | .vfredmax f => Sys2Proof.Machine.execVfredmax f s
  | .vscan f => Sys2Proof.Machine.execVscan f s
  | .vdot f => Sys2Proof.Machine.execVdot f s
  | .vtdot f => Sys2Proof.Machine.execVtdot f s
  | .vunpk3 f => Sys2Proof.Machine.execVunpk3 f s
  | .vpack3 f => Sys2Proof.Machine.execVpack3 f s
  | .vhad f => Sys2Proof.Machine.execVhad f s
  | .vqnt f => Sys2Proof.Machine.execVqnt f s
  | .vld f => Sys2Proof.Machine.execVld f s
  | .vst f => Sys2Proof.Machine.execVst f s
  | .vlds f => Sys2Proof.Machine.execVlds f s
  | .vsts f => Sys2Proof.Machine.execVsts f s
  | .vgth f => Sys2Proof.Machine.execVgth f s
  | .vsct f => Sys2Proof.Machine.execVsct f s
  | .vbcast f => Sys2Proof.Machine.execVbcast f s
  | .vins f => Sys2Proof.Machine.execVins f s
  | .vext f => Sys2Proof.Machine.execVext f s
  | .vslup f => Sys2Proof.Machine.execVslup f s
  | .vsldn f => Sys2Proof.Machine.execVsldn f s
  | .vcprs f => Sys2Proof.Machine.execVcprs f s
  | .kand f => Sys2Proof.Machine.execKand f s
  | .kor f => Sys2Proof.Machine.execKor f s
  | .kxor f => Sys2Proof.Machine.execKxor f s
  | .kandn f => Sys2Proof.Machine.execKandn f s
  | .knot f => Sys2Proof.Machine.execKnot f s
  | .kcnt f => Sys2Proof.Machine.execKcnt f s
  | .kfst f => Sys2Proof.Machine.execKfst f s
  | .vdeq f => Sys2Proof.Machine.execVdeq f s
  | .vadd16 w d a => Sys2Proof.Machine.execVadd16 w d a s
  | .vsub16 w d a => Sys2Proof.Machine.execVsub16 w d a s
  | .vmul16 w d a => Sys2Proof.Machine.execVmul16 w d a s
  | .vmin16 w d a => Sys2Proof.Machine.execVmin16 w d a s
  | .vmax16 w d a => Sys2Proof.Machine.execVmax16 w d a s
  | .vand16 d a => Sys2Proof.Machine.execVand16 d a s
  | .vor16 d a => Sys2Proof.Machine.execVor16 d a s
  | .vxor16 d a => Sys2Proof.Machine.execVxor16 d a s
  | .vfadd16 w d a => Sys2Proof.Machine.execVfadd16 w d a s
  | .vfsub16 w d a => Sys2Proof.Machine.execVfsub16 w d a s
  | .vfmul16 w d a => Sys2Proof.Machine.execVfmul16 w d a s
  | .vfmin16 w d a => Sys2Proof.Machine.execVfmin16 w d a s
  | .vfmax16 w d a => Sys2Proof.Machine.execVfmax16 w d a s
  | .vmv d a => Sys2Proof.Machine.execVmv d a s
  | .vsadd16 w d a => Sys2Proof.Machine.execVsadd16 w d a s
  | .vfabs16 w d a => Sys2Proof.Machine.execVfabs16 w d a s
  | .memoryResponse op => Sys2Proof.Machine.execMemoryResponse op s
  | .homeReplyArrival op => Sys2Proof.Machine.execHomeReplyArrival op s
  | .amoHomeExecute core => Sys2Proof.Machine.execAmoHomeExecute core s
  | .messageArrival core => Sys2Proof.Machine.execMessageArrival core s
  | .handlerBudgetExhausted core => Sys2Proof.Machine.execHandlerBudgetExhausted core s
  | .waccHomeExecute core => Sys2Proof.Machine.execWaccHomeExecute core s
  | .waccFlipComplete core header => Sys2Proof.Machine.execWaccFlipComplete core header s
  | .remoteWriteApply flight => Sys2Proof.Machine.execRemoteWriteApply flight s
  | .settleWrite die key => Sys2Proof.Machine.execSettleWrite die key s
  | .hartStart core ctx => Sys2Proof.Machine.execHartStart core ctx s
  | .dispatchArbitration clus => Sys2Proof.Machine.execDispatchArbitration clus s
  | .nodeAging die => Sys2Proof.Machine.execNodeAging die s
  | .eventRecordTake clus => Sys2Proof.Machine.execEventRecordTake clus s
  | .launchEndSweep launch => Sys2Proof.Machine.execLaunchEndSweep launch s
  | .worldRetire launch => Sys2Proof.Machine.execWorldRetire launch s
  | .worldRetireScrub launch => Sys2Proof.Machine.execWorldRetireScrub launch s
  | .sliceEnd clus tenant row => Sys2Proof.Machine.execSliceEnd clus tenant row s
  | .deadlineExpiry clus tenant row => Sys2Proof.Machine.execDeadlineExpiry clus tenant row s
  | .forcedStop h => Sys2Proof.Machine.execForcedStop h s
  | .contextRelease h => Sys2Proof.Machine.execContextRelease h s
  | .hartResume core ctx => Sys2Proof.Machine.execHartResume core ctx s
  | .interruptTake h => Sys2Proof.Machine.execInterruptTake h s
  | .engineFaultDelivery h => Sys2Proof.Machine.execEngineFaultDelivery h s
  | .engineCommandStart core tag => Sys2Proof.Machine.execEngineCommandStart core tag s
  | .enginePiece core tag => Sys2Proof.Machine.execEnginePiece core tag s
  | .bulkChunkSelect die => Sys2Proof.Machine.execBulkChunkSelect die s
  | .engineCommandComplete core tag => Sys2Proof.Machine.execEngineCommandComplete core tag s
  | .mldwExecute core => Sys2Proof.Machine.execMldwExecute core s
  | .mswapExecute core => Sys2Proof.Machine.execMswapExecute core s
  | .mstrExecute gang => Sys2Proof.Machine.execMstrExecute gang s
  | .mzeroExecute gang => Sys2Proof.Machine.execMzeroExecute gang s
  | .mdrnExecute gang => Sys2Proof.Machine.execMdrnExecute gang s
  | .matrixCommandComplete core => Sys2Proof.Machine.execMatrixCommandComplete core s
  | .pageWalkComplete h => Sys2Proof.Machine.execPageWalkComplete h s
  | .plbShootdown core shoot => Sys2Proof.Machine.execPlbShootdown core shoot s
  | .plbShootdownAck core shoot => Sys2Proof.Machine.execPlbShootdownAck core shoot s
  | .atsTranslationCompletion die tenant page reply => Sys2Proof.Machine.execAtsTranslationCompletion die tenant page reply s
  | .atsInvalidationRequest tenant page len => Sys2Proof.Machine.execAtsInvalidationRequest tenant page len s
  | .atsInvalidationCompletion inval => Sys2Proof.Machine.execAtsInvalidationCompletion inval s
  | .pageRequestResponse h code => Sys2Proof.Machine.execPageRequestResponse h code s
  | .pgreqTimeout h => Sys2Proof.Machine.execPgreqTimeout h s
  | .completionTimeout core tag => Sys2Proof.Machine.execCompletionTimeout core tag s
  | .dramRequestIssue req => Sys2Proof.Machine.execDramRequestIssue req s
  | .budgetRefresh => Sys2Proof.Machine.execBudgetRefresh s
  | .krytukFlitReceive port flit => Sys2Proof.Machine.execKrytukFlitReceive port flit s
  | .remoteRequestExecute req => Sys2Proof.Machine.execRemoteRequestExecute req s
  | .cxlMemRequest req => Sys2Proof.Machine.execCxlMemRequest req s
  | .hostLaunch tenant => Sys2Proof.Machine.execHostLaunch tenant s
  | .hostSignal tenant => Sys2Proof.Machine.execHostSignal tenant s
  | .hostAbort tenant => Sys2Proof.Machine.execHostAbort tenant s
  | .hostFence tenant => Sys2Proof.Machine.execHostFence tenant s
  | .hostMap tenant => Sys2Proof.Machine.execHostMap tenant s
  | .hostUnmap tenant => Sys2Proof.Machine.execHostUnmap tenant s
  | .proxyReply tenant => Sys2Proof.Machine.execProxyReply tenant s
  | .commandWaitRelease tenant => Sys2Proof.Machine.execCommandWaitRelease tenant s
  | .completionRecord tenant => Sys2Proof.Machine.execCompletionRecord tenant s
  | .proxyTimeout tenant jseq => Sys2Proof.Machine.execProxyTimeout tenant jseq s
  | .svcNop slot => Sys2Proof.Machine.execSvcNop slot s
  | .console slot => Sys2Proof.Machine.execConsole slot s
  | .fileOpen slot => Sys2Proof.Machine.execFileOpen slot s
  | .fileRead slot => Sys2Proof.Machine.execFileRead slot s
  | .fileWrite slot => Sys2Proof.Machine.execFileWrite slot s
  | .fileClose slot => Sys2Proof.Machine.execFileClose slot s
  | .rangeAlloc slot => Sys2Proof.Machine.execRangeAlloc slot s
  | .rangeFree slot => Sys2Proof.Machine.execRangeFree slot s
  | .pageMap slot => Sys2Proof.Machine.execPageMap slot s
  | .pageUnmap slot => Sys2Proof.Machine.execPageUnmap slot s
  | .residency h status => Sys2Proof.Machine.execResidency h status s
  | .migrate slot => Sys2Proof.Machine.execMigrate slot s
  | .counterAlloc slot => Sys2Proof.Machine.execCounterAlloc slot s
  | .counterFree slot => Sys2Proof.Machine.execCounterFree slot s
  | .keyDestroy slot => Sys2Proof.Machine.execKeyDestroy slot s
  | .connOpen slot => Sys2Proof.Machine.execConnOpen slot s
  | .connSend slot => Sys2Proof.Machine.execConnSend slot s
  | .connRecv slot => Sys2Proof.Machine.execConnRecv slot s
  | .connClose slot => Sys2Proof.Machine.execConnClose slot s
  | .launchSubmit slot => Sys2Proof.Machine.execLaunchSubmit slot s
  | .launchAbort slot => Sys2Proof.Machine.execLaunchAbort slot s
  | .tenantConfig tenant cfg => Sys2Proof.Machine.execTenantConfig tenant cfg s
  | .groupConfig cfg => Sys2Proof.Machine.execGroupConfig cfg s
  | .perfRead slot => Sys2Proof.Machine.execPerfRead slot s
  | .timeRead slot => Sys2Proof.Machine.execTimeRead slot s
  | .trapReport slot => Sys2Proof.Machine.execTrapReport slot s
  | .counterAssign ctr tenant => Sys2Proof.Machine.execCounterAssign ctr tenant s
  | .isolationSet entry cfg => Sys2Proof.Machine.execIsolationSet entry cfg s
  | .layoutSet tenant base size va => Sys2Proof.Machine.execLayoutSet tenant base size va s
  | .handover step => Sys2Proof.Machine.execHandover step s
  | .getVersion => Sys2Proof.Machine.execGetVersion s
  | .getCapabilities => Sys2Proof.Machine.execGetCapabilities s
  | .negotiateAlgorithms asym hash => Sys2Proof.Machine.execNegotiateAlgorithms asym hash s
  | .getDigests => Sys2Proof.Machine.execGetDigests s
  | .getCertificate offset len => Sys2Proof.Machine.execGetCertificate offset len s
  | .challenge nonce => Sys2Proof.Machine.execChallenge nonce s
  | .getMeasurements index tenant jseq => Sys2Proof.Machine.execGetMeasurements index tenant jseq s
  | .keyExchange exch => Sys2Proof.Machine.execKeyExchange exch s
  | .finish verify => Sys2Proof.Machine.execFinish verify s
  | .keyRelease req => Sys2Proof.Machine.execKeyRelease req s
  | .firmwareImageReceive image => Sys2Proof.Machine.execFirmwareImageReceive image s
  | .firmwareActivate => Sys2Proof.Machine.execFirmwareActivate s
  | .firmwareSelftestFail => Sys2Proof.Machine.execFirmwareSelftestFail s
  | .sensorRead id inst => Sys2Proof.Machine.execSensorRead id inst s
  | .sensorUpdate id inst => Sys2Proof.Machine.execSensorUpdate id inst s
  | .coldReset => Sys2Proof.Machine.execColdReset s
  | .warmReset => Sys2Proof.Machine.execWarmReset s
  | .dieReset die => Sys2Proof.Machine.execDieReset die s
  | .clusterReset clus => Sys2Proof.Machine.execClusterReset clus s
  | .coreReset core => Sys2Proof.Machine.execCoreReset core s
  | .engineReset core unit => Sys2Proof.Machine.execEngineReset core unit s
  | .bulkReset die unit => Sys2Proof.Machine.execBulkReset die unit s
  | .walkerReset die unit => Sys2Proof.Machine.execWalkerReset die unit s
  | .linkReset port => Sys2Proof.Machine.execLinkReset port s
  | .tenantReset tenant => Sys2Proof.Machine.execTenantReset tenant s
  | .thermalThrottle steps => Sys2Proof.Machine.execThermalThrottle steps s
  | .powerCapSet watts => Sys2Proof.Machine.execPowerCapSet watts s
  | .clusterIdleEntry clus => Sys2Proof.Machine.execClusterIdleEntry clus s
  | .clusterWake clus => Sys2Proof.Machine.execClusterWake clus s
  | .rightsRequestArrival die => Sys2Proof.Machine.execRightsRequestArrival die s
  | .tensorTableOperation => Sys2Proof.Machine.execTensorTableOperation s
  | .serviceTimerExpiry h => Sys2Proof.Machine.execServiceTimerExpiry h s
  | .linkTraining dev grouped => Sys2Proof.Machine.execLinkTraining dev grouped s

end Sys2Proof.Machine
end

