-- ==== Sys2Proof/Machine/Issue.lean ====
section
/-!
DEFINITION. Issue: which context of which core issues (R73), the fetch of its instruction under right X (R218, R312, R337), the
operands it waits for (R89, R90), and the pairing of ORD and GANG with what follows them (R113, R178).
-/

namespace Sys2Proof.Machine

/-! ### Fetch -/

/-- What a fetch finds: an instruction of 2 or 4 bytes, a trap, or a translation to wait for. -/
inductive Fetched
  | word (s : State) (w len : Nat)
  | trap (t : Trap)
  | walk (va : Nat)
  /-- The line is not served to an exhausted tenant now (R279). -/
  | held (ch tenant : Nat)

/-- The `n` bytes of code at an address within one line, through the instruction cache; a check or a read that fails names the instruction's
address (R337). -/
def fetchPart (s : State) (h : Nat) (pc at' : Word) (n : Nat) : Fetched :=
  match checkAccess s h at' (.exec n) with
  | .ok s t =>
    let hit := (getCore s (coreOf h)).icache.any (lineServes t)
    match if hit then none else heldFor s (getHart s h).launch t.key with
    | some (ch, tn) => .held ch tn
    | none =>
      let s := if hit then s else sendReads (hartAgent s h) s [t]
      match fetchLine s (coreOf h) t with
      | (s, some b) => .word s (leNat (slice b (t.va % 64) n)) n
      | (_, none) => .trap ⟨0x10, pc, 0⟩
  | .trap t => .trap { t with eval := pc }
  | .walk va => .walk va

/-- The instruction at an address: bit 0 of its first halfword gives its length (R312). Its second halfword comes from the line of its
first, or from the next line with a check of its own. -/
def fetch (s : State) (h : Nat) (pc : Word) : Fetched :=
  if pc.toNat % 64 = 62 then
    match fetchPart s h pc pc 2 with
    | .word s lo _ =>
      if lo % 2 = 0 then .word s lo 2
      else
        match fetchPart s h pc (pc + 2) 2 with
        | .word s hi _ => .word s (lo + 65536 * hi) 4
        | r => r
    | r => r
  else
    match fetchPart s h pc pc 4 with
    | .word s w _ => if w % 2 = 0 then .word s (w % 65536) 2 else .word s w 4
    | r => r

/-- The instruction of a fetched word. -/
def decodeFetched (w len : Nat) : Option Instr :=
  if len = 2 then decodeHalf (BitVec.ofNat 16 w) else decodeWord (BitVec.ofNat 32 w)

/-! ### Units -/

/-- Whether an ORD may prefix an instruction with its order and scope (Table 6.1, R113). -/
def ordAccepts (o : Order) (sc : Scope) : Instr → Bool
  | .ld _ _ _ _ | .vld _ | .vlds _ | .vgth _ => decide (o = .relaxed) || decide (o = .acq) || decide (o = .seq)
  | .st _ _ _ _ | .vst _ | .vsts _ | .vsct _ => decide (o = .relaxed) || decide (o = .rel) || decide (o = .seq)
  | .amo _ _ _ _ _ | .winit _ _ | .wpush _ _ _ | .wread _ _ | .wflip _ _ | .wreset _ _ | .wstat _ _ => true
  | .msend d _ _ _ => decide (o = .relaxed) || decide (o = .rel) || decide (d ≠ 0)
  | .cpcmd _ _ _ _ _ | .cpcmdResume _ _ _ | .bkcmd _ _ _ _ _ | .bkcmdResume _ _ _ | .colcmd _ _ _ =>
    (decide (o = .relaxed) || decide (o = .rel)) && decide (sc ≠ .hart)
  | _ => false

/-- The joint instructions (R173). -/
def isJoint : Instr → Bool
  | .mzero | .mstr _ _ | .mdrn _ _ => true
  | _ => false

/-- Whether the instruction may follow the unit head before it. -/
def pairs (u : Option UnitHead) (i : Instr) : Bool :=
  match u with
  | none => true
  | some (.ord _ o sc) => ordAccepts o sc i
  | some (.gang _ _) => isJoint i

/-! ### Operands -/

/-- The first source register whose result has not returned (R89). -/
def pendingSource (v : Hart) (i : Instr) : Option Nat :=
  let scalar := (scalarSources i).map (fun r : Reg => r.toNat)
  let vector := (vectorSources i).map (fun r : VReg => 32 + r.toNat)
  (scalar.filter (· ≠ 0) ++ vector).find? fun r => mapGet 0 v.xpend r ≠ 0

/-- The first source register that holds data of a failed read (R90), and the address. -/
def poisonedSource (v : Hart) (i : Instr) : Option (Option Word) :=
  let regs := ((scalarSources i).map (·.toNat)).filter (· ≠ 0) ++ (vectorSources i).map fun r => 32 + r.toNat
  (v.poison.find? fun e => regs.contains e.1).map (·.2)

/-- Whether an instruction of a hart traps by steps 1 to 3 of R323 whatever its operands hold: an encoding or scope that it may not use, a register
that is not open to its mode, or a dead vector source. Those checks come before an operand's failed read. -/
def trapsFirst (s : State) (v : Hart) (i : Instr) : Bool :=
  (deadSource v i).isSome ||
    match i with
    | .sigc _ _ _ sc | .waitc _ _ _ sc => !bindsScope s v sc
    | .colcmd _ _ sc => !collectiveScope sc || !bindsScope s v sc
    | .crot _ _ => !bindsScope s v .clus
    | .cpcmd _ _ _ acq rel | .bkcmd _ _ _ acq rel => !engineScope s v acq || !engineScope s v rel
    | .svc _ _ n => n.msb
    | .mtsr n _ => !assignedRegister n || !srWritable v.mode n
    | _ => false

/-! ### The hart that issues -/

/-- What there is to do for a hart at its issue slot. -/
inductive Turn
  /-- Its launch has ended: it stops (R41). -/
  | kill
  /-- The launch supervisor acts for it. -/
  | supervise (t : SupTask)
  /-- A handler that has used its instructions (R50). -/
  | budget
  | interrupt
  | engineFault
  | stopAtWait
  | forced
  | instruction
  deriving DecidableEq, Repr

/-- A running hart whose launch has ended, at an instruction boundary outside a unit and waiting for no reply (R41). -/
def killDue (s : State) (v : Hart) : Bool :=
  v.unit.isNone && !replyWait v.wait && decide (v.launch ≠ 0) &&
    (match getLaunch s v.launch with
     | some l => decide (l.phase ≠ .running)
     | none => false)

/-- A hart may execute its instruction: it waits for nothing that has not come about, and its core has a slot free (R74). -/
def mayExecute (s : State) (h : Nat) : Bool := waitOver s h && decide (inFlight s (coreOf h) < 256)

/-- What a context does next, if it is ready. -/
def turnOf (s : State) (h : Nat) : Option Turn :=
  let v := getHart s h
  if v.tenure ≠ .running then none
  else if isHandler h then
    if 4096 ≤ v.budget then some .budget else if mayExecute s h then some .instruction else none
  else if killDue s v then some .kill
  else
    match v.sup with
    | some t => if superviseReady s h t then some (.supervise t) else none
    | none =>
      if (dueInterrupt v).isSome && (v.wait.isNone || waitOver s h || decide (v.wait = some .interrupt)) then some .interrupt
      else if (dueFault v).isSome then some .engineFault
      else if stopWaits v then (if busyHart s h then none else some .stopAtWait)
      else if forcedOut v then (if busyHart s h then none else some .forced)
      else if mayExecute s h then some .instruction
      else none

/-- Contexts 0 to 7 in round-robin order after the last one to issue (R73). -/
def roundRobin (last : Nat) : List Nat := (List.range 8).map fun i => (last + 1 + i) % 8

/-- The context of a core that issues in this cycle (R73). -/
def coreTurn (s : State) (core : Nat) : Option Nat :=
  let c := getCore s core
  let hand := (turnOf s (hartKey core 8)).isSome
  let hart := (roundRobin c.last).find? fun j => (turnOf s (hartKey core j)).isSome
  if hand && ((s.cycles - c.cycleBase) % 3 = 0 || hart.isNone) then some 8 else hart

/-- Cores that have a context. -/
def activeCores (s : State) : List Nat :=
  s.harts.foldl (fun acc e =>
    if decide (e.2.tenure = .running) && !acc.contains (coreOf e.1) then acc ++ [coreOf e.1] else acc) []

/-- The harts that could issue, one for each core that has a ready context. -/
def readyHarts (s : State) : List Nat :=
  if heldInReset s then []
  else (activeCores s).filterMap fun g => (coreTurn s g).map (hartKey g)

/-- One of several, by a free choice. -/
def chosen (s : State) (place : Nat) : List Nat → Option Nat
  | [] => none
  | [h] => some h
  | l => l[Config.choose s.tick place % l.length]?

/-- The hart is about to execute: what it waited for is over. -/
def enterTurn (s : State) (h : Nat) : State :=
  modHart { s with cur := h } h fun v => { v with wait := none }

/-- Whether a hart is left waiting with its instruction not issued. -/
def stalled (s : State) (h : Nat) : Bool :=
  match (getHart s h).wait with
  | some w => unissued w
  | none => false

/-- A context had the core's issue slot: the round-robin order (R73) and the contexts that yielded to it (R472). -/
def noteTurn (s : State) (h : Nat) : State :=
  let core := coreOf h
  let s := if isHandler h then s else modCore s core fun c => { c with last := ctxOf h }
  if isHandler h then s
  else
    (List.range 8).foldl (fun s j =>
      let k := hartKey core j
      match (getHart s k).wait with
      | some (.yield _) => if k = h then s else modHart s k fun v => { v with wait := none }
      | _ => s) s

/-- The context has issued: its turn, a handler's instruction count (R50) and the count since a deadline (R77). -/
def noteIssue (s : State) (h : Nat) : State :=
  modHart (noteTurn s h) h fun v =>
    { v with
      budget := if isHandler h && decide (v.tenure = .running) then v.budget + 1 else v.budget
      preempt :=
        match v.preempt with
        | .overdue n => .overdue (n + 1)
        | p => p }

/-- The state after an instruction of a hart, its issue slot accounted for unless the instruction has not issued (R74), the slices of its
core's tenants those of the rows that its matrix configuration now makes (R75). -/
def creditIssue (s : State) (h : Nat) : State := keepSlices (if stalled s h then s else noteIssue s h) (coreOf h)

/-! ### The length of an access (R240) -/

/-- Selected elements of an instruction under a mask. -/
def selectedCount (s : State) (h : Hart) (mask : BitVec 3) (n : Nat) : Nat :=
  ((List.range n).filter fun i => selects s h mask i).length

/-- Bytes of the elements of a vector memory access (Table 14.7). -/
def vmRemain (s : State) (h : Hart) (f : VmFmt) (line : Bool) : Nat :=
  let w := 2 ^ f.et.toNat
  if line && f.mask = 0 then 64 else w * selectedCount s h f.mask (64 / w)

/-- REMAIN of the record of a refused instruction (Table 14.7); of a TDEF that the table itself refuses, `noteExtent` gives it. -/
def remainOf (s : State) (h : Nat) (i : Instr) : Nat :=
  let v := getHart s h
  match i with
  | .ld sz _ _ _ =>
    (match sz with
     | .b | .bu => 1
     | .h | .hu => 2
     | .w | .wu => 4
     | .d => 8)
  | .st sz _ _ _ =>
    (match sz with
     | .b => 1
     | .h => 2
     | .w => 4
     | .d => 8)
  | .amo _ sz _ _ _ => if sz = .w then 4 else 8
  | .vld f | .vst f => vmRemain s v f true
  | .vlds f | .vsts f | .vgth f | .vsct f => vmRemain s v f false
  | .winit _ b =>
    let cfg := (readX v b).toNat
    let slot := if field cfg 8 8 = 2 then 4 else 8
    64 + field cfg 16 13 * slot
  | .wpush _ _ _ | .wread _ _ | .wflip _ _ | .wreset _ _ | .wstat _ _ => 64
  | .svc _ _ _ => 8
  | .sigc _ _ _ _ | .waitc _ _ _ _ => 8
  | .tspawn _ _ => 128
  | .tdef _ _ => 64
  | .tkill _ | .tver _ _ => 64
  | .grant _ b | .revoke _ b => 64 * field (readX v b).toNat 0 40
  | .crot _ b => (readX v b).toNat
  | _ => 0

/-- A hart about to execute an instruction of `len` bytes: where its unit ends, and the length of its access, for the record of a refusal
(R240). -/
def noteUnit (s : State) (h len : Nat) (remain : Nat) : State :=
  modHart s h fun v => { v with after := v.pc + BitVec.ofNat 64 len, remain := BitVec.ofNat 64 remain }

/-- The length of an instruction whose fetch is refused: its first halfword tells it, where that may be fetched (R312); otherwise nothing
does. -/
def refusedLen (s : State) (h : Nat) (pc : Word) : Nat :=
  match fetchPart s h pc pc 2 with
  | .word _ w _ => if w % 2 = 0 then 2 else 4
  | _ => if Config.freeBool s.tick 20 then 2 else 4

/-! ### Issue -/

/-- What an issue slot comes to: a result, or an instruction to execute. -/
inductive Issued
  | done (r : Result)
  | run (s : State) (i : Instr)

/-- Fetch, decode and check the operands of the instruction of a hart (R322, R89, R90). -/
def issueInstr (s : State) (h : Nat) : Issued :=
  let v := getHart s h
  match fetch s h v.pc with
  | .trap t => .done (.next (noteIssue (takeTrap (noteUnit { s with cur := h } h (refusedLen s h v.pc) 0) h t) h))
  | .walk va => .done (waitWalk { s with cur := h } .fetch va)
  | .held ch t => .done (waitFor { s with cur := h } (.budget ch t))
  | .word s w len =>
    match decodeFetched w len with
    | none => .done (.next (noteIssue (takeTrap { s with cur := h } h ⟨0x01, BitVec.ofNat 64 w, 0⟩) h))
    | some i =>
      if !pairs v.unit i then .done (.next (noteIssue (takeTrap { s with cur := h } h ⟨0x01, BitVec.ofNat 64 w, 0⟩) h))
      else
        match pendingSource v i with
        | some r => .done (waitFor { s with cur := h } (.operand r))
        | none =>
          match if trapsFirst s v i then none else poisonedSource v i with
          | some a => .done (.next (noteIssue (takeTrap { s with cur := h } h ⟨0x10, a.getD 0, 0⟩) h))
          | none => .run (noteUnit (enterTurn s h) h len (remainOf s h i)) i

end Sys2Proof.Machine
end

