-- ==== Sys2Proof/Machine/RunEvent.lean ====
section
/-!
DEFINITION. What happens when an event of the agenda is taken: the meaning that `exec` gives the constructor of `Instr` of the
same name. And one turn of a hart.
-/

namespace Sys2Proof.Machine

/-- The meaning of an event. -/
def runEvent (e : Event) (s : State) : Result :=
  match e with
  | .svcStatusReturn h => execSvcStatusReturn h s
  | .gangGatherComplete clus gather => execGangGatherComplete clus gather s
  | .memoryResponse op => execMemoryResponse op s
  | .homeReplyArrival op => execHomeReplyArrival op s
  | .amoHomeExecute core => execAmoHomeExecute core s
  | .messageArrival core => execMessageArrival core s
  | .handlerBudgetExhausted core => execHandlerBudgetExhausted core s
  | .waccHomeExecute core => execWaccHomeExecute core s
  | .waccFlipComplete core header => execWaccFlipComplete core header s
  | .remoteWriteApply flight => execRemoteWriteApply flight s
  | .settleWrite die key => execSettleWrite die key s
  | .hartStart core ctx => execHartStart core ctx s
  | .dispatchArbitration clus => execDispatchArbitration clus s
  | .nodeAging die => execNodeAging die s
  | .eventRecordTake clus => execEventRecordTake clus s
  | .launchEndSweep launch => execLaunchEndSweep launch s
  | .worldRetire launch => execWorldRetire launch s
  | .worldRetireScrub launch => execWorldRetireScrub launch s
  | .sliceEnd clus tenant row => execSliceEnd clus tenant row s
  | .deadlineExpiry clus tenant row => execDeadlineExpiry clus tenant row s
  | .forcedStop h => execForcedStop h s
  | .contextRelease h => execContextRelease h s
  | .hartResume core ctx => execHartResume core ctx s
  | .interruptTake h => execInterruptTake h s
  | .engineFaultDelivery h => execEngineFaultDelivery h s
  | .engineCommandStart core tag => execEngineCommandStart core tag s
  | .enginePiece core tag => execEnginePiece core tag s
  | .bulkChunkSelect die => execBulkChunkSelect die s
  | .engineCommandComplete core tag => execEngineCommandComplete core tag s
  | .mldwExecute core => execMldwExecute core s
  | .mswapExecute core => execMswapExecute core s
  | .mstrExecute gang => execMstrExecute gang s
  | .mzeroExecute gang => execMzeroExecute gang s
  | .mdrnExecute gang => execMdrnExecute gang s
  | .matrixCommandComplete core => execMatrixCommandComplete core s
  | .pageWalkComplete h => execPageWalkComplete h s
  | .plbShootdown core shoot => execPlbShootdown core shoot s
  | .plbShootdownAck core shoot => execPlbShootdownAck core shoot s
  | .atsTranslationCompletion die tenant page reply => execAtsTranslationCompletion die tenant page reply s
  | .atsInvalidationRequest tenant page len => execAtsInvalidationRequest tenant page len s
  | .atsInvalidationCompletion inval => execAtsInvalidationCompletion inval s
  | .pageRequestResponse h code => execPageRequestResponse h code s
  | .pgreqTimeout h => execPgreqTimeout h s
  | .completionTimeout core tag => execCompletionTimeout core tag s
  | .dramRequestIssue req => execDramRequestIssue req s
  | .budgetRefresh => execBudgetRefresh s
  | .krytukFlitReceive port flit => execKrytukFlitReceive port flit s
  | .remoteRequestExecute req => execRemoteRequestExecute req s
  | .cxlMemRequest req => execCxlMemRequest req s
  | .hostLaunch tenant => execHostLaunch tenant s
  | .hostSignal tenant => execHostSignal tenant s
  | .hostAbort tenant => execHostAbort tenant s
  | .hostFence tenant => execHostFence tenant s
  | .hostMap tenant => execHostMap tenant s
  | .hostUnmap tenant => execHostUnmap tenant s
  | .proxyReply tenant => execProxyReply tenant s
  | .commandWaitRelease tenant => execCommandWaitRelease tenant s
  | .completionRecord tenant => execCompletionRecord tenant s
  | .proxyTimeout tenant jseq => execProxyTimeout tenant jseq s
  | .svcNop slot => execSvcNop slot s
  | .console slot => execConsole slot s
  | .fileOpen slot => execFileOpen slot s
  | .fileRead slot => execFileRead slot s
  | .fileWrite slot => execFileWrite slot s
  | .fileClose slot => execFileClose slot s
  | .rangeAlloc slot => execRangeAlloc slot s
  | .rangeFree slot => execRangeFree slot s
  | .pageMap slot => execPageMap slot s
  | .pageUnmap slot => execPageUnmap slot s
  | .residency h status => execResidency h status s
  | .migrate slot => execMigrate slot s
  | .counterAlloc slot => execCounterAlloc slot s
  | .counterFree slot => execCounterFree slot s
  | .keyDestroy slot => execKeyDestroy slot s
  | .connOpen slot => execConnOpen slot s
  | .connSend slot => execConnSend slot s
  | .connRecv slot => execConnRecv slot s
  | .connClose slot => execConnClose slot s
  | .launchSubmit slot => execLaunchSubmit slot s
  | .launchAbort slot => execLaunchAbort slot s
  | .tenantConfig tenant cfg => execTenantConfig tenant cfg s
  | .groupConfig cfg => execGroupConfig cfg s
  | .perfRead slot => execPerfRead slot s
  | .timeRead slot => execTimeRead slot s
  | .trapReport slot => execTrapReport slot s
  | .counterAssign ctr tenant => execCounterAssign ctr tenant s
  | .isolationSet entry cfg => execIsolationSet entry cfg s
  | .layoutSet tenant base size va => execLayoutSet tenant base size va s
  | .handover step => execHandover step s
  | .getVersion => execGetVersion s
  | .getCapabilities => execGetCapabilities s
  | .negotiateAlgorithms asym hash => execNegotiateAlgorithms asym hash s
  | .getDigests => execGetDigests s
  | .getCertificate offset len => execGetCertificate offset len s
  | .challenge nonce => execChallenge nonce s
  | .getMeasurements index tenant jseq => execGetMeasurements index tenant jseq s
  | .keyExchange exch => execKeyExchange exch s
  | .finish verify => execFinish verify s
  | .keyRelease req => execKeyRelease req s
  | .firmwareImageReceive image => execFirmwareImageReceive image s
  | .firmwareActivate => execFirmwareActivate s
  | .firmwareSelftestFail => execFirmwareSelftestFail s
  | .sensorRead id inst => execSensorRead id inst s
  | .sensorUpdate id inst => execSensorUpdate id inst s
  | .coldReset => execColdReset s
  | .warmReset => execWarmReset s
  | .dieReset die => execDieReset die s
  | .clusterReset clus => execClusterReset clus s
  | .coreReset core => execCoreReset core s
  | .engineReset core unit => execEngineReset core unit s
  | .bulkReset die unit => execBulkReset die unit s
  | .walkerReset die unit => execWalkerReset die unit s
  | .linkReset port => execLinkReset port s
  | .tenantReset tenant => execTenantReset tenant s
  | .thermalThrottle steps => execThermalThrottle steps s
  | .powerCapSet watts => execPowerCapSet watts s
  | .clusterIdleEntry clus => execClusterIdleEntry clus s
  | .clusterWake clus => execClusterWake clus s
  | .rightsRequestArrival die => execRightsRequestArrival die s
  | .tensorTableOperation => execTensorTableOperation s
  | .serviceTimerExpiry h => execServiceTimerExpiry h s
  | .linkTraining dev grouped => execLinkTraining dev grouped s

/-- One turn: the hart chosen issues an instruction, or something is done to it at its boundary. -/
def issue (s : State) : Issued :=
  match chosen s 2 (readyHarts s) with
  | none => .done (.next s)
  | some h =>
    match turnOf s h with
    | none => .done (.next s)
    | some .kill => .done (.next (killHart s h))
    | some (.supervise t) => .done (.next (supervise (noteTurn { s with cur := h } h) h t))
    | some .budget => .done (execHandlerBudgetExhausted (coreOf h) s)
    | some .interrupt => .done (execInterruptTake h s)
    | some .engineFault => .done (execEngineFaultDelivery h s)
    | some .stopAtWait => .done (.next (waitStop s h))
    | some .forced => .done (execForcedStop h s)
    | some .instruction => issueInstr s h

end Sys2Proof.Machine
end

