-- ==== Sys2Proof/Machine/Step.lean ====
section
/-!
DEFINITION. One step of the machine: an event of the agenda, or the turn of one hart.
-/

namespace Sys2Proof.Machine

/-- Time passes at a step: an amount that nothing fixes (R9). -/
def pass (s : State) : State :=
  { s with
    tick := s.tick + 1
    time := s.time + Config.stepTime s.tick
    cycles := s.cycles + Config.stepCycles s.tick }

/-- A next state with the time of the step passed. -/
def passed : Result → Result
  | .next s => .next (pass s)
  | .fault f => .fault f
  | .refused r => .refused r

/-- An outcome with the issue slot of the hart accounted for (R73, R74). -/
def credited (h : Nat) : Result → Result
  | .next s => .next (creditIssue s h)
  | .fault f => .fault f
  | .refused r => .refused r

/-- The turn of a hart. -/
def issueStep (s : State) : Result :=
  match issue s with
  | .done r => r
  | .run s i => credited s.cur (exec i s)

/-- Which of the events that may happen is taken now: none means that a hart has its turn. -/
def nextEvent (s : State) : Option Nat :=
  match s.agenda with
  | [] => none
  | l =>
    let k := Config.choose s.tick 1 % (l.length + 1)
    if k < l.length then some k else none

/-- One step. -/
def step (s : State) : Host.Outcome State Fault Refusal :=
  passed
    (match nextEvent s with
     | none => issueStep s
     | some k =>
       match s.agenda[k]? with
       | some e => runEvent e { s with agenda := s.agenda.eraseIdx k }
       | none => .next s)

/-- Where `withFetchWord` places an instruction: the first byte of the first vault. -/
def fetchBase : Nat := vaultBase

/-- The bytes of an instruction of `nbits` bits as memory holds them, the bits above zero, 8 bytes in all. -/
def fetchBytes (nbits w : Nat) : List Byte := leBytes 8 (w % 2 ^ nbits)

/-- Context 0 of core 0 runs, for no launch, at `fetchBase`, alone on the device. -/
def fetchHart (h : Hart) : Hart :=
  { h with
    tenure := .running, mode := .U, pc := BitVec.ofNat 64 fetchBase, launch := 0, faults := [], ipend := 0, wait := none
    unit := none, xpend := [], poison := [], walk := none, preempt := .none, sup := none }

/-- The machine about to fetch and run one instruction: the instruction lies at `fetchBase` in every view, in a range whose owner
may execute it, and the hart that fetches it is the only one. -/
def State.withFetchWord (s : State) (nbits w : Nat) : State :=
  let h := fetchHart (getHart s 0)
  let own := h.sr.own
  let s := applyAll s fetchBase (fetchBytes nbits w)
  let s := setRights s own (⟨fetchBase, 0, 1, rightX, own, 0xFFFF, 1⟩ :: rightsOf s own)
  { s with
    agenda := []
    harts := [(0, h)]
    cores := mapMod .reset s.cores 0 fun c => { c with plb := [], icache := [] }
    ranges := ⟨fetchBase, 64, 0, 0, 0, false⟩ :: s.ranges
    badLines := s.badLines.filter (· ≠ fetchBase / 64)
    firmware := { s.firmware with bootState := 0 } }

end Sys2Proof.Machine
end

