-- ==== Sys2Proof/Certificates/Slice0/Obligations.lean ====
section
/-!
DEFINITION. The statements about the model. Each says which rules of the spec it rests on.
-/

namespace Sys2Proof.Claims
end Sys2Proof.Claims

section

open Sys2Proof Sys2Proof.Machine Sys2Proof.Claims

/-! ### What the statements are written with -/

namespace Sys2Proof.Claims

/-- Nothing but the harts has changed, and of them the executing one alone: every view of memory, the memory outside the
device, every core, cluster, die and table reads as before. -/
structure OnlyMe (s t : State) : Prop where
  rest : t = { s with harts := t.harts }
  others : ∀ k, k ≠ s.cur → getHart t k = getHart s k
  memory : ∀ die key, viewByte t die key = viewByte s die key

/-- The instruction is done with: the PC stands at `pc` and its unit, its wait and its walk are over; x[d] holds `v` unless d
is x0, which stays 0; every other register, every flag and every special register is as before. -/
structure WritesX (s t : State) (d : Reg) (v pc : Word) : Prop where
  frame : OnlyMe s t
  reads : ∀ r, readX (me t) r = if r = 0 then 0 else if r = d then v else readX (me s) r
  hart : me t =
    { me s with
      pc := pc
      unit := none
      wait := none
      met := none
      walk := none
      x := (me t).x
      xpend := if d = 0 then (me s).xpend else mapErase (me s).xpend d.toNat
      poison := if d = 0 then (me s).poison else mapErase (me s).poison d.toNat }

/-- The word of a Boolean. -/
def truth (p : Prop) [Decidable p] : Word := if p then 1 else 0

/-- The bits of a word in order, counted from bit 0 up. -/
def bitsUp (x : Word) : List Bool := (List.range 64).map fun i => x.getLsbD i

/-- Number of leading elements that are false. -/
def zerosAhead (l : List Bool) : Nat := (l.takeWhile fun b => !b).length

/-- Major 0x01 (Table 20.6): fn, d, a, b, the example of its entry, and the result as the entries give it, in the integers. -/
def majorOne : Instr → Option (Nat × Reg × Reg × Reg × (Word → Word → Word))
  | .add d a b => some (0x000, d, a, b, fun x y => BitVec.ofNat 64 (x.toNat + y.toNat))
  | .sub d a b => some (0x001, d, a, b, fun x y => BitVec.ofInt 64 ((x.toNat : Int) - y.toNat))
  | .andR d a b => some (0x002, d, a, b, fun x y => BitVec.ofNat 64 (x.toNat &&& y.toNat))
  | .orR d a b => some (0x003, d, a, b, fun x y => BitVec.ofNat 64 (x.toNat ||| y.toNat))
  | .xorR d a b => some (0x004, d, a, b, fun x y => BitVec.ofNat 64 (x.toNat ^^^ y.toNat))
  | .shl d a b => some (0x005, d, a, b, fun x y => BitVec.ofNat 64 (x.toNat * 2 ^ (y.toNat % 64)))
  | .shr d a b => some (0x006, d, a, b, fun x y => BitVec.ofNat 64 (x.toNat / 2 ^ (y.toNat % 64)))
  | .sra d a b => some (0x007, d, a, b, fun x y => BitVec.ofInt 64 (x.toInt / 2 ^ (y.toNat % 64)))
  | .slt d a b => some (0x008, d, a, b, fun x y => truth (x.toInt < y.toInt))
  | .sltu d a b => some (0x009, d, a, b, fun x y => truth (x.toNat < y.toNat))
  | .minS d a b => some (0x00A, d, a, b, fun x y => if x.toInt ≤ y.toInt then x else y)
  | .maxS d a b => some (0x00B, d, a, b, fun x y => if x.toInt ≤ y.toInt then y else x)
  | .minu d a b => some (0x00C, d, a, b, fun x y => if x.toNat ≤ y.toNat then x else y)
  | .maxu d a b => some (0x00D, d, a, b, fun x y => if x.toNat ≤ y.toNat then y else x)
  | .mul d a b => some (0x010, d, a, b, fun x y => BitVec.ofNat 64 (x.toNat * y.toNat))
  | .mulh d a b => some (0x011, d, a, b, fun x y => BitVec.ofInt 64 (x.toInt * y.toInt / 2 ^ 64))
  | .mulhu d a b => some (0x012, d, a, b, fun x y => BitVec.ofNat 64 (x.toNat * y.toNat / 2 ^ 64))
  | .div d a b => some (0x014, d, a, b, fun x y =>
      if y = 0 then BitVec.allOnes 64
      else if x.toInt = -2 ^ 63 ∧ y.toInt = -1 then x
      else BitVec.ofInt 64 (x.toInt.tdiv y.toInt))
  | .divu d a b => some (0x015, d, a, b, fun x y =>
      if y = 0 then BitVec.allOnes 64 else BitVec.ofNat 64 (x.toNat / y.toNat))
  | .rem d a b => some (0x016, d, a, b, fun x y =>
      if y = 0 then x
      else if x.toInt = -2 ^ 63 ∧ y.toInt = -1 then 0
      else BitVec.ofInt 64 (x.toInt.tmod y.toInt))
  | .remu d a b => some (0x017, d, a, b, fun x y =>
      if y = 0 then x else BitVec.ofNat 64 (x.toNat % y.toNat))
  | .clz d a => some (0x018, d, a, 0, fun x _ => BitVec.ofNat 64 (zerosAhead (bitsUp x).reverse))
  | .ctz d a => some (0x019, d, a, 0, fun x _ => BitVec.ofNat 64 (zerosAhead (bitsUp x)))
  | .popc d a => some (0x01A, d, a, 0, fun x _ => BitVec.ofNat 64 ((bitsUp x).countP fun b => b))
  | .bswap d a => some (0x01B, d, a, 0, fun x _ =>
      x.extractLsb' 0 8 ++ x.extractLsb' 8 8 ++ x.extractLsb' 16 8 ++ x.extractLsb' 24 8 ++ x.extractLsb' 32 8 ++
        x.extractLsb' 40 8 ++ x.extractLsb' 48 8 ++ x.extractLsb' 56 8)
  | _ => none

/-- A sign-extended immediate as a word. -/
def sext14 (i : BitVec 14) : Word := BitVec.ofInt 64 i.toInt

/-- Bits pos + len − 1 to pos of a word. -/
def cut (x : Word) (pos len : Nat) : Nat := x.toNat / 2 ^ pos % 2 ^ len

/-- The immediate forms: d and the result from the PC and the registers (majors 0x02 to 0x0D and 0x0F). -/
def immediateForm (pc : Word) (x : Reg → Word) : Instr → Option (Reg × Word)
  | .addi d a i => some (d, x a + sext14 i)
  | .andi d a i => some (d, x a &&& sext14 i)
  | .ori d a i => some (d, x a ||| sext14 i)
  | .xori d a i => some (d, x a ^^^ sext14 i)
  | .shli d a n => some (d, BitVec.ofNat 64 ((x a).toNat * 2 ^ n.toNat))
  | .shri d a n => some (d, BitVec.ofNat 64 ((x a).toNat / 2 ^ n.toNat))
  | .srai d a n => some (d, BitVec.ofInt 64 ((x a).toInt / 2 ^ n.toNat))
  | .slti d a i => some (d, truth ((x a).toInt < (sext14 i).toInt))
  | .sltui d a i => some (d, truth ((x a).toNat < (sext14 i).toNat))
  | .lui d i => some (d, BitVec.ofInt 64 (i.toInt * 8192))
  | .addpc d i => some (d, BitVec.ofInt 64 (pc.toNat + i.toInt * 8192))
  | .extu d a pos len1 => some (d, BitVec.ofNat 64 (cut (x a) pos.toNat (len1.toNat + 1)))
  | .exts d a pos len1 =>
    let v := cut (x a) pos.toNat (len1.toNat + 1)
    some (d, BitVec.ofInt 64 (if v < 2 ^ len1.toNat then (v : Int) else (v : Int) - 2 ^ (len1.toNat + 1)))
  | _ => none

end Sys2Proof.Claims

/-- R329, R335, R396, R381 and the other entries of major 0x01: the encoding, the result for all operands in every mode and in
the handler context, and that nothing but x[d] and the PC changes. -/
def Obligations.RegisterArithmetic : Prop :=
  ∀ i fn d a b f, majorOne i = some (fn, d, a, b, f) →
    encodeWord i = BitVec.ofNat 9 fn ++ b ++ a ++ d ++ 0x01#7 ++ 1#1 ∧
    ∀ s, ∃ t, exec i s = .next t ∧
      WritesX s t d (f (readX (me s) a) (readX (me s) b)) ((me s).pc + 4)

/-- The immediate forms of the scalar arithmetic (R330, R336, R351, R363, R331 and their like): the result and the frame. -/
def Sys2Proof.Claims.ImmediateForms : Prop :=
  ∀ i s d v, wellFormed i = true → immediateForm (me s).pc (readX (me s)) i = some (d, v) →
    ∃ t, exec i s = .next t ∧ WritesX s t d v ((me s).pc + 4)

/-- INS (R356): the field takes the low bits of x[a], every other bit of x[d] keeps its value. -/
def Sys2Proof.Claims.InsertField : Prop :=
  ∀ d a pos len1 s, wellFormed (.ins d a pos len1) = true →
    ∃ t v, exec (.ins d a pos len1) s = .next t ∧ WritesX s t d v ((me s).pc + 4) ∧
      ∀ k < 64, v.getLsbD k =
        if pos.toNat ≤ k ∧ k ≤ pos.toNat + len1.toNat then (readX (me s) a).getLsbD (k - pos.toNat)
        else (readX (me s) d).getLsbD k

/-- B (R337): the six conditions; the PC is even after every taken branch and the next instruction follows otherwise. -/
def Sys2Proof.Claims.Branches : Prop :=
  ∀ c a b off s,
    let x := readX (me s) a
    let y := readX (me s) b
    let taken : Bool := match c with
      | .eq => decide (x.toNat = y.toNat)
      | .ne => decide (x.toNat ≠ y.toNat)
      | .lt => decide (x.toInt < y.toInt)
      | .ge => decide (y.toInt ≤ x.toInt)
      | .ltu => decide (x.toNat < y.toNat)
      | .geu => decide (y.toNat ≤ x.toNat)
    ∃ t, exec (.bcond c a b off) s = .next t ∧
      WritesX s t 0 0
        (if taken then BitVec.ofInt 64 ((me s).pc.toNat + off.toInt * 2) &&& ~~~1#64 else (me s).pc + 4)

/-- JAL and JALR (R357, R358): the return address and the target, JALR's bit 0 cleared; the source of JALR is read before the
write. -/
def Sys2Proof.Claims.Jumps : Prop :=
  (∀ d off s, ∃ t, exec (.jal d off) s = .next t ∧
    WritesX s t d ((me s).pc + 4) (BitVec.ofInt 64 ((me s).pc.toNat + off.toInt * 2) &&& ~~~1#64)) ∧
  (∀ d a imm s, ∃ t, exec (.jalr d a imm) s = .next t ∧
    WritesX s t d ((me s).pc + 4) ((readX (me s) a + sext14 imm) &&& ~~~1#64))

/-! ### Control and system instructions -/

namespace Sys2Proof.Claims

/-- The instruction has not completed: its context waits for `w` and nothing else has changed (R74). -/
structure Waits (s t : State) (w : Wait) : Prop where
  frame : OnlyMe s t
  hart : me t = { me s with wait := some w }

/-- Entry to S mode (R231, Table 13.8): where EPC points, what ESTAT holds, and that no general register, no memory and no other
hart changes. -/
structure TakesTrap (s t : State) (cause : BitVec 8) (eval : Word) (detail : BitVec 16) : Prop where
  frame : OnlyMe s t
  epc : (me t).sr.epc =
    match (me s).unit with
    | some (.ord pc _ _) => pc
    | some (.gang pc _) => pc
    | none => (me s).pc
  ecause : (me t).sr.ecause = cause
  eval : (me t).sr.eval = eval
  live : (me t).sr.estat.extractLsb' 32 32 = (me s).live
  detail : (me t).sr.estat.extractLsb' 16 16 = detail
  reserved : (me t).sr.estat.extractLsb' 2 14 = 0
  pmode : (me t).sr.estat.extractLsb' 0 2 = if (me s).mode = .U then 0 else 1
  mode : (me t).mode = .S
  pc : (me t).pc = (me s).sr.evec &&& ~~~1#64
  hart : me t =
    { me s with
      pc := (me t).pc
      mode := .S
      sr := { (me s).sr with
        epc := (me t).sr.epc
        ecause := (me t).sr.ecause
        eval := (me t).sr.eval
        estat := (me t).sr.estat }
      unit := none
      wait := none
      met := none
      walk := none
      sup := (me t).sup }

/-- A trap in the handler context ends the handler with FAILED (R50): the context is as after reset, a cluster that is empty then notes when
(R292), and the sender's message, where there is one, is answered with status 3. -/
def EndsHandler (s t : State) : Prop :=
  let free := noteEmpty (setHart s s.cur .reset) (s.cur / 16 / 16)
  t = match (me s).msg with
    | none => free
    | some m => sendReply free m.op (.value 3 false) (stampOf s (dieOf (coreOf s.cur)))

/-- The trap with a cause, EVAL and detail, wherever it is raised. -/
def Traps (s : State) (r : Result) (cause : BitVec 8) (eval : Word) (detail : BitVec 16) : Prop :=
  (isHandler s.cur = false → ∃ t, r = .next t ∧ TakesTrap s t cause eval detail) ∧
  (isHandler s.cur = true → ∃ t, r = .next t ∧ EndsHandler s t)

/-- ILLEGAL_INSTRUCTION with the instruction's own word as EVAL (Table 20.9). -/
def Illegal (s : State) (i : Instr) : Prop := Traps s (exec i s) 0x01 ((encodeWord i).setWidth 64) 0

/-- No hart of a cluster gathers, rotates or waits at a barrier. -/
def NobodyGathers (s : State) (clus : Nat) : Prop :=
  s.barriers = [] ∧ (getCluster s clus).gatherings = [] ∧ (getCluster s clus).rings = []

/-- The hart has an operation in flight. -/
def Busy (s : State) : Prop := ∃ o ∈ s.ops, o.hart = s.cur

/-- The hart is stopped (R78): it enters S mode with cause 0x84, EVAL the kind of the stop in bits [63:62] and the map below, and EPC where it
goes on when it is resumed; no general register, no other hart and no byte of memory changes. -/
structure Stops (s t : State) (kind map : Nat) (epc : Word) : Prop where
  hart : me t =
    { me s with
      pc := (me s).sr.evec &&& ~~~1#64
      mode := .S
      sr := { (me s).sr with
        epc := epc
        ecause := 0x84
        eval := BitVec.ofNat 64 (kind * 2 ^ 62 + map)
        estat := (me t).sr.estat }
      unit := none
      wait := none
      met := none
      walk := none
      sup := if (me s).launch = 0 then none else some (.stop kind) }
  pmode : (me t).sr.estat.extractLsb' 0 2 = if (me s).mode = .U then 0 else 1
  others : ∀ k, k ≠ s.cur → getHart t k = getHart s k
  memory : ∀ die key, viewByte t die key = viewByte s die key

/-- Where the unit of a hart begins: its ORD or GANG, or the instruction itself (R115, R178). -/
def unitPc (h : Hart) : Word :=
  match h.unit with
  | some (.ord pc _ _) => pc
  | some (.gang pc _) => pc
  | none => h.pc

/-- What a hart waits for once the answer that it waited for has come: nothing, but where a stop was requested of it in U mode it is stopped
before its next instruction (R77). -/
def afterReply (h : Hart) : Option Wait := if requested h = true ∧ h.mode = .U then some .stopNext else none

/-- What MFSR reads in a hart context (Table 20.8). -/
def special (s : State) (n : Nat) : Word :=
  let h := me s
  match n with
  | 0x000 =>
    let core : BitVec 14 := BitVec.ofNat 14 (s.cur / 16)
    let ctx : BitVec 3 := BitVec.ofNat 3 (s.cur % 16)
    (h.gen ++ 0#1 ++ s.dev ++ core ++ ctx).setWidth 64
  | 0x001 => h.sr.own.setWidth 64
  | 0x002 => h.sr.tenant.setWidth 64
  | 0x003 => h.sr.launch
  | 0x004 => h.sr.keyh.setWidth 64
  | 0x008 => h.sr.hctl.setWidth 64
  | 0x009 => h.sr.vstat.setWidth 64
  | 0x00A => BitVec.ofNat 64 s.time
  | 0x00B => BitVec.ofNat 64 (s.cycles - (getCore s (s.cur / 16)).cycleBase)
  | 0x010 => h.sr.evec
  | 0x011 => h.sr.epc
  | 0x012 => h.sr.ecause.setWidth 64
  | 0x013 => h.sr.eval
  | 0x014 => h.sr.estat
  | 0x015 => h.sr.escr
  | 0x018 => h.sr.efr
  | 0x019 => h.sr.uevec
  | 0x01A => h.sr.uepc
  | 0x020 => h.sr.node
  | 0x021 => h.sr.subt
  | _ => h.sr.msgb

/-- What MTSR leaves in the special registers (Table 20.8): bits that no field holds are ignored. -/
def specialWritten (n : Nat) (v : Word) (r : SpecialRegs) : SpecialRegs :=
  match n with
  | 0x001 => { r with own := v.extractLsb' 0 16 }
  | 0x008 => { r with hctl := r.hctl.extractLsb' 3 1 ++ v.extractLsb' 0 3 }
  | 0x009 => { r with vstat := v.extractLsb' 0 6 }
  | 0x010 => { r with evec := v }
  | 0x011 => { r with epc := v }
  | 0x012 => { r with ecause := v.extractLsb' 0 8 }
  | 0x013 => { r with eval := v }
  | 0x014 => { r with estat := r.estat.extractLsb' 2 62 ++ v.extractLsb' 0 2 }
  | 0x015 => { r with escr := v }
  | 0x018 => { r with efr := 0#47 ++ v.extractLsb' 5 12 ++ 0#5 }
  | 0x019 => { r with uevec := v }
  | 0x01A => { r with uepc := v }
  | 0x030 => { r with msgb := v.extractLsb' 3 61 ++ 0#3 }
  | _ => r

/-- Registers that U mode may not read, those that U mode may write, and those that S mode may write beside them. -/
def supervisorOnly (n : BitVec 12) : Prop := 0x010 ≤ n.toNat ∧ n.toNat ≤ 0x015
def userWrites : List Nat := [0x008, 0x009, 0x018, 0x019, 0x01A, 0x030]
def supervisorWrites : List Nat := [0x001, 0x010, 0x011, 0x012, 0x013, 0x014, 0x015]

end Sys2Proof.Claims

/-- EBREAK (R349): its word; BREAKPOINT with EPC = PC and EVAL 0 in a hart context, in every mode; in the handler context it ends the handler. -/
def Obligations.Breakpoint : Prop := encodeWord .ebreak = 0x01800027#32 ∧ ∀ s, Traps s (exec .ebreak s) 0x0E 0 0

/-- ERET (R232, R350): the mode and the PC are restored in S mode; in U mode with UEFACT the engine-fault handler is left; in
U mode without it, and in the handler context, it raises PRIVILEGE with the word as EVAL. Nothing else changes. -/
def Obligations.ExceptionReturn : Prop :=
  ∀ s,
    (isHandler s.cur = false → (me s).mode ≠ .U → ∃ t, exec .eret s = .next t ∧ OnlyMe s t ∧
      me t =
        { me s with
          pc := (me s).sr.epc &&& ~~~1#64
          mode := if (me s).sr.estat.extractLsb' 0 2 = 0 then .U else .S
          unit := none
          wait := none
          met := none
          walk := none
          sup := none }) ∧
    (isHandler s.cur = false → (me s).mode = .U → (me s).sr.hctl.getLsbD 3 = true →
      ∃ t, exec .eret s = .next t ∧ OnlyMe s t ∧
        me t =
          { me s with
            pc := (me s).sr.uepc &&& ~~~1#64
            unit := none
            wait := none
            met := none
            walk := none
            sr := { (me s).sr with hctl := 0#1 ++ (me s).sr.hctl.extractLsb' 0 3 } }) ∧
    (isHandler s.cur = false → (me s).mode = .U → (me s).sr.hctl.getLsbD 3 = false →
      ∃ t, exec .eret s = .next t ∧ TakesTrap s t 0x02 0x01000027 0) ∧
    (isHandler s.cur = true → ∃ t, exec .eret s = .next t ∧ EndsHandler s t)

/-- MFSR in a hart context reads every register of Table 20.8 that its mode may read; in U mode the supervisor's registers raise
PRIVILEGE. -/
def Sys2Proof.Claims.ReadSpecial : Prop :=
  ∀ d n s, assignedRegister n = true → isHandler s.cur = false →
    ((me s).mode = .U → ¬supervisorOnly n) →
    ∃ t, exec (.mfsr d n) s = .next t ∧ WritesX s t d (special s n.toNat) ((me s).pc + 4)

/-- MFSR in the handler context (R367): the registers it has, and 0 for every other assigned number in S mode. -/
def Sys2Proof.Claims.ReadSpecialHandler : Prop :=
  ∀ d n s, assignedRegister n = true → isHandler s.cur = true → ((me s).mode = .U → ¬supervisorOnly n) →
    ∃ t, exec (.mfsr d n) s = .next t ∧
      (n.toNat ∉ [0x000, 0x001, 0x002, 0x004, 0x00A, 0x00B] → WritesX s t d 0 ((me s).pc + 4)) ∧
      (n.toNat ∈ [0x001, 0x002, 0x004, 0x00A, 0x00B] → WritesX s t d (special s n.toNat) ((me s).pc + 4)) ∧
      (n.toNat = 0x000 → WritesX s t d
        ((0#8 ++ 1#1 ++ s.dev ++ BitVec.ofNat 14 (s.cur / 16) ++ 0#3 : BitVec 32).setWidth 64) ((me s).pc + 4))

/-- MTSR (R324, R377): a register that the mode may write takes the value, reserved bits aside; only it and the PC change. -/
def Sys2Proof.Claims.WriteSpecial : Prop :=
  ∀ n a s, assignedRegister n = true → isHandler s.cur = false →
    (n.toNat ∈ userWrites ∨ ((me s).mode ≠ .U ∧ n.toNat ∈ supervisorWrites)) →
    ∃ t, exec (.mtsr n a) s = .next t ∧ OnlyMe s t ∧
      me t =
        { me s with
          pc := (me s).pc + 4
          unit := none
          wait := none
          met := none
          walk := none
          sr := specialWritten n.toNat (readX (me s) a) (me s).sr }

/-- The privilege rule of Table 20.8: a read or a write that the mode does not allow raises PRIVILEGE with the word as EVAL and
changes no other register; an MTSR in the handler context raises ILLEGAL_INSTRUCTION. -/
def Obligations.SpecialPrivilege : Prop :=
  (∀ d n s, assignedRegister n = true → (me s).mode = .U → supervisorOnly n →
    Traps s (exec (.mfsr d n) s) 0x02 ((encodeWord (.mfsr d n)).setWidth 64) 0) ∧
  (∀ n a s, assignedRegister n = true → isHandler s.cur = false →
    ¬(n.toNat ∈ userWrites ∨ ((me s).mode ≠ .U ∧ n.toNat ∈ supervisorWrites)) →
    ∃ t, exec (.mtsr n a) s = .next t ∧ TakesTrap s t 0x02 ((encodeWord (.mtsr n a)).setWidth 64) 0) ∧
  (∀ n a s, isHandler s.cur = true → ∃ t, exec (.mtsr n a) s = .next t ∧ EndsHandler s t)

/-- YIELD (R472): the PC stands after it; a hart context is not ready again until another context of its core has issued or 8 cycles have
passed, and the handler context goes on at once. -/
def Sys2Proof.Claims.Yields : Prop :=
  ∀ s, ∃ t, exec .yield s = .next t ∧ OnlyMe s t ∧
    me t =
      { me s with
        pc := (me s).pc + 4
        unit := none
        met := none
        walk := none
        wait := if isHandler s.cur then none else some (.yield s.cycles) }

/-- WFI (R467): with an interrupt, an engine fault or a message pending, or a stop requested of a hart that is not in U mode, it completes and
nothing but the PC changes; with a stop requested of a hart in U mode that has nothing in flight the hart is stopped at the WFI (R77, R78);
otherwise it waits. In the handler context it is ILLEGAL_INSTRUCTION. -/
def Sys2Proof.Claims.WaitsForInterrupt : Prop :=
  ∀ s,
    let pending := (me s).ipend ≠ 0 ∨ (me s).faults ≠ [] ∨ (me s).mpend ≠ 0
    let stop := requested (me s) = true ∧ (me s).mode = .U
    (isHandler s.cur = true → Illegal s .wfi) ∧
    (isHandler s.cur = false → pending ∨ (requested (me s) = true ∧ (me s).mode ≠ .U) →
      ∃ t, exec .wfi s = .next t ∧ WritesX s t 0 0 ((me s).pc + 4)) ∧
    (isHandler s.cur = false → ¬pending → stop → ¬Busy s → NobodyGathers s (s.cur / 16 / 16) →
      ∃ t, exec .wfi s = .next t ∧ Stops s t 1 0 (unitPc (me s))) ∧
    (isHandler s.cur = false → ¬pending → requested (me s) = false ∨ (stop ∧ Busy s) →
      ∃ t, exec .wfi s = .next t ∧ Waits s t .interrupt)

/-- SAFEPT (R389): in U mode with a stop requested it waits until nothing of the hart is in flight and then stops the hart with its map, EPC
the next instruction; in every other case, the handler context among them, it completes and nothing but the PC changes. -/
def Sys2Proof.Claims.SafePoints : Prop :=
  ∀ n s,
    let stop := isHandler s.cur = false ∧ (me s).mode = .U ∧ requested (me s) = true
    (¬stop → ∃ t, exec (.safept n) s = .next t ∧ WritesX s t 0 0 ((me s).pc + 4)) ∧
    (stop → Busy s → ∃ t, exec (.safept n) s = .next t ∧ Waits s t .drain) ∧
    (stop → ¬Busy s → NobodyGathers s (s.cur / 16 / 16) →
      ∃ t, exec (.safept n) s = .next t ∧ Stops s t 0 n.toNat ((me s).pc + 4))

/-- ORD (R113, R115): at a scope that the launch binds the PC stands after it, the hart is inside a unit that begins at the ORD with its order
and scope, and nothing else changes. -/
def Sys2Proof.Claims.Prefixes : Prop :=
  ∀ o sc s, bindsScope s (me s) sc = true →
    ∃ t, exec (.ord o sc) s = .next t ∧ OnlyMe s t ∧
      me t = { me s with pc := (me s).pc + 4, unit := some (.ord (me s).pc o sc), wait := none }

/-- FENCE (R116) at hart scope completes at once: no memory, no register and no cache changes, and what its kinds name of the hart's
accesses under way is put before its later loads (ll the reads, sl the writes) and before its later stores (ls the reads, ss the
writes). -/
def Sys2Proof.Claims.HartFences : Prop :=
  ∀ kinds s, wellFormed (.fence kinds .hart) = true → bindsScope s (me s) .hart = true →
    let late := fun n => (∃ o ∈ s.ops, o.id = n) ∨ ∃ w ∈ s.mca, w.id = n
    ∃ t, exec (.fence kinds .hart) s = .next t ∧ OnlyMe s t ∧
      me t = { me s with
        pc := (me s).pc + 4, unit := none, wait := none, met := none, walk := none, beforeLoads := (me t).beforeLoads
        beforeStores := (me t).beforeStores } ∧
      (∀ n, n ∈ (me t).beforeLoads ↔
        (n ∈ (me s).beforeLoads ∧ late n) ∨ (kinds.getLsbD 0 = true ∧ n ∈ lateReads s s.cur) ∨
          (kinds.getLsbD 2 = true ∧ n ∈ lateWrites s s.cur)) ∧
      ∀ n, n ∈ (me t).beforeStores ↔
        (n ∈ (me s).beforeStores ∧ late n) ∨ (kinds.getLsbD 1 = true ∧ n ∈ lateReads s s.cur) ∨
          (kinds.getLsbD 3 = true ∧ n ∈ lateWrites s s.cur)

/-- FENCE (R116) at a wider scope: once the hart's earlier accesses are performed, and with sl or ss what a release at the scope waits for has
come about, it completes: with ll or ls at cluster scope or wider the L1 of the core is empty after it, as after an acquire (R92), and
otherwise nothing but the PC changes. Before that it waits. -/
def Sys2Proof.Claims.Fences : Prop :=
  ∀ kinds sc s, wellFormed (.fence kinds sc) = true → bindsScope s (me s) sc = true → sc ≠ .hart →
    let stores := kinds.getLsbD 2 = true ∨ kinds.getLsbD 3 = true
    (unperformed s s.cur = false → (stores → releaseReady s s.cur sc = true) →
      ∃ t, exec (.fence kinds sc) s = .next t ∧
        me t = { me s with pc := (me s).pc + 4, unit := none, wait := none, met := none, walk := none } ∧
        (∀ k, k ≠ s.cur → getHart t k = getHart s k) ∧
        (∀ die key, viewByte t die key = viewByte s die key) ∧
        (∀ g, getCore t g =
          if g = coreOf s.cur ∧ (kinds.getLsbD 0 ∨ kinds.getLsbD 1) ∧ sc ≠ .core
          then { getCore s g with l1 := [] } else getCore s g) ∧
        t = { s with harts := t.harts, cores := t.cores }) ∧
    (unperformed s s.cur = true ∨ (stores ∧ releaseReady s s.cur sc = false) →
      ∃ t w, exec (.fence kinds sc) s = .next t ∧ Waits s t w)

/-- ORD and FENCE raise ILLEGAL_INSTRUCTION where the launch does not bind the scope (R37, R113, R116). -/
def Sys2Proof.Claims.UnboundScope : Prop :=
  ∀ s sc, bindsScope s (me s) sc = false → (∀ o, Illegal s (.ord o sc)) ∧ ∀ kinds, Illegal s (.fence kinds sc)

/-! ### Memory -/

namespace Sys2Proof.Claims

/-- The executing context is one of the device's 16,384 cores (R18). -/
def Device (s : State) : Prop := s.cur < 0x40000

/-- The key of a byte of the core's own local SRAM, the range that SELF names (Table 2.6). -/
def selfKey (s : State) (a : Word) : Nat := 0x100000000 + s.cur / 16 * 0x20000 + a.toNat

/-- The die of the executing core (R18). -/
def myDie (s : State) : Nat := s.cur / 16 / 4096

/-- An aligned access of `n` bytes to SELF that the checks admit, on lines without an uncorrectable error. -/
def SelfAccess (s : State) (p : Word) (n : Nat) : Prop :=
  p.toNat % n = 0 ∧ p.toNat < 0x20000 ∧ selfKey s p / 64 ∉ s.badLines

/-- What a FENCE has put before the hart's later accesses has been performed (R116). -/
def Unfenced (s : State) : Prop :=
  ∀ n, n ∈ (me s).beforeLoads ∨ n ∈ (me s).beforeStores → (∀ o ∈ s.ops, o.id ≠ n) ∧ ∀ w ∈ s.mca, w.id ≠ n

/-- Outside an ORD unit, with room among the core's operations in flight, and with no FENCE to wait for. -/
def Ready (s : State) (slots : Nat) : Prop :=
  Device s ∧ (me s).unit = none ∧ inFlight s (s.cur / 16) + slots ≤ 256 ∧ Unfenced s

/-- No atomic and no window-accumulator operation of the core is on its way to a home for some of `n` bytes (R89). -/
def Clear (s : State) (key n : Nat) : Prop :=
  ∀ o ∈ s.ops, o.hart / 16 = s.cur / 16 → o.atHome = true → o.key + o.size ≤ key ∨ key + n ≤ o.key

/-- A number as a word, read as signed in `n` bytes. -/
def signedBytes (n v : Nat) : Word := BitVec.ofInt 64 (if v < 2 ^ (8 * n - 1) then (v : Int) else (v : Int) - 2 ^ (8 * n))

def ldBytes : LdSize → Nat
  | .b | .bu => 1
  | .h | .hu => 2
  | .w | .wu => 4
  | .d => 8

def ldValue (sz : LdSize) (bs : List Byte) : Word :=
  match sz with
  | .b | .h | .w => signedBytes (ldBytes sz) (leNat bs)
  | .d | .bu | .hu | .wu => BitVec.ofNat 64 (leNat bs)

def stBytes : StSize → Nat
  | .b => 1
  | .h => 2
  | .w => 4
  | .d => 8

/-- An operation of the executing hart that has entered flight with its response to come (R89). -/
structure InFlightAs (s : State) (o : Op) (kind : OpKind) (d : Reg) : Prop where
  id : o.id = s.serial
  kind : o.kind = kind
  hart : o.hart = s.cur
  gen : o.gen = (me s).gen
  launch : o.launch = (me s).launch
  dest : o.dest = d
  reply : o.reply = none

/-- Byte `i` of a number, least significant first (R4). -/
def byteOf (v i : Nat) : Byte := BitVec.ofNat 8 (v / 256 ^ i)

/-- Every view reads as before but that of one die, which holds `bs` from `key` up; the memory outside the device is as before. -/
def StoredIn (s t : State) (die key : Nat) (bs : List Byte) : Prop :=
  (∀ e k, viewByte t e k =
    if e = die ∧ key ≤ k ∧ k < key + bs.length then bs.getD (k - key) 0 else viewByte s e k) ∧
  t.outer = s.outer

/-- Element addresses of the vector memory instructions (Table 24.1). -/
def elemAddr (s : State) (f : VmFmt) : Instr → Nat → Word
  | .vld _ | .vst _ => fun i => readX (me s) f.base + readX (me s) f.idx + BitVec.ofNat 64 (i * 2 ^ f.et.toNat)
  | .vlds _ | .vsts _ => fun i =>
    readX (me s) f.base +
      BitVec.ofNat 64 i * (if f.idx = 0 then BitVec.ofNat 64 (2 ^ f.et.toNat) else readX (me s) f.idx)
  | _ => fun i =>
    readX (me s) f.base +
      BitVec.ofInt 64 (signedOf (8 * 2 ^ f.et.toNat) (lane (readV s (me s) f.idx) (8 * 2 ^ f.et.toNat) i)) *
        BitVec.ofNat 64 (2 ^ f.et.toNat)

/-- The operand fields and whether the instruction stores. -/
def vectorMemory : Instr → Option (VmFmt × Bool)
  | .vld f => some (f, false)
  | .vlds f => some (f, false)
  | .vgth f => some (f, false)
  | .vst f => some (f, true)
  | .vsts f => some (f, true)
  | .vsct f => some (f, true)
  | _ => none

/-- The vector register that a last-use mark of the instruction kills (R316). -/
def memKills : Instr → List VReg
  | .vgth f => if f.lu then [f.idx] else []
  | .vsct f => if f.lu then [f.idx] else []
  | .vst f => if f.lu then [f.vd] else []
  | .vsts f => if f.lu then [f.vd] else []
  | _ => []

/-- The elements that the mask selects, in ascending order. -/
def chosen (s : State) (f : VmFmt) : List Nat :=
  (List.range (64 / 2 ^ f.et.toNat)).filter (selects s (me s) f.mask)

/-- A vector instruction in a hart context whose sources are live where DEADCHK asks for it (R31, R33). -/
def VectorReady (s : State) (i : Instr) : Prop :=
  isHandler s.cur = false ∧ (deadChk (me s) = true → ∀ r ∈ vectorSources i, (me s).live.getLsbD r.toNat = true)

/-- Every selected element lies aligned in SELF, where no atomic of the core is on its way to it, and the line that VLD and VST name is aligned (R438, R460). -/
def VectorInSelf (s : State) (i : Instr) (f : VmFmt) : Prop :=
  (∀ k ∈ chosen s f, SelfAccess s (elemAddr s f i k) (2 ^ f.et.toNat) ∧
    Clear s (selfKey s (elemAddr s f i k)) (2 ^ f.et.toNat)) ∧
  (match i with
   | .vld _ | .vst _ => (readX (me s) f.base + readX (me s) f.idx).toNat % 64 = 0
   | _ => True)

end Sys2Proof.Claims

/-- What was written to memory is read (R108, R109): a write of a die's agent to memory of an NA page, on-chip or a DRAM line that holds
plaintext, stands in that die's view byte for byte, changes no other byte of it, and changes no other view until it has travelled. -/
def Obligations.WriteThenRead : Prop :=
  ∀ s die h key bs, key < 0x100000000000000 ∨ (key < 0x10000000000000000 ∧ lineKeyOf s die key = .plain) →
    StoredIn s (performWrite s die h key bs .na false) die key bs

/-- LD (R362) from SELF: x[d] takes the bytes of the hart's view, sign- or zero-extended; no byte of memory, no flag and no other
register changes; the operation is in flight and its response is to come. While an atomic of the core to some of the bytes is on its
way it waits (R89). -/
def Sys2Proof.Claims.LoadSelf : Prop :=
  ∀ sz d a off s,
    let n := ldBytes sz
    let p := readX (me s) a + BitVec.ofInt 64 (off.toInt * n)
    Ready s 1 → SelfAccess s p n →
    (overlapBusy s s.cur (selfKey s p) n = true →
      ∃ t, exec (.ld sz d a off) s = .next t ∧ Waits s t (.overlap (selfKey s p) n)) ∧
    (Clear s (selfKey s p) n → ∃ t o, exec (.ld sz d a off) s = .next t ∧ InFlightAs s o .load d ∧
      (∀ r, readX (me t) r =
        if r = 0 then 0
        else if r = d then ldValue sz (rawBytes s (myDie s) s.cur (selfKey s p) n)
        else readX (me s) r) ∧
      me t = { me s with
        pc := (me s).pc + 4, wait := none, met := none, walk := none, x := (me t).x, xpend := (me t).xpend, poison := (me t).poison } ∧
      (∀ k, k ≠ s.cur → getHart t k = getHart s k) ∧
      t = { s with
        harts := t.harts, serial := s.serial + 1, ops := s.ops ++ [o], agenda := s.agenda ++ [.memoryResponse s.serial] })

/-- ST (R394) to SELF: the low bytes of x[s], little-endian, stand in the view of the core's die at x[a] + sext(off) × size; every other
byte of every view is as before; no register but the PC changes. While an atomic of the core to some of the bytes is on its way it
waits (R89). -/
def Sys2Proof.Claims.StoreSelf : Prop :=
  ∀ sz r a off s,
    let n := stBytes sz
    let p := readX (me s) a + BitVec.ofInt 64 (off.toInt * n)
    Ready s 1 → SelfAccess s p n →
    (overlapBusy s s.cur (selfKey s p) n = true →
      ∃ t, exec (.st sz r a off) s = .next t ∧ Waits s t (.overlap (selfKey s p) n)) ∧
    (Clear s (selfKey s p) n → ∃ t, exec (.st sz r a off) s = .next t ∧
      StoredIn s t (myDie s) (selfKey s p) ((List.range n).map (byteOf (readX (me s) r).toNat)) ∧
      me t = { me s with pc := (me s).pc + 4, wait := none, met := none, walk := none } ∧
      (∀ k, k ≠ s.cur → getHart t k = getHart s k) ∧
      (∃ o, t.ops = s.ops ++ [o] ∧ o.kind = .store ∧ o.hart = s.cur) ∧
      t = { s with
        harts := t.harts, views := t.views, stamps := t.stamps, flights := t.flights, serial := t.serial, ops := t.ops
        agenda := t.agenda })

/-- A misaligned LD, ST or AMO (R219, check 1): MISALIGNED with the pointer as EVAL, before any other check, and nothing of it remains. -/
def Sys2Proof.Claims.MisalignedAccess : Prop :=
  (∀ sz d a off s,
    let p := readX (me s) a + BitVec.ofInt 64 (off.toInt * ldBytes sz)
    p.toNat % ldBytes sz ≠ 0 → Traps s (exec (.ld sz d a off) s) 0x04 p 0) ∧
  (∀ sz r a off s,
    let p := readX (me s) a + BitVec.ofInt 64 (off.toInt * stBytes sz)
    p.toNat % stBytes sz ≠ 0 → Traps s (exec (.st sz r a off) s) 0x04 p 0) ∧
  (∀ op sz d a b s, isHandler s.cur = false ∨ d = 0 →
    (readX (me s) a).toNat % (match sz with | .w => 4 | .d => 8) ≠ 0 →
    Traps s (exec (.amo op sz d a b) s) 0x04 (readX (me s) a) 0)

/-- The device control space in U mode (R21, R219): an aligned LD or ST there raises PRIVILEGE with the pointer as EVAL. -/
def Sys2Proof.Claims.ControlSpaceIsPrivileged : Prop :=
  (∀ sz d a off s,
    let p := readX (me s) a + BitVec.ofInt 64 (off.toInt * ldBytes sz)
    (me s).mode = .U → 0x600000000 ≤ p.toNat → p.toNat < 0x610000000 → p.toNat % ldBytes sz = 0 →
    Traps s (exec (.ld sz d a off) s) 0x02 p 0) ∧
  (∀ sz r a off s,
    let p := readX (me s) a + BitVec.ofInt 64 (off.toInt * stBytes sz)
    (me s).mode = .U → 0x600000000 ≤ p.toNat → p.toNat < 0x610000000 → p.toNat % stBytes sz = 0 →
    Traps s (exec (.st sz r a off) s) 0x02 p 0)

/-- VLD, VLDS and VGTH (R438, R439, R435) from SELF: each selected lane takes its element, each other lane 0 or its old value; vd is
live; no byte of memory and no scalar register changes. -/
def Sys2Proof.Claims.VectorLoads : Prop :=
  ∀ i f s, vectorMemory i = some (f, false) → wellFormed i = true → f.et.toNat < 4 →
    VectorReady s i → Ready s 64 → VectorInSelf s i f →
    ∃ t, exec i s = .next t ∧
      (∀ k < 64 / 2 ^ f.et.toNat,
        lane ((me t).v[f.vd.toNat]'f.vd.isLt) (8 * 2 ^ f.et.toNat) k =
          if selects s (me s) f.mask k then
            leNat (rawBytes s (myDie s) s.cur (selfKey s (elemAddr s f i k)) (2 ^ f.et.toNat))
          else if f.z then 0
          else lane (readV s (me s) f.vd) (8 * 2 ^ f.et.toNat) k) ∧
      (∀ r : VReg, (me t).live.getLsbD r.toNat =
        (decide (r = f.vd) || ((me s).live.getLsbD r.toNat && !(memKills i).contains r))) ∧
      (∀ r : VReg, r ≠ f.vd → (me t).v[r.toNat]'r.isLt = (me s).v[r.toNat]'r.isLt) ∧
      me t = { me s with
        pc := (me s).pc + 4, wait := none, met := none, walk := none, v := (me t).v, live := (me t).live, xpend := (me t).xpend
        poison := (me t).poison } ∧
      (∀ k, k ≠ s.cur → getHart t k = getHart s k) ∧
      t = { s with harts := t.harts, serial := t.serial, ops := t.ops, agenda := t.agenda }

/-- VST, VSTS and VSCT (R460, R461, R455) to SELF: the selected elements are written in ascending order, so that the higher-numbered
one stands; every other byte of every view is as before; no register changes but the PC and what a last-use mark kills. -/
def Sys2Proof.Claims.VectorStores : Prop :=
  ∀ i f s, vectorMemory i = some (f, true) → wellFormed i = true → f.et.toNat < 4 →
    VectorReady s i → Ready s 64 → VectorInSelf s i f →
    let e := 2 ^ f.et.toNat
    ∃ t, exec i s = .next t ∧
      (∀ key, viewByte t (myDie s) key =
        mapGet 0
          ((chosen s f).foldl
            (fun m k => putBytes m (selfKey s (elemAddr s f i k)) (leBytes e (lane (readV s (me s) f.vd) (8 * e) k)))
            (viewOf s (myDie s))) key) ∧
      (∀ key, (∀ k ∈ chosen s f, key < selfKey s (elemAddr s f i k) ∨ selfKey s (elemAddr s f i k) + e ≤ key) →
        viewByte t (myDie s) key = viewByte s (myDie s) key) ∧
      (∀ d key, d ≠ myDie s → viewByte t d key = viewByte s d key) ∧ t.outer = s.outer ∧
      me t = { me s with pc := (me s).pc + 4, wait := none, met := none, walk := none, live := (me t).live } ∧
      (∀ r : VReg, (me t).live.getLsbD r.toNat = ((me s).live.getLsbD r.toNat && !(memKills i).contains r)) ∧
      (∀ k, k ≠ s.cur → getHart t k = getHart s k)

/-- MEMORY_RESPONSE (R89): a load or store with one slot left leaves flight, and the registers that waited for it wait no more; with
more slots one of them is free and the response of the rest is to come. Memory and register values are as before. While a DRAM
request of it has still to be issued, or a write of a store has still to be performed at its home, the response is yet to come: log entries 25
and 75. -/
def Obligations.MemoryResponse : Prop :=
  ∀ s o, findOp s o.id = some o → (o.kind = .load ∨ o.kind = .store) →
    let early := lineWaits s o.id = true ∨ (o.kind = .store ∧ storeUnderWay s o = true)
    (early → ∃ t, exec (.memoryResponse o.id) s = .next t ∧ t = { s with agenda := s.agenda ++ [.memoryResponse o.id] }) ∧
    (¬early → ∃ t, exec (.memoryResponse o.id) s = .next t ∧
      (o.slots ≤ 1 → t.ops = s.ops.filter (fun p => decide (p.id ≠ o.id)) ∧ t.agenda = s.agenda ∧
        (getHart t o.hart).xpend = (getHart s o.hart).xpend.filter (fun e => decide (e.2 ≠ o.id))) ∧
      (1 < o.slots → findOp t o.id = some { o with slots := o.slots - 1 } ∧
        t.agenda = s.agenda ++ [.memoryResponse o.id]) ∧
      (∀ k r, readX (getHart t k) r = readX (getHart s k) r) ∧
      t = { s with harts := t.harts, ops := t.ops, agenda := t.agenda })

/-! ### Operations at a home: atomics, messages, window accumulators; queue registers -/

namespace Sys2Proof.Claims

/-- The new value of Table 21.1 for an old value of w bits, none where CAS writes nothing; FADD is the sum of 8.3. -/
def atomicNew (op : AmoOp) (sz : AmoSize) (old v swap : Nat) : Option Nat :=
  let w := match sz with | .w => 32 | .d => 64
  let f := match sz with | .w => fp32 | .d => fp64
  match op with
  | .add => some ((old + v) % 2 ^ w)
  | .and => some (old &&& v)
  | .or => some (old ||| v)
  | .xor => some (old ^^^ v)
  | .min => some (if signedOf w old ≤ signedOf w v then old else v)
  | .max => some (if signedOf w v ≤ signedOf w old then old else v)
  | .minu => some (if old ≤ v then old else v)
  | .maxu => some (if v ≤ old then old else v)
  | .swap => some v
  | .cas => if old = v then some swap else none
  | .fadd => some (addVal f false (unpack f false old) (unpack f false v)).1

/-- The old value as x[d] takes it: a word form sign-extends, but MINU, MAXU and FADD zero-extend. -/
def atomicOld (op : AmoOp) (sz : AmoSize) (old : Nat) : Word :=
  match sz with
  | .d => BitVec.ofNat 64 old
  | .w => match op with
    | .minu | .maxu | .fadd => BitVec.ofNat 64 old
    | _ => signedBytes 4 old

/-- The cluster of a core is not Idle and the core's handler context is free. -/
def HomeReady (s : State) (core : Nat) : Prop :=
  (getCluster s (core / 16)).idle = false ∧ (getHart s (core * 16 + 8)).tenure = .free

/-- The operations in flight after the home has answered one of them. -/
def Answered (s t : State) (id : Nat) (r : Reply) (st : Stamp) : Prop :=
  t.ops = s.ops.map fun p => if p.id = id then { p with reply := some r, replyStamp := st, replySerial := t.serial } else p

/-- The handler of a core has ended with a status: its context is free, and the sender, where there is one, is answered (R50). -/
def HandlerEnded (s t : State) (core : Nat) (status : Word) : Prop :=
  let free := noteEmpty (setHart s (core * 16 + 8) .reset) (core / 16)
  t = match (getHart s (core * 16 + 8)).msg with
    | none => free
    | some m => sendReply free m.op (.value status false) (stampOf s (core / 4096))

/-- A queue register of the executing core (R104). -/
def queue (s : State) (q : Nat) : List QEntry := mapGet [] (getCore s (s.cur / 16)).queues q

/-- Cores other than the executing one, and harts other than the executing one, are as before, and so is all but harts and cores. -/
def CoreFrame (s t : State) : Prop :=
  t = { s with harts := t.harts, cores := t.cores } ∧
  (∀ g, g ≠ s.cur / 16 → getCore t g = getCore s g) ∧
  ∀ k, k ≠ s.cur → getHart t k = getHart s k

/-- The PC stands after the instruction, and nothing else of the executing hart has changed. -/
def Done (s t : State) : Prop := me t = { me s with pc := (me s).pc + 4, unit := none, wait := none, met := none, walk := none }

/-- x[d] has been written and the PC stands after the instruction; nothing else of the executing hart has changed. -/
def DoneWith (s t : State) (d : Reg) (v : Word) : Prop :=
  (∀ r, readX (me t) r = if r = 0 then 0 else if r = d then v else readX (me s) r) ∧
  me t = { me s with
    pc := (me s).pc + 4, unit := none, wait := none, met := none, walk := none, x := (me t).x, xpend := (me t).xpend
    poison := (me t).poison }

end Sys2Proof.Claims

/-- AMO (R332, R333) on SELF: the operation leaves for the home core, which is the core itself, with its operands as they stood; x[d] waits
for it; no byte of memory changes yet and no other register does. -/
def Sys2Proof.Claims.AtomicIssue : Prop :=
  ∀ op sz d a b s,
    let n := match sz with | .w => 4 | .d => 8
    let p := readX (me s) a
    (isHandler s.cur = false ∨ d = 0) → Ready s 1 → SelfAccess s p n →
    ∃ t o, exec (.amo op sz d a b) s = .next t ∧
      InFlightAs s o (.amo ⟨op, sz, readX (me s) b, readX (me s) (b + 1)⟩) d ∧ o.key = selfKey s p ∧
      (getCore t (s.cur / 16)).homeQ = (getCore s (s.cur / 16)).homeQ ++ [s.serial] ∧
      (∀ g, g ≠ s.cur / 16 → getCore t g = getCore s g) ∧
      (∀ r, readX (me t) r = readX (me s) r) ∧
      me t = { me s with
        pc := (me s).pc + 4, wait := none, met := none, walk := none
        xpend := if d = 0 then (me s).xpend else mapPut 0 (me s).xpend d.toNat s.serial } ∧
      t = { s with
        harts := t.harts, cores := t.cores, serial := s.serial + 1, ops := s.ops ++ [o]
        agenda := s.agenda ++ [.amoHomeExecute (s.cur / 16)] }

/-- AMO_HOME_EXECUTE (R333): the home reads and writes on-chip memory of an NA page in one step; the new value stands in the home die's
view, nothing else of any view changes, and the old value goes back to the sender. -/
def Sys2Proof.Claims.AtomicAtHome : Prop :=
  ∀ core s o a, HomeReady s core → pick s 2 (arrivals s core isAmo) = some o → o.kind = .amo a →
    o.key < 0x100000000000000 → o.key / 64 ∉ s.badLines → o.prop = .na →
    let n := match a.sz with | .w => 4 | .d => 8
    let old := leNat (rawBytes s (core / 4096) noHart o.key n)
    ∃ t, exec (.amoHomeExecute core) s = .next t ∧
      StoredIn s t (core / 4096) o.key
        (match atomicNew a.op a.sz old (a.v.toNat % 2 ^ (8 * n)) (a.swap.toNat % 2 ^ (8 * n)) with
         | some v => (List.range n).map (byteOf v)
         | none => []) ∧
      Answered s t o.id (.value (atomicOld a.op a.sz old) false) (stampOf t (core / 4096)) ∧
      Event.homeReplyArrival o.id ∈ t.agenda ∧
      (∀ k, getHart t k = getHart s k)

/-- HOME_REPLY_ARRIVAL (R48, R89): the value reaches the register of the hart that sent the operation: a hart that waits completes its
instruction, and is stopped before its next one where a stop was requested of it meanwhile (R77); one that went on has x[d] written unless
it has been written since; the operation leaves flight. -/
def Sys2Proof.Claims.HomeReply : Prop :=
  ∀ s o v, findOp s o.id = some o → o.reply = some (.value v false) → o.hart < 0x100000000 →
    replyBehind s o = false → lineWaits s o.id = false →
    (getHart s o.hart).tenure = .running → (getHart s o.hart).gen = o.gen →
    ∃ t, exec (.homeReplyArrival o.id) s = .next t ∧
      t.ops = s.ops.filter (fun p => decide (p.id ≠ o.id)) ∧
      (∀ die key, viewByte t die key = viewByte s die key) ∧
      (∀ k, k ≠ o.hart → getHart t k = getHart s k) ∧
      ((getHart s o.hart).wait = some (.reply o.id) →
        (getHart t o.hart).pc = (getHart s o.hart).pc + 4 ∧
        (getHart t o.hart).wait = afterReply (getHart s o.hart) ∧
        ∀ r, readX (getHart t o.hart) r =
          if r = 0 then 0 else if r = o.dest then v else readX (getHart s o.hart) r) ∧
      ((getHart s o.hart).wait ≠ some (.reply o.id) →
        (getHart t o.hart).pc = (getHart s o.hart).pc ∧
        ∀ r, readX (getHart t o.hart) r =
          if r = 0 then 0
          else if r = o.dest ∧ mapGet 0 (getHart s o.hart).xpend o.dest.toNat = o.id then v
          else readX (getHart s o.hart) r)

/-- MSEND (R372) to a hart of this device: the message leaves for the home core named in the HID with x[b] as its argument; the core
counts it as sent for the launch; memory and registers are as before, x[d] waiting for the status. -/
def Sys2Proof.Claims.SendMessage : Prop :=
  ∀ d a b n s,
    let hid := (readX (me s) a).setWidth 32
    (isHandler s.cur = false ∨ d = 0) → Ready s 1 → hidDev hid = s.dev →
    ∃ t o, exec (.msend d a b n) s = .next t ∧
      InFlightAs s o (.msg hid n (readX (me s) b) (hidOf s s.cur)) d ∧
      o.id ∈ (getCore t (hidCore hid)).homeQ ∧
      mapGet 0 (getCore t (s.cur / 16)).sent (me s).launch = mapGet 0 (getCore s (s.cur / 16)).sent (me s).launch + 1 ∧
      me t = { me s with
        pc := (me s).pc + 4, wait := none, met := none, walk := none
        xpend := if d = 0 then (me s).xpend else mapPut 0 (me s).xpend d.toNat s.serial } ∧
      (∀ k, k ≠ s.cur → getHart t k = getHart s k) ∧
      t = { s with
        harts := t.harts, cores := t.cores, serial := s.serial + 1, ops := s.ops ++ [o]
        agenda := s.agenda ++ [.messageArrival (hidCore hid)] }

/-- MESSAGE_ARRIVAL (R48, R49, Table 3.8): BOUNCED where the target hart is gone, REFUSED for another tenant or a missing entry; otherwise
the handler starts at the entry with the argument, the sender and the target in x3, x4 and x5, in U mode under the target's identity. -/
def Sys2Proof.Claims.MessageArrival : Prop :=
  ∀ core s o hid n arg sender, HomeReady s core → pick s 2 (arrivals s core isMessage) = some o →
    o.kind = .msg hid n arg sender → o.rel = none →
    let u := leaveHome s core o.id
    let k := core * 16 + hidCtx hid
    let v := getHart u k
    let gone := hidHnd hid = true ∨ v.tenure ≠ .running ∨ v.gen ≠ hidGen hid ∨ retiring u v.launch = true
    let barred := v.sr.tenant ≠ senderTenant u o ∨ handlerEntry u k n.toNat = 0
    ∃ t, exec (.messageArrival core) s = .next t ∧
      (gone → Answered s t o.id (.value 1 false) (stampOf s (core / 4096)) ∧ ∀ j, getHart t j = getHart s j) ∧
      (¬gone → barred → Answered s t o.id (.value 2 false) (stampOf s (core / 4096)) ∧ ∀ j, getHart t j = getHart s j) ∧
      (¬gone → ¬barred →
        let h := getHart t (core * 16 + 8)
        h.tenure = .running ∧ h.mode = .U ∧ h.pc = handlerEntry u k n.toNat &&& ~~~1#64 ∧
        readX h 3 = arg ∧ readX h 4 = sender.setWidth 64 ∧ readX h 5 = hid.setWidth 64 ∧
        h.sr.own = v.sr.own ∧ h.sr.tenant = v.sr.tenant ∧ h.sr.keyh = v.sr.keyh ∧ h.launch = v.launch ∧
        h.msg = some ⟨o.id, k, v.gen⟩ ∧ h.budget = 0 ∧
        (∀ j, j ≠ core * 16 + 8 → getHart t j = getHart s j) ∧ t.ops = s.ops) ∧
      (∀ die key, viewByte t die key = viewByte s die key)

/-- MRET (R333, R371): in a hart context it is ILLEGAL_INSTRUCTION; in the handler context it waits for the handler's own writes, and then the
handler context is free. Where the handler ran for a message, MPEND of the target hart grows by one and saturates, unless that hart is no
longer the one addressed; the core counts the message as received for the sender's launch, and the sender gets status 0. -/
def Sys2Proof.Claims.HandlerReturn : Prop :=
  ∀ s,
    (isHandler s.cur = false → Illegal s .mret) ∧
    (isHandler s.cur = true → handlerReleased s (s.cur / 16) = false → ∃ t, exec .mret s = .next t ∧ Waits s t .handlerEnd) ∧
    (isHandler s.cur = true → handlerReleased s (s.cur / 16) = true → (me s).msg = none →
      ∃ t, exec .mret s = .next t ∧ t = noteEmpty (setHart s s.cur .reset) (s.cur / 16 / 16)) ∧
    (∀ m, isHandler s.cur = true → handlerReleased s (s.cur / 16) = true → (me s).msg = some m → isHandler m.target = false →
      let launch := match findOp s m.op with | some o => o.launch | none => 0
      ∃ t, exec .mret s = .next t ∧
        getHart t s.cur = .reset ∧
        ((getHart s m.target).tenure = .running → (getHart s m.target).gen = m.gen →
          getHart t m.target =
            { getHart s m.target with
              mpend := if (getHart s m.target).mpend.toNat = 2 ^ 32 - 1 then (getHart s m.target).mpend
                else (getHart s m.target).mpend + 1 }) ∧
        (¬((getHart s m.target).tenure = .running ∧ (getHart s m.target).gen = m.gen) →
          getHart t m.target = getHart s m.target) ∧
        (∀ k, k ≠ s.cur → k ≠ m.target → getHart t k = getHart s k) ∧
        (∀ l, mapGet 0 (getCore t (s.cur / 16)).received l =
          mapGet 0 (getCore s (s.cur / 16)).received l + if l = launch then 1 else 0) ∧
        Answered s t m.op (.value 0 false) (stampOf s (s.cur / 16 / 4096)) ∧
        Event.homeReplyArrival m.op ∈ t.agenda ∧
        (∀ c, getCluster t c = { getCluster s c with emptySince := (getCluster t c).emptySince }) ∧
        t = { s with harts := t.harts, cores := t.cores, clusters := t.clusters, ops := t.ops, agenda := t.agenda })

/-- HANDLER_BUDGET_EXHAUSTED (R50): a handler that has executed 4,096 instructions ends with FAILED; otherwise nothing happens. -/
def Sys2Proof.Claims.HandlerBudget : Prop :=
  ∀ core s,
    ((getHart s (core * 16 + 8)).tenure = .running → 4096 ≤ (getHart s (core * 16 + 8)).budget →
      ∃ t, exec (.handlerBudgetExhausted core) s = .next t ∧ HandlerEnded s t core 3) ∧
    ((getHart s (core * 16 + 8)).tenure ≠ .running ∨ (getHart s (core * 16 + 8)).budget < 4096 →
      ∃ t, exec (.handlerBudgetExhausted core) s = .next t ∧ t = s)

/-- MPOLL and MWAIT (R370, R379): x[d] takes the count of pending messages and the count is cleared; MWAIT waits while it is 0. In the handler
context MPOLL reads 0 and MWAIT is ILLEGAL_INSTRUCTION. No memory and no other register changes. -/
def Sys2Proof.Claims.PendingMessages : Prop :=
  ∀ d s,
    let takes := fun t => OnlyMe s t ∧
      (∀ r, readX (me t) r = if r = 0 then 0 else if r = d then (me s).mpend.setWidth 64 else readX (me s) r) ∧
      me t = { me s with
        pc := (me s).pc + 4, unit := none, wait := none, met := none, walk := none, mpend := 0, x := (me t).x, xpend := (me t).xpend
        poison := (me t).poison }
    (isHandler s.cur = false → ∃ t, exec (.mpoll d) s = .next t ∧ takes t) ∧
    (isHandler s.cur = true → ∃ t, exec (.mpoll d) s = .next t ∧ WritesX s t d 0 ((me s).pc + 4)) ∧
    (isHandler s.cur = false → (me s).mpend ≠ 0 → ∃ t, exec (.mwait d) s = .next t ∧ takes t) ∧
    (isHandler s.cur = false → (me s).mpend = 0 → ∃ t, exec (.mwait d) s = .next t ∧ Waits s t .message) ∧
    (isHandler s.cur = true → Illegal s (.mwait d))

/-- QPUSH (R104, R105): the value is the newest entry; with 16 entries held the context blocks and takes its place in line. -/
def Sys2Proof.Claims.QueuePush : Prop :=
  ∀ q b s, isHandler s.cur = false → (∀ e ∈ (getCore s (s.cur / 16)).pushers, e.1 ≠ q.toNat) →
    ((queue s q.toNat).length < 16 → releaseReady s s.cur .core = true →
      ∃ t, exec (.qpush q b) s = .next t ∧ CoreFrame s t ∧ Done s t ∧
        queue t q.toNat = queue s q.toNat ++ [⟨readX (me s) b, (me s).launch⟩] ∧
        (∀ n, n ≠ q.toNat → queue t n = queue s n) ∧
        getCore t (s.cur / 16) = { getCore s (s.cur / 16) with queues := (getCore t (s.cur / 16)).queues }) ∧
    (16 ≤ (queue s q.toNat).length →
      ∃ t, exec (.qpush q b) s = .next t ∧ CoreFrame s t ∧ me t = { me s with wait := some (.queuePush q.toNat) } ∧
        getCore t (s.cur / 16) =
          { getCore s (s.cur / 16) with pushers := (getCore s (s.cur / 16)).pushers ++ [(q.toNat, s.cur % 16)] })

/-- QPOP, QPEEK and QCNT (R104, R105, R260) for entries of the caller's world: the oldest is removed or copied into x[d]; with none the
context blocks; QCNT never blocks. -/
def Sys2Proof.Claims.QueueRead : Prop :=
  ∀ d q s, isHandler s.cur = false →
    (∃ t, exec (.qcnt d q) s = .next t ∧
      WritesX s t d (BitVec.ofNat 64 ((queue s q.toNat).countP fun e => decide (e.world = (me s).launch)))
        ((me s).pc + 4)) ∧
    ((∀ e ∈ (getCore s (s.cur / 16)).poppers, e.1 ≠ q.toNat) →
      (∀ older e newer, queue s q.toNat = older ++ e :: newer → (∀ x ∈ older, x.world ≠ (me s).launch) →
        e.world = (me s).launch →
        (∃ t, exec (.qpop d q) s = .next t ∧ CoreFrame s t ∧ DoneWith s t d e.value ∧
          queue t q.toNat = older ++ newer ∧ (∀ n, n ≠ q.toNat → queue t n = queue s n)) ∧
        (∃ t, exec (.qpeek d q) s = .next t ∧ CoreFrame s t ∧ DoneWith s t d e.value ∧
          ∀ n, queue t n = queue s n)) ∧
      ((∀ x ∈ queue s q.toNat, x.world ≠ (me s).launch) →
        (∃ t, exec (.qpop d q) s = .next t ∧ CoreFrame s t ∧ me t = { me s with wait := some (.queuePop q.toNat) }) ∧
        (∃ t, exec (.qpeek d q) s = .next t ∧ CoreFrame s t ∧ me t = { me s with wait := some (.queuePop q.toNat) })))

/-! ### Window accumulators -/

namespace Sys2Proof.Claims

/-- A window-accumulator instruction that goes to the home: the operation, the register that takes the result, the register that holds the
object's address, and the configuration that a WINIT carries. -/
def windowOp (s : State) : Instr → Option (WaccOp × Reg × Reg × Option Nat)
  | .winit a b => some (.init (readX (me s) b), 0, a, some (readX (me s) b).toNat)
  | .wpush d a b => some (.push (readX (me s) b) (secondOperand s b) b ((encodeWord (.wpush d a b)).setWidth 64), d, a, none)
  | .wread d a => some (.read d ((encodeWord (.wread d a)).setWidth 64), d, a, none)
  | .wflip d a => some (.flip, d, a, none)
  | .wreset d a => some (.reset, d, a, none)
  | .wstat d a => if a = 0 then none else some (.stat, d, a, none)
  | _ => none

/-- The result of the instruction before is in a register, and it holds no data of a failed read (R89, R90). -/
def Settled (s : State) (r : Reg) : Prop := mapGet 0 (me s).xpend r.toNat = 0 ∧ ∀ e ∈ (me s).poison, e.1 ≠ r.toNat

/-- Bytes of the object that WINIT describes, or one byte of an object that exists (Table 11.4, check 9). -/
def objectBytes (cfg : Option Nat) : Nat :=
  match cfg with
  | some c => waccExtent c
  | none => 1

/-- The line at the object's address lies in on-chip memory, on an NA page, and is readable. -/
def OnChip (s : State) (t : Target) : Prop :=
  t.key < 0x100000000000000 ∧ t.key % 64 = 0 ∧ t.prop = .na ∧ (∀ i ≤ 4096, (t.key + 64 * i) / 64 ∉ s.badLines) ∧
    t.key + 64 * 4097 < 0x100000000000000 ∧ ∀ w ∈ s.mca, w.hart ≠ noHart

/-- The identity encodings of Table 11.2, by operator code. -/
def identityOf (op : Nat) : Nat :=
  [0, 0, 0, 0x80000000, 0xFF800000, 0x7FFFFFFF, 0x7F800000, 0xFFFFFFFFFFFFFFFF, 0, 0, 0xFF800000, 0x3F800000, 0xFFFFFFFFFF800000].getD op 0

/-- The integer operators of Table 11.2: bytes of a slot, a ⊕ b, and what WREAD makes of an aggregate (R193). -/
def integerOperator : Nat → Option (Nat × (Nat → Nat → Nat) × (Nat → Word))
  | 0x0 => some (4, fun a b => (a + b) % 2 ^ 32, signedBytes 4)
  | 0x1 => some (8, fun a b => (a + b) % 2 ^ 64, BitVec.ofNat 64)
  | 0x3 => some (4, fun a b => if signedOf 32 a < signedOf 32 b then b else a, signedBytes 4)
  | 0x5 => some (4, fun a b => if signedOf 32 b < signedOf 32 a then b else a, signedBytes 4)
  | 0x7 => some (8, fun a b => a &&& b, BitVec.ofNat 64)
  | 0x8 => some (8, fun a b => a ||| b, BitVec.ofNat 64)
  | 0x9 => some (8, fun a b => a ^^^ b, BitVec.ofNat 64)
  | _ => none

/-- The header of an object as the home reads it. -/
def headerAt (s : State) (die : Nat) (t : Target) : Header := readHeader (rawBytes s die noHart t.key 64)

end Sys2Proof.Claims

/-- WINIT, WPUSH, WREAD, WFLIP, WRESET and WSTAT (R193, R197) where the checks of Table 11.4 admit the object: the operation leaves for its
home and the context waits for the answer; no byte of memory and no register changes before it. The object lies on no page that another
page is being copied to, whose operations go to the source (R206). A WPUSH on the object of a pair operator reads x[b + 1] as well (R468):
it waits for a result that has still to come there (R89), and data of a failed read trap MEMORY_ERROR (R90). -/
def Sys2Proof.Claims.WindowIssue : Prop :=
  (∀ i w d a cfg s u tg, windowOp s i = some (w, d, a, cfg) → isHandler s.cur = false → Ready s 1 →
    waccEarly s s.cur (readX (me s) a) cfg = none →
    checkAccess s s.cur (readX (me s) a) (.amo 64) = .ok u tg → waccPlaced u s.cur tg (objectBytes cfg) = true →
    tg.key < 0x10000000000000000 → (∀ m ∈ s.migrations, inPage m.dst tg.key = false) →
    (∀ b, i = .wpush d a b → pairObject u s.cur tg = true → Settled s (b + 1)) →
    ∃ t o, exec i s = .next t ∧ InFlightAs s o (.wacc w) d ∧ o.key = tg.key ∧ t.ops = s.ops ++ [o] ∧
      o.id ∈ (getCore t (homeCore tg.key)).homeQ ∧ t.agenda = s.agenda ++ [.waccHomeExecute (homeCore tg.key)] ∧
      me t = { me s with wait := some (.reply o.id) } ∧
      (∀ k, k ≠ s.cur → getHart t k = getHart s k) ∧
      ∀ die key, viewByte t die key = viewByte s die key) ∧
  ∀ d a b s u tg, isHandler s.cur = false → waccEarly s s.cur (readX (me s) a) none = none →
    checkAccess s s.cur (readX (me s) a) (.amo 64) = .ok u tg → waccPlaced u s.cur tg 1 = true → pairObject u s.cur tg = true →
    (mapGet 0 (me s).xpend (b + 1).toNat ≠ 0 →
      ∃ t, exec (.wpush d a b) s = .next t ∧ me t = { me s with wait := some (.operand (b + 1).toNat) } ∧ OnlyMe u t) ∧
    ∀ e, mapGet 0 (me s).xpend (b + 1).toNat = 0 → (me s).poison.find? (fun x => decide (x.1 = (b + 1).toNat)) = some e →
      ∃ t, exec (.wpush d a b) s = .next t ∧ TakesTrap u t 0x10 (e.2.getD 0) 0

/-- WSTAT with a = x0 (R199): the read latch is delivered without an access, SEQ in x[d] and B, F and N in x[d + 1]. -/
def Sys2Proof.Claims.WindowLatch : Prop :=
  ∀ (d : Reg) s, isHandler s.cur = false → (me s).unit = none → wellFormed (.wstat d 0) = true →
    ∃ t, exec (.wstat d 0) s = .next t ∧ OnlyMe s t ∧ (me t).pc = (me s).pc + 4 ∧
      ∀ r, readX (me t) r =
        if r = 0 then 0
        else if d ≠ 0 ∧ r = d + 1 then (me s).latch.b ++ (me s).latch.f ++ (me s).latch.n
        else if r = d then (me s).latch.seq
        else readX (me s) r

/-- The window operations at the home (R193, R198, R199) on a sound object in on-chip memory that needs no flip: what each answers and what the
header holds afterwards. A push into a window that is not full counts one more value and one more step of SEQ; a read and a WSTAT change
nothing; a reset empties the window and keeps SEQ; a flip that finds the front in use does nothing. A WREAD with an integer operator answers the
identity for an empty window, otherwise the front top, the back aggregate, or both combined, with the state for the latch. On the object of
a pair operator an instruction with an odd register changes nothing and is answered with WACC_MISUSE (R196), and one whose second register
would be beyond x31 with ILLEGAL_INSTRUCTION (R315). WINIT leaves a header with the configuration, an empty window and the identity. -/
def Sys2Proof.Claims.WindowSteps : Prop :=
  (∀ s die tg, OnChip s tg → (headerAt s die tg).sound true = true →
    let h := headerAt s die tg
    (∀ lo hi (r : Reg) word, h.n < h.w → r.getLsbD 0 = false →
      ∃ t, waccApply s die tg (.push lo hi r word) = (t, .value (h.seq + 1) false) ∧
        (headerAt t die tg).n = h.n + 1 ∧ (headerAt t die tg).b = h.b + 1 ∧ (headerAt t die tg).f = h.f ∧
        (headerAt t die tg).seq = h.seq + 1 ∧
        (headerAt t die tg).bagg =
          if h.b = 0 then pushValue h.op lo hi
          else waccCombine h.op h.bagg (pushValue h.op lo hi) % 2 ^ (8 * waccSlot h.op)) ∧
    (h.f ≠ 0 ∨ h.b = 0 → waccApply s die tg .flip = (s, .value 0 false)) ∧
    waccApply s die tg .stat = (s, .counts ⟨h.seq, BitVec.ofNat 32 h.n, BitVec.ofNat 16 h.f, BitVec.ofNat 16 h.b⟩) ∧
    (∀ (r : Reg) word, r.getLsbD 0 = false → ∃ v, waccApply s die tg (.read r word) = (s, v)) ∧
    (∀ (r : Reg) word slot op res, integerOperator h.op = some (slot, op, res) →
      let top := leNat (rawBytes s die noHart (tg.key + 64 + (h.f - 1) * slot) slot)
      let v := if h.n = 0 then identityOf h.op else if h.f = 0 then h.bagg else if h.b = 0 then top else op top h.bagg
      waccApply s die tg (.read r word) =
        (s, .latched (res v) 0 false ⟨h.seq, BitVec.ofNat 32 h.n, BitVec.ofNat 16 h.f, BitVec.ofNat 16 h.b⟩)) ∧
    (0xA ≤ h.op → ∀ lo hi (r : Reg) word, r.getLsbD 0 = true →
      let answer := if r = 31 then Reply.illegal word else .misuse
      waccApply s die tg (.push lo hi r word) = (s, answer) ∧ waccApply s die tg (.read r word) = (s, answer)) ∧
    ∃ t, waccApply s die tg .reset = (t, .value h.seq false) ∧ (headerAt t die tg).n = 0 ∧ (headerAt t die tg).seq = h.seq ∧
      (headerAt t die tg).w = h.w) ∧
  ∀ s die tg (cfg : Word), OnChip s tg → waccConfigOk cfg.toNat = true →
    let op := (cfg.extractLsb' 0 8).toNat
    ∃ t, waccApply s die tg (.init cfg) = (t, .ack) ∧
      headerAt t die tg =
        ⟨op, (cfg.extractLsb' 8 8).toNat, (cfg.extractLsb' 16 13).toNat, 0, 0, 0, 0, 1, identityOf op⟩

/-- WACC_HOME_EXECUTE and WACC_FLIP_COMPLETE (R198, R203, R206): an operation that needs no flip, or whose flip is made, is carried out whole and
answered; one that needs a flip starts it and waits, as does one whose object has a flip under way; one on a page that moves is held. -/
def Sys2Proof.Claims.WindowAtHome : Prop :=
  ∀ core s o w, o.kind = .wacc w →
    let asked := askLines o.launch o.id (waccLines s (core / 4096) (opTarget o) w) (leaveHome s core o.id)
    (HomeReady s core → pick s 2 (arrivals s core (waccMayArrive s core)) = some o →
      (migrating s o = true → ∃ t, exec (.waccHomeExecute core) s = .next t ∧
        (getCore t core).held = (getCore s core).held ++ [o.id] ∧ t = { s with cores := t.cores }) ∧
      (migrating s o = false → flipping s core o = true → ∃ t, exec (.waccHomeExecute core) s = .next t ∧
        t = { s with agenda := s.agenda ++ [.waccHomeExecute core] }) ∧
      (migrating s o = false → flipping s core o = false → flipDue s (core / 4096) o w = false →
        ∃ t, exec (.waccHomeExecute core) s = .next t ∧
          Answered s t o.id (waccApply asked (core / 4096) (opTarget o) w).2 (stampOf t (core / 4096)) ∧
          (∀ die key, viewByte t die key = viewByte (waccApply asked (core / 4096) (opTarget o) w).1 die key) ∧
          Event.homeReplyArrival o.id ∈ t.agenda) ∧
      (migrating s o = false → flipping s core o = false → flipDue s (core / 4096) o w = true →
        ∃ t, exec (.waccHomeExecute core) s = .next t ∧
          (getCore t core).flips = (getCore s core).flips ++ [(o.key, o.id)] ∧
          t.agenda = s.agenda ++ [.waccFlipComplete core o.key] ∧ t.ops = s.ops ∧
          ∀ die key, viewByte t die key = viewByte s die key)) ∧
    (∀ header, (getCore s core).flips.find? (fun e => decide (e.1 = header)) = some (header, o.id) → findOp s o.id = some o →
      ∃ t, exec (.waccFlipComplete core header) s = .next t ∧
        (getCore t core).flips = (getCore s core).flips.filter (fun e => decide (e.1 ≠ header)) ∧
        (∃ r, Answered s t o.id r (stampOf t (core / 4096))) ∧ Event.homeReplyArrival o.id ∈ t.agenda)

/-- The answer of a home to a waiting window operation (R197, R199): a pair fills x[d] and x[d + 1] and the read latch, an acknowledgement
completes the WINIT, a misuse raises WACC_MISUSE and an uncorrectable error MEMORY_ERROR with the pointer as EVAL, and a register beyond
x31 ILLEGAL_INSTRUCTION with the instruction (R315). -/
def Sys2Proof.Claims.WindowReply : Prop :=
  ∀ s o r, findOp s o.id = some o → o.reply = some r → o.hart < 0x100000000 → isHandler o.hart = false →
    replyBehind s o = false → lineWaits s o.id = false →
    (getHart s o.hart).tenure = .running → (getHart s o.hart).gen = o.gen → (getHart s o.hart).wait = some (.reply o.id) →
    o.dest ≠ 31 →
    ∃ t, exec (.homeReplyArrival o.id) s = .next t ∧
      (∀ lo hi l, r = .latched lo hi true l →
        (getHart t o.hart).latch = l ∧ (getHart t o.hart).pc = (getHart s o.hart).pc + 4 ∧
        ∀ q, readX (getHart t o.hart) q =
          if q = 0 then 0
          else if o.dest ≠ 0 ∧ q = o.dest + 1 then hi
          else if q = o.dest then lo
          else readX (getHart s o.hart) q) ∧
      (r = .ack → (getHart t o.hart).pc = (getHart s o.hart).pc + 4 ∧ (getHart t o.hart).x = (getHart s o.hart).x) ∧
      (r = .misuse → (getHart t o.hart).sr.ecause = 0x0C ∧ (getHart t o.hart).sr.eval = o.ptr ∧ (getHart t o.hart).mode = .S) ∧
      (r = .memoryError → (getHart t o.hart).sr.ecause = 0x10 ∧ (getHart t o.hart).sr.eval = o.ptr ∧ (getHart t o.hart).mode = .S) ∧
      (∀ word, r = .illegal word →
        (getHart t o.hart).sr.ecause = 0x01 ∧ (getHart t o.hart).sr.eval = word ∧ (getHart t o.hart).mode = .S)

/-! ### Encoding, the step, reset, and the rights of an access -/

namespace Sys2Proof.Claims

/-- Words of the spec's own encoding examples, lowest byte first, and the instructions they stand for. -/
def exampleWords : List (List Byte × Instr) :=
  [([0x00, 0x25], .vadd16 false 8 9),
   ([0x81, 0x42, 0x28, 0x85], .vadd ⟨true, false, false, 1, 9, 8, 8, 2⟩),
   ([0x37, 0x22, 0x00, 0x00], .ord .rel .die),
   ([0x03, 0xE7, 0x20, 0x00], .add 7 7 8),
   ([0x05, 0xA5, 0x04, 0x00], .addi 5 5 1),
   ([0x21, 0xC5, 0x84, 0xFF], .bcond .ne 5 6 (-4)),
   ([0x23, 0x00, 0xFF, 0xFF], .jal 0 (-8)),
   ([0x31, 0x73, 0xAC, 0x00], .ld .d 19 3 5),
   ([0x33, 0x4C, 0x2E, 0x00], .st .d 12 18 1),
   ([0x35, 0x69, 0x90, 0x14], .amo .cas .w 9 3 4),
   ([0x4D, 0x05, 0x11, 0x38], .waitc 7 5 8 .die),
   ([0x41, 0x60, 0x14, 0x00], .qpush 3 5),
   ([0x6D, 0xA0, 0x00, 0x00], .mldw 5)]

/-- A line of a vault: an address of the vault range, an aligned access of `n` bytes, and no entry of the core's lookaside buffer (Table 2.6,
R218, R220). -/
def VaultAccess (s : State) (p : Word) (n : Nat) : Prop :=
  p.toNat % n = 0 ∧ 0x200000000 ≤ p.toNat % 2 ^ 56 ∧ p.toNat % 2 ^ 56 < 0x600000000 ∧
    (getCore s (s.cur / 16)).plb = []

/-- The one range that holds an address. -/
def InRange (s : State) (va : Nat) (g : Range) : Prop :=
  g ∈ s.ranges ∧ ∀ r ∈ s.ranges, (r.base ≤ va ∧ va < r.base + r.len) ↔ r = g

/-- An entry of an owner's table admits the line of an address under a tag with right `bit` (Table 13.5). -/
def OwnerMay (s : State) (own : BitVec 16) (va : Nat) (tag : BitVec 8) (bit : Nat) : Prop :=
  ∃ e ∈ mapGet [] s.rights own.toNat,
    e.tag = tag ∧ e.base ≤ va / 64 * 64 ∧ va / 64 * 64 + 64 ≤ e.base + 64 * e.len ∧ e.rights.getLsbD bit = true

/-- An entry of OWN's table does. -/
def Admitted (s : State) (va : Nat) (tag : BitVec 8) (bit : Nat) : Prop := OwnerMay s (me s).sr.own va tag bit

/-- What stops an access to a vault: no range, a stale tag, no entry (R218). -/
def VaultStops (s : State) (p : Word) (bit : Nat) (r : Result) : Prop :=
  let va := p.toNat % 2 ^ 56
  ((∀ g ∈ s.ranges, ¬(g.base ≤ va ∧ va < g.base + g.len)) → Traps s r 0x06 p 1) ∧
  (∀ g, InRange s va g → p.toNat / 2 ^ 56 ≠ g.tag.toNat → Traps s r 0x07 p 0) ∧
  (∀ g, InRange s va g → p.toNat / 2 ^ 56 = g.tag.toNat → ¬Admitted s va g.tag bit → Traps s r 0x06 p 3)

/-- What lets it pass, on a good line that the core has not cached. -/
def VaultPasses (s : State) (p : Word) (n bit : Nat) : Prop :=
  let va := p.toNat % 2 ^ 56
  Ready s 1 ∧ Clear s va n ∧ va / 64 ∉ s.badLines ∧ s.mca = [] ∧ (getCore s (s.cur / 16)).l1 = [] ∧
    ∃ g, InRange s va g ∧ p.toNat / 2 ^ 56 = g.tag.toNat ∧ Admitted s va g.tag bit

end Sys2Proof.Claims

/-- Decoding gives back every well-formed instruction, whatever bytes follow it. -/
def Obligations.RoundTrip : Prop :=
  ∀ i rest, wellFormed i = true → instrLength i ≠ 0 → decode (encode i ++ rest) = some (i, rest)

/-- What decodes is a well-formed instruction, and its bytes are the encoding of it and of nothing else: two byte strings that decode to
one instruction begin alike, and no reserved field is dropped (R322). -/
def Obligations.DecodeExact : Prop :=
  ∀ bs i rest, decode bs = some (i, rest) → wellFormed i = true ∧ bs = encode i ++ rest

/-- The spec's own example words decode to the instructions that they stand for (R312). -/
def Obligations.DecodeWords : Prop :=
  ∀ e ∈ exampleWords, decode e.1 = some (e.2, [])

/-- A step runs the instruction at the PC: when a hart has its turn and what it fetches decodes, the step is exec of that
instruction with the hart as the executing one, and the issue credited to the hart; a word that decodes to nothing, or that may not follow the
ORD or GANG before it, traps ILLEGAL_INSTRUCTION with the word as EVAL (R322). Around exec the step ends earlier waits, notes where the
unit ends and how long its access is, counts what the fetch sent out, and lets time pass; the credit touches no more than the order of
the contexts, their waits after YIELD, a handler's budget, the count since a deadline, and the slices of the cluster's tenants with the
requests that they make of their harts (R75). -/
def Obligations.StepRunsInstruction : Prop :=
  ∀ s h u w len, nextEvent s = none → Machine.chosen s 2 (readyHarts s) = some h → turnOf s h = some .instruction →
    fetch s h (getHart s h).pc = .word u w len →
    let v := getHart s h
    let illegal := noteIssue (takeTrap { u with cur := h } h ⟨0x01, BitVec.ofNat 64 w, 0⟩) h
    (∀ i, decode (leBytes len w) = some (i, []) → pairs v.unit i = true → pendingSource v i = none →
      trapsFirst u v i = true ∨ poisonedSource v i = none →
      ∃ q, step s = passed (credited h (exec i q)) ∧ q.cur = h ∧
        me q = { v with wait := none, after := v.pc + BitVec.ofNat 64 len, remain := (me q).remain } ∧
        (∀ k, k ≠ h → getHart q k = getHart s k) ∧
        q = { s with
          cur := h, harts := q.harts, cores := q.cores, channels := q.channels, charges := q.charges, debts := q.debts
          budgetAt := q.budgetAt, ports := q.ports, sentOut := q.sentOut, agenda := q.agenda }) ∧
    (∀ i, decode (leBytes len w) = some (i, []) → pairs v.unit i = false → step s = passed (.next illegal)) ∧
    (decode (leBytes len w) = none → step s = passed (.next illegal)) ∧
    (∀ t, ∃ t', credited h (.next t) = .next t' ∧
      t' = { t with harts := t'.harts, cores := t'.cores, clusters := t'.clusters, agenda := t'.agenda } ∧
      (∃ l, t'.agenda = t.agenda ++ l ∧ ∀ e ∈ l, ∃ c n r, e = .sliceEnd c n r) ∧
      (∀ g, getCore t' g = { getCore t g with last := (getCore t' g).last }) ∧
      (∀ c, getCluster t' c = { getCluster t c with slices := (getCluster t' c).slices }) ∧
      ∀ k, getHart t' k =
        { getHart t k with
          wait := (getHart t' k).wait, budget := (getHart t' k).budget, preempt := (getHart t' k).preempt }) ∧
    ∀ t, passed (.next t) =
      .next { t with tick := t.tick + 1, time := t.time + Config.stepTime t.tick, cycles := t.cycles + Config.stepCycles t.tick }

/-- After reset every context has generation 0 and is free (R19), but context 0 of the sixteen cores of cluster 255 of each die, which is set aside
for the operating services (R27) and runs their supervisor in S mode (the model's choice of context: log entry 63); that a free context holds the
values of `Hart.reset` is log entry 20, that every byte of memory reads 0 log entry 22; every matrix slice has the reset configuration and empty planes (R169), every tenant the entry of Table 4.1; no memory, no right, no range and no operation is
listed, and no event is due but the check of each other cluster for going idle (R292). -/
def Obligations.ResetState : Prop :=
  let os := fun (h : Nat) => h % 16 = 0 ∧ h < 0x40000 ∧ h / 256 % 256 = 255
  (∀ h, (getHart State.reset h).gen = 0 ∧ (os h → (getHart State.reset h).tenure = .running ∧ (getHart State.reset h).mode = .S) ∧
    (¬os h → getHart State.reset h = .reset ∧ (getHart State.reset h).tenure = .free)) ∧
  (∀ g, (getCore State.reset g).slice.mode = 0 ∧ (getCore State.reset g).slice.active.state = .empty ∧
    (getCore State.reset g).slice.shadow.state = .empty ∧ ∀ q, mapGet [] (getCore State.reset g).queues q = []) ∧
  (∀ n, (getTenant State.reset n).weight = 1 ∧ (getTenant State.reset n).slice = 2000 ∧
    (getTenant State.reset n).deadline = 50 ∧ (getTenant State.reset n).hbmBudget = 0) ∧
  State.reset.firmware.osMask = [255, 511, 767, 1023] ∧
  (∀ d k, viewByte State.reset d k = 0) ∧
  (∀ o, mapGet [] State.reset.rights o = []) ∧ State.reset.ranges = [] ∧ State.reset.ops = [] ∧
  (∀ e ∈ State.reset.agenda, ∃ c, e = .clusterIdleEntry c ∧ c < 1024 ∧ c % 256 ≠ 255) ∧
  Memory.wf State.reset = true

/-- Every step keeps the canonical form of memory: keys rising, no listed byte 0, in every view and outside the device. -/
def Obligations.StepKeepsMemory : Prop :=
  ∀ s t, Memory.wf s = true → step s = .next t → Memory.wf t = true

/-- An access to a vault (R218): without a range RIGHTS_DENIED with detail 1, with another tag than the range's RIGHTS_STALE, without an entry of
OWN that holds the right RIGHTS_DENIED with detail 3; with one a load reads the bytes and a store writes them. -/
def Obligations.VaultRights : Prop :=
  (∀ sz d a off s,
    let n := ldBytes sz
    let p := readX (me s) a + BitVec.ofInt 64 (off.toInt * n)
    let va := p.toNat % 2 ^ 56
    VaultAccess s p n →
    VaultStops s p 0 (exec (.ld sz d a off) s) ∧
    (VaultPasses s p n 0 → ∃ t o, exec (.ld sz d a off) s = .next t ∧ InFlightAs s o .load d ∧ o ∈ t.ops ∧
      (∀ r, readX (me t) r =
        if r = 0 then 0
        else if r = d then ldValue sz ((List.range n).map fun i => viewByte s (myDie s) (va + i))
        else readX (me s) r) ∧
      (me t).pc = (me s).pc + 4 ∧ (me t).sr = (me s).sr ∧ t.views = s.views ∧ t.outer = s.outer)) ∧
  (∀ sz r a off s,
    let n := stBytes sz
    let p := readX (me s) a + BitVec.ofInt 64 (off.toInt * n)
    let va := p.toNat % 2 ^ 56
    VaultAccess s p n →
    VaultStops s p 1 (exec (.st sz r a off) s) ∧
    (VaultPasses s p n 1 → ∃ t, exec (.st sz r a off) s = .next t ∧
      StoredIn s t (myDie s) va ((List.range n).map (byteOf (readX (me s) r).toNat)) ∧
      me t = { me s with pc := (me s).pc + 4, wait := none, met := none, walk := none }))

/-! ### Work and synchronisation -/

namespace Sys2Proof.Claims

/-- The counter that x[a] names may be used by the executing hart at a scope (R37, R71). -/
def CounterReady (s : State) (id : Word) (sc : Scope) : Prop :=
  bindsScope s (me s) sc = true ∧ id.toNat < 0x4000 ∧ mapGet 0 s.counterOwner id.toNat = (me s).sr.tenant.toNat + 1 ∧
    (id.toNat / 4096 = s.cur / 16 / 4096 ∨ 5 ≤ sc.code.toNat)

/-- No node waits on a counter. -/
def NoNodeWaits (s : State) (id : Nat) : Prop :=
  ∀ e ∈ s.launches, ∀ l, e.2 = some l → ∀ x ∈ l.nodes, ∀ n, x.2 = some n → n.waitctr.toNat ≠ id

/-- The only barrier on the device is the one of the executing hart's node in its instance of a scope, with the harts `arr` arrived, or
none if nobody has. -/
def Episode (s : State) (sc : Scope) (arr : List Nat) (st : Stamp) : Prop :=
  (arr = [] ∧ st = .zero ∧ s.barriers = []) ∨
  (arr ≠ [] ∧ s.barriers = [⟨(me s).launch, (me s).sr.node.toNat, sc, instanceOf (s.cur / 16) sc, arr, st⟩])

/-- Harts of the node in the instance that have started and not halted, the saved ones too (R339). -/
def members (s : State) (sc : Scope) : Nat :=
  participants s ⟨(me s).launch, (me s).sr.node.toNat, sc, instanceOf (s.cur / 16) sc, [], .zero⟩

/-- A running hart of a launch, of a node that the launch has. -/
def OnNode (s : State) (l : Launch) (n : Node) : Prop :=
  isHandler s.cur = false ∧ getLaunch s (me s).launch = some l ∧ l.id = (me s).launch ∧
    getNode l (me s).sr.node.toNat = some n

/-- Scratch bank of the executing context in SELF (R13). -/
def bankKey (s : State) : Nat := 0x100000000 + s.cur / 16 * 0x20000 + s.cur % 16 * 0x4000

end Sys2Proof.Claims

/-- SIGC (R70, R391): once the hart's earlier accesses are performed the addend is added modulo 2^64, x[d] takes the value before, and the
counter covers what the hart has seen; before that it waits. A hart of the tenant that waits for the counter, and whose target the sum is the
first value to reach, will return with that sum. A counter of another tenant is RIGHTS_DENIED. -/
def Sys2Proof.Claims.SignalCounter : Prop :=
  ∀ d a b sc s,
    let id := readX (me s) a
    let die := s.cur / 16 / 4096
    (CounterReady s id sc →
      (releaseReady s s.cur sc = true → NoNodeWaits s id.toNat →
        ∃ t, exec (.sigc d a b sc) s = .next t ∧ DoneWith s t d (mapGet 0 s.counters id.toNat) ∧
          (∀ k, mapGet 0 t.counters k =
            if k = id.toNat then mapGet 0 s.counters id.toNat + readX (me s) b else mapGet 0 s.counters k) ∧
          mapGet .zero t.counterStamp id.toNat = (stampOf s die).join (mapGet .zero s.counterStamp id.toNat) ∧
          (∀ k, k ≠ s.cur → (∀ n, (getHart s k).wait ≠ some (.counter id.toNat n)) → getHart t k = getHart s k) ∧
          (∀ k n, k ≠ s.cur → (getHart s k).wait = some (.counter id.toNat n) → (getHart s k).sr.tenant = (me s).sr.tenant →
            getHart t k =
              if (getHart s k).met = none ∧ n.toNat ≤ (mapGet 0 s.counters id.toNat + readX (me s) b).toNat then
                { getHart s k with
                  met := some (.counter id.toNat (mapGet 0 s.counters id.toNat + readX (me s) b)
                    ((stampOf s die).join (mapGet .zero s.counterStamp id.toNat))) }
              else getHart s k) ∧
          t = { s with harts := t.harts, counters := t.counters, counterStamp := t.counterStamp, agenda := t.agenda }) ∧
      (releaseReady s s.cur sc = false → ∃ t, exec (.sigc d a b sc) s = .next t ∧ Waits s t (.order sc))) ∧
    (bindsScope s (me s) sc = true → (id.toNat / 4096 % 4 = die ∨ 5 ≤ sc.code.toNat) →
      (0x4000 ≤ id.toNat ∨ mapGet 0 s.counterOwner id.toNat ≠ (me s).sr.tenant.toNat + 1) →
      Traps s (exec (.sigc d a b sc) s) 0x06 id 0)

/-- WAITC (R70, R466): once a value has met its target, unsigned, the first one that did while it waited or the counter's own, and what the
signals before it covered has arrived on the die, x[d] takes that value and the core acquires; otherwise the hart waits, with the value that it has
met, and executes WAITC again. -/
def Sys2Proof.Claims.WaitCounter : Prop :=
  ∀ d a b sc s,
    let id := readX (me s) a
    let now := mapGet 0 s.counters id.toNat
    let waits := some (Wait.counter id.toNat (readX (me s) b))
    let unmet := ∀ v st, (me s).met ≠ some (.counter id.toNat v st)
    isHandler s.cur = false → CounterReady s id sc →
    (∀ v st,
      (me s).met = some (.counter id.toNat v st) ∨
        (unmet ∧ (readX (me s) b).toNat ≤ now.toNat ∧ v = now ∧ st = mapGet .zero s.counterStamp id.toNat) →
      (st.le (stampOf s (s.cur / 16 / 4096)) = true →
        ∃ t, exec (.waitc d a b sc) s = .next t ∧ DoneWith s t d v ∧
          (2 ≤ sc.code.toNat → (getCore t (s.cur / 16)).l1 = []) ∧
          (sc.code.toNat < 2 → getCore t (s.cur / 16) = getCore s (s.cur / 16)) ∧ CoreFrame s t) ∧
      (st.le (stampOf s (s.cur / 16 / 4096)) = false →
        ∃ t, exec (.waitc d a b sc) s = .next t ∧ OnlyMe s t ∧
          me t = { me s with met := some (.counter id.toNat v st), wait := waits })) ∧
    (unmet → now.toNat < (readX (me s) b).toNat →
      ∃ t, exec (.waitc d a b sc) s = .next t ∧ OnlyMe s t ∧ me t = { me s with wait := waits })

/-- BAR (R339): after its release a hart joins the episode of its node and instance and waits; the arrival that completes it, once the writes of
every arrival have reached every view, lets every member go on past its BAR. Before its release is ready it waits without joining. In the
handler context, at hart scope and at a scope the launch does not bind it is ILLEGAL_INSTRUCTION. That the last arrival lets all members go in its
own step is log entry 26. -/
def Sys2Proof.Claims.BarrierEpisode : Prop :=
  (∀ sc s, isHandler s.cur = true ∨ sc = .hart ∨ bindsScope s (me s) sc = false → Illegal s (.bar sc)) ∧
  ∀ sc s, isHandler s.cur = false → sc ≠ .hart → bindsScope s (me s) sc = true →
    (releaseReady s s.cur sc = false → ∃ t, exec (.bar sc) s = .next t ∧ Waits s t (.order sc)) ∧
    ∀ arr st, releaseReady s s.cur sc = true → (me s).tenure = .running → mapWf .reset s.harts = true →
      Episode s sc arr st → s.cur ∉ arr → arr.Nodup →
      let mine := stampOf s (s.cur / 16 / 4096)
      let all := if arr = [] then mine else st.join mine
      let complete := arr.length + 1 = members s sc ∧ viewSettled s all = true
      (¬complete → ∃ t, exec (.bar sc) s = .next t ∧ me t = { me s with wait := some .barrier } ∧
        (∀ k, k ≠ s.cur → getHart t k = getHart s k) ∧
        t.barriers = [⟨(me s).launch, (me s).sr.node.toNat, sc, instanceOf (s.cur / 16) sc, arr ++ [s.cur], all⟩]) ∧
      (complete → ∃ t, exec (.bar sc) s = .next t ∧ t.barriers = [] ∧
        (∀ k, k ∈ arr ∨ k = s.cur → getHart t k =
          { getHart s k with pc := (getHart s k).pc + 4, unit := none, wait := none, met := none, walk := none }) ∧
        (∀ k, k ∉ arr → k ≠ s.cur → getHart t k = getHart s k))

/-- TFETCH (R43, R57, R76, R402): a sub-tile that the hart holds completes first, as TDONE completes it; then, where the slice has ended, a hart
in U mode is stopped at the TFETCH; while a stopped hart of the node holds a sub-tile the hart waits; otherwise it takes the next sub-tile
of the node in row-major order, its edges cut to the node's size, or all ones when none is left. In the handler context it is
ILLEGAL_INSTRUCTION. -/
def Sys2Proof.Claims.TileFetch : Prop :=
  (∀ d s, isHandler s.cur = true → Illegal s (.tfetch d)) ∧
  (∀ d s k, isHandler s.cur = false → (me s).tile = some k →
    (releaseReady s s.cur (tileScope s (me s)) = true → exec (.tfetch d) s = exec (.tfetch d) (tileDone s s.cur)) ∧
    (releaseReady s s.cur (tileScope s (me s)) = false →
      ∃ t, exec (.tfetch d) s = .next t ∧ Waits s t (.order (tileScope s (me s))))) ∧
  (∀ d s, isHandler s.cur = false → (me s).tile = none → (me s).preempt ≠ .none → (me s).mode = .U →
    (Busy s → ∃ t, exec (.tfetch d) s = .next t ∧ Waits s t .drain) ∧
    (¬Busy s → NobodyGathers s (s.cur / 16 / 16) → ∃ t, exec (.tfetch d) s = .next t ∧ Stops s t 1 0 (unitPc (me s)))) ∧
  ∀ d s l n, wellFormed (.tfetch d) = true → OnNode s l n → (me s).tile = none → ((me s).preempt = .none ∨ (me s).mode ≠ .U) →
    let nx := (n.sx + n.tw - 1) / n.tw
    let ny := (n.sy + n.th - 1) / n.th
    let k := n.cursor
    let held := tileStopped s s.cur (me s).launch (me s).sr.node.toNat = true ∧ ((me s).resumed = true ∨ k < nx * ny * n.sz)
    (held → ∃ t, exec (.tfetch d) s = .next t ∧ Waits s t .cursor) ∧
    (¬held → nx * ny * n.sz ≤ k → ∃ t, exec (.tfetch d) s = .next t ∧
      readX (me t) d = BitVec.allOnes 64 ∧ readX (me t) (d + 1) = 0 ∧ (me t).sr.subt = BitVec.allOnes 64 ∧ (me t).tile = none ∧
      (me t).pc = (me s).pc + 4 ∧ ∀ r, r ≠ d → r ≠ d + 1 → readX (me t) r = readX (me s) r) ∧
    (¬held → k < nx * ny * n.sz → (k + 1 < nx * ny * n.sz ∨ n.nsucc = 0) → n.tw ≠ 0 → n.th ≠ 0 →
      let x := k % nx * n.tw
      let y := k / nx % ny * n.th
      ∃ t, exec (.tfetch d) s = .next t ∧
        readX (me t) d = BitVec.ofNat 64 (y * 2 ^ 32 + x) ∧
        readX (me t) (d + 1) = BitVec.ofNat 64 (min n.th (n.sy - y) * 2 ^ 32 + min n.tw (n.sx - x)) ∧
        (me t).tile = some k ∧ (me t).sr.subt = BitVec.ofNat 64 (k / (nx * ny) * 2 ^ 32 + k % 2 ^ 32) ∧
        (me t).pc = (me s).pc + 4 ∧ (∀ r, r ≠ d → r ≠ d + 1 → readX (me t) r = readX (me s) r) ∧
        nodeAt t (me s).launch (me s).sr.node.toNat = some { n with cursor := k + 1 } ∧
        t = { s with harts := t.harts, launches := t.launches })

/-- TDONE (R44, R401): with no sub-tile held it does nothing; otherwise, after its release, one more sub-tile of the node is complete, and
with the last one the node completes and its record stands in the cluster's event queue (R65, Table 5.4). Before its release is ready
it waits. -/
def Sys2Proof.Claims.TileDone : Prop :=
  (∀ s, (me s).tile = none → ∃ t, exec .tdone s = .next t ∧ Done s t ∧ t = { s with harts := t.harts } ∧
    ∀ k, k ≠ s.cur → getHart t k = getHart s k) ∧
  (∀ s k, (me s).tile = some k → releaseReady s s.cur (tileScope s (me s)) = false →
    ∃ t, exec .tdone s = .next t ∧ Waits s t (.order (tileScope s (me s)))) ∧
  (∀ s l n tile, OnNode s l n → (me s).tile = some tile → n.phase ≠ .complete →
    releaseReady s s.cur (tileScope s (me s)) = true →
    let id := (me s).sr.node.toNat
    let clus := s.cur / 16 / 16
    let total := (n.sx + n.tw - 1) / n.tw * ((n.sy + n.th - 1) / n.th) * n.sz
    ∃ t m, exec .tdone s = .next t ∧ nodeAt t (me s).launch id = some m ∧ m.finished = n.finished + 1 ∧
      (me t).tile = none ∧ (me t).pc = (me s).pc + 4 ∧ (∀ r, readX (me t) r = readX (me s) r) ∧
      t.views = s.views ∧ t.outer = s.outer ∧
      (n.finished + 1 ≠ total → m.phase = n.phase ∧ (getCluster t clus).eventQ = (getCluster s clus).eventQ) ∧
      (n.finished + 1 = total → m.phase = .complete ∧
        ((getCluster s clus).eventQ.length < 64 → ∃ r, (getCluster t clus).eventQ = (getCluster s clus).eventQ ++ [r] ∧
          r.kind = 1 ∧ r.status = 0 ∧ r.tenant = l.tenant ∧ r.launch = l.id ∧ r.node = id)))

/-- HALT and HALT retain (R13, R46, R355): with nothing in flight and no sub-tile held, the context's generation goes up by one and everything
else of it is as at reset; its bank loses power and its bytes, unless the retain target is a running hart of the core and launch of
the generation named, to which the bank then goes. With an operation in flight it waits, and while a write to a bank that loses power is on
its way. In the handler context both are ILLEGAL_INSTRUCTION. -/
def Sys2Proof.Claims.HartEnds : Prop :=
  (∀ i s, i = .halt ∨ (∃ a, i = .haltRetain a) → isHandler s.cur = true → Illegal s i) ∧
  ∀ i s, isHandler s.cur = false →
    let hid := match i with | .haltRetain a => readX (me s) a | _ => 0
    let named := s.cur / 16 * 16 + hid.toNat % 8
    let lends := (∃ a, i = .haltRetain a) ∧ hid.toNat / 8 % 16384 = s.cur / 16 ∧ hid.toNat / 2 ^ 17 % 64 = s.dev.toNat ∧
      hid.toNat / 2 ^ 23 % 2 = 0 ∧ named ≠ s.cur ∧ (getHart s named).tenure = .running ∧
      (getHart s named).gen.toNat = hid.toNat / 2 ^ 24 % 256 ∧ (getHart s named).launch = (me s).launch
    (i = .halt ∨ ∃ a, i = .haltRetain a) →
    (Busy s → ∃ t, exec i s = .next t ∧ Waits s t .drain) ∧
    (Device s → s.cur % 16 < 8 → s.ops = [] → (me s).tile = none → ¬lends → writesPending s (bankKey s) 0x4000 = true →
      ∃ t, exec i s = .next t ∧ Waits s t .bank) ∧
    (Device s → s.cur % 16 < 8 → s.ops = [] → (me s).tile = none → (me s).loans = [] → Memory.wf s = true →
      NobodyGathers s (s.cur / 16 / 16) →
      (lends → ∃ t, exec i s = .next t ∧
        me t = { Hart.reset with gen := (me s).gen + 1, tenure := .lent, launch := (me s).launch } ∧
        getHart t named = { getHart s named with loans := (getHart s named).loans ++ [s.cur % 16] } ∧
        (∀ k, k ≠ s.cur → k ≠ named → getHart t k = getHart s k) ∧ t.views = s.views) ∧
      (¬lends → writesPending s (bankKey s) 0x4000 = false →
        ∃ t, exec i s = .next t ∧ me t = { Hart.reset with gen := (me s).gen + 1 } ∧
        (∀ k, k ≠ s.cur → getHart t k = getHart s k) ∧
        (getCore t (s.cur / 16)).banks.getLsbD (s.cur % 16) = false ∧
        ∀ e k, viewByte t e k =
          if bankKey s ≤ k ∧ k < bankKey s + 0x4000 then 0 else viewByte s e k))

/-- TSPAWN (R47, R53, R404): in the handler context it is ILLEGAL_INSTRUCTION and an unaligned descriptor is MISALIGNED; one that names
predecessors or successors, or fails the check, or comes from a hart of no launch, is refused with x[d] all ones; otherwise, after its release,
the launch has one more node, with the index that x[d] takes. A TSPAWN of a launch counts as sent and as received (that it does so at the
spawning core, and when it is refused, is the model's choice: log entry 66). -/
def Obligations.NodeSpawn : Prop :=
  ∀ d a s,
    let p := readX (me s) a
    let n := parseNode (mapBytes (viewOf s (myDie s)) (selfKey s p) 128)
    let counted := fun (t : State) (l : Nat) =>
      mapGet 0 (getCore t (s.cur / 16)).sent l = mapGet 0 (getCore s (s.cur / 16)).sent l + 1 ∧
        mapGet 0 (getCore t (s.cur / 16)).received l = mapGet 0 (getCore s (s.cur / 16)).received l + 1
    (isHandler s.cur = true → Illegal s (.tspawn d a)) ∧
    (isHandler s.cur = false → p.toNat % 128 ≠ 0 → Traps s (exec (.tspawn d a) s) 0x04 p 0) ∧
    (isHandler s.cur = false → Device s → p.toNat % 128 = 0 → p.toNat < 0x20000 →
      selfKey s p / 64 ∉ s.badLines → selfKey s p / 64 + 1 ∉ s.badLines → s.mca = [] →
      (getLaunch s (me s).launch = none → ∃ t, exec (.tspawn d a) s = .next t ∧ WritesX s t d (BitVec.allOnes 64) ((me s).pc + 4)) ∧
      (∀ l, getLaunch s (me s).launch = some l → l.id = (me s).launch →
        let refused := n.preds ≠ 0 ∨ n.nsucc ≠ 0 ∨ 2 ^ 24 ≤ l.nodeCount ∨ l.phase ≠ .running ∨ nodeCheck s l n = false
        (refused → ∃ t, exec (.tspawn d a) s = .next t ∧ DoneWith s t d (BitVec.allOnes 64) ∧ counted t l.id ∧
          t = { s with harts := t.harts, cores := t.cores }) ∧
        (¬refused → releaseReady s s.cur (nodeScope l n) = false →
          ∃ t, exec (.tspawn d a) s = .next t ∧ Waits s t (.order (nodeScope l n))) ∧
        (¬refused → releaseReady s s.cur (nodeScope l n) = true →
          ∃ t v m, exec (.tspawn d a) s = .next t ∧ (d ≠ 0 → readX (me t) d = BitVec.ofNat 64 l.nodeCount) ∧
            getLaunch t l.id = some v ∧ v.nodeCount = l.nodeCount + 1 ∧ getNode v l.nodeCount = some m ∧
            m.entry = n.entry ∧ (m.sx, m.sy, m.sz, m.tw, m.th) = (n.sx, n.sy, n.sz, n.tw, n.th) ∧ m.level = n.level ∧
            counted t l.id)))

/-- SVC (R275, R397): in the handler context it is ILLEGAL_INSTRUCTION; a request that is not aligned is MISALIGNED and a service not open to the
mode is SVC_INDEX; otherwise, after its release, the call takes a slot of its die's ring, and the hart waits until the status returns; where
the ring is full, or others wait for a slot, it waits for one. With the status, once what the service wrote for it is visible, x[d] takes it, the
core acquires, and the slot is free. -/
def Obligations.ServiceCall : Prop :=
  (∀ d a n s, isHandler s.cur = true → Illegal s (.svc d a n)) ∧
  (∀ d a n s, isHandler s.cur = false → n.toNat < 0x2000 →
    let p := readX (me s) a
    let opened := n.toNat ∈ userServices ∨ ((me s).mode ≠ .U ∧ n.toNat ∈ systemServices)
    (p.toNat % 8 ≠ 0 → Traps s (exec (.svc d a n) s) 0x04 p 0) ∧
    (p.toNat % 8 = 0 → ¬opened → Traps s (exec (.svc d a n) s) 0x0D (BitVec.ofNat 64 n.toNat) 0) ∧
    (p.toNat % 8 = 0 → p.toNat < 0x20000 → opened → Device s →
      (releaseReady s s.cur .pkg = false → ∃ t, exec (.svc d a n) s = .next t ∧ Waits s t (.order .pkg)) ∧
      (releaseReady s s.cur .pkg = true → ringOpen s = false →
        ∃ t, exec (.svc d a n) s = .next t ∧ me t = { me s with wait := some .ringSlot } ∧
          (getDie t (myDie s)).ring = (getDie s (myDie s)).ring) ∧
      (releaseReady s s.cur .pkg = true → ringOpen s = true →
        ∃ t v, exec (.svc d a n) s = .next t ∧ (getDie t (myDie s)).ring = (getDie s (myDie s)).ring ++ [v] ∧
          v.id = s.serial ∧ v.hart = s.cur ∧ v.gen = (me s).gen ∧ v.n = n.toNat ∧ v.req = p ∧ v.tenant = (me s).sr.tenant ∧
          v.launch = (me s).launch ∧ v.own = (me s).sr.own ∧ v.fromS = decide ((me s).mode ≠ .U) ∧ v.dest = d ∧ v.status = none ∧
          v.begun = false ∧ me t = { me s with wait := some .service, ipend := (me t).ipend } ∧ t.views = s.views))) ∧
  (∀ h s v st, v ∈ allSlots s → (∀ w ∈ allSlots s, w.hart = h → w = v) → v.hart = h → v.status = some st →
    v.gen = (getHart s h).gen → (getHart s h).wait = some .service →
    (unperformed s (serviceAgent (h / 16)) = true → ∃ t, exec (.svcStatusReturn h) s = .next t ∧
      t = { s with agenda := s.agenda ++ [.svcStatusReturn h] }) ∧
    (unperformed s (serviceAgent (h / 16)) = false → ∃ t, exec (.svcStatusReturn h) s = .next t ∧
      (∀ r, readX (getHart t h) r = if r = 0 then 0 else if r = v.dest then st else readX (getHart s h) r) ∧
      getHart t h = { getHart s h with
        pc := (getHart s h).pc + 4, unit := none, wait := afterReply (getHart s h), met := none, walk := none, x := (getHart t h).x
        xpend := (getHart t h).xpend, poison := (getHart t h).poison } ∧
      (∀ k, k ≠ h → getHart t k = getHart s k) ∧ (getCore t (h / 16)).l1 = [] ∧
      allSlots t = (allSlots s).filter (·.id ≠ v.id)))

/-- CROT (R103, R346), in whole-cluster mode and in split mode, where the ring is the core row: after its release a hart whose core is not the
last of the ring waits; with the last one each tile stands at the offset of the next core of the ring, and every member goes on; where the
members' lengths differ each of them traps with cause 0x0F instead. Before its release is ready a hart waits without joining. An
unaligned tile is MISALIGNED and one that leaves SELF RIGHTS_DENIED; in the handler context and where the launch does not bind the cluster
CROT is ILLEGAL_INSTRUCTION. EVAL = x[a] and detail 0 also where the length is at fault is log entry 27; that a tile in whose lines there are errors
rotates all the same is log entry 79, that the last arrival lets all members go in its own step log entry 26. -/
def Sys2Proof.Claims.RingRotation : Prop :=
  (∀ a b s, isHandler s.cur = true ∨ bindsScope s (me s) .clus = false → Illegal s (.crot a b)) ∧
  ∀ a b s, isHandler s.cur = false → bindsScope s (me s) .clus = true →
    let clus := s.cur / 16 / 16
    let off := (readX (me s) a).toNat
    let len := (readX (me s) b).toNat
    let all := (getCluster s clus).rings ++ [(s.cur, readX (me s) a, readX (me s) b)]
    (off % 64 ≠ 0 ∨ len % 64 ≠ 0 ∨ len = 0 ∨ 16384 < len → Traps s (exec (.crot a b) s) 0x04 (readX (me s) a) 0) ∧
    (off % 64 = 0 → len % 64 = 0 → 0 < len → len ≤ 16384 →
      (0x20000 < off + len → Traps s (exec (.crot a b) s) 0x06 (readX (me s) a) 0) ∧
      (off + len ≤ 0x20000 → releaseReady s s.cur .clus = false → ∃ t, exec (.crot a b) s = .next t ∧ Waits s t (.order .clus)) ∧
      (off + len ≤ 0x20000 → releaseReady s s.cur .clus = true → Device s →
        ∀ split, (∀ g, g / 16 = clus → (getCore s g).slice.split = split) →
        let n := if split then 8 else 16
        ((∀ m ∈ all, m.1 / 16 / 16 = clus) → all.length < n → ∃ t, exec (.crot a b) s = .next t ∧ me t = { me s with wait := some .ring } ∧
          (∀ k, k ≠ s.cur → getHart t k = getHart s k) ∧ (getCluster t clus).rings = all) ∧
        (s.mca = [] → all.length = n → (all.map fun m => m.1 / 16).Nodup →
          (∀ m ∈ all, m.1 / 16 / n = s.cur / 16 / n ∧ isHandler m.1 = false ∧ (getHart s m.1).launch = (me s).launch ∧
            m.2.1.toNat + m.2.2.toNat ≤ 0x20000) →
          ((∀ m ∈ all, m.2.2 = readX (me s) b) →
            ∃ t, exec (.crot a b) s = .next t ∧ (getCluster t clus).rings = [] ∧
              (∀ m ∈ all, getHart t m.1 =
                { getHart s m.1 with pc := (getHart s m.1).pc + 4, unit := none, wait := none, met := none, walk := none }) ∧
              ∀ m ∈ all, ∀ m' ∈ all, m'.1 / 16 % n = (m.1 / 16 % n + 1) % n → ∀ i < len,
                viewByte t (myDie s) (0x100000000 + m'.1 / 16 * 0x20000 + m'.2.1.toNat + i) =
                  viewByte s (myDie s) (0x100000000 + m.1 / 16 * 0x20000 + m.2.1.toNat + i)) ∧
          ((∃ m ∈ all, m.2.2 ≠ readX (me s) b) →
            ∃ t, exec (.crot a b) s = .next t ∧ (getCluster t clus).rings = [] ∧
              (∀ m ∈ all, (getHart t m.1).mode = .S ∧ (getHart t m.1).sr.ecause = 0x0F ∧
                (getHart t m.1).sr.epc = unitPc (getHart s m.1)) ∧
              ∀ die key, viewByte t die key = viewByte s die key))))

/-! ### Rights, translations, tensors -/

namespace Sys2Proof.Claims

/-- A pointer to a line of a vault whose range has the pointer's tag. -/
def TaggedLine (s : State) (p : Word) : Prop :=
  VaultAccess s p 64 ∧ ∃ g, InRange s (p.toNat % 2 ^ 56) g ∧ p.toNat / 2 ^ 56 = g.tag.toNat

/-- The request of the executing hart to a rights unit (R221, R222). -/
def rightsReq (s : State) (isGrant : Bool) (a b : Word) : RightsReq :=
  ⟨s.cur, (me s).gen, isGrant, a, b, (me s).sr.own, (me s).sr.tenant, decide ((me s).mode ≠ .U)⟩

/-- The rights unit of the owner that x[b] names has one more request, and the hart waits for it (R217). -/
def AsksRights (s t : State) (r : RightsReq) : Prop :=
  let die := r.b.toNat / 2 ^ 48 % 4
  me t = { me s with wait := some .rights } ∧ (∀ k, k ≠ s.cur → getHart t k = getHart s k) ∧
    (getDie t die).rightsQ = (getDie s die).rightsQ ++ [r] ∧
    t = { s with harts := t.harts, cores := t.cores, dies := t.dies, agenda := s.agenda ++ [.rightsRequestArrival die] }

/-- The hart that sent a request still runs. -/
def Present (s : State) (h : Nat) (gen : BitVec 8) : Prop := (getHart s h).gen = gen ∧ (getHart s h).tenure = .running

/-- It still waits for the answer. -/
def Awaits (s : State) (h : Nat) (gen : BitVec 8) (w : Wait) : Prop := Present s h gen ∧ (getHart s h).wait = some w

/-- Every line of a stretch lies in an entry of the owner under the tag that holds every right of a mask. -/
def LinesCovered (s : State) (own : BitVec 16) (tag mask : BitVec 8) (base units : Nat) : Prop :=
  ∀ i < units, ∃ e ∈ mapGet [] s.rights own.toNat,
    e.tag = tag ∧ e.rights &&& mask = mask ∧ e.base ≤ base + 64 * i ∧ base + 64 * i + 64 ≤ e.base + 64 * e.len

/-- The next state of a hart whose instruction completes with a value in x[d] when the answer to it comes. -/
def HartDone (s t : State) (h : Nat) (d : Reg) (v : Word) : Prop :=
  (∀ r, readX (getHart t h) r = if r = 0 then 0 else if r = d then v else readX (getHart s h) r) ∧
  getHart t h = { getHart s h with
    pc := (getHart s h).pc + 4, unit := none, wait := afterReply (getHart s h), met := none, walk := none, x := (getHart t h).x
    xpend := (getHart t h).xpend, poison := (getHart t h).poison }

/-- A hart traps at the instruction it is at (R231). -/
def HartTraps (s t : State) (h : Nat) (cause : BitVec 8) (eval : Word) (detail : BitVec 16) : Prop :=
  t = takeTrap s h ⟨cause, eval, detail⟩

/-- The page request of the executing hart reads, writes, or both; an entry of OWN admits it. -/
def PageAdmitted (s : State) (va : Nat) (tag : BitVec 8) (kind : Word) : Prop :=
  ∃ e ∈ mapGet [] s.rights (me s).sr.own.toNat,
    e.tag = tag ∧ e.base ≤ va / 64 * 64 ∧ va / 64 * 64 + 64 ≤ e.base + 64 * e.len ∧ e.rights.getLsbD 0 = true ∧
      (kind.getLsbD 1 = true → e.rights.getLsbD 1 = true)

/-- Every listed core is asked to complete its accesses under a tensor record; no hart has gone on, and the table waits. -/
def AsksCores (s t : State) (r : Tensor) (next : ShootThen) : Prop :=
  t.harts = s.harts ∧ tableBusy t = true ∧ ∃ d, t.shootdowns = s.shootdowns ++ [d] ∧ d.what = [.tensor r.start r.extent] ∧ d.next = next ∧
    d.waiting = s.cores.map (·.1) ∧ d.unsent = s.cores.map (·.1)

end Sys2Proof.Claims

/-- GRANT and REVOKE at issue (R221, R222, R225, R354, R388), for a pointer into a vault: an unaligned pointer is MISALIGNED and a stale one
RIGHTS_STALE; otherwise the request goes to the rights unit of the owner named and the hart waits. REVOKE refuses an empty length and unknown
rights itself, and waits for its release before it asks. In the handler context both are ILLEGAL_INSTRUCTION. -/
def Sys2Proof.Claims.RightsIssue : Prop :=
  (∀ i a b s, i = .grant a b ∨ i = .revoke a b → isHandler s.cur = true → Illegal s i) ∧
  ∀ i a b s, i = .grant a b ∨ i = .revoke a b → isHandler s.cur = false →
    let p := readX (me s) a
    let w := readX (me s) b
    let bad := w.toNat % 2 ^ 40 = 0 ∨ 0x40 ≤ w.toNat / 2 ^ 40 % 256
    (p.toNat % 64 ≠ 0 → Traps s (exec i s) 0x04 p 0) ∧
    (∀ g, VaultAccess s p 64 → InRange s (p.toNat % 2 ^ 56) g → p.toNat / 2 ^ 56 ≠ g.tag.toNat → Traps s (exec i s) 0x07 p 0) ∧
    (TaggedLine s p →
      (i = .grant a b → ∃ t, exec i s = .next t ∧ AsksRights s t (rightsReq s true p w)) ∧
      (i = .revoke a b → bad → ∃ u, u = { s with cores := u.cores } ∧ Traps u (exec i s) 0x06 p 5) ∧
      (i = .revoke a b → ¬bad → releaseReady s s.cur .pkg = false →
        ∃ t, exec i s = .next t ∧ me t = { me s with wait := some (.order .pkg) } ∧ t = { s with harts := t.harts, cores := t.cores }) ∧
      (i = .revoke a b → ¬bad → releaseReady s s.cur .pkg = true →
        ∃ t, exec i s = .next t ∧ AsksRights s t (rightsReq s false p w)))

/-- GRANT at its rights unit (R217, R221): the oldest request is served; without G and every right granted over every line it is RIGHTS_DENIED with
detail 5, to an owner of another tenant detail 6, into a full table detail 7; otherwise the entry is installed, or grown, and
the hart goes on. -/
def Sys2Proof.Claims.GrantAtUnit : Prop :=
  ∀ die s r rest, (getDie s die).rightsQ = r :: rest → r.isGrant = true → Present s r.hart r.gen →
    let who : BitVec 16 := r.b.extractLsb' 48 16
    let rights : BitVec 8 := r.b.extractLsb' 40 8
    let units := r.b.toNat % 2 ^ 40
    let base := r.a.toNat % 2 ^ 56
    let tag : BitVec 8 := r.a.extractLsb' 56 8
    let old := mapGet [] s.rights who.toNat
    let same := fun (e : Right) => e.base = base ∧ e.len = units ∧ e.tag = tag ∧ e.grantor = r.own
    let covered := LinesCovered s r.own tag (rights ||| 0x20) base units
    base % 64 = 0 → (∀ e ∈ mapGet [] s.rights r.own.toNat, e.base % 64 = 0) →
    ∃ t, exec (.rightsRequestArrival die) s = .next t ∧ (getDie t die).rightsQ = rest ∧
      (units = 0 ∨ 0x40 ≤ rights.toNat ∨ ¬covered → t.rights = s.rights ∧
        ∃ u, HartTraps u t r.hart 0x06 r.a 5 ∧ u = { s with dies := u.dies }) ∧
      (units ≠ 0 → rights.toNat < 0x40 → covered →
        (mapGet 0 s.owners who.toNat ≠ r.tenant.toNat + 1 → t.rights = s.rights ∧
          ∃ u, HartTraps u t r.hart 0x06 r.a 6 ∧ u = { s with dies := u.dies }) ∧
        (mapGet 0 s.owners who.toNat = r.tenant.toNat + 1 →
          ((∀ e ∈ old, ¬same e) → 4096 ≤ old.length → t.rights = s.rights ∧
            ∃ u, HartTraps u t r.hart 0x06 r.a 7 ∧ u = { s with dies := u.dies }) ∧
          ((∀ e ∈ old, ¬same e) → old.length < 4096 → HartDone s t r.hart 0 0 ∧
            mapGet [] t.rights who.toNat = old ++ [⟨base, tag, units, rights, who, r.own, 1⟩]) ∧
          ((∃ e ∈ old, same e) → HartDone s t r.hart 0 0 ∧
            ∃ f : Right → Right, mapGet [] t.rights who.toNat = old.map f ∧ ∀ e,
              (same e → f e = { e with rights := e.rights ||| rights, epoch := e.epoch + 1 }) ∧ (¬same e → f e = e)) ∧
          ∀ o, o ≠ who.toNat → mapGet [] t.rights o = mapGet [] s.rights o))

/-- REVOKE at its rights unit (R222, R223): afterwards no entry of the owner named that OWN granted (in S mode: that anyone granted) holds a
removed right over the stretch, and none that the owner granted onward holds one of them over the lines it lost; every core that is listed is
asked to acknowledge before the hart goes on (a core that is not listed holds no lookaside entry: the model's reading of R223 and R224, log
entry 40). -/
def Sys2Proof.Claims.RevokeAtUnit : Prop :=
  ∀ die s r rest, (getDie s die).rightsQ = r :: rest → r.isGrant = false → Awaits s r.hart r.gen .rights →
    let who : BitVec 16 := r.b.extractLsb' 48 16
    let gone : BitVec 8 := r.b.extractLsb' 40 8
    let lo := r.a.toNat % 2 ^ 56
    let hi := lo + 64 * (r.b.toNat % 2 ^ 40)
    let mine := fun (e : Right) => r.fromS = true ∨ e.grantor = r.own
    ∃ t, exec (.rightsRequestArrival die) s = .next t ∧ (getDie t die).rightsQ = rest ∧
      (mapGet 0 s.owners who.toNat ≠ r.tenant.toNat + 1 → t.rights = s.rights) ∧
      (mapGet 0 s.owners who.toNat = r.tenant.toNat + 1 →
        (∀ e ∈ mapGet [] t.rights who.toNat, mine e → e.base < hi → lo < e.base + 64 * e.len → e.rights &&& gone = 0) ∧
        (∀ e ∈ mapGet [] s.rights who.toNat, mine e → e.base < hi → lo < e.base + 64 * e.len → e.rights &&& gone ≠ 0 →
          ∀ o : BitVec 16, ∀ f ∈ mapGet [] t.rights o.toNat, f.grantor = who →
            f.base < min hi (e.base + 64 * e.len) → max lo e.base < f.base + 64 * f.len → f.rights &&& e.rights &&& gone = 0)) ∧
      (s.cores = [] → HartDone s t r.hart 0 0) ∧
      (s.cores ≠ [] → getHart t r.hart = getHart s r.hart ∧ ∃ d, t.shootdowns = s.shootdowns ++ [d] ∧
        d.next = .hart r.hart r.gen .rights 0 0 (some .pkg) ∧ d.waiting = s.cores.map (·.1) ∧ d.unsent = s.cores.map (·.1))

/-- A shootdown (R223, R225, R228): a core drops the entries that the shootdown names and what walks have told its harts of them, and notes the
accesses it had admitted, its writes to MCA pages that are not yet visible among them, and the weight loads that run on it (R405); it
acknowledges once those have completed; the last acknowledgement, once the writes of every core are in the view of the hart's die, completes
the instruction that still waits. Which accesses a shootdown reaches, by owner and address, is the model's reading (log entry 40). -/
def Sys2Proof.Claims.Shootdowns : Prop :=
  (∀ core n s d, s.shootdowns.find? (fun x => x.id = n) = some d → core ∈ d.unsent →
    ∃ t d', exec (.plbShootdown core n) s = .next t ∧
      (getCore t core).plb = (getCore s core).plb.filter (fun e => !d.what.any fun w => plbStale w e) ∧
      (getCore t core).tlb = (getCore s core).tlb.filter (fun l => !d.what.any fun w => leafStale w l) ∧
      (getCore t core).l2 = (getCore s core).l2.filter (fun l => !d.what.any fun w => leafStale w l) ∧
      (∀ g, g ≠ core → getCore t g = getCore s g) ∧
      (∀ k, getHart t k = if k / 16 = core then dropWalk d.what (getHart s k) else getHart s k) ∧ t.views = s.views ∧
      t.shootdowns.find? (fun x => x.id = n) = some d' ∧ core ∉ d'.unsent ∧
      (∀ o ∈ s.ops, o.hart / 16 = core → opPending o = true → (∃ w ∈ d.what, admittedUnder w o = true) → (core, o.id) ∈ d'.admitted) ∧
      (∀ w ∈ s.mca, mcaCore w = core → (core, w.id) ∈ d'.admitted) ∧ (∀ i ∈ loadingOn s core, (core, i) ∈ d'.loading) ∧
      .plbShootdownAck core n ∈ t.agenda) ∧
  (∀ core n s d, s.shootdowns.find? (fun x => x.id = n) = some d → core ∉ d.unsent → core ∈ d.waiting →
    ((∃ e ∈ d.admitted, e.1 = core ∧ ((∃ o ∈ s.ops, o.id = e.2 ∧ opPending o = true) ∨ ∃ w ∈ s.mca, w.id = e.2)) ∨
      ∃ e ∈ d.loading, e.1 = core ∧ e.2 ∈ loadingOn s core) →
    ∃ t, exec (.plbShootdownAck core n) s = .next t ∧ t = { s with agenda := s.agenda ++ [.plbShootdownAck core n] }) ∧
  (∀ core n s d h gen w r v acq, s.shootdowns.find? (fun x => x.id = n) = some d → core ∉ d.unsent → d.waiting = [core] →
    (∀ e ∈ d.admitted, (∀ o ∈ s.ops, o.id ≠ e.2) ∧ ∀ w ∈ s.mca, w.id ≠ e.2) → (∀ e ∈ d.loading, e.2 ∉ loadingOn s core) →
    d.next = .hart h gen w r v acq → Awaits s h gen w →
    inViewOf s (d.stamp.join (performedStamp s core)) (some (h / 16 / 4096)) = true →
    ∃ t, exec (.plbShootdownAck core n) s = .next t ∧ HartDone s t h r v ∧
      t.shootdowns = s.shootdowns.filter (fun x => x.id ≠ n) ∧
      ∀ sc, acq = some sc → 2 ≤ sc.code.toNat → (getCore t (h / 16)).l1 = [])

/-- PGREQ and its answers (R237, R384): a kind that asks for nothing, or for more than read and write, is ILLEGAL_INSTRUCTION, as PGREQ is in the
handler context; a request of the host window goes out, one of a translated page goes to the residency service, and the hart waits;
after a failure the tenant's requests answer 2 at once; a response, a report of the residency service, or 20 ms without one, answers
x[d]. A request that the host has not answered counts among the tenant's 64 until it does, whether or not its hart has gone on (R274); a
response makes EXTERNAL pending in the operating services' contexts (log entry 11). That response code 0 is success, 1 an invalid request and
every other a failure is presumed (log entry 41), as R237 gives no codes. -/
def Sys2Proof.Claims.PageRequests : Prop :=
  (∀ d a b s, isHandler s.cur = true ∨ readX (me s) b = 0 ∨ 4 ≤ (readX (me s) b).toNat → Illegal s (.pgreq d a b)) ∧
  (∀ d a b s g, isHandler s.cur = false →
    let p := readX (me s) a
    let va := p.toNat % 2 ^ 56
    let kind := readX (me s) b
    let tenant := (me s).sr.tenant
    kind ≠ 0 → kind.toNat < 4 → (getCore s (s.cur / 16)).plb = [] → InRange s va g → p.toNat / 2 ^ 56 = g.tag.toNat →
    PageAdmitted s va g.tag kind →
      (0x10000000000 ≤ va → (getTenant s tenant.toNat).prFailed = true → ∃ t, exec (.pgreq d a b) s = .next t ∧ DoneWith s t d 2) ∧
      (0x10000000000 ≤ va → va < 0x80000000000000 → (getTenant s tenant.toNat).prFailed = false →
        ∃ t, exec (.pgreq d a b) s = .next t ∧ me t = { me s with wait := some (.page false va s.time d) } ∧
          t.agenda = s.agenda ++ [.residency s.cur 0, .pgreqTimeout s.cur] ∧ t.sentOut = s.sentOut) ∧
      (0x80000000000000 ≤ va → (getTenant s tenant.toNat).prFailed = false → 64 ≤ pageRequests s tenant →
        ∃ t, exec (.pgreq d a b) s = .next t ∧ me t = { me s with wait := some .pageSlot }) ∧
      (0x80000000000000 ≤ va → (getTenant s tenant.toNat).prFailed = false → pageRequests s tenant < 64 →
        ∃ t, exec (.pgreq d a b) s = .next t ∧ me t = { me s with wait := some (.page true va s.time d) } ∧
          (getTenant t tenant.toNat).pageReqs = (getTenant s tenant.toNat).pageReqs ++ [(s.cur, s.time)] ∧
          t.sentOut = s.sentOut ++
            [.pageRequest tenant.toNat (va % 2 ^ 55 / 4096 * 4096) (kind.getLsbD 0) (kind.getLsbD 1)])) ∧
  (∀ h code s tenant since, askedPages s h = [(tenant, since)] → mapWf .reset s.tenants = true →
    ∃ t u, exec (.pageRequestResponse h code) s = .next t ∧
      (∀ k, getHart u k = { getHart s k with ipend := (getHart u k).ipend }) ∧
      (getTenant t tenant).pageReqs = (getTenant s tenant).pageReqs.erase (h, since) ∧
      (∀ va d, (getHart s h).wait = some (.page true va since d) →
        HartDone u t h d (if code = 0 then 0 else if code = 1 then 1 else 2) ∧
        (code ≠ 0 → code ≠ 1 → (getTenant t tenant).prFailed = true)) ∧
      ((∀ va d, (getHart s h).wait ≠ some (.page true va since d)) → t.harts = u.harts)) ∧
  (∀ h s host va since d, (getHart s h).wait = some (.page host va since d) →
    (since + 20000000 ≤ s.time → ∃ t, exec (.pgreqTimeout h) s = .next t ∧ HartDone s t h d 3) ∧
    (s.time < since + 20000000 → ∃ t, exec (.pgreqTimeout h) s = .next t ∧ t = { s with agenda := s.agenda ++ [.pgreqTimeout h] })) ∧
  (∀ h st s va since d, (getHart s h).wait = some (.page false va since d) → st ≠ 0 →
    ∃ t, exec (.residency h st) s = .next t ∧ HartDone s t h d (st.setWidth 64) ∧
      (st = 2 → (getTenant t (getHart s h).sr.tenant.toNat).prFailed = true)) ∧
  (∀ h s va since d pa w l, (getHart s h).wait = some (.page false va since d) → (getHart s h).tenure = .running →
    mappedEntry s va = some (pa, w, l) → s.cores = [] → ∃ t, exec (.residency h 0) s = .next t ∧ HartDone s t h d 0)

/-- A walk (R212 to R214) that has one of its die's sixteen walkers answers the hart that waits for it with what the tables hold: here a 64 KiB leaf
under three table pointers of routine 0; an invalid entry at the root is an absent page; a walk behind sixteen others waits for a walker.
Translations of the host are cached, unless they deny what was asked (R245), until it invalidates them (R216, R239); what the host denies stands
for the command that asked, which stops there (R216). -/
def Sys2Proof.Claims.Walks : Prop :=
  (∀ h s q, (getDie s (h / 16 / 4096)).walks.find? (fun x => x.hart = h) = some q →
    let die := h / 16 / 4096
    let va := q.va
    let word := fun a => physWord s die a
    (q ∉ (getDie s die).walks.take 16 →
      ∃ t, exec (.pageWalkComplete h) s = .next t ∧ t = { s with agenda := s.agenda ++ [.pageWalkComplete h] }) ∧
    (∀ e3 e2 e1 e0 keyh pa dr, q ∈ (getDie s die).walks.take 16 → (getHart s h).wait = some (.walk va) →
      word ((ptrootOf s die).toNat + 8 * (va / 2 ^ 39 % 2 ^ 17)) = e3 * 256 + 0xC1 → e3 < 2 ^ 48 →
      word (e3 * 256 + 8 * (va / 2 ^ 30 % 2 ^ 9)) = e2 * 256 + 0xC1 → e2 < 2 ^ 48 →
      word (e2 * 256 + 8 * (va / 2 ^ 21 % 2 ^ 9)) = e1 * 256 + 0xC1 → e1 < 2 ^ 48 →
      word (e1 * 256 + 8 * (va / 2 ^ 16 % 2 ^ 5)) = e0 → e0 = pa * 2 ^ 20 + keyh * 2 ^ 8 + dr * 2 + 1 → keyh < 0xFFF → dr < 2 →
      pa < 2 ^ 36 →
      ∃ t l, exec (.pageWalkComplete h) s = .next t ∧ (getHart t h).walk = some (.leaf l) ∧
        l.base = va / 65536 * 65536 ∧ l.size = 65536 ∧ l.phys = pa * 65536 ∧ l.keyh.toNat = keyh ∧ l.direct = decide (dr = 1) ∧
        l.prop = .na ∧ l.tcipher = false ∧ l.isSealed = false ∧ l.route = 0 ∧ l.page = l.base ∧ l.pageSize = l.size ∧
        getHart t h = { getHart s h with walk := (getHart t h).walk } ∧ (∀ k, k ≠ h → getHart t k = getHart s k) ∧
        (getDie t die).walks = (getDie s die).walks.erase q) ∧
    (q ∈ (getDie s die).walks.take 16 → (getHart s h).wait = some (.walk va) →
      word ((ptrootOf s die).toNat + 8 * (va / 2 ^ 39 % 2 ^ 17)) % 2 = 0 →
      ∃ t, exec (.pageWalkComplete h) s = .next t ∧ getHart t h = { getHart s h with walk := some (.absent va) } ∧
        (getDie t die).walks = (getDie s die).walks.erase q ∧
        t = { s with
          harts := t.harts, dies := t.dies, agenda := t.agenda, channels := t.channels, charges := t.charges, debts := t.debts
          budgetAt := t.budgetAt })) ∧
  (∀ die tenant page size rd wr s r, (getDie s die).atsPending = [r] → r.tenant = tenant → r.page = page →
    ((if r.write then wr else rd) = true →
      ∃ t e, exec (.atsTranslationCompletion die tenant page (.granted size rd wr)) s = .next t ∧ t = { s with dies := t.dies } ∧
        (getDie t die).atsPending = [] ∧ (getDie t die).atc = e :: (getDie s die).atc ∧
        e.tenant = tenant ∧ e.size = max size 4096 ∧ e.page = page / max size 4096 * max size 4096 ∧ e.read = rd ∧ e.write = wr) ∧
    ((if r.write then wr else rd) = false →
      ∃ t, exec (.atsTranslationCompletion die tenant page (.granted size rd wr)) s = .next t ∧ t = { s with dies := t.dies } ∧
        (getDie t die).atsPending = [] ∧ r ∈ (getDie t die).atsDenied ∧ (getDie t die).atc = (getDie s die).atc) ∧
    ∃ t, exec (.atsTranslationCompletion die tenant page .denied) s = .next t ∧ t = { s with dies := t.dies } ∧
      (getDie t die).atsPending = [] ∧ r ∈ (getDie t die).atsDenied ∧ (getDie t die).atc = (getDie s die).atc) ∧
  (∀ core s m p n page, engineCheck s (cmdAgent core m) p rightR false n = .needAts page →
    ⟨m.tenant.toNat, page, false, core, m.tag⟩ ∈ (getDie s (core / 4096)).atsDenied → engineLine s core m p false n = .failed 0x20) ∧
  (∀ tenant page len s, (∀ e ∈ s.dies, e.2.bulkRunning = []) →
    ∃ t, exec (.atsInvalidationRequest tenant page len) s = .next t ∧
      (∀ d, ∀ e ∈ (getDie t d).atc, e.tenant = tenant → page + len ≤ e.page ∨ e.page + e.size ≤ page) ∧
      .atsInvalidationCompletion s.serial ∈ t.agenda ∧ ⟨s.serial, tenant, page, len⟩ ∈ t.invalidations) ∧
  (∀ n s v, s.invalidations.find? (fun x => x.id = n) = some v →
    ∃ t, exec (.atsInvalidationCompletion n) s = .next t ∧ t.sentOut = s.sentOut ++ [.invalidationDone v.tenant v.page] ∧
      t.invalidations = s.invalidations.filter fun x => x.id ≠ n)

/-- TDEF, TVER and TKILL (R398, R400, R403, R405): each asks the tensor table and waits, but in the handler context, where they are
ILLEGAL_INSTRUCTION; the table serves the oldest request, a TDEF with the lowest
free TID and the record of its image (Table 10.2), a TVER with the next VERSION, a TKILL by clearing VALID and keeping the VERSION; TVER and
TKILL complete once every listed core has acknowledged that its accesses under the old record have completed (R255, R403, log entry 40), at
once where none is listed; a TID that is not the tenant's is TENSOR_ID. -/
def Obligations.TensorTable : Prop :=
  (∀ i d a s, i = .tdef d a ∨ i = .tver d a ∨ i = .tkill a → isHandler s.cur = true → Illegal s i) ∧
  (∀ d a s, isHandler s.cur = false →
    let p := readX (me s) a
    (Device s → SelfAccess s p 64 → ∃ t, exec (.tdef d a) s = .next t ∧ me t = { me s with wait := some .tensor } ∧
      t.tensorQ = s.tensorQ ++ [.tdef s.cur (me s).gen d (rawBytes s (myDie s) s.cur (selfKey s p) 64) p]) ∧
    (∃ t, exec (.tver d a) s = .next t ∧ me t = { me s with wait := some .tensor } ∧
      t.tensorQ = s.tensorQ ++ [.tver s.cur (me s).gen d p]) ∧
    (∃ t, exec (.tkill a) s = .next t ∧ me t = { me s with wait := some .tensor } ∧
      t.tensorQ = s.tensorQ ++ [.tkill s.cur (me s).gen p])) ∧
  (∀ s h gen d b a tid rest, s.tensorQ = .tdef h gen d b a :: rest → tableBusy s = false → (getHart s h).gen = gen →
    tdefCheck s (getHart s h) (h / 16 / 4096) a b = .ok tid →
    ∃ t r, exec .tensorTableOperation s = .next t ∧ t.tensorQ = rest ∧ HartDone s t h d (BitVec.ofNat 64 tid) ∧
      0 < tid ∧ getTensor t tid = some r ∧
      (∀ k, 0 < k → k < tid → k ∈ s.tidWithdrawn ∨ ∃ q, getTensor s k = some q ∧ q.flags.getLsbD 0 = true) ∧
      (∀ k, k ≠ tid → getTensor t k = getTensor s k) ∧
      r.base.toNat = leNat (b.take 8) ∧ r.format.toNat = (b.getD 8 0).toNat ∧ r.flags.toNat = (b.getD 9 0).toNat ∧
      r.dim0 = leNat ((b.drop 16).take 4) ∧ r.dim1 = leNat ((b.drop 20).take 4) ∧ r.stride = leNat ((b.drop 24).take 8) ∧
      r.tenant = (getHart s h).sr.tenant ∧
      r.version = (match mapGet none s.keptVersion tid with | some v => v + 1 | none => 0)) ∧
  (∀ s h gen d a r rest, s.tensorQ = .tver h gen d a :: rest → tableBusy s = false → Awaits s h gen .tensor →
    a.toNat ≠ 0 → a.toNat < 0x10000 → getTensor s a.toNat = some r → r.flags.getLsbD 0 = true → r.tenant = (getHart s h).sr.tenant →
    baseWritable s (getHart s h).sr.own r = true → r.version ≠ BitVec.allOnes 32 →
    ∃ t, exec .tensorTableOperation s = .next t ∧ t.tensorQ = rest ∧
      getTensor t a.toNat = some { r with version := r.version + 1 } ∧
      (s.cores = [] → HartDone s t h d ((r.version + 1).setWidth 64)) ∧
      (s.cores ≠ [] → AsksCores s t r (.hart h gen .tensor d ((r.version + 1).setWidth 64) none))) ∧
  (∀ s h gen a r rest, s.tensorQ = .tkill h gen a :: rest → tableBusy s = false → Awaits s h gen .tensor →
    a.toNat ≠ 0 → a.toNat < 0x10000 → getTensor s a.toNat = some r → r.flags.getLsbD 0 = true → r.tenant = (getHart s h).sr.tenant →
    baseWritable s (getHart s h).sr.own r = true →
    ∃ t, exec .tensorTableOperation s = .next t ∧ t.tensorQ = rest ∧
      getTensor t a.toNat = some { r with flags := r.flags &&& 0xFE } ∧ mapGet none t.keptVersion a.toNat = some r.version ∧
      (s.cores = [] → HartDone s t h 0 0) ∧ (s.cores ≠ [] → AsksCores s t r (.hart h gen .tensor 0 0 none))) ∧
  (∀ s h gen d a q rest, s.tensorQ = q :: rest → q = .tver h gen d a ∨ q = .tkill h gen a → tableBusy s = false → (getHart s h).gen = gen →
    (a.toNat = 0 ∨ 0x10000 ≤ a.toNat ∨ ∀ r, getTensor s a.toNat = some r →
      r.flags.getLsbD 0 = false ∨ r.tenant ≠ (getHart s h).sr.tenant) →
    ∃ t, exec .tensorTableOperation s = .next t ∧ HartTraps { s with tensorQ := rest } t h 0x0B a 0)

/-! ### Engine commands -/

namespace Sys2Proof.Claims

/-- The tag that a core gives next: the first above the last given that no command holds, wrapping at 256 (R95). -/
def NextTag (c : Core) (tag : Nat) : Prop :=
  ∃ i < 256, tag = (c.lastTag + 1 + i) % 256 ∧ (∀ m ∈ c.cmds, m.tag ≠ tag) ∧
    ∀ j < i, ∃ m ∈ c.cmds, m.tag = (c.lastTag + 1 + j) % 256

/-- The scopes of an engine command are bound and no hart scope (R93). -/
def EngineScopes (s : State) (acq rel : Option Scope) : Prop :=
  ∀ sc, acq = some sc ∨ rel = some sc → sc ≠ .hart ∧ bindsScope s (me s) sc = true

/-- The command that the executing hart issues (R93, R94). -/
def cmdOf (s : State) (kind : EngineKind) (tag : Nat) (dst src : Word) (len : Nat) (acq : Option Scope) (rel : Scope)
    (q : Option Nat) (coll : Option CollDesc) : Cmd :=
  ⟨kind, tag, s.cur, (me s).gen, decide ((me s).mode ≠ .U), (me s).sr.own, (me s).sr.tenant, (me s).launch, (me s).sr.hctl.getLsbD 1,
    dst, src, len, 0, 0, len, acq, rel, q, .queued, stampOf s (myDie s), false, coll, s.serial, s.serial, false, false⟩

/-- The acquire scope of an engine command: the wider of its own and the one that an ORD rel before it stands for (R114). -/
def acquires (s : State) (acq : Option Scope) : Option Scope :=
  widerScope acq (match (me s).unit with
    | some (.ord _ o sc) => if o = .rel ∨ o = .acqrel ∨ o = .seq then some sc else none
    | _ => none)

/-- A command has entered flight: the core holds it, x[d] holds its tag, and it may start; what an earlier command of the tag has asked of the host
is forgotten. -/
def Issues (s t : State) (d : Reg) (tag : Nat) (m : Cmd) : Prop :=
  NextTag (getCore s (s.cur / 16)) tag ∧ DoneWith s t d (BitVec.ofNat 64 tag) ∧
    (getCore t (s.cur / 16)).cmds = (getCore s (s.cur / 16)).cmds ++ [m] ∧ (getCore t (s.cur / 16)).lastTag = tag ∧
    (∀ g, getDie t g =
      if g = myDie s then
        { getDie s g with
          atsPending := (getDie s g).atsPending.filter fun r => decide ¬(r.core = s.cur / 16 ∧ r.tag = tag)
          atsDenied := (getDie s g).atsDenied.filter fun r => decide ¬(r.core = s.cur / 16 ∧ r.tag = tag) }
      else getDie s g) ∧
    t = { s with
      harts := t.harts, cores := t.cores, dies := t.dies, serial := s.serial + 1
      agenda := s.agenda ++ [.engineCommandStart (s.cur / 16) tag] }

/-- The first command with a tag on a core. -/
def HasCmd (s : State) (core tag : Nat) (m : Cmd) : Prop := (getCore s core).cmds.find? (fun x => x.tag = tag) = some m

/-- A command of the core as it stands after a step. -/
def CmdNow (s t : State) (core tag : Nat) (m : Cmd) : Prop :=
  (getCore t core).cmds = (getCore s core).cmds.map fun x => if x.tag = tag then { m with tag := x.tag } else x

end Sys2Proof.Claims

/-- CPCMD, BKCMD and COLCMD (R93 to R95, R101, R114, R343, R344): with room in the queue and a free tag the command is taken with its operands as
they stand, and x[d] takes its tag; a full queue, or 256 tags outstanding, makes the hart wait. Reserved bits, a scope that is hart or not
bound, source and destination of a bulk command that overlap, and the handler context are ILLEGAL_INSTRUCTION; an unaligned descriptor, or one
outside SELF, is MISALIGNED. That bits [62:60] of x[d] are not looked at where bit 63 is clear is log entry 61, that a descriptor in whose line
there is an error is read as it stands log entry 79. -/
def Sys2Proof.Claims.EngineIssue : Prop :=
  (∀ d a b acq rel s, isHandler s.cur = true ∨ ¬EngineScopes s acq rel →
    Illegal s (.cpcmd d a b acq rel) ∧ Illegal s (.bkcmd d a b acq rel)) ∧
  (∀ d a b acq rel s, isHandler s.cur = false → EngineScopes s acq rel →
    let c := getCore s (s.cur / 16)
    let x := (readX (me s) d).toNat
    let q := if x / 2 ^ 63 = 1 then some (x / 2 ^ 60 % 8) else none
    let dst := readX (me s) a
    let src := readX (me s) b
    let apart := x % 2 ^ 40 = 0 ∨ src.toNat % 2 ^ 56 + x % 2 ^ 40 ≤ dst.toNat % 2 ^ 56 ∨ dst.toNat % 2 ^ 56 + x % 2 ^ 40 ≤ src.toNat % 2 ^ 56
    (x / 2 ^ 32 % 2 ^ 28 ≠ 0 → Illegal s (.cpcmd d a b acq rel)) ∧
    (x / 2 ^ 32 % 2 ^ 28 = 0 →
      (2 ≤ c.copyQ.length → ∃ t, exec (.cpcmd d a b acq rel) s = .next t ∧ Waits s t .copyQueue) ∧
      (c.copyQ.length < 2 → 256 ≤ c.cmds.length → ∃ t, exec (.cpcmd d a b acq rel) s = .next t ∧ Waits s t .tagFree) ∧
      (c.copyQ.length < 2 → c.cmds.length < 256 → Unfenced s → ∃ t tag, exec (.cpcmd d a b acq rel) s = .next t ∧
        Issues s t d tag (cmdOf s .copy tag dst src (x % 2 ^ 32) (acquires s acq) (rel.getD .core) q none) ∧
        (getCore t (s.cur / 16)).copyQ = c.copyQ ++ [tag])) ∧
    (x / 2 ^ 40 % 2 ^ 20 ≠ 0 ∨ ¬apart → Illegal s (.bkcmd d a b acq rel)) ∧
    (x / 2 ^ 40 % 2 ^ 20 = 0 → apart →
      (4 ≤ bulkCount c → ∃ t, exec (.bkcmd d a b acq rel) s = .next t ∧ Waits s t .bulkQueue) ∧
      (bulkCount c < 4 → 256 ≤ c.cmds.length → ∃ t, exec (.bkcmd d a b acq rel) s = .next t ∧ Waits s t .tagFree) ∧
      (bulkCount c < 4 → c.cmds.length < 256 → Unfenced s → ∃ t tag, exec (.bkcmd d a b acq rel) s = .next t ∧
        Issues s t d tag (cmdOf s .bulk tag dst src (x % 2 ^ 40) (acquires s acq) (rel.getD .core) q none)))) ∧
  (∀ d a sc s,
    let collective := sc = .clus ∨ sc = .dist ∨ sc = .die ∨ sc = .pkg
    let p := readX (me s) a
    (isHandler s.cur = true ∨ ¬collective ∨ bindsScope s (me s) sc = false → Illegal s (.colcmd d a sc)) ∧
    (isHandler s.cur = false → collective → bindsScope s (me s) sc = true →
      (p.toNat % 32 ≠ 0 ∨ 0x20000 ≤ p.toNat → Traps s (exec (.colcmd d a sc) s) 0x04 p 0) ∧
      (p.toNat % 32 = 0 → p.toNat < 0x20000 →
        (256 ≤ (getCore s (s.cur / 16)).cmds.length → ∃ t, exec (.colcmd d a sc) s = .next t ∧ Waits s t .tagFree) ∧
        ((getCore s (s.cur / 16)).cmds.length < 256 → Unfenced s →
          let c := parseColl (rawBytes s (myDie s) s.cur (selfKey s p) 32) sc
          ∃ t tag, exec (.colcmd d a sc) s = .next t ∧
            Issues s t d tag (cmdOf s .coll tag c.dst c.src (c.count * 4) (acquires s none) .core none (some c))))))

/-- The resume forms (R98, R99, R236): a faulted command of the engine's kind goes on with the pointers and the length given, what was moved
before counted, and its fault record leaves the fault queue; a resume of length 0 enters no queue, and completes abandoned; a copy waits
while the engine's queue is full. Of a tag that is not faulted, with reserved bits set, for bulk stretches that overlap and in the handler
context it is ILLEGAL_INSTRUCTION. -/
def Sys2Proof.Claims.EngineResume : Prop :=
  ∀ i d a b kind s, (i = .cpcmdResume d a b ∧ kind = .copy ∨ i = .bkcmdResume d a b ∧ kind = .bulk) →
    let core := s.cur / 16
    let x := (readX (me s) d).toNat
    let tag := x % 256
    let dst := readX (me s) a
    let src := readX (me s) b
    let len := x / 2 ^ 32
    let apart := kind = .copy ∨ len = 0 ∨ src.toNat % 2 ^ 56 + len ≤ dst.toNat % 2 ^ 56 ∨ dst.toNat % 2 ^ 56 + len ≤ src.toNat % 2 ^ 56
    let full := kind = .copy ∧ len ≠ 0 ∧ 2 ≤ (getCore s core).copyQ.length
    (isHandler s.cur = true ∨ x / 256 % 2 ^ 24 ≠ 0 ∨ ¬apart ∨
      (∀ m, HasCmd s core tag m → m.kind ≠ kind ∨ ∀ c, m.state ≠ .faulted c) → Illegal s i) ∧
    (∀ m c, isHandler s.cur = false → x / 256 % 2 ^ 24 = 0 → apart → HasCmd s core tag m → m.kind = kind → m.state = .faulted c →
      (full → ∃ t, exec i s = .next t ∧ Waits s t .copyQueue) ∧
      (¬full → Unfenced s → (∀ y ∈ (getCore s core).cmds, y.tag = tag → y = m) →
        ∃ t, exec i s = .next t ∧
          (∀ r, readX (me t) r = if r = 0 then 0 else if r = d then BitVec.ofNat 64 tag else readX (me s) r) ∧
          me t = { me s with
            pc := (me s).pc + 4, unit := none, wait := none, met := none, walk := none, x := (me t).x, xpend := (me t).xpend
            poison := (me t).poison, faults := (me t).faults } ∧
          (∀ k, k ≠ s.cur → getHart t k = { getHart s k with faults := (getHart t k).faults }) ∧
          (Present s m.hart m.gen → (getHart t m.hart).faults =
            (getHart s m.hart).faults.filter fun r => decide (r.kind = 4 ∨ r.tag ≠ BitVec.ofNat 8 tag)) ∧
          CmdNow s t core tag { m with
            dst := dst, src := src, len := len, base := m.base + m.moved, moved := 0, acq := none, issue := s.serial, asked := false
            state := if len = 0 then .moved else .queued, abandoned := decide (len = 0) } ∧
          t = { s with
            harts := t.harts, cores := t.cores, saves := t.saves, serial := s.serial + 1
            agenda := s.agenda ++ [if len = 0 then .engineCommandComplete core tag else .engineCommandStart core tag] }))

/-- CPSTAT and TWAIT (R97, R100, R406): the state, the fault code and the bytes completed of a tag, all zero for one that is not outstanding; TWAIT
waits for a tag that is outstanding, and once it has completed acquires at the release scope of its command and goes on; of more than a tag, and in the handler context, both are
ILLEGAL_INSTRUCTION. -/
def Sys2Proof.Claims.EngineStatus : Prop :=
  (∀ s i d a, i = .cpstat d a ∨ i = .twait a → isHandler s.cur = true ∨ 256 ≤ (readX (me s) a).toNat → Illegal s i) ∧
  ∀ s, isHandler s.cur = false →
    let c := getCore s (s.cur / 16)
    (∀ d a, (readX (me s) a).toNat < 256 →
      let tag := (readX (me s) a).toNat
      ((∀ m ∈ c.cmds, m.tag ≠ tag) → ∃ t, exec (.cpstat d a) s = .next t ∧ DoneWith s t d 0 ∧ t = { s with harts := t.harts }) ∧
      (∀ m, HasCmd s (s.cur / 16) tag m → ∃ t v, exec (.cpstat d a) s = .next t ∧ DoneWith s t d v ∧ t = { s with harts := t.harts } ∧
        v.toNat % 8 = (match m.state with
          | .queued => 1
          | .faulted _ => 3
          | .suspended => 4
          | _ => 2) ∧
        v.toNat / 2 ^ 8 % 2 ^ 8 = (match m.state with | .faulted f => f.toNat | _ => 0) ∧
        v.toNat / 2 ^ 24 = (m.base + m.moved) % 2 ^ 40 ∧ v.toNat / 8 % 32 = 0 ∧ v.toNat / 2 ^ 16 % 2 ^ 8 = 0)) ∧
    (∀ a, (readX (me s) a).toNat < 256 →
      let tag := (readX (me s) a).toNat
      ((∀ m ∈ c.cmds, m.tag ≠ tag) → ∃ t, exec (.twait a) s = .next t ∧ Done s t ∧ CoreFrame s t ∧
        (∀ sc, (me s).met = some (.tag tag sc) → 2 ≤ sc.code.toNat → (getCore t (s.cur / 16)).l1 = [])) ∧
      (∀ m, HasCmd s (s.cur / 16) tag m → ∃ t, exec (.twait a) s = .next t ∧ OnlyMe s t ∧
        me t = { me s with met := some (.tag tag m.rel), wait := some (.tag tag) }))

/-- A command runs (R96, R101, R130, R244): it starts once its acquire is covered, a copy only at the head of its core's queue and while the copy
engine holds no post, a bulk command when an engine of the die takes its chunk; a copy moves one piece at a time, within a line of either
side, in ascending order, so that bytes it has itself written are read again. -/
def Sys2Proof.Claims.EngineRuns : Prop :=
  (∀ core tag s m, HasCmd s core tag m → m.state = .queued →
    (m.kind = .copy → (getCore s core).copyQ.head? = some tag ∧ ∀ p ∈ (getCore s core).posts, p.kind ≠ .copy) →
    let covered := ∀ sc, m.acq = some sc → unperformedBefore s m.hart m.issue = false ∧ scopeSettled s m.hart (core / 4096) sc = true
    (¬covered → ∃ t, exec (.engineCommandStart core tag) s = .next t ∧ t = { s with agenda := s.agenda ++ [.engineCommandStart core tag] }) ∧
    (covered → (∀ y ∈ (getCore s core).cmds, y.tag = tag → y = m) →
      ∃ t, exec (.engineCommandStart core tag) s = .next t ∧ CmdNow s t core tag { m with state := .running } ∧
        t = { s with
          cores := t.cores
          agenda := s.agenda ++ [if m.kind = .bulk then .bulkChunkSelect (core / 4096) else .enginePiece core tag] })) ∧
  (∀ core tag s m, HasCmd s core tag m → m.state = .running → m.kind = .copy → m.abandoned = false → core < 0x4000 → s.mca = [] →
    (∀ y ∈ (getCore s core).cmds, y.tag = tag → y = m) →
    let src := m.src + BitVec.ofNat 64 m.moved
    let dst := m.dst + BitVec.ofNat 64 m.moved
    let n := min (m.len - m.moved) (min (64 - src.toNat % 64) (64 - dst.toNat % 64))
    let key := fun (p : Word) => 0x100000000 + core * 0x20000 + p.toNat
    let far := dst.toNat - src.toNat
    0 < n → src.toNat < 0x20000 → dst.toNat < 0x20000 → key src / 64 ∉ s.badLines → key dst / 64 ∉ s.badLines →
    (∀ o ∈ s.ops, o.hart = m.hart → o.atHome = true → o.key + o.size ≤ key src ∨ key src + n ≤ o.key) →
    ∃ t, exec (.enginePiece core tag) s = .next t ∧
      StoredIn s t (core / 4096) (key dst)
        ((List.range n).map fun i =>
          viewByte s (core / 4096) (key src + if src.toNat < dst.toNat ∧ far < n then i % far else i)) ∧
      CmdNow s t core tag { m with moved := m.moved + n, asked := false } ∧ t.harts = s.harts) ∧
  (∀ core tag s m, HasCmd s core tag m → m.state = .running → m.kind = .copy → m.moved = m.len →
    (∀ y ∈ (getCore s core).cmds, y.tag = tag → y = m) →
    ∃ t, exec (.enginePiece core tag) s = .next t ∧ CmdNow s t core tag { m with state := .moved } ∧
      t = { s with cores := t.cores, agenda := s.agenda ++ [.engineCommandComplete core tag] }) ∧
  (∀ die s core m, s.cores.map (·.1) = [core] → core / 4096 = die → (getCore s core).cmds = [m] → m.kind = .bulk → m.state = .running →
    (getDie s die).bulkRunning = [] → s.charges = [] →
    ∃ t, exec (.bulkChunkSelect die) s = .next t ∧ (getDie t die).bulkRunning = [m.serial] ∧
      t.agenda = s.agenda ++ [.enginePiece core m.tag] ∧ (getCore t core).cmds = [m])

/-- A command ends (R65, R96, R105, R127, R131, R274): after its release, for which a sys release with posted host writes has a zero-length read
made first, its record enters the cluster's event queue and its tag is free; its post, where it has one, is made once the queue register has
room and no QPUSH is blocked on it; while the event queue is full it waits. -/
def Sys2Proof.Claims.EngineCompletion : Prop :=
  (∀ core tag s m, (∀ p ∈ (getCore s core).posts, p.tag ≠ tag) → HasCmd s core tag m →
    (∀ y ∈ (getCore s core).cmds, y.tag = tag → y = m) →
    let q := (getCluster s (core / 16)).eventQ
    let again := Event.engineCommandComplete core tag
    let waits := cmdReleased s core m = false ∨ (needsFlush m = false ∧ 64 ≤ q.length)
    (m.state = .moved → waits → ∃ t, exec (.engineCommandComplete core tag) s = .next t ∧ t = { s with agenda := s.agenda ++ [again] }) ∧
    (m.state = .moved → cmdReleased s core m = true → needsFlush m = true →
      ∃ t, exec (.engineCommandComplete core tag) s = .next t ∧ CmdNow s t core tag { m with state := .flushing, posted := false } ∧
        t = { s with
          cores := t.cores, sentOut := s.sentOut ++ [.zeroRead m.tenant.toNat core tag], agenda := s.agenda ++ [again] }) ∧
    (m.state = .flushing → ∃ t, exec (.engineCommandComplete core tag) s = .next t ∧ CmdNow s t core tag { m with state := .moved } ∧
      t = { s with cores := t.cores, agenda := s.agenda ++ [again] }) ∧
    (m.state = .moved → cmdReleased s core m = true → needsFlush m = false → q.length < 64 →
      ∃ t r, exec (.engineCommandComplete core tag) s = .next t ∧ (getCluster t (core / 16)).eventQ = q ++ [r] ∧
        r.kind.toNat = (match m.kind with | .copy => 2 | .bulk => 3 | .coll => 4) ∧ r.status = (if m.abandoned then 1 else 0) ∧
        r.tenant = m.tenant ∧ r.tag = BitVec.ofNat 8 m.tag ∧ r.detail = BitVec.ofNat 64 (m.base + m.moved) ∧
        t.harts = s.harts ∧ t.views = s.views ∧
        (getCore t core).cmds = (getCore s core).cmds.filter (fun x => x.tag ≠ m.tag) ∧
        (getCore t core).posts = (getCore s core).posts ++
          (match m.post with | some n => [⟨m.kind, m.tag, n, m.launch, m.serial⟩] | none => []))) ∧
  (∀ core tag s p, (getCore s core).posts.find? (fun x => x.tag = tag) = some p → findCmd s core tag = none →
    let q := mapGet [] (getCore s core).queues p.queue
    let blocked := 16 ≤ q.length ∨ ∃ e ∈ (getCore s core).pushers, e.1 = p.queue
    (blocked → ∃ t, exec (.engineCommandComplete core tag) s = .next t ∧
      t = { s with agenda := s.agenda ++ [.engineCommandComplete core tag] }) ∧
    (¬blocked → ∃ t, exec (.engineCommandComplete core tag) s = .next t ∧
      mapGet [] (getCore t core).queues p.queue = q ++ [⟨BitVec.ofNat 64 tag, p.world⟩] ∧
      (getCore t core).posts = (getCore s core).posts.erase p ∧ t.harts = s.harts ∧ t.views = s.views))

/-- A fault (R98, R234, R236, R244, R274): a command whose host does not answer stops with DEVICE_ERROR, its record, which names its destination
where that is what waited, in the fault queue of its hart; delivery writes the 32-byte record at SELF + EFR, takes it from the queue, and enters the U handler where UEFEN asks for it,
otherwise S mode with ECAUSE 0x81. -/
def Sys2Proof.Claims.EngineFaults : Prop :=
  (∀ core tag s m, HasCmd s core tag m → m.state = .running ∨ m.state = .flushing → Present s m.hart m.gen →
    (∀ y ∈ (getCore s core).cmds, y.tag = tag → y = m) →
    let writes := m.state = .flushing ∨ ∃ r ∈ (getDie s (core / 4096)).atsPending, r.core = core ∧ r.tag = tag ∧ r.write = true
    ∃ t side, exec (.completionTimeout core tag) s = .next t ∧ (writes → side = m.dst) ∧ (¬writes → side = m.src) ∧ CmdNow s t core tag { m with state := .faulted 0x26 } ∧
      getHart t m.hart = { getHart s m.hart with
        faults := (getHart s m.hart).faults ++
          [⟨0x26, (match m.kind with | .copy => 1 | .bulk => 2 | .coll => 3), BitVec.ofNat 8 tag, m.fromS,
            side + BitVec.ofNat 64 m.moved, BitVec.ofNat 64 (m.base + m.moved),
            BitVec.ofNat 64 (m.total - (m.base + m.moved))⟩] }) ∧
  (∀ h s r rest, (getHart s h).faults = r :: rest → (getHart s h).mode = .U → (getHart s h).unit = none → (getHart s h).sup = none →
    (getHart s h).wait = none → h < 0x40000 →
    let v := getHart s h
    let key := 0x100000000 + h / 16 * 0x20000 + v.sr.efr.toNat % 0x20000
    (r.fromS = false → v.sr.hctl.getLsbD 2 = true → v.sr.hctl.getLsbD 3 = false →
      ∃ t, exec (.engineFaultDelivery h) s = .next t ∧ StoredIn s t (h / 16 / 4096) key r.bytes ∧
        (getHart t h).faults = rest ∧ (getHart t h).sr.uepc = v.pc ∧ (getHart t h).sr.hctl.getLsbD 3 = true ∧
        (getHart t h).pc = v.sr.uevec &&& ~~~1 ∧ (getHart t h).mode = .U ∧ (getHart t h).x = v.x) ∧
    (r.fromS = false → v.sr.hctl.getLsbD 2 = false →
      ∃ t, exec (.engineFaultDelivery h) s = .next t ∧ StoredIn s t (h / 16 / 4096) key r.bytes ∧
        (getHart t h).faults = rest ∧ (getHart t h).mode = .S ∧ (getHart t h).sr.ecause = 0x81 ∧ (getHart t h).sr.eval = v.sr.efr ∧
        (getHart t h).sr.epc = v.pc ∧ (getHart t h).pc = v.sr.evec &&& ~~~1 ∧ (getHart t h).x = v.x))

/-! ### The matrix array -/

namespace Sys2Proof.Claims

/-- The row of Table 10.1 that a weight and an activation format lie in under a mode; 0 for none. -/
def operandClass (mode wf af : Nat) : Nat :=
  let w8 := [0x10, 0x11, 0x20, 0x21, 0x23]
  if mode = 0 ∧ wf ∈ w8 ∧ af ∈ w8 then 1
  else if mode = 0 ∧ wf ∈ [0x01, 0x02] ∧ af ∈ [0x01, 0x02] then 2
  else if mode = 0 ∧ wf ∈ [0x12, 0x22] ∧ af ∈ [0x12, 0x22] then 3
  else if mode = 1 ∧ wf = 0x30 ∧ af = 0x30 then 4
  else if mode = 2 ∧ wf = 0x40 ∧ af = 0x30 then 5
  else 0

/-- A tensor that is valid for a tenant (R172). -/
def ValidTid (s : State) (tenant : BitVec 4) (tid : BitVec 16) (r : Tensor) : Prop :=
  tid ≠ 0 ∧ getTensor s tid.toNat = some r ∧ r.flags.getLsbD 0 = true ∧ r.tenant = tenant

def matrixSlice (s : State) (core : Nat) : MatrixSlice := (getCore s core).slice
def matrixQ (s : State) (core : Nat) : List MatrixCmd := (getCore s core).matrixQ

/-- The slice as the executing hart finds it: with the reset configuration where another launch used it last (R169). -/
def found (s : State) : MatrixSlice :=
  if (matrixSlice s (s.cur / 16)).owner = (me s).launch then matrixSlice s (s.cur / 16)
  else { MatrixSlice.reset with owner := (me s).launch }

/-- Nothing but the core's slice and command queue, the hart, and what is due has changed. -/
def MatrixFrame (s t : State) : Prop :=
  t = { s with harts := t.harts, cores := t.cores, agenda := t.agenda } ∧ (∀ k, k ≠ s.cur → getHart t k = getHart s k) ∧
    ∀ g, getCore t g = { getCore s g with slice := matrixSlice t g, matrixQ := matrixQ t g }

/-- The command of the executing hart in its queue (R177). -/
def queuedCmd (s : State) (op : MatrixOp) : MatrixCmd :=
  ⟨op, s.cur, (me s).gen, (me s).launch, (me s).sr.own, (me s).sr.tenant, decide ((me s).mode ≠ .U), false, s.serial⟩

/-- A joint instruction, its kind, and the operands it holds at issue. -/
def jointForm (s : State) : Instr → Option (JointKind × Word × Word)
  | .mzero => some (.mzero, 0, 0)
  | .mstr a b => some (.mstr, readX (me s) a, readX (me s) b)
  | .mdrn t a => some (.mdrn t, readX (me s) a, 0)
  | _ => none

/-- The executing hart as a member of a gathering. -/
def memberOf (s : State) (k : JointKind) (a b : Word) : GangMember :=
  ⟨s.cur, (me s).gen, decide ((me s).mode ≠ .U), k, a, b⟩

/-- Every access that the issuing hart of a matrix command made before it is performed (R183). -/
def EarlierDone (s : State) (c : MatrixCmd) : Prop :=
  (∀ o ∈ s.ops, o.hart = c.hart → o.atHome = true → c.issue ≤ o.id) ∧ ∀ w ∈ s.mca, w.hart = c.hart → c.issue ≤ w.id

/-- A joint command of a gang that may start now: its leader, its members on cores of their own, whose slices belong to its launch. -/
def JointReady (s : State) (id : Nat) (g : Gang) (l : GangMember) : Prop :=
  findGang s id = some g ∧ g.id = id ∧ g.members.head? = some l ∧ (g.members.map fun m => m.hart / 16).Nodup ∧
    (∀ m ∈ g.members, (matrixSlice s (m.hart / 16)).owner = g.launch) ∧
    (∀ c ∈ matrixQ s (l.hart / 16), c.op = .joint id → c.running = false) ∧ jointMayStart s g = true

/-- Element i of an INT8 row of activations in the leader's local SRAM. -/
def int8At (s : State) (key i : Nat) (die : Nat) : Int := signedOf 8 (viewByte s die (key + i)).toNat

end Sys2Proof.Claims

/-- MCFG and MSTAT (R174, R182, R365, R374): a configuration of valid tensors in one class is recorded and the flags are cleared; a TID that is not
valid or formats of no class are TENSOR_ID, a sealed activation tensor SEALED_ACCESS; a queue that is not empty makes it wait. MSTAT
reads the status of the slice. -/
def Sys2Proof.Claims.MatrixConfiguration : Prop :=
  (∀ a b s wr ar, isHandler s.cur = false → matrixQ s (s.cur / 16) = [] →
    let x := readX (me s) a
    let y := readX (me s) b
    let w : BitVec 16 := x.extractLsb' 0 16
    let t : BitVec 16 := x.extractLsb' 16 16
    let mode := y.toNat % 4
    let cls := operandClass mode wr.format.toNat ar.format.toNat
    x.toNat < 2 ^ 32 → y.toNat < 8 → mode ≠ 3 →
    ((∀ r, ¬ValidTid s (me s).sr.tenant w r) → Traps s (exec (.mcfg a b) s) 0x0B (w.setWidth 64) 0) ∧
    (ValidTid s (me s).sr.tenant w wr → ValidTid s (me s).sr.tenant t ar →
      (cls = 0 → ∃ tid, (tid = w ∨ tid = t) ∧ Traps s (exec (.mcfg a b) s) 0x0B (tid.setWidth 64) 0) ∧
      (cls ≠ 0 → ar.flags.getLsbD 3 = true → ar.format ≠ 1 → Traps s (exec (.mcfg a b) s) 0x0B (t.setWidth 64) 0) ∧
      (cls ≠ 0 → ar.flags.getLsbD 3 = false → ar.flags.getLsbD 2 = true →
        Traps s (exec (.mcfg a b) s) 0x08 (t.setWidth 64) 0) ∧
      (cls ≠ 0 → ar.flags.getLsbD 3 = false → ar.flags.getLsbD 2 = false →
        (y.getLsbD 2 = true ∨ otherRowBusy s (s.cur / 16) (me s).launch = false) →
        ∃ u, exec (.mcfg a b) s = .next u ∧ Done s u ∧ MatrixFrame s u ∧
          matrixSlice u (s.cur / 16) = { found s with
            wtid := w, atid := t, mode := BitVec.ofNat 2 mode, cls := BitVec.ofNat 3 cls, split := y.getLsbD 2
            flush := (me s).sr.hctl.getLsbD 1, faulted := false, flags := 0 }))) ∧
  (∀ a b s, isHandler s.cur = false → (readX (me s) a).toNat < 2 ^ 32 → (readX (me s) b).toNat < 8 → (readX (me s) b).toNat % 4 ≠ 3 →
    matrixQ s (s.cur / 16) ≠ [] → ∃ t, exec (.mcfg a b) s = .next t ∧ Waits s t .matrixEmpty) ∧
  (∀ d s, isHandler s.cur = false →
    let q := (matrixQ s (s.cur / 16)).length
    let c := found s
    let code := fun (p : PlaneState) => match p with | .empty => 0 | .loaded => 1 | .loadedSealed => 2
    ∃ t v, exec (.mstat d) s = .next t ∧ DoneWith s t d v ∧
      (q < 4 → v.toNat = q + (if c.faulted then 2 ^ 2 else 0) + c.flags.toNat * 2 ^ 8 + code c.active.state * 2 ^ 16 +
        code c.shadow.state * 2 ^ 18 + (if c.split then 2 ^ 20 else 0) + c.mode.toNat * 2 ^ 21))

/-- MLDW, MSWAP, GANG and the joint instructions at issue (R177, R178, R369, R376): a command takes an entry of the core's queue, or waits while it has
two; GANG is the head of a unit, and the joint instruction after it arrives at the gathering of its launch, where it waits (or, where the launch has
ended meanwhile, gathers no more and stands at its GANG, R41); an arrival of the
other size ends every gathering of its launch, and every hart of them traps GANG_MISMATCH with the arriving one; a joint instruction without a
GANG, and every matrix instruction in the handler context, is ILLEGAL_INSTRUCTION. -/
def Sys2Proof.Claims.MatrixIssue : Prop :=
  (∀ i s, isHandler s.cur = true →
    (match i with
     | .mcfg _ _ | .mstat _ | .mldw _ | .mswap | .gang _ | .mzero | .mstr _ _ | .mdrn _ _ => True
     | _ => False) → Illegal s i) ∧
  (∀ s i op e, isHandler s.cur = false →
    let core := s.cur / 16
    (∃ a, i = .mldw a ∧ op = .mldw (readX (me s) a) ∧ e = .mldwExecute core) ∨ (i = .mswap ∧ op = .mswap ∧ e = .mswapExecute core) →
    ((matrixQ s core).length < 2 → ∃ t, exec i s = .next t ∧ Done s t ∧ MatrixFrame s t ∧ t.agenda = s.agenda ++ [e] ∧
      matrixQ t core = matrixQ s core ++ [queuedCmd s op] ∧ matrixSlice t core = found s) ∧
    (2 ≤ (matrixQ s core).length → ∃ t, exec i s = .next t ∧ me t = { me s with wait := some .matrixQueue })) ∧
  (∀ n s, isHandler s.cur = false → bindsScope s (me s) .clus = true →
    ∃ t, exec (.gang n) s = .next t ∧ t = { s with harts := t.harts } ∧ (∀ k, k ≠ s.cur → getHart t k = getHart s k) ∧
      me t = { me s with pc := (me s).pc + 4, unit := some (.gang (me s).pc n), wait := none }) ∧
  (∀ i s k a b, jointForm s i = some (k, a, b) →
    (isHandler s.cur = false → (∀ pc n, (me s).unit ≠ some (.gang pc n)) → ∃ t, exec i s = .next t ∧
      TakesTrap s t 0x01 ((encodeWord i).setWidth 64) 0) ∧
    (∀ pc n, isHandler s.cur = false → (me s).unit = some (.gang pc n) → retiring s (me s).launch = true →
      ∃ t, exec i s = .next t ∧ OnlyMe s t ∧ me t = { me s with pc := pc, unit := none, wait := none }) ∧
    (∀ pc n, isHandler s.cur = false → (me s).unit = some (.gang pc n) → retiring s (me s).launch = false →
      releaseReady s s.cur .clus = false → ∃ t, exec i s = .next t ∧ me t = { me s with wait := some (.order .clus) }) ∧
    (∀ pc n, isHandler s.cur = false → (me s).unit = some (.gang pc n) → retiring s (me s).launch = false →
      releaseReady s s.cur .clus = true →
      let clus := s.cur / 16 / 16
      let row := s.cur / 16 % 16 / 8
      let wide := decide (n = .sixteen)
      let gs := (getCluster s clus).gatherings
      let m := memberOf s k a b
      ((∀ g ∈ gs, g.launch ≠ (me s).launch) →
        ∃ t, exec i s = .next t ∧ me t = { me s with wait := some .gang, ganged := true } ∧
          (getCluster t clus).gatherings = gs ++ [⟨s.serial, (me s).launch, clus, wide, row, [m]⟩]) ∧
      (∀ g, gs = [g] → g.launch = (me s).launch → g.wide = wide → (wide = true ∨ g.row = row) →
        (∀ x ∈ g.members, x.hart / 16 ≠ s.cur / 16) →
        ∃ t, exec i s = .next t ∧ me t = { me s with wait := some .gang, ganged := true } ∧
          (getCluster t clus).gatherings = [{ g with members := g.members ++ [m] }] ∧
          (g.members.length + 1 = (if wide then 16 else 8) → .gangGatherComplete clus g.id ∈ t.agenda)) ∧
      ((∃ g ∈ gs, g.launch = (me s).launch ∧ g.wide ≠ wide) → (gs.map fun g => g.id).Nodup →
        let ended := gs.filter fun g => decide (g.launch = (me s).launch ∧ g.wide ≠ wide)
        let harts := (ended.flatMap fun g => g.members.map fun x => x.hart) ++ [s.cur]
        harts.Nodup → (∀ k ∈ harts, isHandler k = false) →
        ∃ t, exec i s = .next t ∧ (∀ x, x ∈ (getCluster t clus).gatherings ↔ x ∈ gs ∧ x ∉ ended) ∧
          ∀ k ∈ harts, (getHart t k).sr.ecause = 0x0F ∧ (getHart t k).sr.epc = unitPc (getHart s k) ∧ (getHart t k).mode = .S)))

/-- A gathering completes (R178) when every member has a free entry: where the members agree, each one's joint command enters its queue and each goes
on past its unit; where they do not, each traps GANG_MISMATCH at its GANG. -/
def Sys2Proof.Claims.GangCompletes : Prop :=
  ∀ clus id s g, (getCluster s clus).gatherings.find? (fun x => x.id = id) = some g → g.clus = clus →
    g.members.length = (if g.wide then 16 else 8) → (g.members.map fun m => m.hart / 16).Nodup →
    (∀ m ∈ g.members, m.hart / 256 = clus ∧ m.hart % 16 < 8 ∧ (matrixQ s (m.hart / 16)).length < 2) →
    let agree := ∀ m ∈ g.members, ∀ x ∈ g.members, sameKind m.kind x.kind = true ∧
      (matrixSlice s (m.hart / 16)).mode = (matrixSlice s (x.hart / 16)).mode ∧ (matrixSlice s (m.hart / 16)).atid = (matrixSlice s (x.hart / 16)).atid ∧
      (matrixSlice s (m.hart / 16)).split = !g.wide
    ∃ t, exec (.gangGatherComplete clus id) s = .next t ∧
      (getCluster t clus).gatherings = (getCluster s clus).gatherings.filter (fun x => x.id ≠ id) ∧
      (agree → (∀ m ∈ g.members,
          getHart t m.hart =
            { getHart s m.hart with pc := (getHart s m.hart).pc + 4, unit := none, wait := none, met := none, walk := none } ∧
          ∃ c, matrixQ t (m.hart / 16) = matrixQ s (m.hart / 16) ++ [c] ∧ c.op = .joint id ∧ c.hart = m.hart ∧ c.gen = m.gen) ∧
        ∃ q, (getCluster t clus).gangs = (getCluster s clus).gangs ++ [q] ∧ q.id = id ∧ q.launch = g.launch ∧ q.wide = g.wide ∧
          ∀ m, m ∈ q.members ↔ m ∈ g.members) ∧
      (¬agree → ∀ m ∈ g.members, (getHart t m.hart).mode = .S ∧ (getHart t m.hart).sr.ecause = 0x0F ∧
        (getHart t m.hart).sr.epc = trapPc (getHart s m.hart) ∧ matrixQ t (m.hart / 16) = matrixQ s (m.hart / 16))

/-- MLDW and MSWAP run (R175, R176, R183, R186): MLDW waits until the earlier accesses of its hart are performed; it fills the shadow plane from the
tensor, an INT8 element being the byte that the tensor holds for it, or leaves it empty with a fault record for the hart that issued
it; from a tensor in a vault that its owner may load weights from (right M, R175), on lines without an error, it is filled; MSWAP exchanges
the planes. -/
def Sys2Proof.Claims.PlaneCommands : Prop :=
  (∀ core s c rest, matrixQ s core = c :: rest → c.running = false → c.op = .mswap → (matrixSlice s core).owner = c.launch →
    ∃ t, exec (.mswapExecute core) s = .next t ∧
      matrixSlice t core = { matrixSlice s core with active := (matrixSlice s core).shadow, shadow := (matrixSlice s core).active } ∧
      matrixQ t core = { c with running := true } :: rest ∧ .matrixCommandComplete core ∈ t.agenda ∧
      ∀ g, g ≠ core → getCore t g = getCore s g) ∧
  (∀ core s c rest x, matrixQ s core = c :: rest → c.running = false → c.op = .mldw x →
    (∃ o ∈ s.ops, o.hart = c.hart ∧ o.atHome = true ∧ o.id < c.issue) →
    ∃ t, exec (.mldwExecute core) s = .next t ∧ t = { s with agenda := s.agenda ++ [.mldwExecute core] }) ∧
  (∀ core s c rest x, matrixQ s core = c :: rest → c.running = false → c.op = .mldw x → (matrixSlice s core).owner = c.launch →
    EarlierDone s c →
    let tid : BitVec 16 := if x.extractLsb' 0 16 = 0 then (matrixSlice s core).wtid else x.extractLsb' 0 16
    let k0 := x.toNat / 2 ^ 16 % 2 ^ 24
    let n0 := x.toNat / 2 ^ 40
    ((∀ r, ¬ValidTid s c.tenant tid r) → Present s c.hart c.gen →
      ∃ t, exec (.mldwExecute core) s = .next t ∧ (matrixSlice t core).shadow = .reset ∧ (matrixSlice t core).faulted = true ∧
        (matrixSlice t core).active = (matrixSlice s core).active ∧ (matrixSlice t core).acc = (matrixSlice s core).acc ∧
        (((getHart s c.hart).faults.filter fun r => r.kind = 4).length < 8 → (getHart t c.hart).faults = (getHart s c.hart).faults ++
          [⟨0x28, 4, 0xFF, c.fromS, tid.setWidth 64, 0, 0⟩])) ∧
    (∀ r, ValidTid s c.tenant tid r → r.format = 0x30 → (matrixSlice s core).mode = 1 → (matrixSlice s core).cls = 4 → r.flags.getLsbD 2 = false →
      s.mca = [] → core < 0x4000 →
      let g := if (matrixSlice s core).split then core % 8 else core % 16
      let cnt := min 256 (r.dim0 - k0)
      let p : Nat → Nat → Word := fun j k => r.base + BitVec.ofNat 64 ((n0 + 8 * g + j) * r.stride + k0 + k)
      let at' := fun j k => (p j k).toNat % 2 ^ 56
      (∀ j < 8, ∀ k < cnt, 0x200000000 ≤ at' j k ∧ at' j k < 0x600000000) →
      let loaded := fun (t : State) =>
        (matrixSlice t core).shadow.state = .loaded ∧ (matrixSlice t core).shadow.tid = tid ∧ (matrixSlice t core).shadow.version = r.version ∧
        (matrixSlice t core).shadow.k0 = k0 ∧ (matrixSlice t core).shadow.n0 = n0 ∧ (matrixSlice t core).shadow.format = 0x30 ∧
        ∀ j < 8, ∀ k < cnt, n0 + 8 * g + j < r.dim1 →
          (mapGet 0 (matrixSlice t core).shadow.elems (8 * k + j)).toNat = (viewByte s (core / 4096) (at' j k)).toNat
      (∀ t, exec (.mldwExecute core) s = .next t → (matrixSlice t core).shadow.state ≠ .empty → loaded t) ∧
      ((getCore s core).plb = [] →
        (∃ rg, ∀ j < 8, ∀ k < cnt, n0 + 8 * g + j < r.dim1 →
          InRange s (at' j k) rg ∧ (p j k).toNat / 2 ^ 56 = rg.tag.toNat ∧ OwnerMay s c.own (at' j k) rg.tag 4 ∧
            at' j k / 64 ∉ s.badLines) →
        ∃ t, exec (.mldwExecute core) s = .next t ∧ loaded t ∧ matrixQ t core = { c with running := true } :: rest ∧
          .matrixCommandComplete core ∈ t.agenda ∧ (matrixSlice t core).active = (matrixSlice s core).active ∧
          (matrixSlice t core).acc = (matrixSlice s core).acc)))

/-- The joint commands run (R158, R169, R180, R181, R186): MZERO and MDRN on a slice without a configuration end with the record of TENSOR_ID, the
accumulators as they were; an MDRN that meets an uncorrectable error ends with every accumulator of every member an error value; MZERO clears every accumulator of every member; MSTR in integer mode adds to accumulator (r, c) of every
member the products of row r with column c of its active plane, wrapping in 32 bits; MDRN writes every member's 512 accumulators to
its SELF, element (r, c) at x[a] + 32r + 4c, and nothing else. -/
def Sys2Proof.Claims.JointCommands : Prop :=
  (∀ s id g l i, JointReady s id g l →
    (l.kind = .mzero ∧ i = .mzeroExecute id) ∨ ((∃ ty, l.kind = .mdrn ty) ∧ i = .mdrnExecute id) →
    (∃ m ∈ g.members, (matrixSlice s (m.hart / 16)).atid = 0) →
    ∃ t, exec i s = .next t ∧ t.views = s.views ∧
      ∀ m ∈ g.members, matrixSlice t (m.hart / 16) = { matrixSlice s (m.hart / 16) with faulted := true }) ∧
  (∀ s id g l, JointReady s id g l → (∀ m ∈ g.members, (matrixSlice s (m.hart / 16)).atid ≠ 0) →
    ∃ t, exec (.mzeroExecute id) s = .next t ∧
    (∀ m ∈ g.members, matrixSlice t (m.hart / 16) = { matrixSlice s (m.hart / 16) with acc := [] }) ∧ t.views = s.views ∧ t.harts = s.harts) ∧
  (∀ s id g l r, JointReady s id g l → l.kind = .mstr →
    let core := l.hart / 16
    let n := l.b.toNat % 256
    let key := 0x100000000 + core * 0x20000 + l.a.toNat
    (∀ m ∈ g.members, (matrixSlice s (m.hart / 16)).active.state ≠ .empty ∧ (matrixSlice s (m.hart / 16)).active.format = 0x30) →
    (matrixSlice s core).mode = 1 → (matrixSlice s core).cls = 4 → ValidTid s (jointTenant s g l) (matrixSlice s core).atid r →
    r.format = 0x30 → r.flags.getLsbD 3 = false → 1 ≤ n → n ≤ 64 → l.b.toNat / 2 ^ 8 % 2 ^ 8 = 0 → l.b.toNat / 2 ^ 16 % 32 = 0 →
    l.a.toNat % 64 = 0 → l.a.toNat + 256 * n ≤ 0x20000 → core < 0x4000 → s.mca = [] →
    (∀ i < 4 * n, key / 64 + i ∉ s.badLines) →
    ∃ t, exec (.mstrExecute id) s = .next t ∧ t.views = s.views ∧ t.harts = s.harts ∧
      ∀ m ∈ g.members,
        (∀ row < n, ∀ c < 8, mapGet 0 (matrixSlice t (m.hart / 16)).acc (8 * row + c) =
          BitVec.ofInt 32 ((mapGet 0 (matrixSlice s (m.hart / 16)).acc (8 * row + c)).toInt +
            ((List.range 256).map fun k => int8At s key (256 * row + k) (core / 4096) *
              signedOf 8 (mapGet 0 (matrixSlice s (m.hart / 16)).active.elems (8 * k + c)).toNat).sum)) ∧
        (∀ i, 8 * n ≤ i → mapGet 0 (matrixSlice t (m.hart / 16)).acc i = mapGet 0 (matrixSlice s (m.hart / 16)).acc i) ∧
        (matrixSlice t (m.hart / 16)).active = (matrixSlice s (m.hart / 16)).active) ∧
  (∀ s id g l ty, JointReady s id g l → (∀ m ∈ g.members, m.kind = .mdrn ty) →
    (ty = .f32 ∧ (matrixSlice s (l.hart / 16)).mode = 0 ∨ ty = .i32 ∧ (matrixSlice s (l.hart / 16)).mode ≠ 0) →
    (∀ m ∈ g.members, m.a.toNat % 64 = 0 ∧ m.a.toNat + 2048 ≤ 0x20000 ∧ m.hart < 0x40000) →
    (∀ m ∈ g.members, (matrixSlice s (m.hart / 16)).atid ≠ 0) →
    let key := fun (m : GangMember) => 0x100000000 + m.hart / 16 * 0x20000 + m.a.toNat
    ((∃ m ∈ g.members, ∃ i < 32, key m / 64 + i ∈ s.badLines) →
      ∃ t, exec (.mdrnExecute id) s = .next t ∧ t.views = s.views ∧
        ∀ m ∈ g.members, (matrixSlice t (m.hart / 16)).faulted = true ∧ ∀ i < 512, mapGet 0 (matrixSlice t (m.hart / 16)).acc i =
          if (matrixSlice s (l.hart / 16)).mode = 0 then 0x7FC00000 else 0x80000000) ∧
    ((∀ m ∈ g.members, ∀ i < 32, key m / 64 + i ∉ s.badLines) →
    ∃ t, exec (.mdrnExecute id) s = .next t ∧ t.harts = s.harts ∧
      (∀ m ∈ g.members, (matrixSlice t (m.hart / 16)).acc = (matrixSlice s (m.hart / 16)).acc ∧
        ∀ i < 512, ∀ j < 4, viewByte t (m.hart / 65536) (key m + 4 * i + j) =
          byteOf (mapGet 0 (matrixSlice s (m.hart / 16)).acc i).toNat j) ∧
      ∀ e k, (∀ m ∈ g.members, ¬(key m ≤ k ∧ k < key m + 2048)) → viewByte t e k = viewByte s e k))

/-- A matrix command ends (R177): the entry of a core's running command is free, or, for a joint command, the entries of all members. -/
def Sys2Proof.Claims.MatrixCommandEnds : Prop :=
  (∀ core s c rest, matrixQ s core = c :: rest → c.running = true → (∀ x ∈ rest, x.running = false) → (∀ id, c.op ≠ .joint id) →
    ∃ t, exec (.matrixCommandComplete core) s = .next t ∧ matrixQ t core = rest ∧ t = { s with cores := t.cores } ∧
      ∀ g, g ≠ core → getCore t g = getCore s g) ∧
  (∀ core s c rest id g l, matrixQ s core = c :: rest → c.running = true → (∀ x ∈ rest, x.running = false) → c.op = .joint id →
    findGang s id = some g → g.members.head? = some l → l.hart / 16 = core →
    ∃ t, exec (.matrixCommandComplete core) s = .next t ∧
      (∀ x, x / 16 = core / 16 → matrixQ t x = (matrixQ s x).filter fun e => e.op ≠ .joint id) ∧
      (∀ q ∈ (getCluster t (core / 16)).gangs, q.id ≠ id) ∧ t.harts = s.harts ∧ t.views = s.views)

/-! ### Vector instructions between registers -/

namespace Sys2Proof.Claims

/-- The executing hart after a vector instruction of `len` bytes: the marked sources are dead, the flags have been added to VSTAT, and the PC stands
after the instruction; of the registers only what `v` and `x` say has changed. -/
structure VectorStep (s t : State) (f : VFmt) (len : Nat) (fl : FpFlags) : Prop where
  frame : t = { s with harts := t.harts }
  others : ∀ k, k ≠ s.cur → getHart t k = getHart s k
  hart : me t = { me s with
    pc := (me s).pc + BitVec.ofNat 64 len, unit := none, wait := none, met := none, walk := none, x := (me t).x, v := (me t).v
    live := (me t).live, sr := { (me s).sr with vstat := (me s).sr.vstat ||| fl }, xpend := (me t).xpend, poison := (me t).poison }

/-- A last-use mark of the instruction is on a register (R32). -/
def marked (f : VFmt) (r : VReg) : Bool := (f.lua && decide (r = f.va)) || (f.lub && decide (r = f.vb))

/-- vd holds `v` and is live; every other vector register keeps its value, and its liveness unless it is marked; no scalar register changes. -/
def VectorDone (s t : State) (f : VFmt) (len : Nat) (v : VWord) (fl : FpFlags) : Prop :=
  VectorStep s t f len fl ∧ (me t).v = (me s).v.set f.vd.toNat v f.vd.isLt ∧ (me t).x = (me s).x ∧
    ∀ r : VReg, (me t).live.getLsbD r.toNat = (decide (r = f.vd) || ((me s).live.getLsbD r.toNat && !marked f r))

/-- x[vd] holds `v`; no vector register changes its value, and a marked one is dead. -/
def ScalarDone (s t : State) (f : VFmt) (v : Word) : Prop :=
  VectorStep s t f 4 0 ∧ (∀ r, readX (me t) r = if r = 0 then 0 else if r = f.vd then v else readX (me s) r) ∧ (me t).v = (me s).v ∧
    ∀ r : VReg, (me t).live.getLsbD r.toNat = ((me s).live.getLsbD r.toNat && !marked f r)

/-- The registers that a lane of an arithmetic instruction or compare reads. -/
def laneSources (i : Instr) (f : VFmt) : List VReg :=
  match i with
  | .vabs _ | .vneg _ | .vfabs _ | .vfneg _ | .vfsqrt _ | .vrcp _ | .vrsq _ | .vexp2 _ | .vlog2 _ | .vsin _ | .vcos _
  | .vfabs16 _ _ _ => [f.va]
  | .vfma _ | .vfnma _ => [f.va, f.vb, f.vd]
  | _ => [f.va, f.vb]

/-- The n lanes of w bits of a result `v` with the flags `fl` (R407): a selected lane holds `res`, each other one 0 or its old value, and the bits
above the lanes are 0. A lane that is computed from a dead register (the mask, or one of the registers `regs` that it reads) is undefined,
and may raise any flag that the instruction can raise, no other (R408; as a free value, log entry 88). -/
structure LanesDone (s : State) (i : Instr) (f : VFmt) (w n : Nat) (regs : Nat → List VReg) (res : Nat → Nat × FpFlags) (v : VWord)
    (fl : FpFlags) : Prop where
  others : ∀ k < n, deadMask (me s) f = false → selects s (me s) f.mask k = false →
    lane v w k = if f.z then 0 else lane (readV s (me s) f.vd) w k
  selected : ∀ k < n, openLane (me s) f (regs k) = false → selects s (me s) f.mask k = true → lane v w k = (res k).1 % 2 ^ w
  flags : deadMask (me s) f = false → (∀ k < n, selects s (me s) f.mask k = true → openLane (me s) f (regs k) = false) →
    fl = allFlags ((List.range n).map fun k => if selects s (me s) f.mask k then (res k).2 else 0)
  dead : (∀ k < n, openLane (me s) f (regs k) = true) → fl ||| raises i = raises i
  above : ∀ k, w * n ≤ k → v.getLsbD k = false

/-- A number modulo 2^w. -/
def wrap (w : Nat) (i : Int) : Nat := (i % (2 : Int) ^ w).toNat

/-- A number limited to the signed range of w bits (R146). -/
def clamp (w : Nat) (i : Int) : Nat := wrap w (max (-(2 : Int) ^ (w - 1)) (min ((2 : Int) ^ (w - 1) - 1) i))

/-- The fields of a 16-bit form: vd op va into vd (R313). -/
def shortForm (d a : VReg) (et : BitVec 3) : VFmt := ⟨false, false, false, 0, a, d, d, et⟩

/-- The integer instructions on lanes (R410 to R412, R441 to R446, R453, R457, R462, R465): fields, length, and the value of a lane of w bits
from the lanes of va and vb. -/
def intForm : Instr → Option (VFmt × Nat × (Nat → Nat → Nat → Nat))
  | .vadd f => some (f, 4, fun w a b => wrap w (a + b))
  | .vsub f => some (f, 4, fun w a b => wrap w (a - b))
  | .vmul f => some (f, 4, fun w a b => wrap w (a * b))
  | .vmulh f => some (f, 4, fun w a b => wrap w (signedOf w a * signedOf w b / 2 ^ w))
  | .vmin f => some (f, 4, fun w a b => wrap w (min (signedOf w a) (signedOf w b)))
  | .vmax f => some (f, 4, fun w a b => wrap w (max (signedOf w a) (signedOf w b)))
  | .vminu f => some (f, 4, fun _ a b => min a b)
  | .vmaxu f => some (f, 4, fun _ a b => max a b)
  | .vand f => some (f, 4, fun _ a b => a &&& b)
  | .vor f => some (f, 4, fun _ a b => a ||| b)
  | .vxor f => some (f, 4, fun _ a b => a ^^^ b)
  | .vshl f => some (f, 4, fun w a b => wrap w (a * 2 ^ (b % w)))
  | .vshr f => some (f, 4, fun w a b => a / 2 ^ (b % w))
  | .vsra f => some (f, 4, fun w a b => wrap w (signedOf w a / 2 ^ (b % w)))
  | .vsadd f => some (f, 4, fun w a b => clamp w (signedOf w a + signedOf w b))
  | .vssub f => some (f, 4, fun w a b => clamp w (signedOf w a - signedOf w b))
  | .vabs f => some (f, 4, fun w a _ => wrap w (if signedOf w a < 0 then -signedOf w a else signedOf w a))
  | .vneg f => some (f, 4, fun w a _ => wrap w (-a))
  | .vadd16 h d a => some (shortForm d a (if h then 1 else 2), 2, fun w a b => wrap w (a + b))
  | .vsub16 h d a => some (shortForm d a (if h then 1 else 2), 2, fun w a b => wrap w (a - b))
  | .vmul16 h d a => some (shortForm d a (if h then 1 else 2), 2, fun w a b => wrap w (a * b))
  | .vmin16 h d a => some (shortForm d a (if h then 1 else 2), 2, fun w a b => wrap w (min (signedOf w a) (signedOf w b)))
  | .vmax16 h d a => some (shortForm d a (if h then 1 else 2), 2, fun w a b => wrap w (max (signedOf w a) (signedOf w b)))
  | .vsadd16 h d a => some (shortForm d a (if h then 1 else 2), 2, fun w a b => clamp w (signedOf w a + signedOf w b))
  | .vand16 d a => some (shortForm d a 0, 2, fun _ a b => a &&& b)
  | .vor16 d a => some (shortForm d a 0, 2, fun _ a b => a ||| b)
  | .vxor16 d a => some (shortForm d a 0, 2, fun _ a b => a ^^^ b)
  | _ => none

/-- The float type of a code (Table 8.1). -/
def floatType : Nat → Fmt
  | 0 => fp32
  | 1 => bf16
  | 2 => fp16
  | 3 => fp64
  | 4 => fmtE4M3
  | 5 => fmtE5M2
  | _ => fmtE2M1

/-- The value of a lane with the hart's FLUSH, or without for the operations on the sign bit. -/
abbrev FloatOp := Fmt → Bool → Nat → Nat → Nat → Nat × FpFlags

/-- An operation on two values. -/
def onTwo (op : Fmt → Bool → FVal → FVal → Nat × FpFlags) : FloatOp := fun t fl _ a b => op t fl (unpack t fl a) (unpack t fl b)

def onOne (op : Fmt → Bool → FVal → Nat × FpFlags) : FloatOp := fun t fl _ a _ => op t fl (unpack t fl a)

/-- The smaller or larger of two values, no flag raised (R429). -/
def pick (op : FVal → FVal → FVal) : FloatOp := onTwo fun t _ a b => (repack t (op a b), 0)

def signOff : FloatOp := fun t _ _ a _ => (a % 2 ^ (t.width - 1), 0)

/-- The float instructions on lanes (R151, R424 to R429, R432): fields, length, and the value and flags of a lane from the old lane of vd and
the lanes of va and vb. -/
def floatForm : Instr → Option (VFmt × Nat × FloatOp)
  | .vfadd f => some (f, 4, onTwo addVal)
  | .vfsub f => some (f, 4, onTwo fun t fl a b => addVal t fl a b.negate)
  | .vfmul f => some (f, 4, onTwo mulVal)
  | .vfdiv f => some (f, 4, onTwo fun t fl a b => divVal t t.prec fl a b)
  | .vfma f => some (f, 4, fun t fl o a b => fmaVal t fl (unpack t fl a) (unpack t fl b) (unpack t fl o))
  | .vfnma f => some (f, 4, fun t fl o a b => fmaVal t fl (unpack t fl a).negate (unpack t fl b) (unpack t fl o))
  | .vfmin f => some (f, 4, pick minVal)
  | .vfmax f => some (f, 4, pick maxVal)
  | .vfabs f => some (f, 4, signOff)
  | .vfneg f => some (f, 4, fun t _ _ a _ => (a ^^^ 2 ^ (t.width - 1), 0))
  | .vfsqrt f => some (f, 4, onOne sqrtVal)
  | .vrcp f => some (f, 4, onOne rcpVal)
  | .vrsq f => some (f, 4, onOne rsqVal)
  | .vexp2 f => some (f, 4, onOne exp2Val)
  | .vlog2 f => some (f, 4, onOne log2Val)
  | .vsin f => some (f, 4, onOne (trigVal false))
  | .vcos f => some (f, 4, onOne (trigVal true))
  | .vfadd16 h d a => some (shortForm d a (if h then 1 else 0), 2, onTwo addVal)
  | .vfsub16 h d a => some (shortForm d a (if h then 1 else 0), 2, onTwo fun t fl a b => addVal t fl a b.negate)
  | .vfmul16 h d a => some (shortForm d a (if h then 1 else 0), 2, onTwo mulVal)
  | .vfmin16 h d a => some (shortForm d a (if h then 1 else 0), 2, pick minVal)
  | .vfmax16 h d a => some (shortForm d a (if h then 1 else 0), 2, pick maxVal)
  | .vfabs16 h d a => some (⟨false, false, false, 0, 0, a, d, if h then 1 else 0⟩, 2, signOff)
  | _ => none

/-- A NaN among two values. -/
def someNan (a b : FVal) : Bool := isNan a || isNan b

/-- The compares (R414, R427): fields, width, and the result and flags of a lane. -/
def compareForm (fl : Bool) : Instr → Option (VFmt × Nat × (Nat → Nat → Bool × FpFlags))
  | .vcmpeq f => some (f, 8 * 2 ^ f.et.toNat, fun a b => (decide (a = b), 0))
  | .vcmplt f =>
    some (f, 8 * 2 ^ f.et.toNat, fun a b => (decide (signedOf (8 * 2 ^ f.et.toNat) a < signedOf (8 * 2 ^ f.et.toNat) b), 0))
  | .vcmpltu f => some (f, 8 * 2 ^ f.et.toNat, fun a b => (decide (a < b), 0))
  | .vfcmpeq f =>
    let t := floatType f.et.toNat
    some (f, t.width, fun a b => (fEqual (unpack t fl a) (unpack t fl b), 0))
  | .vfcmplt f =>
    let t := floatType f.et.toNat
    some (f, t.width, fun a b =>
      let x := unpack t fl a
      let y := unpack t fl b
      (!someNan x y && fLess x y, if someNan x y then flagNV else 0))
  | .vfcmple f =>
    let t := floatType f.et.toNat
    some (f, t.width, fun a b =>
      let x := unpack t fl a
      let y := unpack t fl b
      (!someNan x y && (fLess x y || fEqual x y), if someNan x y then flagNV else 0))
  | .vfcmpun f =>
    let t := floatType f.et.toNat
    some (f, t.width, fun a b => (someNan (unpack t fl a) (unpack t fl b), 0))
  | _ => none

/-- The moves on lanes (R413, R437, R448, R459): fields, and for lane i of n the registers it reads and its value from the operands. -/
def moveForm (s : State) : Instr → Option (VFmt × (Nat → Nat → Nat → List VReg × Nat))
  | .vperm f => some (f, fun w n i =>
    if lane (readV s (me s) f.vb) w i < n then
      ([f.vb, f.va], lane (readV s (me s) f.va) w (lane (readV s (me s) f.vb) w i))
    else ([f.vb], 0))
  | .vbcast f => some (f, fun w _ _ => ([], (readX (me s) f.va).toNat % 2 ^ w))
  | .vins f => some (f, fun w _ i =>
    if i = (readX (me s) f.vb).toNat then ([], (readX (me s) f.va).toNat % 2 ^ w)
    else ([f.vd], lane (readV s (me s) f.vd) w i))
  | .vslup f => some (f, fun w _ i =>
    if (readX (me s) f.vb).toNat ≤ i then ([f.va], lane (readV s (me s) f.va) w (i - (readX (me s) f.vb).toNat)) else ([], 0))
  | .vsldn f => some (f, fun w n i =>
    if i + (readX (me s) f.vb).toNat < n then ([f.va], lane (readV s (me s) f.va) w (i + (readX (me s) f.vb).toNat)) else ([], 0))
  | _ => none

/-- The mask operations (R359). -/
def maskForm : Instr → Option (VFmt × (Bool → Bool → Bool))
  | .kand f => some (f, fun d a => d && a)
  | .kor f => some (f, fun d a => d || a)
  | .kxor f => some (f, fun d a => d != a)
  | .kandn f => some (f, fun d a => d && !a)
  | .knot f => some (f, fun _ a => !a)
  | _ => none

/-- The conversions and expansions (R147, R148, R155, R157, R162, R418 to R420, R436, R447, R464): fields, width of a result lane, lane count, and
the registers that lane i reads, and its value and flags. -/
def convertForm (s : State) : Instr → Option (VFmt × Nat × Nat × (Nat → List VReg) × (Nat → Nat × FpFlags))
  | .vcvt f =>
    let src := floatType f.et.toNat
    let dst := floatType (f.vb.toNat % 8)
    let rm := match f.vb.toNat / 8 with | 0 => Rm.rne | 1 => .rtz | 2 => .rdn | _ => .rup
    some (f, dst.width, 512 / max src.width dst.width, fun _ => [f.va], fun k =>
      pack dst rm (flushOn (me s)) (unpack src (flushOn (me s)) (lane (readV s (me s) f.va) src.width k)))
  | .vcvti f =>
    let t := floatType (f.vb.toNat % 8)
    let w := 8 * 2 ^ f.et.toNat
    if f.vb.toNat / 8 % 2 = 1 then
      some (f, w, 512 / max t.width w, fun _ => [f.va], fun k =>
        floatToInt w false (unpack t (flushOn (me s)) (lane (readV s (me s) f.va) t.width k)))
    else
      some (f, t.width, 512 / max t.width w, fun _ => [f.va], fun k => intToFloat t (flushOn (me s)) w false (lane (readV s (me s) f.va) w k))
  | .vcvtiu f =>
    let t := floatType (f.vb.toNat % 8)
    let w := 8 * 2 ^ f.et.toNat
    if f.vb.toNat / 8 % 2 = 1 then
      some (f, w, 512 / max t.width w, fun _ => [f.va], fun k =>
        floatToInt w true (unpack t (flushOn (me s)) (lane (readV s (me s) f.va) t.width k)))
    else
      some (f, t.width, 512 / max t.width w, fun _ => [f.va], fun k => intToFloat t (flushOn (me s)) w true (lane (readV s (me s) f.va) w k))
  | .vunpk3 f => some (f, 8, 64, fun i => if 60 ≤ i then [] else [f.va], fun i =>
    let b := lane (readV s (me s) f.va) 8 (12 * f.et.toNat + i / 5)
    if 60 ≤ i then (0, 0) else (wrap 8 (t3Weight b (i % 5)), if 243 ≤ b then flagIV else 0))
  | .vpack3 f => some (f, 8, 64, fun i => if 12 * f.et.toNat ≤ i ∧ i < 12 * f.et.toNat + 12 then [f.va] else [f.vd], fun i =>
    if 12 * f.et.toNat ≤ i ∧ i < 12 * f.et.toNat + 12 then packByte (readV s (me s) f.va) (i - 12 * f.et.toNat)
    else (lane (readV s (me s) f.vd) 8 i, 0))
  | .vhad f => some (f, 16, 32, fun _ => [f.va], fun k =>
    (hadamard (flushOn (me s)) (readX (me s) f.vb).toNat ((List.range 32).map (lane (readV s (me s) f.va) 16))).getD k (0, 0))
  | .vdeq f => some (f, 16, 32, fun _ => [f.va], fun k => dequant f.et.toNat (flushOn (me s)) (leBytes 64 (readV s (me s) f.va).toNat) k)
  | .vdot f => some (f, 32, 16, fun _ => [f.va, f.vb, f.vd], fun j =>
    (wrap 32 (lane (readV s (me s) f.vd) 32 j + ((List.range 4).map fun k =>
      signedOf 8 (lane (readV s (me s) f.va) 8 (4 * j + k)) * signedOf 8 (lane (readV s (me s) f.vb) 8 (4 * j + k))).sum), 0))
  | .vtdot f => some (f, 32, 16, fun _ => [f.va, f.vb, f.vd], fun j =>
    let ws := (List.range 4).map fun k => signedOf 8 (lane (readV s (me s) f.vb) 8 (4 * j + k))
    (wrap 32 (lane (readV s (me s) f.vd) 32 j + ((List.range 4).map fun k =>
      let wt := signedOf 8 (lane (readV s (me s) f.vb) 8 (4 * j + k))
      let act := signedOf 8 (lane (readV s (me s) f.va) 8 (4 * j + k))
      if wt = 1 then act else if wt = -1 then -act else 0).sum),
     if ws.any (fun v => decide (v ≠ 0 ∧ v ≠ 1 ∧ v ≠ -1)) then flagIV else 0))
  | _ => none

/-- The lanes of va that the mask selects, in ascending order. -/
def inputs (s : State) (f : VFmt) (w : Nat) : List Nat :=
  ((List.range (512 / w)).filter (selects s (me s) f.mask)).map (lane (readV s (me s) f.va) w)

/-- The reductions (R160, R161, R430, R431, R451): fields, width, and what lane 0 takes with its flags. -/
def reduceForm (s : State) : Instr → Option (VFmt × Nat × (Nat × FpFlags))
  | .vredsum f => some (f, 8 * 2 ^ f.et.toNat, (wrap (8 * 2 ^ f.et.toNat) ((inputs s f (8 * 2 ^ f.et.toNat)).sum : Nat), 0))
  | .vredmax f =>
    let w := 8 * 2 ^ f.et.toNat
    some (f, w, (wrap w (((inputs s f w).map (signedOf w)).foldl max (-(2 : Int) ^ (w - 1))), 0))
  | .vredmin f =>
    let w := 8 * 2 ^ f.et.toNat
    some (f, w, (wrap w (((inputs s f w).map (signedOf w)).foldl min ((2 : Int) ^ (w - 1) - 1)), 0))
  | .vfredsum f =>
    let t := floatType f.et.toNat
    some (f, t.width, treeSum t (flushOn (me s)) (Nat.log2 (512 / t.width))
      ((List.range (512 / t.width)).map fun k =>
        if selects s (me s) f.mask k then lane (readV s (me s) f.va) t.width k else 0))
  | .vfredmax f =>
    let t := floatType f.et.toNat
    some (f, t.width, match (inputs s f t.width).map (unpack t (flushOn (me s))) with
      | [] => (t.infinity true, 0)
      | v :: l => (repack t (l.foldl maxVal v), 0))
  | _ => none

/-- The instructions of this part. -/
def vectorForm (s : State) (i : Instr) : Prop :=
  (intForm i).isSome ∨ (floatForm i).isSome ∨ (compareForm false i).isSome ∨ (moveForm s i).isSome ∨ (maskForm i).isSome ∨
    (convertForm s i).isSome ∨ (reduceForm s i).isSome ∨
    ∃ f d a, i = .vsel f ∨ i = .vcprs f ∨ i = .vmv d a ∨ i = .vext f ∨ i = .kcnt f ∨ i = .kfst f ∨ i = .vscan f ∨ i = .vqnt f

end Sys2Proof.Claims

/-- The integer vector instructions (R407, R408, R410 to R412, R441 to R446, R453, R457, R462, R465) and their 16-bit forms (R313): each selected lane
of vd takes its result, each other lane 0 or its old value; a marked source is dead, no flag is raised and nothing else changes. -/
def Sys2Proof.Claims.IntegerVectors : Prop :=
  ∀ i f len op s, intForm i = some (f, len, op) → wellFormed i = true → VectorReady s i →
    let w := 8 * 2 ^ f.et.toNat
    ∃ t v, exec i s = .next t ∧ VectorDone s t f len v 0 ∧
      LanesDone s i f w (512 / w) (fun _ => laneSources i f)
        (fun k => (op w (lane (readV s (me s) f.va) w k) (lane (readV s (me s) f.vb) w k), 0)) v 0

/-- The float vector instructions (R145, R151, R407, R408, R424 to R429, R432) and their 16-bit forms: as the integer ones, each lane with the
operation's rounding, and the flags of the selected lanes added to VSTAT. -/
def Sys2Proof.Claims.FloatVectors : Prop :=
  ∀ i f len op s, floatForm i = some (f, len, op) → wellFormed i = true → VectorReady s i →
    let t := floatType f.et.toNat
    ∃ u v fl, exec i s = .next u ∧ VectorDone s u f len v fl ∧
      LanesDone s i f t.width (512 / t.width) (fun _ => laneSources i f)
        (fun k => op t (flushOn (me s)) (lane (readV s (me s) f.vd) t.width k) (lane (readV s (me s) f.va) t.width k)
          (lane (readV s (me s) f.vb) t.width k)) v fl

/-- The vector compares (R408, R414, R427): bit k of vd is the result of lane k where the mask selects it, otherwise 0 or its old value; the bits
above the lane count are 0; a NaN raises NV in VFCMPLT and VFCMPLE alone. -/
def Sys2Proof.Claims.VectorCompares : Prop :=
  ∀ i f w test s, compareForm (flushOn (me s)) i = some (f, w, test) → wellFormed i = true → VectorReady s i →
    ∃ t v fl, exec i s = .next t ∧ VectorDone s t f 4 v fl ∧
      LanesDone s i f 1 (512 / w) (fun _ => laneSources i f)
        (fun k =>
          let r := test (lane (readV s (me s) f.va) w k) (lane (readV s (me s) f.vb) w k)
          (if r.1 then 1 else 0, r.2)) v fl

/-- The vector moves and the mask operations (R359 to R361, R408, R413, R416, R423, R437, R444, R448, R456, R459). What is computed from a dead register
is undefined: a lane that reads one, and with a dead mask every lane (log entry 88). -/
def Sys2Proof.Claims.VectorMoves : Prop :=
  (∀ i f val s, moveForm s i = some (f, val) → wellFormed i = true → VectorReady s i →
    let w := 8 * 2 ^ f.et.toNat
    ∃ t v, exec i s = .next t ∧ VectorDone s t f 4 v 0 ∧
      LanesDone s i f w (512 / w) (fun k => (val w (512 / w) k).1) (fun k => ((val w (512 / w) k).2, 0)) v 0) ∧
  (∀ f s, wellFormed (.vsel f) = true → VectorReady s (.vsel f) →
    let w := 8 * 2 ^ f.et.toNat
    ∃ t v, exec (.vsel f) s = .next t ∧ VectorDone s t f 4 v 0 ∧ (deadMask (me s) f = false → ∀ k < 512 / w, lane v w k =
      lane (readV s (me s) (if selects s (me s) f.mask k then f.va else f.vb)) w k)) ∧
  (∀ f s, wellFormed (.vcprs f) = true → VectorReady s (.vcprs f) →
    let w := 8 * 2 ^ f.et.toNat
    ∃ t v, exec (.vcprs f) s = .next t ∧ VectorDone s t f 4 v 0 ∧ (deadMask (me s) f = false → ∀ k < 512 / w, lane v w k =
      match (inputs s f w)[k]? with
      | some x => x
      | none => if f.z then 0 else lane (readV s (me s) f.vd) w k)) ∧
  (∀ d a s, VectorReady s (.vmv d a) →
    ∃ t, exec (.vmv d a) s = .next t ∧ VectorDone s t (shortForm d 0 0) 2 (readV s (me s) a) 0) ∧
  (∀ i f op s, maskForm i = some (f, op) → wellFormed i = true → VectorReady s i →
    ∃ t v, exec i s = .next t ∧ VectorDone s t f 4 v 0 ∧
      ((∀ r ∈ vectorSources i, (me s).live.getLsbD r.toNat = true) →
        ∀ k < 512, v.getLsbD k = op ((readV s (me s) f.vd).getLsbD k) ((readV s (me s) f.va).getLsbD k))) ∧
  (∀ f s, wellFormed (.vext f) = true → VectorReady s (.vext f) →
    let w := 8 * 2 ^ f.et.toNat
    let k := (readX (me s) f.vb).toNat
    ∃ t, exec (.vext f) s = .next t ∧
      ScalarDone s t f (if k < 512 / w then BitVec.ofInt 64 (signedOf w (lane (readV s (me s) f.va) w k)) else 0)) ∧
  (∀ f s, wellFormed (.kcnt f) = true → VectorReady s (.kcnt f) →
    let n := 512 / (8 * 2 ^ f.et.toNat)
    ∃ t, exec (.kcnt f) s = .next t ∧
      ScalarDone s t f (BitVec.ofNat 64 ((List.range n).filter fun k => (readV s (me s) f.va).getLsbD k).length)) ∧
  (∀ f s, wellFormed (.kfst f) = true → VectorReady s (.kfst f) →
    let n := 512 / (8 * 2 ^ f.et.toNat)
    ∃ t v, exec (.kfst f) s = .next t ∧ ScalarDone s t f v ∧
      ((∀ k < n, (readV s (me s) f.va).getLsbD k = false) → v = BitVec.allOnes 64) ∧
      ∀ k < n, (readV s (me s) f.va).getLsbD k = true → (∀ j < k, (readV s (me s) f.va).getLsbD j = false) → v = BitVec.ofNat 64 k)

/-- The conversions and dot products (R147, R148, R155, R157, R158, R162, R418 to R421, R436, R447, R463, R464), with the bits above their lanes 0; the
reductions, with every lane but the lowest 0 (R160, R161, R430, R431, R451); VSCAN of integers (R454) and VQNT (R154, R449). What is computed
from a dead register is undefined (R408, log entry 88); a reduction or a lane of a scan that no selected lane enters reads none. -/
def Sys2Proof.Claims.VectorConversions : Prop :=
  (∀ i f w n regs res s, convertForm s i = some (f, w, n, regs, res) → wellFormed i = true → VectorReady s i →
    ∃ t v fl, exec i s = .next t ∧ VectorDone s t f 4 v fl ∧ LanesDone s i f w n regs res v fl) ∧
  (∀ i f w res s, reduceForm s i = some (f, w, res) → wellFormed i = true → VectorReady s i →
    ∃ t x fl, exec i s = .next t ∧ VectorDone s t f 4 (BitVec.ofNat 512 (x % 2 ^ w)) fl ∧
      (deadMask (me s) f = false → (me s).live.getLsbD f.va.toNat = true ∨ inputs s f w = [] →
        x % 2 ^ w = res.1 % 2 ^ w ∧ fl = res.2)) ∧
  (∀ f s, f.vb = 0 → wellFormed (.vscan f) = true → VectorReady s (.vscan f) →
    let w := 8 * 2 ^ f.et.toNat
    ∃ t v, exec (.vscan f) s = .next t ∧ VectorDone s t f 4 v 0 ∧ ∀ k < 512 / w,
      let before := (List.range (k + 1)).filter (selects s (me s) f.mask)
      deadMask (me s) f = false → (me s).live.getLsbD f.va.toNat = true ∨ before = [] →
        lane v w k = wrap w ((before.map (lane (readV s (me s) f.va) w)).sum : Nat)) ∧
  (∀ f s, wellFormed (.vqnt f) = true → VectorReady s (.vqnt f) →
    let q := quantBlock f.et.toNat (flushOn (me s))
      ((List.range 32).map fun k => unpack bf16 (flushOn (me s)) (lane (readV s (me s) f.va) 16 k))
    ∃ t v fl, exec (.vqnt f) s = .next t ∧ VectorDone s t f 4 v fl ∧
      (openLane (me s) f [f.va] = false →
        v = BitVec.ofNat 512 (leNat (blockImage f.et.toNat q.1 q.2.1)) ∧ fl = q.2.2))

/-- A vector instruction that reads a dead register under DEADCHK (R33) traps DEAD_REGISTER with the number of a dead source, before anything else; in
the handler context it is ILLEGAL_INSTRUCTION (R31, R408). -/
def Sys2Proof.Claims.DeadSources : Prop :=
  ∀ i s, vectorForm s i →
    (isHandler s.cur = true → ∃ t, exec i s = .next t ∧ EndsHandler s t) ∧
    (isHandler s.cur = false → deadChk (me s) = true →
      (∃ r ∈ vectorSources i, (me s).live.getLsbD r.toNat = false) →
      ∃ t, ∃ r ∈ vectorSources i, (me s).live.getLsbD r.toNat = false ∧ exec i s = .next t ∧
        TakesTrap s t 0x03 (r.setWidth 64) 0)

/-! ### What the device does between instructions: propagation, slices, starts, the end of a launch -/

namespace Sys2Proof.Claims

/-- An argument block in a vault, which the launch's owner may read and no line of which is bad (R41, Table 3.5). -/
def ArgsReadable (s : State) (l : Launch) (n : Node) (die : Nat) : Prop :=
  let va := n.args.toNat % 2 ^ 56
  n.args.toNat % 64 = 0 ∧ 0x200000000 ≤ va ∧ va < 0x600000000 ∧ (getCore s (die * 4096)).plb = [] ∧ va / 64 ∉ s.badLines ∧
    s.mca = [] ∧ ∃ g, InRange s va g ∧ n.args.toNat / 2 ^ 56 = g.tag.toNat ∧
      ∃ e ∈ mapGet [] s.rights l.owner.toNat,
        e.tag = g.tag ∧ e.base ≤ va ∧ va + 64 ≤ e.base + 64 * e.len ∧ e.rights.getLsbD 0 = true

/-- No request for DRAM waits to be issued, so that no budget puts any other off (R279). -/
def NoDramWaits (s : State) : Prop := ∀ r, .dramRequestIssue r ∉ s.agenda

/-- Nothing that a stopped hart began is under way, and its core's matrix queue is empty (R13, R82). -/
def SaveMayRun (s : State) (h : Nat) : Prop :=
  (∀ o ∈ s.ops, o.hart ≠ h) ∧ bankBusy s (h / 16) (h % 16) = false ∧ (getCore s (h / 16)).matrixQ = [] ∧ NoDramWaits s

/-- Every byte of a bank reads 0 on every die. -/
def BankZero (s : State) (core ctx : Nat) : Prop :=
  ∀ d, ∀ k < 0x4000, viewByte s d (0x100000000 + core * 0x20000 + ctx * 0x4000 + k) = 0

/-- A free context of a core that may run kernels. -/
def FreeContext (s : State) (core ctx : Nat) : Prop :=
  ctx < 8 ∧ (getHart s (core * 16 + ctx)).tenure = .free ∧ s.firmware.bootState ≠ 3

end Sys2Proof.Claims

/-- Propagation (R121 to R125): a write that has travelled to a page that is not REPL is applied in the view of its die once every write its
sender's view held has been applied there, and counted, and otherwise waits; so is a write of PTROOT (R212), which each die has a view of. A
write to a REPL page stands in the view of its own die and reaches each other replica uncounted, after the earlier writes of its sender to the
same bytes. An MCA write becomes visible in all four views at once when every write that its die's view held at its issue, or holds now, is
applied everywhere, and otherwise waits; a die whose view of a unit differs from the home's at the end takes the home's value, which
travels in an aligned 8-byte unit (the model's choice, log entry 44). The bytes are those of a line that the die has under the key of the
write; DRAM lines of another key are the business of R250. -/
def Obligations.Propagation : Prop :=
  (∀ n s f, s.flights.find? (fun x => x.id = n) = some f → f.prop ≠ .repl →
    (f.stamp.le (stampOf s f.dst) = true → f.key ≠ ptrootKey → isDram f.key = false ∨ lineKeyOf s f.dst f.key = f.under →
      ∃ t, exec (.remoteWriteApply n) s = .next t ∧ StoredIn s t f.dst f.key f.bytes ∧ t.ptroot = s.ptroot ∧
      t.flights = s.flights.filter (fun x => x.id ≠ n) ∧ stampOf t f.dst = (stampOf s f.dst).set f.src f.seq ∧
      ∀ d, d ≠ f.dst → stampOf t d = stampOf s d) ∧
    (f.stamp.le (stampOf s f.dst) = true → f.key = ptrootKey → mapWf 0 s.ptroot = true →
      ∃ t, exec (.remoteWriteApply n) s = .next t ∧ t.views = s.views ∧
      (∀ d, ptrootOf t d = if d = f.dst then BitVec.ofNat 64 (leNat f.bytes) else ptrootOf s d) ∧
      t.flights = s.flights.filter (fun x => x.id ≠ n) ∧ stampOf t f.dst = (stampOf s f.dst).set f.src f.seq) ∧
    (f.stamp.le (stampOf s f.dst) = false → ∃ t, exec (.remoteWriteApply n) s = .next t ∧
      t = { s with agenda := s.agenda ++ [.remoteWriteApply n] })) ∧
  (∀ n s f, s.flights.find? (fun x => x.id = n) = some f → f.prop = .repl → f.key ≠ ptrootKey →
    isDram f.key = false ∨ lineKeyOf s f.dst f.key = f.under →
    let earlier := ∃ g ∈ s.flights, g.src = f.src ∧ g.dst = f.dst ∧ g.prop = .repl ∧ g.id < f.id ∧
      g.key < f.key + f.bytes.length ∧ f.key < g.key + g.bytes.length
    (earlier → ∃ t, exec (.remoteWriteApply n) s = .next t ∧ t = { s with agenda := s.agenda ++ [.remoteWriteApply n] }) ∧
    (¬earlier → ∃ t, exec (.remoteWriteApply n) s = .next t ∧ StoredIn s t f.dst f.key f.bytes ∧
      t.flights = s.flights.filter (fun x => x.id ≠ n) ∧ ∀ d, stampOf t d = stampOf s d)) ∧
  (∀ s die h key bs, die < 4 → key < 0x100000000000000 ∨ (key < 0x10000000000000000 ∧ lineKeyOf s die key = .plain) →
    let t := performWrite s die h key bs .repl false
    StoredIn s t die key bs ∧ t.stamps = s.stamps ∧ t.mca = s.mca ∧ ∃ sent, t.flights = s.flights ++ sent ∧
      ∀ d < 4, d ≠ die → ∃ f ∈ sent, f.src = die ∧ f.dst = d ∧ f.key = key ∧ f.bytes = bs ∧ f.prop = .repl ∧
        .remoteWriteApply f.id ∈ t.agenda) ∧
  (∀ n s w, (∀ f ∈ s.flights, f.id ≠ n) → s.mca = [w] → w.id = n →
    let settled := viewSettled s (w.stamp.join (stampOf s w.die))
    (settled = true → isDram w.key = false ∨ (∀ d < 4, lineKeyOf s d w.key = w.under) →
      ∃ t, exec (.remoteWriteApply n) s = .next t ∧ t.mca = [] ∧ t.outer = s.outer ∧ ∀ d < 4, ∀ k, viewByte t d k =
        if w.key ≤ k ∧ k < w.key + w.bytes.length then w.bytes.getD (k - w.key) 0 else viewByte s d k) ∧
    (settled = false → ∃ t, exec (.remoteWriteApply n) s = .next t ∧
      t = { s with agenda := s.agenda ++ [.remoteWriteApply n] })) ∧
  (∀ die key s, isOuter key = false → key ≠ ptrootKey → s.flights = [] →
    (∃ i < 8, viewByte s die (key + i) ≠ viewByte s (homeDie key) (key + i)) →
    ((stampOf s (homeDie key)).le (stampOf s die) = true → isDram key = false ∨ lineKeyOf s die key = lineKeyOf s (homeDie key) key →
      ∃ t, exec (.settleWrite die key) s = .next t ∧
        StoredIn s t die key ((List.range 8).map fun i => viewByte s (homeDie key) (key + i)) ∧ t = { s with views := t.views }) ∧
    ((stampOf s (homeDie key)).le (stampOf s die) = false → ∃ t, exec (.settleWrite die key) s = .next t ∧
      t = { s with agenda := s.agenda ++ [.settleWrite die key] }))

/-- Slices and stops (R75 to R78, R81, R83): a slice whose time has passed ends when other work waits, and asks its harts to drain; at its
deadline they are overdue; a hart overdue for 65,536 instructions is stopped where it stands; the supervisor saves a stopped hart and frees its
context, or, where it meets a trap in that, ends the launch with reason 0x08. The save of a SAFEPT has the registers of the map that its kernel
gives it, of the vector registers those that are live (R79), and is of kind 2 with every register where the image has no such map. That a
hart between the end of its slice and the deadline is stopped at TFETCH alone is the model's reading (log entry 8). -/
def Sys2Proof.Claims.Slices : Prop :=
  (∀ clus tenant row s c, row < 2 →
    let key := 2 * tenant + row
    let v := sliceAt s clus key
    let hs := sliceHarts s clus key
    v.held = true → v.ended = none → hs ≠ [] → (getTenant s tenant).slice ≠ 0 →
    (getTenant s tenant).slice.toNat * 1000 ≤ v.used + (match v.since with | some b => s.time - b | none => 0) →
    s.firmware.quiesced = false →
    waitingCause s clus key (topPrio s hs) = some c →
    ∃ t, exec (.sliceEnd clus tenant row) s = .next t ∧
      sliceAt t clus key = { v with ended := some s.time, overdue := false, cause := some c } ∧
      (∀ h ∈ hs, getHart t h = { getHart s h with preempt := .ended }) ∧ ∀ h, h ∉ hs → getHart t h = getHart s h) ∧
  (∀ clus tenant row s e, row < 2 →
    let key := 2 * tenant + row
    let v := sliceAt s clus key
    let hs := sliceHarts s clus key
    v.ended = some e → v.overdue = false → hs ≠ [] → e + (getTenant s tenant).deadline.toNat * 1000 ≤ s.time →
    ∃ t, exec (.deadlineExpiry clus tenant row) s = .next t ∧ sliceAt t clus key = { v with overdue := true } ∧
      (∀ h ∈ hs, getHart t h = { getHart s h with preempt := .overdue 0 }) ∧ ∀ h, h ∉ hs → getHart t h = getHart s h) ∧
  (∀ h s n, NobodyGathers s (h / 16 / 16) → (getHart s h).preempt = .overdue n → 65536 ≤ n → (getHart s h).mode = .U →
    (getHart s h).unit = none → (getHart s h).wait = none → (∀ o ∈ s.ops, o.hart ≠ h) → (getHart s h).launch ≠ 0 →
    ∃ t, exec (.forcedStop h) s = .next t ∧ (getHart t h).mode = .S ∧ (getHart t h).sr.ecause = 0x84 ∧
      (getHart t h).sr.eval = 0x8000000000000000 ∧ (getHart t h).sr.epc = (getHart s h).pc ∧
      (getHart t h).pc = (getHart s h).sr.evec &&& ~~~1 ∧ (getHart t h).sup = some (.stop 2) ∧ (getHart t h).x = (getHart s h).x) ∧
  (∀ h kind s, NobodyGathers s (h / 16 / 16) → (getHart s h).sup = some (.stop kind) → SaveMayRun s h →
    let v := getHart s h
    let all : BitVec 64 := v.live ++ 0xFFFFFFFE#32
    let map := liveMap s v.launch (v.sr.epc - 4) (v.sr.eval.toNat % 2 ^ 12)
    (saveTraps s h kind = true → ∀ l, getLaunch s v.launch = some l → l.id = v.launch → l.phase = .running →
      ∃ t u, exec (.contextRelease h) s = .next t ∧ getLaunch t v.launch = some u ∧ u.phase = .ending ∧ u.final = 4 ∧ u.reason = 8 ∧
        .worldRetire v.launch ∈ t.agenda ∧ (∀ r ∈ t.saves, r.launch ≠ v.launch)) ∧
    (saveTraps s h kind = false →
    ∃ t r, exec (.contextRelease h) s = .next t ∧ getHart t h = { Hart.reset with gen := v.gen + 1 } ∧ t.saves = s.saves ++ [r] ∧
      r.core = h / 16 ∧ r.ctx = h % 16 ∧ r.launch = v.launch ∧ r.pc = v.sr.epc ∧ r.sr = v.sr ∧ r.tile = v.tile ∧
      r.mpend = v.mpend ∧ r.faults = v.faults ∧ (∀ i : Fin 32, r.mask.getLsbD i = true → r.x[i] = v.x[i]) ∧
      (∀ i : Fin 32, r.mask.getLsbD (32 + i) = true → r.v[i] = v.v[i]) ∧ (kind ≠ 0 → r.kind = kind ∧ r.mask = all) ∧
      (kind = 0 → match map with
        | none => r.kind = 2 ∧ r.mask = all
        | some m => r.kind = 0 ∧ r.map = v.sr.eval.toNat % 2 ^ 12 ∧ r.mask = m &&& all) ∧
      ∀ k < 0x4000, mapGet 0 r.bank k = viewByte s (h / 16 / 4096) (0x100000000 + h / 16 * 0x20000 + h % 16 * 0x4000 + k)))

/-- An interrupt (R231, Table 20.10) is taken in U mode between units: the pending one of the lowest code is ECAUSE, its bit is cleared, EPC
is the next instruction and the hart enters S mode at EVEC. -/
def Sys2Proof.Claims.Interrupts : Prop :=
  ∀ h s c, (getHart s h).mode = .U → (getHart s h).unit = none → (getHart s h).sup = none → c < 8 →
    (getHart s h).ipend.getLsbD c = true → (∀ j < c, (getHart s h).ipend.getLsbD j = false) →
    let v := getHart s h
    ∃ t, exec (.interruptTake h) s = .next t ∧ t = { s with harts := t.harts } ∧ (∀ k, k ≠ h → getHart t k = getHart s k) ∧
      (getHart t h).mode = .S ∧ (getHart t h).sr.ecause.toNat = 0x80 + c ∧ (getHart t h).pc = v.sr.evec &&& ~~~1 ∧
      (getHart t h).sr.epc = (if v.wait = some .interrupt then v.pc + 4 else v.pc) ∧
      (∀ j, (getHart t h).ipend.getLsbD j = (v.ipend.getLsbD j && decide (j ≠ c))) ∧ (getHart t h).x = v.x ∧ (getHart t h).v = v.v ∧
      (getHart t h).sr = { v.sr with
        epc := (getHart t h).sr.epc, ecause := (getHart t h).sr.ecause, eval := (getHart t h).sr.eval, estat := (getHart t h).sr.estat }

/-- A hart takes a free context (R42, R44, R79, R84 to R86, R298): the node that claims it starts a hart in the state of Table 3.6, which acquires
at the scope of its level and of its predecessors' levels, the local sections of the image being written once to every core that the launch binds,
before its first hart; or the saved hart that claims it goes on in its own context with the registers of its mask. That a start has EVEC from
its launch is log entry 9. -/
def Sys2Proof.Claims.HartsStart : Prop :=
  (∀ core ctx s w l n, FreeContext s core ctx → claimant s core ctx = some (.start w) → getLaunch s w.launch = some l →
    l.id = w.launch → getNode l w.node = some n → n.stamp.le (stampOf s (core / 4096)) = true →
    ArgsReadable s l n (core / 4096) → core < 0x4000 →
    let h := core * 16 + ctx
    let sections := (Config.imageLocal l.measure).take 0x2000
    ∃ t, exec (.hartStart core ctx) s = .next t ∧
      (getHart t h).tenure = .running ∧ (getHart t h).mode = .U ∧ (getHart t h).pc = n.entry &&& ~~~1 ∧
      (getHart t h).gen = (getHart s h).gen ∧ (getHart t h).launch = l.id ∧ (getHart t h).tile = none ∧
      (getHart t h).live = 0 ∧ (getHart t h).mpend = 0 ∧ (getHart t h).sr.own = l.owner ∧ (getHart t h).sr.tenant = l.tenant ∧
      (getHart t h).sr.launch = l.seq ∧ (getHart t h).sr.hctl = l.hctl ∧ (getHart t h).sr.vstat = 0 ∧
      (getHart t h).sr.efr = BitVec.ofNat 64 (ctx * 0x4000) ∧ (getHart t h).sr.node = BitVec.ofNat 64 w.node ∧
      (getHart t h).sr.subt = BitVec.allOnes 64 ∧
      (∀ i : Fin 32, (getHart t h).x[i] =
        if i = 2 then BitVec.ofNat 64 (if ctx = 7 ∧ sections ≠ [] then 0x1E000 else (ctx + 1) * 0x4000)
        else if 3 ≤ i.val ∧ i.val ≤ 10 then
          BitVec.ofNat 64 (leNat ((List.range 8).map fun j => viewByte s (core / 4096) (n.args.toNat % 2 ^ 56 + 8 * (i.val - 3) + j)))
        else 0) ∧
      (getCore t core).banks.getLsbD ctx = true ∧
      ((2 ≤ (nodeScope l n).code.toNat ∨ 2 ≤ n.acqScope.code.toNat) → (getCore t core).l1 = []) ∧
      (sections ≠ [] → ∃ v, getLaunch t l.id = some v ∧ v.loaded = true) ∧
      (l.loaded = false → ∀ g ∈ launchCores s l, ∀ d < 4, ∀ i < sections.length,
        viewByte t d (0x100000000 + g * 0x20000 + 0x1E000 + i) = sections.getD i 0)) ∧
  (∀ core ctx s r, FreeContext s core ctx → claimant s core ctx = some (.saved r) → (getCluster s (core / 16)).idle = false →
    NoDramWaits s → r.acc = none →
    (∀ v ∈ s.saves, v.core = core → v.launch = r.launch → v.planes = none) → mapWf 0 r.bank = true →
    let h := core * 16 + ctx
    ∃ t, exec (.hartResume core ctx) s = .next t ∧ t.saves.length < s.saves.length ∧
      (getHart t h).tenure = .running ∧ (getHart t h).mode = (if r.inS then .S else .U) ∧ (getHart t h).pc = r.pc &&& ~~~1 ∧
      (getHart t h).gen = (getHart s h).gen ∧ (getHart t h).launch = r.launch ∧ (getHart t h).tile = r.tile ∧
      (getHart t h).sr = { r.sr with subt := r.subt } ∧ (getHart t h).mpend = r.mpend ∧ (getHart t h).faults = r.faults ∧
      (∀ i : Fin 32, i ≠ 0 → r.mask.getLsbD i = true → (getHart t h).x[i] = r.x[i]) ∧
      (∀ i : Fin 32, (getHart t h).live.getLsbD i = r.mask.getLsbD (32 + i) ∧
        (r.mask.getLsbD (32 + i) = true → (getHart t h).v[i] = r.v[i])) ∧
      ∀ e ∈ r.bank, ∀ d < 4, viewByte t d (0x100000000 + core * 0x20000 + ctx * 0x4000 + e.1) = e.2)

/-- The dispatcher and the control core (R62, R63, R65, R66): a slot of a cluster's work queue takes the node that the pool offers (one that a
control core released on its own cluster whatever WEIGHT and credit say: the model's reading, log entry 10); a node that waits rises one level for each full 100 µs; a control core takes the oldest completion record and makes room for a poster. -/
def Sys2Proof.Claims.Dispatch : Prop :=
  (∀ clus s e l n, (getCluster s clus).workQ.length < 4 → isOsCluster s clus = false → (getCluster s clus).idle = false →
    (getDie s (clus / 256)).pool = [e] → e.clusters = [clus] → e.level < 8 → e.tenant < 16 →
    (e.isLocal = true ∨ (getTenant s e.tenant).weight ≠ 0) → getLaunch s e.launch = some l → l.id = e.launch → getNode l e.node = some n →
    ∃ t m, exec (.dispatchArbitration clus) s = .next t ∧ (getDie t (clus / 256)).pool = [] ∧
      (getCluster t clus).workQ = (getCluster s clus).workQ ++
        [⟨l.id, e.node, e.isLocal, (nodeStarts s l n).filter fun x => x.1 / 16 = clus⟩] ∧
      nodeAt t e.launch e.node = some m ∧ m.phase = .handedOut ∧ t.harts = s.harts ∧ t.views = s.views) ∧
  (∀ die s, (getDie s die).pool ≠ [] →
    ∃ t, exec (.nodeAging die) s = .next t ∧ (getDie t die).pool = (getDie s die).pool.map fun e =>
      if e.isLocal then e
      else { e with
        level := min 7 (e.level + (s.time - e.agedAt) / 100000), agedAt := e.agedAt + (s.time - e.agedAt) / 100000 * 100000 }) ∧
  (∀ clus s r rest, (getCluster s clus).eventQ = r :: rest →
    ∃ t, exec (.eventRecordTake clus) s = .next t ∧
      (getCluster t clus).eventQ = rest ++ (getCluster s clus).posters.take 1 ∧
      (getCluster t clus).posters = (getCluster s clus).posters.drop 1)

/-- The end of a launch (R53, R54, R259): two sweeps that find it idle with equal counts end it DONE and add ENDADD to ENDCTR, once every
write is performed as a release at sys scope asks; its world then retires: its key admits no new access and its engine commands end
abandoned, and once nothing of it is under way, no write on its way included, its slices, caches, counts and work are scrubbed, and the contexts that
its harts left are free with banks of zeros. -/
def Obligations.LaunchEnds : Prop :=
  (∀ launch s l, getLaunch s launch = some l → l.id = launch → l.phase = .running → launchIdle s launch = true →
    sentTotal s launch = receivedTotal s launch →
    (l.swept ≠ some (sentTotal s launch, receivedTotal s launch) ∨ s.mca ≠ [] →
      ∃ t v, exec (.launchEndSweep launch) s = .next t ∧ getLaunch t launch = some v ∧
        v = { l with swept := some (sentTotal s launch, receivedTotal s launch) } ∧
        .launchEndSweep launch ∈ t.agenda) ∧
    (l.swept = some (sentTotal s launch, receivedTotal s launch) →
      (∀ e ∈ l.nodes, ∀ n, e.2 = some n → n.phase = .complete) → (∀ v ∈ s.saves, v.launch ≠ launch) →
      s.mca = [] → (∀ f ∈ s.flights, f.prop ≠ .repl) → (∀ o ∈ s.ops, o.launch ≠ launch) →
      ∃ t v, exec (.launchEndSweep launch) s = .next t ∧ getLaunch t launch = some v ∧ v.phase = .ending ∧ v.final = 3 ∧
        v.reason = 0 ∧ .worldRetire launch ∈ t.agenda ∧
        (l.endctr.toNat < 0x4000 →
          mapGet 0 t.counters l.endctr.toNat = mapGet 0 s.counters l.endctr.toNat + l.endadd))) ∧
  (∀ launch s l, getLaunch s launch = some l → l.phase = .ending →
    ∃ t, exec (.worldRetire launch) s = .next t ∧ .worldRetireScrub launch ∈ t.agenda ∧
      (∀ g, ∀ m ∈ (getCore t g).cmds, m.launch = launch → m.abandoned = true) ∧
      ∀ k, mapGet none s.keys l.keyh.toNat = some k → l.keyh.toNat < 0x800 → k.launch = l.id →
        mapGet none t.keys l.keyh.toNat = some { k with live := false }) ∧
  (∀ launch s l, getLaunch s launch = some l → l.id = launch → l.phase = .ending → worldBusy s launch = true ∨ worldWrites s l = true →
    ∃ t, exec (.worldRetireScrub launch) s = .next t ∧ t = { s with agenda := s.agenda ++ [.worldRetireScrub launch] }) ∧
  (∀ launch s l, getLaunch s launch = some l → l.id = launch → l.phase = .ending → worldBusy s launch = false → worldWrites s l = false →
    ∃ t v, exec (.worldRetireScrub launch) s = .next t ∧ getLaunch t launch = some v ∧ v.phase = .retired ∧
      (∀ h ∈ heldContexts s launch, (getHart t h).tenure = .free ∧ BankZero t (h / 16) (h % 16)) ∧
      (l.loaded = true → ∀ g ∈ launchCores s l, (getHart s (g * 16 + 7)).tenure = .free → BankZero t g 7) ∧
      (∀ g, (getCore t g).l1 = [] ∧ (getCore t g).icache = [] ∧ ((getCore t g).slice.owner = launch → (getCore t g).slice = .reset) ∧
        ∀ q, ∀ e ∈ mapGet [] (getCore t g).queues q, e.world ≠ launch) ∧
      (∀ c, ∀ w ∈ (getCluster t c).workQ, w.launch ≠ launch) ∧
      ∀ k, mapGet none s.keys l.keyh.toNat = some k → l.keyh.toNat < 0x800 → k.launch = l.id →
        mapGet none t.keys l.keyh.toNat = none)

/-! ### Services -/

namespace Sys2Proof.Claims

/-- A call of service `n` stands in a ring under `id`, without a status (R275), and it is its turn: every slot before it in the ring has begun to
be served (R288; that this holds always, and not only once a new image has been released, is the model's choice, log entry 84). -/
def Called (s : State) (n id : Nat) (v : SvcSlot) : Prop := findSlot s id = some v ∧ v.n = n ∧ v.status = none ∧ slotTurn s v = true

/-- The call has its status, which goes to the caller (R275, R276). -/
def Served (t : State) (v : SvcSlot) (st : Word) : Prop :=
  (∀ x ∈ allSlots t, x.id = v.id → x.status = some st) ∧ .svcStatusReturn v.hart ∈ t.agenda

/-- The first bytes of the request, as its caller may read them. -/
def Request (s : State) (v : SvcSlot) (n : Nat) (b : List Byte) : Prop := agentRead s (slotAgent v) v.req n = some b

/-- Key of byte `i` of a request in its caller's SELF (Table 2.6). -/
def requestKey (v : SvcSlot) (i : Nat) : Nat := 0x100000000 + v.hart / 16 * 0x20000 + v.req.toNat + i

/-- Bytes `off` to `off + n - 1` of the request lie in the caller's SELF, in one line, which has no error. -/
def InSelf (s : State) (v : SvcSlot) (off n : Nat) : Prop :=
  v.hart < 0x40000 ∧ v.req.toNat + off + n ≤ 0x20000 ∧ (v.req.toNat + off) % 64 + n ≤ 64 ∧ requestKey v off / 64 ∉ s.badLines

/-- Bytes of the request hold `bs` from `off` up. -/
def RequestHolds (t : State) (v : SvcSlot) (off : Nat) (bs : List Byte) : Prop :=
  ∀ j < bs.length, viewByte t (v.hart / 16 / 4096) (requestKey v (off + j)) = bs.getD j 0

/-- A stretch of the vaults or of translated space (R241). -/
def stretchInRange (lo n : Nat) : Prop :=
  (0x200000000 ≤ lo ∧ lo + n ≤ 0x600000000) ∨ (0x10000000000 ≤ lo ∧ lo + n ≤ 0x80000000000000)

/-- Two stretches of addresses do not meet. -/
def Apart (a n b m : Nat) : Prop := a + n ≤ b ∨ b + m ≤ a

/-- The status of a call follows the shootdown: at once where no core holds state, otherwise with the last acknowledgement (R226, R228). -/
def AfterShootdown (s t : State) (v : SvcSlot) (what : ShootWhat) : Prop :=
  (s.cores = [] → Served t v 0) ∧
  (s.cores ≠ [] → ∃ d ∈ t.shootdowns, d.next = .service v.id 0 ∧ d.what = [what] ∧ ∀ c, (∃ e ∈ s.cores, e.1 = c) → c ∈ d.unsent)

/-- The services that the proxy on the host carries out, by number (Table 18.1). -/
def ProxyCallOf (id n : Nat) (i : Instr) : Prop :=
  (n = 1 ∧ i = .console id) ∨ (n = 2 ∧ i = .fileOpen id) ∨ (n = 3 ∧ i = .fileRead id) ∨ (n = 4 ∧ i = .fileWrite id) ∨
    (n = 5 ∧ i = .fileClose id) ∨ (n = 15 ∧ i = .connOpen id) ∨ (n = 16 ∧ i = .connSend id) ∨ (n = 17 ∧ i = .connRecv id) ∨
    (n = 18 ∧ i = .connClose id)

/-- The journal of a tenant has an entry under a sequence. -/
def Journalled (s : State) (t j : Nat) (kind state reason : BitVec 8) : Prop :=
  ∃ e ∈ (getTenant s t).journal, e.jseq = j ∧ e.kind = kind ∧ e.state = state ∧ e.reason = reason

/-- A launch as its record gives it (Table 3.2). -/
def LaunchOf (l : Launch) (tenant j : Nat) (r : LaunchRec) (levels : List Level) : Prop :=
  l.tenant = BitVec.ofNat 4 tenant ∧ l.seq = BitVec.ofNat 64 j ∧ l.owner = r.owner ∧ l.keyh = r.keyh.setWidth 12 ∧ l.prio = r.prio ∧
    l.levels = levels ∧ l.hctl = BitVec.ofNat 4 r.hctl ∧ l.graph = r.graph ∧ l.image = r.image ∧ l.imageLen = r.imageLen ∧
    l.endctr = r.endctr ∧ l.endadd = r.endadd ∧ l.nodeCount = r.nodes

end Sys2Proof.Claims

/-- NOP, TIME_READ, PERF_READ, TRAP_REPORT (Table 18.1, Table 18.6): status 0, with the time, the counters or a journal entry; bytes that
cannot be written to the request give REQUEST_FAULT. A call whose turn has not come is served later. How PERF_READ lays its counters out, and
which they are, is log entry 49, what a trap report journals log entry 37. -/
def Sys2Proof.Claims.ReadingServices : Prop :=
  (∀ id s v, findSlot s id = some v → v.n = 0 → v.status = none → slotTurn s v = false →
    ∃ t, exec (.svcNop id) s = .next t ∧ t = { s with agenda := s.agenda ++ [.svcNop id] }) ∧
  (∀ id s v, Called s 0 id v →
    ∃ t, exec (.svcNop id) s = .next t ∧ Served t v 0 ∧ t = { s with dies := t.dies, agenda := t.agenda }) ∧
  (∀ id s v, Called s 24 id v → InSelf s v 0 16 →
    ∃ t, exec (.timeRead id) s = .next t ∧ Served t v 0 ∧
      RequestHolds t v 0 (leBytes 8 s.time ++ leBytes 8 (Config.hostOffset s.tick).toNat)) ∧
  (∀ id s v, Called s 23 id v →
    let clus := v.hart / 16 / 16
    let row := if (getCore s (v.hart / 16)).slice.split then v.hart / 16 % 16 / 8 else 2
    let bs := (List.range Config.perfCount).flatMap fun i => leBytes 8 (Config.perfCounter clus row i s.tick).toNat
    ∃ t, exec (.perfRead id) s = .next t ∧
      match agentWrite s (slotAgent v) v.req bs with
      | some u => Served t v 0 ∧ t.views = u.views
      | none => Served t v 0xF0 ∧ t.views = s.views) ∧
  (∀ id s v, Called s 25 id v → journalFree s v.tenant.toNat = true →
    let tn := (getHart s v.hart).sr.tenant.toNat
    ∃ t, exec (.trapReport id) s = .next t ∧ Served t v 0 ∧ Journalled t tn ((getTenant s tn).jhead + 1) 0x83 3 0 ∧
      (getTenant t tn).jhead = (getTenant s tn).jhead + 1 ∧ t.sentOut = s.sentOut ++ [.msix tn 1])

/-- RANGE_ALLOC and RANGE_FREE (R226, R241, Table 18.6): the range takes the tag that its bytes keep, its owner is granted rights on it, and
the request receives the pointer; a range that is freed loses its grants at once, and leaves the table with the last acknowledgement of the
shootdown: its bytes then keep the next tag, and at tag 255 it is withdrawn until its world has retired. INVALID for a base outside the two
regions, the capacity of the tables, and which free stretch a request without a base gets are the model's (log entry 48). -/
def Sys2Proof.Claims.RangeServices : Prop :=
  (∀ id s v b, Called s 6 id v → Request s v 16 b →
    let want := numAt b 0 7
    let n := numAt b 8 8
    (want % 64 ≠ 0 ∨ n % 64 ≠ 0 ∨ n < 64 ∨ 2 ^ 46 < n ∨ (want ≠ 0 ∧ ¬ stretchInRange want n) →
      ∃ t, exec (.rangeAlloc id) s = .next t ∧ Served t v 3 ∧ t = { s with dies := t.dies, agenda := t.agenda }) ∧
    (want % 64 = 0 → n % 64 = 0 → 64 ≤ n → n ≤ 2 ^ 46 → want ≠ 0 → stretchInRange want n →
      ((∃ r, (r ∈ s.ranges ∨ r ∈ s.withdrawn) ∧ r.base < want + n ∧ want < r.base + r.len) →
        ∃ t, exec (.rangeAlloc id) s = .next t ∧ Served t v 2 ∧ t = { s with dies := t.dies, agenda := t.agenda }) ∧
      ((∀ r, r ∈ s.ranges ∨ r ∈ s.withdrawn → Apart r.base r.len want n) → s.ranges.length < Config.rangeCapacity →
        (mapGet [] s.rights v.own.toNat).length < 4096 → InSelf s v 16 8 →
        let g : Range := ⟨want, n, allocTag s want n, v.launch, v.tenant.toNat, false⟩
        ∃ t, exec (.rangeAlloc id) s = .next t ∧ Served t v 0 ∧ t.ranges = s.ranges ++ [g] ∧
          mapGet [] t.rights v.own.toNat = mapGet [] s.rights v.own.toNat ++
            [⟨want, g.tag, n / 64, allocRights s want n, v.own, 0xFFFF, 1⟩] ∧
          (∀ o, o ≠ v.own.toNat → mapGet [] t.rights o = mapGet [] s.rights o) ∧
          RequestHolds t v 16 (leBytes 7 want ++ [g.tag]))) ∧
    (want = 0 → n % 64 = 0 → 64 ≤ n → n ≤ 2 ^ 46 → s.ranges.length < Config.rangeCapacity →
      (mapGet [] s.rights v.own.toNat).length < 4096 → InSelf s v 16 8 →
      ∃ t, exec (.rangeAlloc id) s = .next t ∧
        ((∃ lo, lo % 64 = 0 ∧ stretchInRange lo n ∧ (∀ r, r ∈ s.ranges ∨ r ∈ s.withdrawn → Apart r.base r.len lo n) ∧ Served t v 0 ∧
            t.ranges = s.ranges ++ [⟨lo, n, allocTag s lo n, v.launch, v.tenant.toNat, false⟩] ∧
            RequestHolds t v 16 (leBytes 7 lo ++ [allocTag s lo n])) ∨
          ((s.ranges ≠ [] ∨ s.withdrawn ≠ []) ∧ Served t v 2 ∧ t.ranges = s.ranges)))) ∧
  (∀ id s v b, Called s 7 id v → Request s v 16 b →
    let lo := numAt b 0 7
    let n := numAt b 8 8
    ((∀ r ∈ s.ranges, ¬ (r.base = lo ∧ r.tag = b.getD 7 0)) →
      ∃ t, exec (.rangeFree id) s = .next t ∧ Served t v 5 ∧ t = { s with dies := t.dies, agenda := t.agenda }) ∧
    (∀ r, s.ranges.find? (fun x => x.base = lo && decide (x.tag = b.getD 7 0)) = some r →
      (r.len ≠ n →
        ∃ t, exec (.rangeFree id) s = .next t ∧ Served t v 3 ∧ t = { s with dies := t.dies, agenda := t.agenda }) ∧
      (r.len = n → ownerCovers s v.own (b.getD 7 0) 0x20 lo n = false →
        ∃ t, exec (.rangeFree id) s = .next t ∧ Served t v 1 ∧ t = { s with dies := t.dies, agenda := t.agenda }) ∧
      (r.len = n → ownerCovers s v.own (b.getD 7 0) 0x20 lo n = true →
        (∀ x ∈ s.ranges, x.base = lo → x = r) →
        ∃ t, exec (.rangeFree id) s = .next t ∧ AfterShootdown s t v (.range lo n) ∧
          (∀ o, ∀ e ∈ mapGet [] t.rights o, e.base < lo + n → lo < e.base + e.len * 64 → e.rights &&& 0x3F = 0) ∧
          (s.cores ≠ [] → t.ranges = s.ranges ∧ t.freed = s.freed ∧ t.withdrawn = s.withdrawn) ∧
          (s.cores = [] → t.ranges = s.ranges.filter (· ≠ r) ∧
            (r.tag ≠ 255 → t.freed = { r with tag := r.tag + 1 } :: s.freed ∧ t.withdrawn = s.withdrawn) ∧
            (r.tag = 255 → (r.launch = 0 ∨ ∃ l, getLaunch s r.launch = some l ∧ l.phase ≠ .retired) →
              t.withdrawn = s.withdrawn ++ [r] ∧ t.freed = s.freed)))))

/-- PAGE_MAP, PAGE_UNMAP and MIGRATE (R206, R212, R228, R229): a leaf is written or removed under a shootdown; a page moves line by line, while no window
accumulator in it flips, and its leaf follows when the last line has been copied. The layout of these requests is the model's free choice (log entry 12). -/
def Obligations.PageServices : Prop :=
  (∀ id s v, Called s 8 id v →
    ∃ t, exec (.pageMap id) s = .next t ∧
      match agentRead s (slotAgent v) v.req (Config.requestBytes 8) with
      | none => Served t v 0xF0
      | some b =>
        let va := Config.requestField 8 0 b
        let level := Config.requestField 8 1 b
        let w := Config.requestField 8 2 b
        if regionOf va ≠ .translated ∨ 3 ≤ level then Served t v 3
        else
          match readEntry level va w, entryFor va level (3 - level) (ptrootOf s 0).toNat s with
          | .leaf l, some (_, pa) =>
            AfterShootdown s t v (.page l.base l.size) ∧ ∀ d < 4, ∀ i < 8, viewByte t d (dramBase + pa + i) = byteOf w i
          | _, _ => Served t v 3) ∧
  (∀ id s v, Called s 9 id v →
    ∃ t, exec (.pageUnmap id) s = .next t ∧
      match agentRead s (slotAgent v) v.req (Config.requestBytes 9) with
      | none => Served t v 0xF0
      | some b =>
        match mappedEntry s (Config.requestField 9 0 b) with
        | none => Served t v 5
        | some (pa, _, l) =>
          AfterShootdown s t v (.page l.base l.size) ∧ ∀ d < 4, ∀ i < 8, viewByte t d (dramBase + pa + i) = 0) ∧
  (∀ id s v, Called s 11 id v → (∀ m ∈ s.migrations, m.slot ≠ id) →
    ∃ t, exec (.migrate id) s = .next t ∧
      match agentRead s (slotAgent v) v.req (Config.requestBytes 11) with
      | none => Served t v 0xF0
      | some b =>
        let dst := Config.requestField 11 1 b
        match mappedEntry s (Config.requestField 11 0 b) with
        | none => Served t v 5
        | some (_, _, l) =>
          if dst % l.size ≠ 0 ∨ dieOfPhys dst = none ∨ (dst < l.phys + l.size ∧ l.phys < dst + l.size) ∨
              ∃ m ∈ s.migrations, m.src.base = l.base then Served t v 3
          else t.migrations = s.migrations ++ [⟨id, l, { l with phys := dst }, []⟩] ∧ .migrate id ∈ t.agenda) ∧
  (∀ id s v m i, Called s 11 id v → s.migrations = [m] → m.slot = id → (∀ d ∈ s.shootdowns, d.next ≠ .service id 0) →
    let first := (dramBase + m.src.phys) / 64
    flipsIn s m.src = false → i < m.src.size / 64 → first + i ∉ m.copied → (∀ j < i, first + j ∈ m.copied) →
    ∃ t, exec (.migrate id) s = .next t ∧ t.migrations = [{ m with copied := (first + i) :: m.copied }] ∧ .migrate id ∈ t.agenda ∧
      ∀ d < 4, ∀ j < 64, viewByte t d (dramBase + m.dst.phys + i * 64 + j) = viewByte s d ((first + i) * 64 + j)) ∧
  (∀ id s m, s.migrations = [m] → m.slot = id → (∀ d ∈ s.shootdowns, d.next ≠ .service id 0) → flipsIn s m.src = true →
    ∃ t, exec (.migrate id) s = .next t ∧ t = { s with agenda := s.agenda ++ [.migrate id] }) ∧
  (∀ id s v m pa n l, flipsIn s m.src = false → Called s 11 id v → s.migrations = [m] → m.slot = id → (∀ d ∈ s.shootdowns, d.next ≠ .service id 0) →
    (∀ i < m.src.size / 64, (dramBase + m.src.phys) / 64 + i ∈ m.copied) → mappedEntry s m.src.base = some (pa, n, l) →
    let w := physWord s 0 pa
    ∃ t, exec (.migrate id) s = .next t ∧ AfterShootdown s t v (.page m.src.base m.src.size) ∧
      ∀ d < 4, ∀ i < 8, viewByte t d (dramBase + pa + i) = byteOf (w - w / 2 ^ 20 % 2 ^ 36 * 2 ^ 20 + m.dst.phys / 0x10000 * 2 ^ 20) i)

/-- COUNTER_ALLOC, COUNTER_FREE, KEY_DESTROY, LAUNCH_SUBMIT and LAUNCH_ABORT (R68, R270, Table 16.1, Table 18.6). The request layouts of
KEY_DESTROY and LAUNCH_SUBMIT are the model's free choice (log entry 12). -/
def Obligations.ResourceServices : Prop :=
  (∀ id s v, Called s 12 id v →
    let base := v.hart / 16 / 4096 * 4096
    ((∀ i < 4096, mapGet 0 s.counterOwner (base + i) ≠ 0) →
      ∃ t, exec (.counterAlloc id) s = .next t ∧ Served t v 2 ∧ t = { s with dies := t.dies, agenda := t.agenda }) ∧
    ((∃ i < 4096, mapGet 0 s.counterOwner (base + i) = 0) → InSelf s v 0 8 →
      ∃ t, exec (.counterAlloc id) s = .next t ∧ Served t v 0 ∧ ∃ i < 4096, mapGet 0 s.counterOwner (base + i) = 0 ∧
        mapGet 0 t.counterOwner (base + i) = v.tenant.toNat + 1 ∧ mapGet 0 t.counters (base + i) = 0 ∧
        RequestHolds t v 0 (leBytes 8 (base + i)))) ∧
  (∀ id s v b, Called s 13 id v → Request s v 8 b →
    let c := numAt b 0 8
    (0x4000 ≤ c → ∃ t, exec (.counterFree id) s = .next t ∧ Served t v 3 ∧ t = { s with dies := t.dies, agenda := t.agenda }) ∧
    (c < 0x4000 → mapGet 0 s.counterOwner c ≠ v.tenant.toNat + 1 →
      ∃ t, exec (.counterFree id) s = .next t ∧ Served t v 5 ∧ t = { s with dies := t.dies, agenda := t.agenda }) ∧
    (c < 0x4000 → mapGet 0 s.counterOwner c = v.tenant.toNat + 1 →
      ∃ t, exec (.counterFree id) s = .next t ∧ Served t v 0 ∧ mapGet 0 t.counterOwner c = 0 ∧ t.counters = s.counters)) ∧
  (∀ id s v, Called s 14 id v →
    ∃ t, exec (.keyDestroy id) s = .next t ∧
      match agentRead s (slotAgent v) v.req (Config.requestBytes 14) with
      | none => Served t v 0xF0
      | some b =>
        let k := Config.requestField 14 0 b
        match mapGet none s.keys (k % 4096) with
        | none => Served t v 5 ∧ t.keys = s.keys
        | some x =>
          if 0x800 ≤ k ∧ k < 0x1000 ∧ x.tenant = v.tenant then Served t v 0 ∧ mapGet none t.keys k = none
          else Served t v 5 ∧ t.keys = s.keys) ∧
  (∀ id s v, Called s 19 id v → journalFree s v.tenant.toNat = true →
    let tn := v.tenant.toNat
    let j := (getTenant s tn).jhead + 1
    ∃ t, exec (.launchSubmit id) s = .next t ∧
      match agentRead s (slotAgent v) v.req (Config.requestBytes 19) with
      | none => Served t v 0xF0
      | some b =>
        match agentRead s (slotAgent v) (BitVec.ofNat 64 (Config.requestField 19 0 b)) 256 with
        | none => Served t v 0xF0
        | some rec =>
          (getTenant t tn).jhead = j ∧ ((Served t v 3 ∧ ∃ r, Journalled t tn j 1 4 r) ∨
            (Served t v 0 ∧ ∃ n l levels, getLaunch t n = some l ∧ LaunchOf l (parseRecord rec).tenant j (parseRecord rec) levels))) ∧
  (∀ id s v b, Called s 20 id v → Request s v 8 b →
    (findLaunch s v.tenant.toNat (leWord (slice b 0 8)) = none →
      ∃ t, exec (.launchAbort id) s = .next t ∧ Served t v 5 ∧ t = { s with dies := t.dies, agenda := t.agenda }) ∧
    (∀ l, findLaunch s v.tenant.toNat (leWord (slice b 0 8)) = some l → getLaunch s l.id = some l → l.phase = .running →
      ∃ t u, exec (.launchAbort id) s = .next t ∧ Served t v 0 ∧ getLaunch t l.id = some u ∧ u.phase = .ending ∧ u.final = 5 ∧
        .worldRetire l.id ∈ t.agenda))

/-- A proxied service (R272, R273): its request is journalled with a block of the exchange area, into which outbound bytes are copied, and the
proxy's time starts to run; a wrong request, an unknown handle and a buffer that the caller may not use are refused: in that order, the buffer
of an inbound call when it is made (the model's reading, log entry 13). -/
def Sys2Proof.Claims.ProxiedServices : Prop :=
  ∀ n i id s v b, ProxyCallOf id n i → Called s n id v → v.proxy = none → Request s v 48 b →
    let tn := v.tenant.toNat
    let x := getTenant s tn
    let handle := BitVec.ofNat 64 (numAt b 0 8)
    let buffer := BitVec.ofNat 64 (numAt b 8 8)
    let len := numAt b 16 8
    let free := n = 1 ∨ n = 2 ∨ n = 15
    let out := n = 1 ∨ n = 2 ∨ n = 4 ∨ n = 16
    let inb := n = 3 ∨ n = 17
    let refused := fun st => ∃ t, exec i s = .next t ∧ Served t v st ∧ t = { s with dies := t.dies, agenda := t.agenda }
    (0x10000 < len ∨ (free ∧ handle ≠ 0) → refused 3) ∧
    (len ≤ 0x10000 → ¬ free → handle ∉ x.handles → refused 5) ∧
    (len ≤ 0x10000 → (free → handle = 0) → (¬ free → handle ∈ x.handles) →
      (inb → agentMay s (slotAgent v) buffer len 2 = false → refused 1) ∧
      (out → agentRead s (slotAgent v) buffer len = none → refused 1) ∧
      (∀ k data, (inb → agentMay s (slotAgent v) buffer len 2 = true) →
        (out → agentRead s (slotAgent v) buffer len = some data) → (¬ out → data = []) →
        k < 16 → k ∉ x.blocks → (∀ j < k, j ∈ x.blocks) → journalFree s tn = true → 0x120000 ≤ x.partSize →
        ∃ t, exec i s = .next t ∧ (∀ y ∈ allSlots t, y.id = v.id → y.proxy = some (x.jhead + 1, k, s.time)) ∧
          (getTenant t tn).blocks = k :: x.blocks ∧ Journalled t tn (x.jhead + 1) 0x82 1 0 ∧
          t.sentOut = s.sentOut ++ [.msix tn 1] ∧ .proxyTimeout tn (x.jhead + 1) ∈ t.agenda ∧
          ∀ d < 4, ∀ j < data.length,
            viewByte t d (dramBase + x.partBase + 0x20000 + k * 0x10000 + j) = data.getD j 0))

/-- A proxy that has not answered within 20 ms (R273, Table 18.2): the call ends with TIMEOUT, its entry is ABORTED, its block is free. -/
def Sys2Proof.Claims.ProxyTimeout : Prop :=
  ∀ tn j s v k since, waitingProxy s tn j = some v → v.proxy = some (j, k, since) → (getTenant s tn).closed = [] →
    (since + 20000000 ≤ s.time →
      ∃ t, exec (.proxyTimeout tn j) s = .next t ∧ Served t v 4 ∧
        (getTenant t tn).blocks = (getTenant s tn).blocks.filter (· ≠ k) ∧
        ∀ e ∈ (getTenant t tn).journal, e.jseq = j → e.state = 5) ∧
    (s.time < since + 20000000 → ∃ t, exec (.proxyTimeout tn j) s = .next t ∧ t = { s with agenda := s.agenda ++ [.proxyTimeout tn j] })

/-! ### The command window of the host -/

namespace Sys2Proof.Claims

/-- The next entry of a tenant's command ring may be taken, its 64 bytes are `b`, and no PROXY_CLOSED entry waits for room (R267, R270, R272,
R284). -/
def EntryAt (s : State) (t : Nat) (b : List Byte) : Prop :=
  t < 16 ∧ entryReady s t = true ∧ entryBytes s t = b ∧ (getTenant s t).closed = []

/-- Argument `i` of a command (Table 17.2). -/
def arg (b : List Byte) (i : Nat) : Word := leWord (slice b (24 + 8 * i) 8)

/-- An entry whose reserved bytes are zero and whose flags ask for no WAIT (Table 17.2). -/
def Plain (b : List Byte) : Prop := numAt b 12 4 = 0 ∧ numAt b 48 16 = 0 ∧ (b.getD 9 0).toNat < 2

/-- The commands by KIND (Table 17.3). -/
def CommandOf (t k : Nat) (i : Instr) : Prop :=
  (k = 1 ∧ i = .hostLaunch t) ∨ (k = 2 ∧ i = .hostSignal t) ∨ (k = 3 ∧ i = .hostAbort t) ∨ (k = 4 ∧ i = .hostFence t) ∨
    (k = 5 ∧ i = .hostMap t) ∨ (k = 6 ∧ i = .hostUnmap t) ∨ (k = 7 ∧ i = .proxyReply t)

/-- The entry has been taken: CONSUMED and the journal have moved on, and the entry's state and reason are these (R267, R270). -/
def Taken (s u : State) (t : Nat) (b : List Byte) (state reason : BitVec 8) : Prop :=
  (getTenant u t).consumed = (getTenant s t).consumed + 1 ∧ (getTenant u t).jhead = (getTenant s t).jhead + 1 ∧
    Journalled u t ((getTenant s t).jhead + 1) (b.getD 8 0) state reason

/-- A command of a tenant has become final: its completion record is owed (R269). -/
def RecordOwed (u : State) (t : Nat) (q : Word × BitVec 8 × Nat × BitVec 8 × BitVec 8) : Prop :=
  q ∈ (getTenant u t).completions ∧ .completionRecord t ∈ u.agenda

/-- The entry has been taken and is final. The record carries the command's sequence and flags where no other running command has its journal
sequence. -/
def Ended (s u : State) (t : Nat) (b : List Byte) (state reason : BitVec 8) : Prop :=
  let j := (getTenant s t).jhead + 1
  Taken s u t b state reason ∧
    ∃ q, RecordOwed u t q ∧ q.2.2 = (j, state, reason) ∧
      ((∀ e ∈ (getTenant s t).running, e.2.2 ≠ j) → q.1 = leWord (slice b 0 8) ∧ q.2.1 = b.getD 9 0)

/-- A counter that a tenant owns (R68). -/
def CounterOf (s : State) (t id : Nat) : Prop := id < 0x4000 ∧ mapGet 0 s.counterOwner id = t + 1

end Sys2Proof.Claims

/-- Entries that fail (R268): a KIND that is not assigned is 0x0B, reserved bytes and bits are 0x01, an identifier of another tenant 0x02,
wrong arguments 0x0D, a reply that no call waits for 0x0C. That bits 63 to 24 of HOSTMAP's ARG2 fail with 0x0D and not with 0x01 is log entry 29,
that a host address is taken modulo 2^55 log entry 71. -/
def Obligations.CommandsThatFail : Prop :=
  ∀ t b s, EntryAt s t b →
    let k := (b.getD 8 0).toNat
    (k = 0 ∨ 8 ≤ k → ∃ u, exec (.hostLaunch t) s = .next u ∧ Ended s u t b 4 0x0B) ∧
    (∀ i, CommandOf t k i → (numAt b 12 4 ≠ 0 ∨ numAt b 48 16 ≠ 0 ∨ 4 ≤ (b.getD 9 0).toNat) →
      ∃ u, exec i s = .next u ∧ Ended s u t b 4 0x01) ∧
    (Plain b →
      (k = 2 → arg b 2 = 0 → ¬ CounterOf s t (arg b 0).toNat →
        ∃ u, exec (.hostSignal t) s = .next u ∧ Ended s u t b 4 0x02 ∧ u.counters = s.counters) ∧
      (k = 3 → arg b 1 = 0 → arg b 2 = 0 → findLaunch s t (arg b 0) = none →
        ∃ u, exec (.hostAbort t) s = .next u ∧ Ended s u t b 4 0x02 ∧ u.launches = s.launches) ∧
      (k = 5 → mapGet 0 s.owners ((arg b 2).extractLsb' 0 16).toNat ≠ t + 1 →
        ∃ u, exec (.hostMap t) s = .next u ∧ Ended s u t b 4 0x02 ∧ u.ranges = s.ranges) ∧
      (k = 5 → mapGet 0 s.owners ((arg b 2).extractLsb' 0 16).toNat = t + 1 →
        ((arg b 0).toNat % 0x10000 ≠ 0 ∨ (arg b 1).toNat % 0x10000 ≠ 0 ∨ arg b 1 = 0 ∨
          0x1000000 ≤ (arg b 2).toNat ∨ (arg b 2).extractLsb' 16 8 = 0#8 ∨ 4 ≤ ((arg b 2).extractLsb' 16 8).toNat ∨
          ∃ r ∈ s.ranges, ¬ Apart r.base r.len (0x80000000000000 + (arg b 0).toNat % 0x80000000000000) (arg b 1).toNat) →
        ∃ u, exec (.hostMap t) s = .next u ∧ Ended s u t b 4 0x0D ∧ u.ranges = s.ranges) ∧
      (k = 6 → arg b 2 = 0 → unmapRange s t (parseCommand b [] 0) = none →
        ∃ u, exec (.hostUnmap t) s = .next u ∧ Ended s u t b 4 0x0D ∧ u.ranges = s.ranges) ∧
      (k = 7 → (arg b 1).toNat < 0x100 → waitingProxy s t (arg b 0).toNat = none →
        ∃ u, exec (.proxyReply t) s = .next u ∧ Ended s u t b 4 0x0C))

/-- LAUNCH, SIGNAL, ABORT and FENCE (R38, R54, R71, R268, Table 17.3): a launch whose record passes the checks of Table 3.4 enters the device; a
signal adds to its counter; an abort ends its launch; each is DONE or fails with its reason. That an entry taken makes MESSAGE pending in contexts
of the operating-service cores is log entry 11. -/
def Sys2Proof.Claims.LaunchCommands : Prop :=
  ∀ t b s, EntryAt s t b → Plain b →
    let k := (b.getD 8 0).toNat
    let j := (getTenant s t).jhead + 1
    (k = 1 → arg b 1 = 0 → arg b 2 = 0 →
      let r := parseRecord (recordOf s t b)
      ∃ u v, exec (.hostLaunch t) s = .next v ∧ Taken s u t b 1 0 ∧
        u = { s with tenants := u.tenants, views := u.views, lineKeys := u.lineKeys, harts := u.harts } ∧
        match checkRecord u t r with
        | .error code => Ended s v t b 4 code ∧ v.launches = s.launches
        | .ok levels => ∃ n l, getLaunch v n = some l ∧ LaunchOf l t j r levels ∧ (Taken s v t b 2 0 ∨ l.phase = .ending)) ∧
    (k = 2 → arg b 2 = 0 → CounterOf s t (arg b 0).toNat → NoNodeWaits s (arg b 0).toNat →
      ∃ u, exec (.hostSignal t) s = .next u ∧ Ended s u t b 3 0 ∧ ∀ c, mapGet 0 u.counters c =
        if c = (arg b 0).toNat then mapGet 0 s.counters c + arg b 1 else mapGet 0 s.counters c) ∧
    (k = 3 → arg b 1 = 0 → arg b 2 = 0 → (arg b 0).toNat ≠ j → ∀ l, findLaunch s t (arg b 0) = some l → getLaunch s l.id = some l →
      (l.phase = .running →
        ∃ u v, exec (.hostAbort t) s = .next u ∧ Ended s u t b 3 0 ∧ getLaunch u l.id = some v ∧ v.phase = .ending ∧ v.final = 5 ∧
          .worldRetire l.id ∈ u.agenda) ∧
      (l.phase ≠ .running → ∃ u, exec (.hostAbort t) s = .next u ∧ Ended s u t b 3 0 ∧ u.launches = s.launches)) ∧
    (k = 4 → arg b 0 = 0 → arg b 1 = 0 → arg b 2 = 0 →
      ∃ u, exec (.hostFence t) s = .next u ∧ Ended s u t b 3 0 ∧
        u = { s with tenants := u.tenants, views := u.views, lineKeys := u.lineKeys, harts := u.harts, agenda := u.agenda })

/-- HOSTMAP and HOSTUNMAP (R226, R268, Table 17.3): a range of the host window under tag 0, granted to the owner named by 0xFFFF; it is freed
under R226, and the command is final with the last acknowledgement, which takes the range from the table. A host address is taken modulo
2^55, the size of the window: the model's choice (log entry 71), as it is that bits 63 to 24 of ARG2 are among what must be zero here (log
entry 29). -/
def Sys2Proof.Claims.HostRanges : Prop :=
  ∀ t b s, EntryAt s t b → Plain b →
    let k := (b.getD 8 0).toNat
    let j := (getTenant s t).jhead + 1
    let base := 0x80000000000000 + (arg b 0).toNat % 0x80000000000000
    let n := (arg b 1).toNat
    let own := (arg b 2).extractLsb' 0 16
    let rights := (arg b 2).extractLsb' 16 8
    (k = 5 → mapGet 0 s.owners own.toNat = t + 1 → (arg b 0).toNat % 0x10000 = 0 → n % 0x10000 = 0 → n ≠ 0 →
      (arg b 2).toNat < 0x1000000 → rights ≠ 0 → rights.toNat < 4 →
      (∀ r, r ∈ s.ranges ∨ r ∈ s.withdrawn → Apart r.base r.len base n) → s.ranges.length < Config.rangeCapacity →
      (mapGet [] s.rights own.toNat).length < 4096 →
      ∃ u, exec (.hostMap t) s = .next u ∧ Ended s u t b 3 0 ∧ u.ranges = s.ranges ++ [⟨base, n, 0, 0, t, true⟩] ∧
        mapGet [] u.rights own.toNat = mapGet [] s.rights own.toNat ++ [⟨base, 0, n / 64, rights, own, 0xFFFF, 1⟩] ∧
        ∀ o, o ≠ own.toNat → mapGet [] u.rights o = mapGet [] s.rights o) ∧
    (k = 6 → arg b 2 = 0 → ∀ r, unmapRange s t (parseCommand b [] 0) = some r →
      (∀ x ∈ s.ranges, x.base = r.base → x = r) →
      ∃ u, exec (.hostUnmap t) s = .next u ∧ (s.cores = [] → u.ranges = s.ranges.filter (· ≠ r) ∧ Ended s u t b 3 0) ∧
        (s.cores ≠ [] → u.ranges = s.ranges ∧ Taken s u t b 2 0 ∧ ∃ d ∈ u.shootdowns, d.next = .command t j ∧ d.what = [.range r.base r.len]))

/-- PROXY_REPLY (R272, R273, Table 17.3): the status goes to the caller and the result to its request, inbound bytes to its buffer; the block is
free, and the proxy's handles follow opening and closing; a call that closes a handle also has a PROXY_CLOSED entry journalled, which waits
where the journal has no room. -/
def Obligations.ProxyReplies : Prop :=
  ∀ t b s v k since c, EntryAt s t b → Plain b → (b.getD 8 0).toNat = 7 → (arg b 1).toNat < 0x100 →
    let j := (arg b 0).toNat
    let status := arg b 1
    let result := arg b 2
    let len := numAt c 16 8
    let x := getTenant s t
    j ≠ x.jhead + 1 → waitingProxy s t j = some v → v.proxy = some (j, k, since) → InSelf s v 0 48 → Request s v 48 c →
    ¬ ((v.n = 3 ∨ v.n = 17) ∧ status = 0) ∨
      ((numAt c 8 8 + min result.toNat len ≤ 0x20000 ∧ numAt c 8 8 % 64 + min result.toNat len ≤ 64) ∧
        (0x100000000 + v.hart / 16 * 0x20000 + numAt c 8 8) / 64 ∉ s.badLines ∧
        Apart (numAt c 8 8) (min result.toNat len) (v.req.toNat + 40) 8) →
    let closing := status = 0 ∧ (v.n = 5 ∨ v.n = 18)
    let room := ∀ e ∈ x.journal, e.jseq ≠ j → e.jseq % 1024 = (x.jhead + 2) % 1024 → 3 ≤ e.state.toNat
    ∃ u, exec (.proxyReply t) s = .next u ∧ (¬ closing → Ended s u t b 3 0) ∧
      (closing → room → (getTenant u t).consumed = x.consumed + 1 ∧ (getTenant u t).jhead = x.jhead + 2 ∧
        Journalled u t (x.jhead + 1) 7 3 0 ∧ Journalled u t (x.jhead + 2) 0x80 3 0 ∧ .msix t 1 ∈ u.sentOut ∧
        ∃ q, RecordOwed u t q ∧ q.2.2 = (x.jhead + 1, 3, 0)) ∧ Served u v status ∧ RequestHolds u v 40 (leBytes 8 result.toNat) ∧
      (getTenant u t).blocks = x.blocks.filter (· ≠ k) ∧
      (∀ e ∈ (getTenant u t).journal, e.jseq = j → e.state = if status = 0 then 3 else 4) ∧
      (getTenant u t).handles =
        (if status = 0 ∧ (v.n = 2 ∨ v.n = 15) then x.handles ++ [result]
         else if status = 0 ∧ (v.n = 5 ∨ v.n = 18) then x.handles.filter (· ≠ BitVec.ofNat 64 (numAt c 0 8))
         else x.handles) ∧
      ((v.n = 3 ∨ v.n = 17) → status = 0 → x.partBase % 64 = 0 → ∀ i < min result.toNat len,
        viewByte u (v.hart / 16 / 4096) (0x100000000 + v.hart / 16 * 0x20000 + numAt c 8 8 + i) =
          plainByte s (dramBase + x.partBase + 0x20000 + k * 0x10000 + i))

/-- A command with a WAIT (R72, R268): it waits while its counter lies below VAL, unsigned, and, since the test acquires at sys scope, until the
writes that the counter's releases cover are in every view; it then takes effect as if it had just been taken. -/
def Sys2Proof.Claims.CommandWaits : Prop :=
  (∀ t b s, EntryAt s t b → numAt b 12 4 = 0 → numAt b 48 16 = 0 → (b.getD 9 0).toNat = 2 ∨ (b.getD 9 0).toNat = 3 →
    (b.getD 8 0).toNat = 4 → arg b 0 = 0 → arg b 1 = 0 → arg b 2 = 0 →
    (¬ CounterOf s t (numAt b 10 2) → ∃ u, exec (.hostFence t) s = .next u ∧ Ended s u t b 4 0x02) ∧
    (CounterOf s t (numAt b 10 2) → numAt b 16 8 ≤ (mapGet 0 s.counters (numAt b 10 2)).toNat →
      viewSettled s (mapGet .zero s.counterStamp (numAt b 10 2)) = true → ∃ u, exec (.hostFence t) s = .next u ∧ Ended s u t b 3 0) ∧
    (CounterOf s t (numAt b 10 2) → (mapGet 0 s.counters (numAt b 10 2)).toNat < numAt b 16 8 →
      ∃ u, exec (.hostFence t) s = .next u ∧ Taken s u t b 1 0 ∧ .commandWaitRelease t ∈ u.agenda ∧
        ∃ c, (getTenant u t).held = [c] ∧ c.kind = 4 ∧ c.flags = b.getD 9 0 ∧ c.waitctr.toNat = numAt b 10 2 ∧
          c.waitval.toNat = numAt b 16 8 ∧ c.jseq = (getTenant s t).jhead + 1)) ∧
  (∀ t s c rest, (getTenant s t).held = c :: rest → c.flags.getLsbD 1 = true →
    ((mapGet 0 s.counters c.waitctr.toNat).toNat < c.waitval.toNat → exec (.commandWaitRelease t) s = .next s) ∧
    (c.waitval.toNat ≤ (mapGet 0 s.counters c.waitctr.toNat).toNat →
      viewSettled s (mapGet .zero s.counterStamp c.waitctr.toNat) = false →
      ∃ u, exec (.commandWaitRelease t) s = .next u ∧ u = { s with agenda := s.agenda ++ [.commandWaitRelease t] }) ∧
    (c.waitval.toNat ≤ (mapGet 0 s.counters c.waitctr.toNat).toNat →
      viewSettled s (mapGet .zero s.counterStamp c.waitctr.toNat) = true →
      ∀ cs fl, (getTenant s t).running.find? (fun x => x.2.2 = c.jseq) = some (cs, fl, c.jseq) →
        (c.kind = 4 → ∃ u, exec (.commandWaitRelease t) s = .next u ∧ (getTenant u t).held = rest ∧
          RecordOwed u t (cs, fl, c.jseq, 3, 0)) ∧
        (c.kind = 2 → NoNodeWaits s c.arg0.toNat → ∃ u, exec (.commandWaitRelease t) s = .next u ∧ (getTenant u t).held = rest ∧
          RecordOwed u t (cs, fl, c.jseq, 3, 0) ∧ mapGet 0 u.counters c.arg0.toNat = mapGet 0 s.counters c.arg0.toNat + c.arg1)))

/-- Completion records (R269): the next record is written behind the last one, CPROD moves on and vector 0 tells the host where the
command asked for it; while the ring is full the record waits. -/
def Sys2Proof.Claims.CompletionRecords : Prop :=
  ∀ t s seq flags j state reason rest, (getTenant s t).completions = (seq, flags, j, state, reason) :: rest →
    let x := getTenant s t
    let ccons := numAt (hdmRead s t 0x10 8) 0 8
    0x20000 ≤ x.partSize → x.closed = [] →
    (x.cprod - ccons = 256 → ∃ u, exec (.completionRecord t) s = .next u ∧ u = { s with agenda := s.agenda ++ [.completionRecord t] }) ∧
    (x.cprod - ccons ≠ 256 →
      ∃ u, exec (.completionRecord t) s = .next u ∧ (getTenant u t).completions = rest ∧ (getTenant u t).cprod = x.cprod + 1 ∧
        (rest ≠ [] → .completionRecord t ∈ u.agenda) ∧
        u.sentOut = (if flags.getLsbD 0 then s.sentOut ++ [.msix t 0] else s.sentOut) ∧
        ∀ d < 4,
          (∀ i < 32, viewByte u d (dramBase + x.partBase + 0x8000 + x.cprod % 256 * 32 + i) =
            (leBytes 8 seq.toNat ++ leBytes 8 j ++ [state, reason]).getD i 0) ∧
          ∀ i < 8, viewByte u d (dramBase + x.partBase + 8 + i) = byteOf (x.cprod + 1) i)

/-! ### The edges of the device: DRAM, CXL.mem, Krytuk Link -/

namespace Sys2Proof.Claims

/-- An entry of the isolation table admits a CXL.mem request of `n` bytes (R283). -/
def Isolated (s : State) (r : CxlRequest) (n : Nat) : Prop :=
  ∃ e ∈ s.isolation, ∃ c, e.2 = some c ∧ c.spid = r.spid ∧ c.base ≤ r.addr ∧ r.addr + n ≤ c.base + c.size ∧
    (r.data = none → c.read = true) ∧ (r.data ≠ none → c.write = true)

/-- A line of a stretch of device memory lies on a page with KEYH ≠ 0 (R249). -/
def OnKeyedPage (s : State) (addr n : Nat) : Prop :=
  ∃ i, (dramBase + addr) / 64 + i ≤ (dramBase + addr + n - 1) / 64 ∧ keyedPage s (addr + 64 * i) = true

/-- No line of a stretch of memory was stored under a key, in any view. -/
def Unkeyed (s : State) (key n : Nat) : Prop := ∀ d < 4, ∀ k, key ≤ k → k < key + n → lineKeyOf s d k = .plain

/-- The one request of an arrived Krytuk flit under an identifier. -/
def LinkRequest (s : State) (id : Nat) (r : LinkReq) : Prop := s.linkReqs.find? (fun x => x.id = id) = some r

/-- The port has sent a flit (R280): 256 bytes with the next sequence number, the acknowledgement of what has come in order, the credits owed and
the CRC-64 of the rest; it is kept until the peer acknowledges it. -/
def FlitFrom (s t : State) (port : Nat) (f : List Byte) : Prop :=
  let p := mapGet .reset s.ports port
  f.length = 256 ∧ numAt f 0 4 = p.next % 4096 + 4096 * ((p.expected + 4095) % 4096) + 2 ^ 24 * (p.owed % 256) ∧ numAt f 244 4 = 0 ∧
    leWord (slice f 248 8) = crc64 (f.take 248) ∧
    mapGet .reset t.ports port = { p with next := (p.next + 1) % 4096, buffer := p.buffer ++ [(p.next, f)], owed := 0 }

/-- The request has been answered with a status and data in the slots of a flit of its port (R280, R281, log entry 14). -/
def LinkAnswered (s t : State) (r : LinkReq) (status : BitVec 8) (data : List Byte) : Prop :=
  t.linkReqs = s.linkReqs.filter (fun x => x.id ≠ r.id) ∧
    ∃ f, FlitFrom s t r.port f ∧ slice f 4 240 = (answerSlots r.number status data ++ List.replicate 240 0).take 240 ∧
      t.sentOut = s.sentOut ++ [.linkResponse r.port status data, .flit r.port f]

/-- What a device asks, as the peer that receives it reads it. -/
def AskedAs (q : PeerAsk) (k : LinkKind) : Prop :=
  (∃ n, 1 ≤ n ∧ n ≤ 64 ∧ q = .read n ∧ k = .read n) ∨ (∃ bs, 1 ≤ bs.length ∧ bs.length ≤ 64 ∧ q = .write bs ∧ k = .write bs) ∨
    ∃ a, q = .amo a ∧ k = .amo a

/-- A peer's group tenant stands for a tenant here, and the owner it names belongs to that tenant (R281, R282). -/
def PeerOwns (s : State) (r : LinkReq) (tn : Nat) : Prop :=
  mapGet 0 s.groupTenants ((r.hid.extractLsb' 17 6).toNat * 64 + r.group) = tn + 1 ∧ mapGet 0 s.owners r.own.toNat = tn + 1

end Sys2Proof.Claims

/-- DRAM_REQUEST_ISSUE and BUDGET_REFRESH (R278, R279, Table 17.5): a request costs its burst, an activation where its row is not open, and a turn
where its direction changes, charged to its tenant; a request of an exhausted tenant's core or copy engine is put off while one of a tenant
within its budget waits on the channel; at a µs boundary, and at no other time, the overrun of at most one budget becomes the debt of the µs that
begins, and bulk commands go on; a µs without a charge leaves no debt. -/
def Sys2Proof.Claims.Occupancy : Prop :=
  (∀ (req : DramRequest) (s : State),
    let ch := if req.lpddr then 0x1000 + req.channel else req.channel % 0x1000
    let c := mapGet .reset s.channels ch
    let k := if req.lpddr then 2 else 1
    let cost := 2 * k + (if c.row = some req.row then 0 else if req.lpddr then 18 else 12) +
      (if c.lastWrite = some (!req.write) then 4 * k else 0)
    (putOff s req = true → ∃ t, exec (.dramRequestIssue req) s = .next t ∧ t = { s with agenda := s.agenda ++ [.dramRequestIssue req] }) ∧
    (putOff s req = false → ∃ t, exec (.dramRequestIssue req) s = .next t ∧
      let sofar := if s.budgetAt < s.time / 1000 then [] else s.charges
      t = { s with
        channels := t.channels, charges := t.charges, debts := t.debts, budgetAt := max s.budgetAt (s.time / 1000), agenda := t.agenda } ∧
      (∀ e ∈ s.agenda, e ∈ t.agenda) ∧ (s.time / 1000 ≤ s.budgetAt → t.debts = s.debts) ∧
      (req.tenant ≠ none → .budgetRefresh ∈ t.agenda) ∧
      (∀ j, mapGet .reset t.channels j = if j = ch then ⟨some req.row, some req.write⟩ else mapGet .reset s.channels j) ∧
      (req.tenant = none → t.charges = sofar) ∧
      ∀ tn < 16, req.tenant = some tn → ∀ j, mapGet 0 t.charges j =
        if j = 16 * ch + tn then mapGet 0 sofar j + cost else mapGet 0 sofar j)) ∧
  (∀ s,
    (s.charges = [] ∧ s.debts = [] → exec .budgetRefresh s = .next s) ∧
    (¬(s.charges = [] ∧ s.debts = []) → s.time / 1000 ≤ s.budgetAt →
      ∃ t, exec .budgetRefresh s = .next t ∧ t = { s with agenda := s.agenda ++ [.budgetRefresh] }) ∧
    (¬(s.charges = [] ∧ s.debts = []) → s.budgetAt < s.time / 1000 →
      ∃ t, exec .budgetRefresh s = .next t ∧
        t = { s with charges := [], debts := t.debts, budgetAt := s.time / 1000, agenda := t.agenda } ∧
        (t.debts = if s.time / 1000 = s.budgetAt + 1 then
            mapVals 0 (fun k c =>
              let x := getTenant s (k % 16)
              let full := if 0x1000 ≤ k / 16 then x.lpddrBudget.toNat else x.hbmBudget.toNat
              min (c - (full - mapGet 0 s.debts (16 * (k / 16) + k % 16))) full) s.charges
          else []) ∧
        (t.debts ≠ [] → .budgetRefresh ∈ t.agenda) ∧ ∀ d < 4, .bulkChunkSelect d ∈ t.agenda))

/-- CXL_MEM_REQUEST (R249, R265, R283): what no isolation entry admits, and a line of a page with KEYH ≠ 0, completes with poison and changes
nothing; a read takes a line as its home holds it, a write puts its bytes into memory. That a write of the host goes to every view at once, and that
memory which no leaf maps counts as KEYH 0, is log entry 46. -/
def Sys2Proof.Claims.CxlMemory : Prop :=
  ∀ (req : CxlRequest) (s : State),
    let key := dramBase + req.addr
    let n := match req.data with
      | some bs => bs.length
      | none => 64
    let poisoned := ∃ t, exec (.cxlMemRequest req) s = .next t ∧ t = { s with sentOut := s.sentOut ++ [.cxlPoison] }
    (¬ Isolated s req n → poisoned) ∧
    (OnKeyedPage s req.addr n → poisoned) ∧
    (req.data = none → key / 64 ∈ s.badLines → poisoned) ∧
    (Isolated s req n → Unkeyed s key n → ¬ OnKeyedPage s req.addr n → dieOfPhys req.addr ≠ none → (∀ e ∈ s.tenants, e.2.closed = []) →
      (req.data = none → req.addr % 64 = 0 → key / 64 ∉ s.badLines → ∃ t, exec (.cxlMemRequest req) s = .next t ∧
        t = { s with sentOut := s.sentOut ++ [.cxlData ((List.range 64).map fun i => viewByte s (homeDie key) (key + i))] }) ∧
      (∀ bs, req.data = some bs → bs ≠ [] → ∃ t, exec (.cxlMemRequest req) s = .next t ∧ t.sentOut = s.sentOut ++ [.cxlDone] ∧
        (∀ d < 4, ∀ k, viewByte t d k = if key ≤ k ∧ k < key + bs.length then bs.getD (k - key) 0 else viewByte s d k) ∧
        t = { s with views := t.views, lineKeys := t.lineKeys, sentOut := t.sentOut, agenda := t.agenda }))

/-- KRYTUK_FLIT_RECEIVE, REMOTE_REQUEST_EXECUTE, LINK_TRAINING and LINK_RESET (R18, R280, R281): flits are delivered in sequence, one that fails its
CRC is asked for again; what a flit acknowledges leaves the buffer of its port, whose other flits may be sent again; every answer leaves in
a flit of 256 bytes with its CRC-64; a peer's request runs under the rights of this device; training gives the device its number; a reset of a
port leaves what waits for it with the data of a failed read. What one device asks in the slots of a flit another reads as that request. The form
of CRC, credits, acknowledgements and slots is log entry 14, when a port sends its flits again log entry 78, what is lost with a port log
entry 56. -/
def Obligations.KrytukLink : Prop :=
  (∀ port (f : List Byte) (s : State),
    let p := mapGet .reset s.ports port
    let h := numAt f 0 4
    (f.length = 256 → numAt f 244 4 = 0 → leWord (slice f 248 8) = crc64 (f.take 248) → h % 4096 = p.expected →
      ∃ t, exec (.krytukFlitReceive port f) s = .next t ∧
        mapGet .reset t.ports port =
          { p with
            expected := (p.expected + 1) % 4096, acked := h / 4096 % 4096, credits := p.credits + h / 2 ^ 24 % 256
            buffer := dropAcked (h / 4096 % 4096) p.buffer, owed := p.owed + (flitRequests port (slice f 4 240)).length } ∧
        t.linkReqs.take s.linkReqs.length = s.linkReqs ∧
        (t.linkReqs.drop s.linkReqs.length).map (fun r => { r with id := 0 }) = flitRequests port (slice f 4 240) ∧
        (∀ r ∈ t.linkReqs.drop s.linkReqs.length, .remoteRequestExecute r.id ∈ t.agenda) ∧
        (t.sentOut = s.sentOut ∨
          t.sentOut = s.sentOut ++ (dropAcked (h / 4096 % 4096) p.buffer).map fun e => .flit port e.2)) ∧
    (leWord (slice f 248 8) ≠ crc64 (f.take 248) ∨ h % 4096 ≠ p.expected →
      ∃ t, exec (.krytukFlitReceive port f) s = .next t ∧ t = { s with sentOut := s.sentOut ++ [.linkReplay port p.expected] })) ∧
  (∀ port hid own group tag addr q k, group < 64 → tag < 256 → addr < 2 ^ 56 → AskedAs q k →
    flitRequests port ((askSlots hid own group tag addr q ++ List.replicate 240 0).take 240) =
      [⟨0, port, k, hid, own, group, BitVec.ofNat 64 (tag * 2 ^ 56 + addr), addr % 2 ^ 48⟩]) ∧
  (∀ id r s, LinkRequest s id r →
    (r.kind = .release → ∃ t, exec (.remoteRequestExecute id) s = .next t ∧ LinkAnswered s t r 0 []) ∧
    (∀ n, r.kind = .read n →
      (mapGet 0 s.groupTenants ((r.hid.extractLsb' 17 6).toNat * 64 + r.group) = 0 →
        ∃ t, exec (.remoteRequestExecute id) s = .next t ∧ LinkAnswered s t r 0x21 []) ∧
      (∀ tn u x bs, PeerOwns s r tn → ranged r.addr = true → r.addr.toNat % 64 + n ≤ 64 →
        engineCheck s ⟨0, noHart, r.own, BitVec.ofNat 4 tn, 0⟩ r.addr 1 false n = .ok u x → x.route = 0 →
        readTarget u (homeDie x.key) noHart x n = some bs →
        ∃ t, exec (.remoteRequestExecute id) s = .next t ∧ LinkAnswered s t r 0 bs ∧ t.views = s.views)) ∧
    (∀ bs tn u x, r.kind = .write bs → PeerOwns s r tn → regionOf (r.addr.toNat % 2 ^ 56) = .vault → r.addr.toNat % 64 + bs.length ≤ 64 →
      engineCheck s ⟨0, noHart, r.own, BitVec.ofNat 4 tn, 0⟩ r.addr 2 true bs.length = .ok u x → x.key / 64 ∉ s.badLines →
      ∃ t, exec (.remoteRequestExecute id) s = .next t ∧ LinkAnswered s t r 0 [] ∧
        ∀ i < bs.length, viewByte t (homeCore x.key / 4096) (x.key + i) = bs.getD i 0) ∧
    (∀ n v, r.kind = .response n v →
      (∀ o, awaited s n = some o →
        ∃ t, exec (.remoteRequestExecute id) s = .next t ∧ Answered s t o.id (.value v false) .zero ∧ .homeReplyArrival o.id ∈ t.agenda) ∧
      (awaited s n = none → ∃ t, exec (.remoteRequestExecute id) s = .next t ∧
        t = { s with linkReqs := s.linkReqs.filter (fun x => x.id ≠ r.id) }))) ∧
  (∀ dev grouped s, ∃ t, exec (.linkTraining dev grouped) s = .next t ∧ t.dev = (if grouped then dev else 0) ∧ t.grouped = grouped ∧
    (∀ i < 16, mapGet .reset t.ports i = { mapGet .reset s.ports i with up := true }) ∧
    t = { s with dev := t.dev, grouped := t.grouped, ports := t.ports }) ∧
  (∀ port s, ∃ t, exec (.linkReset port) s = .next t ∧ mapGet .reset t.ports port = { LinkPort.reset with up := true } ∧
    t.linkReqs = s.linkReqs.filter (fun r => r.port ≠ port) ∧
    ∀ o ∈ s.ops, o.route = 1 → o.reply = none → Config.portOf (deviceOf o.key) % 16 = port →
      ((∃ a b c d, o.kind = .msg a b c d) →
        .homeReplyArrival o.id ∈ t.agenda ∧ ∀ p ∈ t.ops, p.id = o.id → p.reply = some (.value (BitVec.allOnes 64) true)) ∧
      ((∀ a b c d, o.kind ≠ .msg a b c d) → ∀ p ∈ t.ops, p.id ≠ o.id))

/-! ### Settings, firmware update, attestation, key release, sensors and power -/

namespace Sys2Proof.Claims

/-- The management controller answers and nothing else happens (R288, R290). -/
def PldmOnly (s : State) (i : Instr) (r : PldmReply) : Prop :=
  ∃ t, exec i s = .next t ∧ t = { s with sentOut := s.sentOut ++ [.pldm r] }

/-- The time of the slices goes on where harts hold contexts (R75, R288). -/
def SlicesGoOn (s t : State) : Prop :=
  ∀ c k, sliceAt t c k =
    if (sliceAt s c k).held = true ∧ (sliceAt s c k).ended = none ∧ (sliceAt s c k).since = none ∧ sliceHarts s c k ≠ [] then
      { sliceAt s c k with since := some s.time }
    else sliceAt s c k

/-- The security engine answers with an error and nothing else happens (R262). -/
def SpdmError (s : State) (i : Instr) : Prop := ∃ t, exec i s = .next t ∧ t = { s with sentOut := s.sentOut ++ [.spdm .error] }

/-- A request in the clear: it and the answer enter the transcript, and the phase is as given (R262). -/
def SpdmPlain (s : State) (i : Instr) (p : SpdmPhase) (log body : List Byte) : Prop :=
  ∃ t, exec i s = .next t ∧ t = { s with spdm := p, spdmLog := log ++ body, sentOut := s.sentOut ++ [.spdm (.plain body)] }

/-- A signed answer: both signatures are over the hash of the transcript with the request and the answer in it (R262). -/
def SpdmSigned (s : State) (i : Instr) (p : SpdmPhase) (log body : List Byte) : Prop :=
  let h := Crypto.digest (log ++ body)
  ∃ t, exec i s = .next t ∧ t = { s with
    spdm := p, spdmLog := log ++ body, spdmSigned := some h
    sentOut := s.sentOut ++ [.spdm (.signed body (Config.ecdsaSignature h) (Config.lmsSignature h))] }

/-- Algorithms have been agreed (R262). -/
def Agreed (p : SpdmPhase) : Prop := p = .negotiated ∨ (∃ k, p = .exchanged k) ∨ ∃ k, p = .secure k

/-- Instances of each sensor (Table 18.3). -/
def sensorTable : List (Nat × Nat) :=
  [(0x01, 1), (0x02, 4), (0x03, 4), (0x10, 5), (0x20, 8), (0x30, 4), (0x40, 4), (0x41, 4), (0x50, 16), (0x60, 1), (0x61, 1), (0x70, 1),
    (0x80, 1)]

end Sys2Proof.Claims

/-- Settings of the operating services (R60, R68, R263, R265, R278, R282, R283): tenant table and budgets, window table and group tenants, counters,
isolation entries, partitions; a change of the layout raises the layout epoch. That an entry outside its limits changes nothing, and that every entry
written to the tenant table raises the epoch, is log entry 52. -/
def Obligations.Settings : Prop :=
  (∀ tn w sl dl s, tn < 16 →
    (dl ≠ 0 → dl.toNat ≤ 10000 →
      ∃ t, exec (.tenantConfig tn (.entry w sl dl)) s = .next t ∧
        getTenant t tn = { getTenant s tn with weight := w, slice := sl, deadline := dl } ∧ t.layoutEpoch = s.layoutEpoch + 1 ∧
        (∀ k, k ≠ tn → getTenant t k = getTenant s k) ∧
        t = { s with tenants := t.tenants, layoutEpoch := t.layoutEpoch, agenda := t.agenda }) ∧
    (dl = 0 ∨ 10000 < dl.toNat → exec (.tenantConfig tn (.entry w sl dl)) s = .next s)) ∧
  (∀ tn hbm lp s, tn < 16 →
    ∃ t, exec (.tenantConfig tn (.budget hbm lp)) s = .next t ∧
      getTenant t tn = { getTenant s tn with hbmBudget := hbm, lpddrBudget := lp } ∧ (∀ k, k ≠ tn → getTenant t k = getTenant s k) ∧
      t = { s with tenants := t.tenants }) ∧
  (∀ i base gib route dev direct target s, i < 256 → base.toNat % 0x40000000 = 0 → 1 ≤ route.toNat → route.toNat ≤ 3 → dev.toNat < 64 →
    ∃ t, exec (.groupConfig (.window i base gib route dev direct target)) s = .next t ∧
      (∀ k, mapGet none t.windows k =
        if k = i then (if gib = 0 then none else some ⟨base, gib.toNat, route.toNat, dev.toNat, direct, target⟩)
        else mapGet none s.windows k) ∧
      (gib ≠ 0 → s.cores ≠ [] → ∃ d ∈ t.shootdowns, .page base.toNat (gib.toNat * 0x40000000) ∈ d.what)) ∧
  (∀ d g tn s, d < 64 → g < 64 →
    ∃ t, exec (.groupConfig (.tenant d g tn)) s = .next t ∧ t = { s with groupTenants := t.groupTenants } ∧
      ∀ k, mapGet 0 t.groupTenants k =
        if k = d * 64 + g then (match tn with | some n => n % 16 + 1 | none => 0) else mapGet 0 s.groupTenants k) ∧
  (∀ c tn s, c < 0x4000 → tn < 16 → NoNodeWaits s c →
    ∃ t, exec (.counterAssign c tn) s = .next t ∧ t = { s with counterOwner := t.counterOwner, harts := t.harts, agenda := t.agenda } ∧
      (∀ h, (∀ v, (getHart s h).wait ≠ some (.counter c v)) → getHart t h = getHart s h) ∧
      ∀ k, mapGet 0 t.counterOwner k = if k = c then tn + 1 else mapGet 0 s.counterOwner k) ∧
  (∀ e cfg s, e < 512 →
    ∃ t, exec (.isolationSet e cfg) s = .next t ∧ t = { s with isolation := t.isolation, layoutEpoch := s.layoutEpoch + 1 } ∧
      ∀ k, mapGet none t.isolation k = if k = e then some cfg else mapGet none s.isolation k) ∧
  (∀ tn base size va s, tn < 16 → 0x20 ≤ size → (getTenant s tn).closed = [] →
    ∃ t, exec (.layoutSet tn base size va) s = .next t ∧
      getTenant t tn = { getTenant s tn with partBase := base, partSize := size, ldbase := va } ∧ t.layoutEpoch = s.layoutEpoch + 1 ∧
      ∀ d < 4, ∀ i < 8, viewByte t d (dramBase + base + 0x18 + i) = byteOf va.toNat i)

/-- Firmware update and handover (R288, R289): an image arrives in a secure session for the bank that is not active; activation verifies it,
burns its LMS leaf and begins the handover, whose steps are quiesce, which lets the slices' time stand still, switch, which loads the new
bank's services and walk store once the services in flight are done, and release; a failed self-test loads the old bank again, which stays
active. BUSY for an image that arrives during an update, where R289 gives it for a second activation, and VERIFY_FAILED where the bank holds no
image are the model's choices (log entry 53). -/
def Sys2Proof.Claims.FirmwareUpdate : Prop :=
  (∀ image s,
    ((∀ k, s.spdm ≠ .secure k) → PldmOnly s (.firmwareImageReceive image) .noSession) ∧
    (∀ k, s.spdm = .secure k →
      (s.firmware.updating = true → PldmOnly s (.firmwareImageReceive image) .busy) ∧
      (s.firmware.updating = false →
        ∃ t, exec (.firmwareImageReceive image) s = .next t ∧
          t = { s with firmware := t.firmware, sentOut := s.sentOut ++ [.pldm .success] } ∧
          t.firmware = { s.firmware with banks := t.firmware.banks } ∧
          ∀ b, mapGet none t.firmware.banks b = if b = 1 - s.firmware.active then some image else mapGet none s.firmware.banks b))) ∧
  (∀ s, (s.firmware.updating = true → PldmOnly s .firmwareActivate .busy) ∧
    (s.firmware.updating = false → match mapGet none s.firmware.banks (1 - s.firmware.active) with
      | none => PldmOnly s .firmwareActivate .verifyFailed
      | some i =>
        if Config.ecdsaVerifies i.digest i.ecdsa = true ∧ Config.lmsVerifies i.digest i.lms = true ∧ s.firmware.secVersion ≤ i.version ∧
            s.firmware.lastLeaf < i.leaf then
          ∃ t, exec .firmwareActivate s = .next t ∧ t = { s with
            firmware := { s.firmware with updating := true, switched := false, lastLeaf := i.leaf }
            sentOut := s.sentOut ++ [.pldm .success], agenda := s.agenda ++ [.handover .quiesce] }
        else PldmOnly s .firmwareActivate .verifyFailed)) ∧
  (∀ s, s.firmware.updating = true →
    (s.firmware.quiesced = false →
      ∃ t, exec (.handover .quiesce) s = .next t ∧
        t = { s with
          clusters := t.clusters, firmware := { s.firmware with quiesced := true }, agenda := s.agenda ++ [.handover .switch] } ∧
        ∀ c k, sliceAt t c k = { sliceAt s c k with used := (sliceAt s c k).heldFor s.time, since := none }) ∧
    (s.firmware.quiesced = true → s.firmware.switched = false → (∀ v ∈ allSlots s, v.status ≠ none ∨ v.proxy ≠ none) →
      ∃ t, exec (.handover .switch) s = .next t ∧
        t = { s with
          firmware := { s.firmware with
            switched := true, loads := s.firmware.loads + 1
            walkStore := (mapGet none s.firmware.banks (1 - s.firmware.active)).map fun i => i.walkStore }
          agenda := s.agenda ++ [.handover .release] }) ∧
    (s.firmware.quiesced = true → s.firmware.switched = false → (∃ v ∈ allSlots s, v.status = none ∧ v.proxy = none) →
      ∃ t, exec (.handover .switch) s = .next t ∧ t = { s with agenda := s.agenda ++ [.handover .switch] }) ∧
    (s.firmware.switched = true → ∀ i, mapGet none s.firmware.banks (1 - s.firmware.active) = some i →
      ∃ t, exec (.handover .release) s = .next t ∧ SlicesGoOn s t ∧ t = { s with
        clusters := t.clusters
        firmware := { s.firmware with
          updating := false, quiesced := false, switched := false, active := 1 - s.firmware.active
          secVersion := max s.firmware.secVersion i.version } }) ∧
    (s.firmware.switched = true →
      ∃ t, exec .firmwareSelftestFail s = .next t ∧ SlicesGoOn s t ∧ t = { s with
        clusters := t.clusters
        firmware := { s.firmware with
          updating := false, quiesced := false, switched := false, loads := s.firmware.loads + 1
          walkStore := (mapGet none s.firmware.banks s.firmware.active).map fun i => i.walkStore }
        sentOut := s.sentOut ++ [.pldm .updateFailed] }))

/-- Attestation (R262, Table 16.5): the exchange goes through its phases in order, evidence is given only once the algorithms have been
agreed, and an answer that is signed is signed twice over one transcript; block 0xFE is the second signature of the last answer that was
signed. The request codes and the transcript's form are PRESUMED (log entry 15), the order of the bytes of block 0x05 is log entry 72, and an answer's
body is free where the spec names only the request. -/
def Sys2Proof.Claims.Attestation : Prop :=
  (∀ s, SpdmPlain s .getVersion .versioned [0x84] [0x13]) ∧
  (∀ s, (s.spdm = .versioned → SpdmPlain s .getCapabilities .capable (s.spdmLog ++ [0xE1]) (Config.spdmBody 0xE1 s.tick)) ∧
    (s.spdm ≠ .versioned → SpdmError s .getCapabilities)) ∧
  (∀ a h s, (s.spdm = .capable → a = true → h = true → SpdmPlain s (.negotiateAlgorithms a h) .negotiated (s.spdmLog ++ [0xE3]) (Config.spdmBody 0xE3 s.tick)) ∧
    (s.spdm ≠ .capable ∨ a = false ∨ h = false → SpdmError s (.negotiateAlgorithms a h))) ∧
  (∀ s, Agreed s.spdm →
    SpdmPlain s .getDigests s.spdm (s.spdmLog ++ [0x81]) (leBytes 48 (Crypto.digest Config.certificate).toNat) ∧
    (∀ o n, SpdmPlain s (.getCertificate o n) s.spdm (s.spdmLog ++ [0x82]) ((Config.certificate.drop o).take n)) ∧
    (∀ x, SpdmSigned s (.challenge x) s.spdm (s.spdmLog ++ 0x83 :: leBytes 32 x.toNat) (Config.spdmBody 0x83 s.tick)) ∧
    (∀ x, SpdmSigned s (.keyExchange x) (.exchanged (Config.sessionKey x s.tick)) (s.spdmLog ++ 0xE4 :: leBytes 96 x.toNat) (Config.spdmBody 0xE4 s.tick)) ∧
    (∀ i tn j, ∀ l, findLaunch s tn (BitVec.ofNat 64 j) = some l → i = 0x10 →
      SpdmSigned s (.getMeasurements i tn j) s.spdm (s.spdmLog ++ 0xE0 :: i :: leBytes 1 tn ++ leBytes 8 j)
        (leBytes 8 l.seq.toNat ++ leBytes 48 l.measure.toNat ++ leBytes 2 l.keyh.toNat)) ∧
    (∀ i tn j, i = 0x05 →
      SpdmSigned s (.getMeasurements i tn j) s.spdm (s.spdmLog ++ 0xE0 :: i :: leBytes 1 tn ++ leBytes 8 j)
        (leBytes 8 s.layoutEpoch ++ leBytes 48 (Crypto.digest (layoutBytes s)).toNat)) ∧
    ∀ i tn j h, i = 0xFE → s.spdmSigned = some h →
      SpdmSigned s (.getMeasurements i tn j) s.spdm (s.spdmLog ++ 0xE0 :: i :: leBytes 1 tn ++ leBytes 8 j) (Config.lmsSignature h)) ∧
  (∀ s, ¬ Agreed s.spdm → SpdmError s .getDigests ∧ (∀ o n, SpdmError s (.getCertificate o n)) ∧ (∀ x, SpdmError s (.challenge x)) ∧
    (∀ x, SpdmError s (.keyExchange x)) ∧ ∀ i tn j, SpdmError s (.getMeasurements i tn j)) ∧
  (∀ v s, (∀ k, s.spdm = .exchanged k →
      (v = Config.finishTag k → SpdmPlain s (.finish v) (.secure k) (s.spdmLog ++ 0xE5 :: leBytes 48 v.toNat) (Config.spdmBody 0xE5 s.tick)) ∧
      (v ≠ Config.finishTag k → SpdmError s (.finish v))) ∧
    ((∀ k, s.spdm ≠ .exchanged k) → SpdmError s (.finish v)))

/-- KEY_RELEASE (R264, Tables 16.6 and 16.7): only in a secure session, under the present layout epoch, for a free shared handle, with at most 16
measurements and material that unwraps under the session key; the handle then holds the key and admits the images measured. The fields lie
where Table 16.6 has them. HANDLE_BUSY for a handle outside the shared class is log entry 15, zeros for what a short request lacks log entry 72. -/
def Sys2Proof.Claims.KeyRelease : Prop :=
  ∀ (b : List Byte) (s : State),
    let fails := fun (r : KeyReply) => ∃ t, exec (.keyRelease b) s = .next t ∧ t = { s with sentOut := s.sentOut ++ [.keyRelease r] }
    ((∀ k, s.spdm ≠ .secure k) → fails .noSession) ∧
    ∀ k, s.spdm = .secure k →
      let h := numAt b 0 2
      let count := numAt b 2 2
      let epoch := numAt b 4 8
      let owner := mapGet 0 s.handleTenants h
      let open' := 0x800 ≤ h ∧ h < 0xFFF ∧ mapGet none s.keys (h % 4096) = none ∧ owner = 0
      (epoch ≠ s.layoutEpoch → fails .layoutStale) ∧
      (epoch = s.layoutEpoch → h < 0x800 ∨ 0xFFF ≤ h ∨ mapGet none s.keys (h % 4096) ≠ none → fails .handleBusy) ∧
      (epoch = s.layoutEpoch → open' → 16 < count → fails .policyInvalid) ∧
      (epoch = s.layoutEpoch → open' → count ≤ 16 →
        match unwrapMaterial k (BitVec.ofNat 320 (numAt b 12 40)) with
        | none => fails .policyInvalid
        | some _ =>
          ∃ t v, exec (.keyRelease b) s = .next t ∧ t = { s with keys := t.keys, sentOut := s.sentOut ++ [.keyRelease .success] } ∧
            mapGet none t.keys h = some v ∧ v.live = true ∧
            v.policy = (List.range count).map (fun i => BitVec.ofNat 384 (numAt b (52 + 48 * i) 48)) ∧
            ∀ j, j ≠ h → mapGet none t.keys j = mapGet none s.keys j)

/-- Sensors, throttling, caps, Idle clusters and timers (R290, R292, R326, Table 18.3): a sensor that updates on change shows its value, another what it
showed at its last update. That THERMAL_THROTTLE gives the steps from 3.3 GHz and not from where the clock stands is log entry 53; whether the service
that a timer starts also makes SOFTWARE pending in some context is free (log entry 11). -/
def Sys2Proof.Claims.SensorsAndPower : Prop :=
  (∀ id inst s,
    ((∀ e ∈ sensorTable, e.1 = id.toNat → e.2 ≤ inst) →
      PldmOnly s (.sensorRead id inst) .noSensor ∧ exec (.sensorUpdate id inst) s = .next s) ∧
    (∀ n, (id.toNat, n) ∈ sensorTable → inst < n →
      (id.toNat < 0x60 → PldmOnly s (.sensorRead id inst) (.reading (mapGet 0 s.sensors (16 * id.toNat + inst)))) ∧
      (id.toNat = 0x61 → PldmOnly s (.sensorRead id inst) (.reading (BitVec.ofNat 64 s.layoutEpoch))) ∧
      (id.toNat = 0x70 → PldmOnly s (.sensorRead id inst) (.reading (s.firmware.bootState.setWidth 64))) ∧
      (id.toNat = 0x41 → ∃ t, exec (.sensorUpdate id inst) s = .next t ∧ t = { s with sensors := t.sensors } ∧
        ∀ k, mapGet 0 t.sensors k =
          if k = 16 * id.toNat + inst then BitVec.ofNat 64 (mapGet 0 s.errors inst) else mapGet 0 s.sensors k))) ∧
  (∀ steps s, ∃ t, exec (.thermalThrottle steps) s = .next t ∧ t = { s with power := { s.power with stepsDown := min 21 steps } }) ∧
  (∀ w s, 1200 ≤ w → w ≤ 2400 → ∃ t, exec (.powerCapSet w) s = .next t ∧ t = { s with power := { s.power with cap := some w } }) ∧
  (∀ clus s, (getCluster s clus).idle = false → clusterEmpty s clus = true → isOsCluster s clus = false →
    (s.time < (getCluster s clus).emptySince + 10000 →
      ∃ t, exec (.clusterIdleEntry clus) s = .next t ∧ t = { s with agenda := s.agenda ++ [.clusterIdleEntry clus] }) ∧
    ((getCluster s clus).emptySince + 10000 ≤ s.time →
      ∃ t, exec (.clusterIdleEntry clus) s = .next t ∧ getCluster t clus = { getCluster s clus with idle := true } ∧
        t = { s with clusters := t.clusters, cores := t.cores } ∧
        ∀ g, getCore t g =
          if g / 16 = clus then { getCore s g with l1 := [], icache := [], tlb := [], l2 := [], plb := [] } else getCore s g)) ∧
  (∀ clus s, ∃ t, exec (.clusterWake clus) s = .next t ∧
    t = { s with clusters := t.clusters, agenda := s.agenda ++ (if clusterEmpty s clus then [.clusterIdleEntry clus] else []) } ∧
    getCluster t clus = { getCluster s clus with
      idle := false, emptySince := if clusterEmpty s clus then s.time else (getCluster s clus).emptySince } ∧ ∀ c, c ≠ clus → getCluster t c = getCluster s c) ∧
  (∀ h s, isOsCluster s (h / 16 / 16) = true → (getHart s h).tenure = .running → isHandler h = false →
    ∃ t k, exec (.serviceTimerExpiry h) s = .next t ∧ t = { s with harts := t.harts } ∧
      ∀ j, getHart t j = { getHart s j with
        ipend := (getHart s j).ipend ||| (if j = h then 0x04 else 0) ||| (if k = some j then 0x01 else 0) })

/-! ### Resets -/

namespace Sys2Proof.Claims

/-- A reset has ended a launch (R291). -/
def EndedByReset (t : State) (n : Nat) : Prop :=
  ∃ l, getLaunch t n = some l ∧ l.phase = .ending ∧ l.final = 4 ∧ l.reason = 0x0A

def Running (s : State) (n : Nat) : Prop := ∃ l, getLaunch s n = some l ∧ l.phase = .running

/-- A core on which the operating services start again: one of a cluster set aside for them, unless every core is held in reset (R27, R28). -/
def OsCore (t : State) (g : Nat) : Prop := isOsCluster t (g / 16) = true ∧ t.firmware.bootState ≠ 3

/-- Contexts, slice, queues, caches, translations and lookaside entries of a core are as after reset, and its local SRAM reads zero (Table 18.4);
Shaten runs again in context 0 of an operating-service core. -/
def CoreCleared (t : State) (g : Nat) : Prop :=
  (∀ h, h / 16 = g → (OsCore t g ∧ h % 16 = 0 → getHart t h = .shaten) ∧ (¬(OsCore t g ∧ h % 16 = 0) → getHart t h = .reset)) ∧
    ((getCore t g).slice = .reset ∧ (getCore t g).queues = [] ∧ (getCore t g).l1 = [] ∧ (getCore t g).icache = [] ∧
      (getCore t g).tlb = [] ∧ (getCore t g).l2 = [] ∧ (getCore t g).plb = [] ∧ (getCore t g).matrixQ = [] ∧
      (getCore t g).lastTag = 255 ∧ (OsCore t g → (getCore t g).banks = 1) ∧ (¬OsCore t g → (getCore t g).banks = Core.reset.banks)) ∧
    ∀ d k, k < 0x20000 → viewByte t d (0x100000000 + g * 0x20000 + k) = 0

/-- No tenant reset is under way. -/
def NoTenantReset (s : State) : Prop := ∀ e ∈ s.tenants, e.2.stopped = false

/-- The reset of a tenant that was under way is superseded (R291): it takes no further step, and the tenant's window is open. -/
def Superseded (t : State) (tn : Nat) : Prop := (getTenant t tn).stopped = false ∧ .tenantReset tn ∉ t.agenda

/-- Nobody but running contexts of some cores stands at a barrier there. -/
def BarriersRun (s : State) (p : Nat → Prop) : Prop :=
  ∀ b ∈ s.barriers, ∀ h ∈ b.arrived, p (h / 16) → (getHart s h).tenure = .running ∧ isHandler h = false

end Sys2Proof.Claims

/-- CORE_RESET and CLUSTER_RESET (R291, Table 18.4): the cores are cleared; a cluster reset also clears vault and queues and ends every launch
that has lost something there. While the device is held off they are absorbed. That a reset takes one step, and what a launch loses, is log
entry 16; that absorbed resets leave no trace log entry 73. -/
def Sys2Proof.Claims.CoreResets : Prop :=
  (∀ g s, g < 16384 → s.power.off = false → BarriersRun s (· = g) → ∃ t, exec (.coreReset g) s = .next t ∧ CoreCleared t g) ∧
  (∀ c s, c < 1024 → s.power.off = false → BarriersRun s (fun g => g / 16 = c) →
    ∃ t, exec (.clusterReset c) s = .next t ∧ (∀ g, g / 16 = c → CoreCleared t g) ∧
      (OsCore s (16 * c) → getCluster t c = .reset) ∧ (¬OsCore s (16 * c) → getCluster t c = { Cluster.reset with emptySince := s.time }) ∧
      (∀ d k, k < 0x1000000 → viewByte t d (0x200000000 + c * 0x1000000 + k) = 0) ∧
      ∀ n, Running s n → launchLoses s (fun x => x = c) n = true → EndedByReset t n) ∧
  (∀ g s, s.power.off = true → exec (.coreReset g) s = .next s ∧ exec (.clusterReset g) s = .next s)

/-- ENGINE_RESET, BULK_RESET and WALKER_RESET (R291): the commands of the unit fault DEVICE_ERROR; a home operation that runs finishes first; the walk
of a walker starts again, under the walk store that is loaded now. Every one of them supersedes a tenant reset under way: what that means is log
entry 73. -/
def Sys2Proof.Claims.UnitResets : Prop :=
  (∀ g s m, (getCore s g).cmds = [m] → m.kind = .copy → m.state = .queued ∨ m.state = .running → Present s m.hart m.gen →
    ∃ t, exec (.engineReset g .copyEngine) s = .next t ∧ CmdNow s t g m.tag { m with state := .faulted 0x26 } ∧
      (getHart t m.hart).faults = (getHart s m.hart).faults ++
        [⟨0x26, 1, BitVec.ofNat 8 m.tag, m.fromS, m.src + BitVec.ofNat 64 m.moved, BitVec.ofNat 64 (m.base + m.moved),
          BitVec.ofNat 64 (m.total - (m.base + m.moved))⟩]) ∧
  (∀ g s, (∀ e ∈ s.clusters, e.2.gangs = []) →
    ∃ t, exec (.engineReset g .slice) s = .next t ∧ (getCore t g).slice = .reset ∧ (getCore t g).matrixQ = [] ∧
      ∀ c, (getCore s g).matrixQ = [c] → Present s c.hart c.gen → ((getHart s c.hart).faults.filter (·.kind = 4)).length < 8 →
        (getHart t c.hart).faults = (getHart s c.hart).faults ++ [⟨0x26, 4, 0xFF, c.fromS, 0, 0, 0⟩]) ∧
  (∀ g s, (NoTenantReset s → (getHart s (g * 16 + 8)).tenure = .free → exec (.engineReset g .homeDatapath) s = .next s) ∧
    (NoTenantReset s → (getHart s (g * 16 + 8)).tenure ≠ .free →
      ∃ t, exec (.engineReset g .homeDatapath) s = .next t ∧ t = { s with agenda := s.agenda ++ [.engineReset g .homeDatapath] }) ∧
    ∀ tn, (getTenant s tn).stopped = true → ∃ t, exec (.engineReset g .homeDatapath) s = .next t ∧ Superseded t tn) ∧
  (∀ die unit g tag s m, (getDie s die).bulkRunning[unit]? = some m.serial → HasCmd s g tag m → m.kind = .bulk → m.state = .running →
    Present s m.hart m.gen → (∀ y ∈ (getCore s g).cmds, y.tag = tag → y = m) →
    (∀ e ∈ s.cores, ∀ y ∈ e.2.cmds, y.serial = m.serial → e.1 = g ∧ y = m) →
    ∃ t, exec (.bulkReset die unit) s = .next t ∧ CmdNow s t g tag { m with state := .faulted 0x26 } ∧
      (getHart t m.hart).faults = (getHart s m.hart).faults ++
        [⟨0x26, 2, BitVec.ofNat 8 tag, m.fromS, m.src + BitVec.ofNat 64 m.moved, BitVec.ofNat 64 (m.base + m.moved),
          BitVec.ofNat 64 (m.total - (m.base + m.moved))⟩]) ∧
  ∀ die unit s,
    ((getDie s die).walks.length ≤ unit ∨ 16 ≤ unit → exec (.walkerReset die unit) s = .next s) ∧
    ∀ w, NoTenantReset s → unit < 16 → (getDie s die).walks[unit]? = some w →
      ∃ t, exec (.walkerReset die unit) s = .next t ∧ t = { s with dies := t.dies } ∧
        getDie t die = { getDie s die with walks := (getDie s die).walks.eraseIdx unit ++ [{ w with store := s.firmware.walkStore }] } ∧
        ∀ d, d ≠ die → getDie t d = getDie s d

/-- DIE_RESET, WARM_RESET and COLD_RESET (R27, R28, R123, R263, R289, R291, Table 18.4): what each clears and keeps. A cold reset clears the layout,
so the layout epoch rises, and leaves the device off until it is released, for how long is free; meanwhile other resets are absorbed; then the
device boots from the active bank, which is the one that an update past its switch has written. That a die reset ends every running launch is log
entry 16, absorbed resets and the free time for which a cold reset is held log entry 73, that the active bank stays after a fallback log entry 74,
and that the root of the tables is afterwards the one of die 0's view on every die log entry 77. -/
def Sys2Proof.Claims.DeviceResets : Prop :=
  (∀ die s, die < 4 → s.power.off = false → BarriersRun s (fun g => g / 4096 = die) → Memory.wf s = true →
    ∃ t, exec (.dieReset die) s = .next t ∧ (∀ g, g / 4096 = die → CoreCleared t g) ∧ (∀ n, Running s n → EndedByReset t n) ∧
      (∀ c, c / 4096 = die → mapGet 0 t.counters c = 0 ∧ mapGet 0 t.counterOwner c = 0) ∧ (∀ f ∈ t.flights, f.dst ≠ die) ∧
      (s.firmware.switched = false → t.firmware.updating = false) ∧
      ∀ k, viewByte t die k = viewByte t (homeDie k) k) ∧
  (∀ s, s.power.off = false → Memory.wf s = true →
    ∃ t, exec .warmReset s = .next t ∧ t.harts = (if s.firmware.bootState = 3 then [] else shatenHarts s.firmware.osMask) ∧
      t.cores = (if s.firmware.bootState = 3 then [] else shatenCores s.firmware.osMask) ∧ t.clusters = [] ∧ t.counters = [] ∧
      t.keys = [] ∧ t.rights = [] ∧ t.ranges = [] ∧ t.ops = [] ∧ t.layoutEpoch = s.layoutEpoch ∧ t.time = s.time ∧
      (∀ d < 4, ptrootOf t d = ptrootOf s 0) ∧ t.windows = s.windows ∧ (∀ tn, (getTenant t tn).stopped = false) ∧
      (∀ d k, k < dramBase → viewByte t d k = 0) ∧
      (∀ n l, getLaunch s n = some l → ∃ v, getLaunch t n = some v ∧ v.phase = .retired ∧
        (l.phase = .running → v.final = 4 ∧ v.reason = 0x0A)) ∧
      ((∀ n, ¬ Running s n) → (∀ e ∈ s.tenants, e.2.closed = [] ∧ ∀ j ∈ e.2.journal, j.kind ≠ 0x82) → ∀ d < 4, ∀ k, dramBase ≤ k →
        viewByte t d k = viewByte s (homeDie k) k)) ∧
  (∀ s, s.power.off = false → ∃ t, exec .coldReset s = .next t ∧
    t = { State.reset with
      tick := s.tick, serial := s.serial, outer := s.outer, nextKey := s.nextKey, layoutEpoch := s.layoutEpoch + 1
      sentOut := s.sentOut, firmware := s.firmware, harts := [], cores := [], agenda := [.coldReset]
      power := { State.reset.power with off := true } }) ∧
  (∀ s, s.power.off = true → (∀ d, exec (.dieReset d) s = .next s) ∧ exec .warmReset s = .next s ∧
    let bank := if s.firmware.switched then 1 - s.firmware.active else s.firmware.active
    ∃ t, exec .coldReset s = .next t ∧ (t = { s with agenda := s.agenda ++ [.coldReset] } ∨
      (t = { State.reset with
        tick := s.tick, serial := s.serial, outer := s.outer, nextKey := s.nextKey, layoutEpoch := s.layoutEpoch
        sentOut := s.sentOut, firmware := t.firmware, harts := t.harts, cores := t.cores, agenda := t.agenda } ∧
      t.harts = (if t.firmware.bootState = 3 then [] else shatenHarts t.firmware.osMask) ∧
      t.cores = (if t.firmware.bootState = 3 then [] else shatenCores t.firmware.osMask) ∧
      t.firmware.banks = s.firmware.banks ∧ t.firmware.active = bank ∧ s.firmware.secVersion ≤ t.firmware.secVersion ∧
      (s.firmware.switched = false → t.firmware.secVersion = s.firmware.secVersion) ∧
      t.firmware.lastLeaf = s.firmware.lastLeaf ∧ t.firmware.updating = false ∧
      (∀ m, bankMask s.firmware bank = some m → t.firmware.bootState = 0 ∧ t.firmware.osMask = m) ∧
      (∀ m, bankMask s.firmware bank = none → bankMask s.firmware (1 - bank) = some m →
        t.firmware.bootState = 2 ∧ t.firmware.osMask = m) ∧
      (bankMask s.firmware bank = none → bankMask s.firmware (1 - bank) = none → t.firmware.bootState = 3))))

/-- TENANT_RESET (R277, R291): the window stops, held commands, launches and calls are ABORTED and shared keys go; once every world has retired
and every call has returned, counters and counts are cleared, the window opens again and the journal tells the host. Which of this happens at once and
which at the end is log entry 51, that a reset while the device is off is absorbed log entry 73. -/
def Sys2Proof.Claims.TenantReset : Prop :=
  ∀ tn s, tn < 16 →
    (s.power.off = true → exec (.tenantReset tn) s = .next s) ∧
    (s.power.off = false → (getTenant s tn).stopped = false →
      ∃ t, exec (.tenantReset tn) s = .next t ∧ (getTenant t tn).stopped = true ∧ (getTenant t tn).held = [] ∧
        (getTenant t tn).handles = [] ∧ .tenantReset tn ∈ t.agenda ∧ (∀ e ∈ t.keys, ∀ k, e.2 = some k → e.1 < 0x800 ∨ k.tenant.toNat ≠ tn) ∧
        (∀ n l, getLaunch s n = some l → l.tenant.toNat = tn → l.phase = .running →
          ∃ v, getLaunch t n = some v ∧ v.phase = .ending ∧ v.final = 5) ∧
        ∀ v ∈ allSlots s, v.tenant.toNat = tn → v.status = none → Served t v 0xF1) ∧
    (s.power.off = false → (getTenant s tn).stopped = true → (getTenant s tn).closed = [] →
      (tenantLaunches s tn ≠ [] ∨ (∃ v ∈ allSlots s, v.tenant.toNat = tn) →
        ∃ t, exec (.tenantReset tn) s = .next t ∧ t = { s with tenants := t.tenants, agenda := t.agenda } ∧
          (∀ k, getTenant t k = getTenant s k) ∧ .tenantReset tn ∈ t.agenda ∧ ∀ e ∈ s.agenda, e ∈ t.agenda) ∧
      (tenantLaunches s tn = [] → (∀ v ∈ allSlots s, v.tenant.toNat ≠ tn) → journalFree s tn = true →
        ∃ t, exec (.tenantReset tn) s = .next t ∧ (getTenant t tn).stopped = false ∧ (getTenant t tn).consumed = 0 ∧
          (getTenant t tn).cprod = 0 ∧ (getTenant t tn).completions = [] ∧ (getTenant t tn).running = [] ∧
          (getTenant t tn).prFailed = false ∧ Journalled t tn ((getTenant s tn).jhead + 1) 0x81 3 0 ∧ t.sentOut = s.sentOut ++ [.msix tn 1] ∧
          ∀ e ∈ s.counterOwner, e.2 = tn + 1 → mapGet 0 t.counters e.1 = 0))

/-! ### The statements that have several parts -/

/-- Immediate forms, EXTS, EXTU and INS: result and frame. -/
def Obligations.ImmediateForms : Prop := Claims.ImmediateForms ∧ Claims.InsertField

/-- Branches and jumps: the target, the link, and no trap of their own. -/
def Obligations.ControlFlow : Prop := Claims.Branches ∧ Claims.Jumps

/-- MFSR and MTSR on every special register. -/
def Obligations.SpecialRegisters : Prop := Claims.ReadSpecial ∧ Claims.ReadSpecialHandler ∧ Claims.WriteSpecial

/-- YIELD, WFI, SAFEPT, ORD and FENCE, and scopes that the launch does not bind. -/
def Obligations.Ordering : Prop :=
  Claims.Yields ∧ Claims.WaitsForInterrupt ∧ Claims.SafePoints ∧ Claims.Prefixes ∧ Claims.HartFences ∧ Claims.Fences ∧ Claims.UnboundScope

/-- LD and ST on the core's own SRAM: value, bytes stored and frame. -/
def Obligations.LoadStoreSelf : Prop := Claims.LoadSelf ∧ Claims.StoreSelf

/-- Misaligned accesses and accesses to the control space trap. -/
def Obligations.AccessTraps : Prop := Claims.MisalignedAccess ∧ Claims.ControlSpaceIsPrivileged

/-- Vector loads and stores on SELF: lanes, bytes stored and frame. -/
def Obligations.VectorMemory : Prop := Claims.VectorLoads ∧ Claims.VectorStores

/-- AMO: issue, execution at the home, and the reply. -/
def Obligations.Atomics : Prop := Claims.AtomicIssue ∧ Claims.AtomicAtHome ∧ Claims.HomeReply

/-- MSEND: issue, and how the home judges an arriving message. -/
def Obligations.Messages : Prop := Claims.SendMessage ∧ Claims.MessageArrival

/-- MRET, the handler's budget, and MWAIT and MPOLL. -/
def Obligations.Handlers : Prop := Claims.HandlerReturn ∧ Claims.HandlerBudget ∧ Claims.PendingMessages

/-- Queue registers: QPUSH, QPOP, QPEEK and QCNT. -/
def Obligations.Queues : Prop := Claims.QueuePush ∧ Claims.QueueRead

/-- Accumulator windows: issue of the instructions, and the read latch. -/
def Obligations.AccumulatorIssue : Prop := Claims.WindowIssue ∧ Claims.WindowLatch

/-- Accumulator windows at their home: checks, sums, replies. -/
def Obligations.AccumulatorHome : Prop := Claims.WindowSteps ∧ Claims.WindowAtHome ∧ Claims.WindowReply

/-- SIGC and WAITC. -/
def Obligations.Counters : Prop := Claims.SignalCounter ∧ Claims.WaitCounter

/-- BAR and CROT: arrival and departure. -/
def Obligations.Barriers : Prop := Claims.BarrierEpisode ∧ Claims.RingRotation

/-- TFETCH, TDONE, HALT and HALT retain. -/
def Obligations.Tiles : Prop := Claims.TileFetch ∧ Claims.TileDone ∧ Claims.HartEnds

/-- GRANT and REVOKE at issue; GRANT at the rights unit. -/
def Obligations.Grants : Prop := Claims.RightsIssue ∧ Claims.GrantAtUnit

/-- REVOKE at the rights unit, and the shootdown that follows. -/
def Obligations.Revocation : Prop := Claims.RevokeAtUnit ∧ Claims.Shootdowns

/-- PGREQ, table walks and the host's translations. -/
def Obligations.Translation : Prop := Claims.PageRequests ∧ Claims.Walks

/-- CPCMD, BKCMD, COLCMD, their resume forms, CPSTAT and TWAIT. -/
def Obligations.EngineInstructions : Prop := Claims.EngineIssue ∧ Claims.EngineResume ∧ Claims.EngineStatus

/-- Engine commands: what they move, how they complete and how they fault. -/
def Obligations.EngineRuns : Prop := Claims.EngineRuns ∧ Claims.EngineCompletion ∧ Claims.EngineFaults

/-- MCFG, MSTAT and the matrix instructions at issue; GANG. -/
def Obligations.MatrixInstructions : Prop := Claims.MatrixConfiguration ∧ Claims.MatrixIssue ∧ Claims.GangCompletes

/-- Matrix commands as the slice carries them out. -/
def Obligations.MatrixRuns : Prop := Claims.PlaneCommands ∧ Claims.JointCommands ∧ Claims.MatrixCommandEnds

/-- Integer and floating-point vector instructions, lane by lane. -/
def Obligations.VectorArithmetic : Prop := Claims.IntegerVectors ∧ Claims.FloatVectors

/-- Vector compares, mask operations and moves. -/
def Obligations.VectorMovesAndMasks : Prop := Claims.VectorCompares ∧ Claims.VectorMoves

/-- Vector conversions and scaled blocks; dead sources trap. -/
def Obligations.VectorConversions : Prop := Claims.VectorConversions ∧ Claims.DeadSources

/-- Slices, deadlines, forced stops, saves and interrupts. -/
def Obligations.Preemption : Prop := Claims.Slices ∧ Claims.Interrupts

/-- Dispatch of nodes, start and resume of harts. -/
def Obligations.HartsStart : Prop := Claims.HartsStart ∧ Claims.Dispatch

/-- System calls that read values, and RANGE_ALLOC and RANGE_FREE. -/
def Obligations.AllocationServices : Prop := Claims.ReadingServices ∧ Claims.RangeServices

/-- System calls that the host's proxy carries out, and their timeout. -/
def Obligations.ProxiedServices : Prop := Claims.ProxiedServices ∧ Claims.ProxyTimeout

/-- LAUNCH, SIGNAL, ABORT, FENCE, HOSTMAP and HOSTUNMAP. -/
def Obligations.HostCommands : Prop := Claims.LaunchCommands ∧ Claims.HostRanges

/-- Commands held by their WAIT, and completion records. -/
def Obligations.CommandsInFlight : Prop := Claims.CommandWaits ∧ Claims.CompletionRecords

/-- DRAM occupancy budgets and CXL.mem requests. -/
def Obligations.DeviceMemoryTraffic : Prop := Claims.Occupancy ∧ Claims.CxlMemory

/-- Firmware update and handover; sensors, power and timers. -/
def Obligations.DeviceManagement : Prop := Claims.FirmwareUpdate ∧ Claims.SensorsAndPower

/-- SPDM exchange, measurements and key release. -/
def Obligations.Attestation : Prop := Claims.Attestation ∧ Claims.KeyRelease

/-- Resets: what each clears, keeps and ends. -/
def Obligations.Resets : Prop := Claims.CoreResets ∧ Claims.UnitResets ∧ Claims.DeviceResets ∧ Claims.TenantReset

end
end

