-- ==== Sys2Proof/Laws/Map.lean ====
section
/-!
SUPPORT. Sparse maps: a write is read back, a write leaves every other key alone, and every operation keeps the
canonical form.
-/

namespace Sys2Proof.Machine

variable {β : Type}

/-! ### Reading -/

@[simp] theorem mapGet_nil (d : β) (k : Nat) : mapGet d [] k = d := rfl

theorem mapGet_mapErase_same (d : β) (m : SMap β) (k : Nat) : mapGet d (mapErase m k) k = d := by
  induction m with
  | nil => rfl
  | cons e m ih =>
    obtain ⟨a, b⟩ := e
    by_cases h : a = k <;> simp [mapErase, mapGet, h, ih]

theorem mapGet_mapErase_ne (d : β) (m : SMap β) {k j : Nat} (hj : j ≠ k) :
    mapGet d (mapErase m k) j = mapGet d m j := by
  induction m with
  | nil => rfl
  | cons e m ih =>
    obtain ⟨a, b⟩ := e
    by_cases h : a = k
    · subst h; simp [mapErase, mapGet, ih, Ne.symm hj]
    · by_cases h' : a = j <;> simp [mapErase, mapGet, h, h', ih, hj]

theorem mapGet_mapInsert_same (d : β) (m : SMap β) (k : Nat) (v : β) (h : k ∉ mapKeys m) :
    mapGet d (mapInsert m k v) k = v := by
  induction m with
  | nil => simp [mapInsert, mapGet]
  | cons e m ih =>
    obtain ⟨a, b⟩ := e
    simp only [mapKeys, List.map_cons, List.mem_cons, not_or] at h
    have := ih h.2
    by_cases hk : k < a <;> simp [mapInsert, mapGet, hk, this, Ne.symm h.1]

theorem mapGet_mapInsert_ne (d : β) (m : SMap β) {k j : Nat} (v : β) (hj : j ≠ k) :
    mapGet d (mapInsert m k v) j = mapGet d m j := by
  induction m with
  | nil => simp [mapInsert, mapGet, Ne.symm hj]
  | cons e m ih =>
    obtain ⟨a, b⟩ := e
    by_cases hk : k < a
    · simp [mapInsert, mapGet, hk, Ne.symm hj]
    · simp only [mapInsert, hk, if_false]
      by_cases h' : a = j <;> simp [mapGet, h', ih]

theorem not_mem_mapKeys_mapErase (m : SMap β) (k : Nat) : k ∉ mapKeys (mapErase m k) := by
  induction m with
  | nil => simp [mapErase, mapKeys]
  | cons e m ih =>
    obtain ⟨a, b⟩ := e
    by_cases h : a = k
    · simpa [mapErase, h] using ih
    · simp only [mapErase, h, if_false, mapKeys, List.map_cons, List.mem_cons, not_or]
      exact ⟨fun h' => h h'.symm, ih⟩

/-- What was written is read. -/
@[simp] theorem mapGet_mapPut_same [DecidableEq β] (d : β) (m : SMap β) (k : Nat) (v : β) :
    mapGet d (mapPut d m k v) k = v := by
  unfold mapPut
  split
  · next h => rw [mapGet_mapErase_same, h]
  · exact mapGet_mapInsert_same d _ k v (not_mem_mapKeys_mapErase m k)

/-- A write leaves every other key alone. -/
theorem mapGet_mapPut_ne [DecidableEq β] (d : β) (m : SMap β) {k j : Nat} (v : β) (hj : j ≠ k) :
    mapGet d (mapPut d m k v) j = mapGet d m j := by
  unfold mapPut
  split
  · exact mapGet_mapErase_ne d m hj
  · rw [mapGet_mapInsert_ne d _ v hj, mapGet_mapErase_ne d m hj]

theorem mapGet_mapPut [DecidableEq β] (d : β) (m : SMap β) (k j : Nat) (v : β) :
    mapGet d (mapPut d m k v) j = if j = k then v else mapGet d m j := by
  split
  · next h => subst h; simp
  · next h => exact mapGet_mapPut_ne d m v h

/-! ### The canonical form -/

theorem risingFrom_mono {lo lo' : Nat} (m : SMap β) (h : lo' ≤ lo) (w : risingFrom lo m = true) :
    risingFrom lo' m = true := by
  cases m with
  | nil => rfl
  | cons e m =>
    obtain ⟨a, b⟩ := e
    simp only [risingFrom, Bool.and_eq_true, decide_eq_true_eq] at w ⊢
    exact ⟨by omega, w.2⟩

theorem risingFrom_filter (p : Nat × β → Bool) {lo : Nat} (m : SMap β) (w : risingFrom lo m = true) :
    risingFrom lo (m.filter p) = true := by
  induction m generalizing lo with
  | nil => rfl
  | cons e m ih =>
    obtain ⟨a, b⟩ := e
    simp only [risingFrom, Bool.and_eq_true, decide_eq_true_eq] at w
    by_cases h : p (a, b) = true
    · simp only [List.filter_cons_of_pos h, risingFrom, Bool.and_eq_true, decide_eq_true_eq]
      exact ⟨w.1, ih w.2⟩
    · simp only [List.filter_cons_of_neg h]
      exact ih (risingFrom_mono m (by omega) w.2)

theorem mapErase_eq_filter (m : SMap β) (k : Nat) : mapErase m k = m.filter fun e => !decide (e.1 = k) := by
  induction m with
  | nil => rfl
  | cons e m ih =>
    obtain ⟨a, b⟩ := e
    by_cases h : a = k <;> simp [mapErase, h, ih]

theorem risingFrom_mapInsert {lo : Nat} (m : SMap β) (k : Nat) (v : β) (hk : lo ≤ k)
    (hm : k ∉ mapKeys m) (w : risingFrom lo m = true) : risingFrom lo (mapInsert m k v) = true := by
  induction m generalizing lo with
  | nil => simp [mapInsert, risingFrom, hk]
  | cons e m ih =>
    obtain ⟨a, b⟩ := e
    simp only [risingFrom, Bool.and_eq_true, decide_eq_true_eq] at w
    simp only [mapKeys, List.map_cons, List.mem_cons, not_or] at hm
    by_cases h : k < a
    · simp only [mapInsert, h, if_true, risingFrom, Bool.and_eq_true, decide_eq_true_eq]
      exact ⟨hk, by omega, w.2⟩
    · simp only [mapInsert, h, if_false, risingFrom, Bool.and_eq_true, decide_eq_true_eq]
      exact ⟨w.1, ih (by have := hm.1; omega) hm.2 w.2⟩

theorem mem_mapInsert {m : SMap β} {k : Nat} {v : β} {e : Nat × β} (h : e ∈ mapInsert m k v) :
    e = (k, v) ∨ e ∈ m := by
  induction m with
  | nil => simpa [mapInsert] using h
  | cons c m ih =>
    obtain ⟨a, b⟩ := c
    by_cases hk : k < a
    · simpa [mapInsert, hk] using h
    · simp only [mapInsert, hk, if_false, List.mem_cons] at h ⊢
      rcases h with h | h
      · exact .inr (.inl h)
      · rcases ih h with h | h
        · exact .inl h
        · exact .inr (.inr h)

/-- Canonical form, in its two parts. -/
theorem mapWf_iff [DecidableEq β] (d : β) (m : SMap β) :
    mapWf d m = true ↔ risingFrom 0 m = true ∧ ∀ e ∈ m, e.2 ≠ d := by
  simp [mapWf]

@[simp] theorem mapWf_nil [DecidableEq β] (d : β) : mapWf d ([] : SMap β) = true := rfl

theorem mapWf_filter [DecidableEq β] (d : β) (p : Nat × β → Bool) {m : SMap β} (w : mapWf d m = true) :
    mapWf d (m.filter p) = true := by
  rw [mapWf_iff] at w ⊢
  exact ⟨risingFrom_filter p m w.1, fun e he => w.2 e (List.mem_filter.1 he).1⟩

theorem mapWf_mapErase [DecidableEq β] (d : β) {m : SMap β} (k : Nat) (w : mapWf d m = true) :
    mapWf d (mapErase m k) = true := by
  rw [mapErase_eq_filter]; exact mapWf_filter d _ w

theorem mapWf_mapDrop [DecidableEq β] (d : β) (p : Nat → Bool) {m : SMap β} (w : mapWf d m = true) :
    mapWf d (mapDrop p m) = true := mapWf_filter d _ w

theorem mapWf_mapPut [DecidableEq β] (d : β) {m : SMap β} (k : Nat) (v : β) (w : mapWf d m = true) :
    mapWf d (mapPut d m k v) = true := by
  have e := mapWf_mapErase d k w
  unfold mapPut
  split
  · exact e
  · next hv =>
    rw [mapWf_iff] at e ⊢
    refine ⟨risingFrom_mapInsert _ k v (Nat.zero_le k) (not_mem_mapKeys_mapErase m k) e.1, fun x hx => ?_⟩
    rcases mem_mapInsert hx with h | h
    · subst h; exact hv
    · exact e.2 x h

theorem risingFrom_mapVals [DecidableEq β] (d : β) (f : Nat → β → β) {lo : Nat} (m : SMap β)
    (w : risingFrom lo m = true) : risingFrom lo (mapVals d f m) = true := by
  induction m generalizing lo with
  | nil => rfl
  | cons e m ih =>
    obtain ⟨a, b⟩ := e
    simp only [risingFrom, Bool.and_eq_true, decide_eq_true_eq] at w
    by_cases h : f a b = d
    · have : mapVals d f ((a, b) :: m) = mapVals d f m := by simp [mapVals, h]
      rw [this]; exact ih (risingFrom_mono m (by omega) w.2)
    · have : mapVals d f ((a, b) :: m) = (a, f a b) :: mapVals d f m := by simp [mapVals, h]
      rw [this]
      simp only [risingFrom, Bool.and_eq_true, decide_eq_true_eq]
      exact ⟨w.1, ih w.2⟩

theorem mapWf_mapVals [DecidableEq β] (d : β) (f : Nat → β → β) {m : SMap β} (w : mapWf d m = true) :
    mapWf d (mapVals d f m) = true := by
  rw [mapWf_iff] at w ⊢
  refine ⟨risingFrom_mapVals d f m w.1, fun e he => ?_⟩
  simp only [mapVals, List.mem_filterMap] at he
  obtain ⟨a, -, h⟩ := he
  by_cases hv : f a.1 a.2 = d
  · simp [hv] at h
  · simp only [hv, if_false, Option.some.injEq] at h
    subst h; exact hv

/-- Every value of a map has a property when the default and every listed value do. -/
theorem mapGet_of_forall {p : β → Prop} (d : β) (m : SMap β) (k : Nat) (hd : p d) (hm : ∀ e ∈ m, p e.2) :
    p (mapGet d m k) := by
  induction m with
  | nil => exact hd
  | cons e m ih =>
    obtain ⟨a, b⟩ := e
    by_cases h : a = k
    · simpa [mapGet, h] using hm (a, b) (by simp)
    · simpa [mapGet, h] using ih fun x hx => hm x (List.mem_cons_of_mem _ hx)

/-- The entries of a map after a write. -/
theorem mem_mapPut [DecidableEq β] {d : β} {m : SMap β} {k : Nat} {v : β} {e : Nat × β}
    (h : e ∈ mapPut d m k v) : e = (k, v) ∨ e ∈ m := by
  unfold mapPut at h
  rw [mapErase_eq_filter] at h
  split at h
  · exact .inr (List.mem_filter.1 h).1
  · rcases mem_mapInsert h with h | h
    · exact .inl h
    · exact .inr (List.mem_filter.1 h).1

theorem mem_mapVals [DecidableEq β] {d : β} {f : Nat → β → β} {m : SMap β} {e : Nat × β}
    (h : e ∈ mapVals d f m) : ∃ a ∈ m, e = (a.1, f a.1 a.2) := by
  simp only [mapVals, List.mem_filterMap] at h
  obtain ⟨a, ha, h⟩ := h
  refine ⟨a, ha, ?_⟩
  by_cases hv : f a.1 a.2 = d
  · simp [hv] at h
  · simpa [hv] using h.symm

end Sys2Proof.Machine
end

