-- ==== Sys2Proof/Laws/State.lean ====
section
/-!
SUPPORT. The state under its updates: each field is what it was, or what was written. One lemma per field and update.
-/

namespace Sys2Proof.Machine

/-! ### A hart written: `setHart` -/

@[simp] theorem setHart_cur (s : State) (h : Nat) (v : Hart) :
    (setHart s h v).cur = s.cur := rfl
@[simp] theorem setHart_agenda (s : State) (h : Nat) (v : Hart) :
    (setHart s h v).agenda = s.agenda := rfl
@[simp] theorem setHart_tick (s : State) (h : Nat) (v : Hart) :
    (setHart s h v).tick = s.tick := rfl
@[simp] theorem setHart_serial (s : State) (h : Nat) (v : Hart) :
    (setHart s h v).serial = s.serial := rfl
@[simp] theorem setHart_time (s : State) (h : Nat) (v : Hart) :
    (setHart s h v).time = s.time := rfl
@[simp] theorem setHart_cycles (s : State) (h : Nat) (v : Hart) :
    (setHart s h v).cycles = s.cycles := rfl
@[simp] theorem setHart_cores (s : State) (h : Nat) (v : Hart) :
    (setHart s h v).cores = s.cores := rfl
@[simp] theorem setHart_clusters (s : State) (h : Nat) (v : Hart) :
    (setHart s h v).clusters = s.clusters := rfl
@[simp] theorem setHart_dies (s : State) (h : Nat) (v : Hart) :
    (setHart s h v).dies = s.dies := rfl
@[simp] theorem setHart_views (s : State) (h : Nat) (v : Hart) :
    (setHart s h v).views = s.views := rfl
@[simp] theorem setHart_outer (s : State) (h : Nat) (v : Hart) :
    (setHart s h v).outer = s.outer := rfl
@[simp] theorem setHart_lineKeys (s : State) (h : Nat) (v : Hart) :
    (setHart s h v).lineKeys = s.lineKeys := rfl
@[simp] theorem setHart_badLines (s : State) (h : Nat) (v : Hart) :
    (setHart s h v).badLines = s.badLines := rfl
@[simp] theorem setHart_stamps (s : State) (h : Nat) (v : Hart) :
    (setHart s h v).stamps = s.stamps := rfl
@[simp] theorem setHart_flights (s : State) (h : Nat) (v : Hart) :
    (setHart s h v).flights = s.flights := rfl
@[simp] theorem setHart_mca (s : State) (h : Nat) (v : Hart) :
    (setHart s h v).mca = s.mca := rfl
@[simp] theorem setHart_ops (s : State) (h : Nat) (v : Hart) :
    (setHart s h v).ops = s.ops := rfl
@[simp] theorem setHart_counters (s : State) (h : Nat) (v : Hart) :
    (setHart s h v).counters = s.counters := rfl
@[simp] theorem setHart_counterOwner (s : State) (h : Nat) (v : Hart) :
    (setHart s h v).counterOwner = s.counterOwner := rfl
@[simp] theorem setHart_counterStamp (s : State) (h : Nat) (v : Hart) :
    (setHart s h v).counterStamp = s.counterStamp := rfl
@[simp] theorem setHart_barriers (s : State) (h : Nat) (v : Hart) :
    (setHart s h v).barriers = s.barriers := rfl
@[simp] theorem setHart_ranges (s : State) (h : Nat) (v : Hart) :
    (setHart s h v).ranges = s.ranges := rfl
@[simp] theorem setHart_freed (s : State) (h : Nat) (v : Hart) :
    (setHart s h v).freed = s.freed := rfl
@[simp] theorem setHart_withdrawn (s : State) (h : Nat) (v : Hart) :
    (setHart s h v).withdrawn = s.withdrawn := rfl
@[simp] theorem setHart_rights (s : State) (h : Nat) (v : Hart) :
    (setHart s h v).rights = s.rights := rfl
@[simp] theorem setHart_owners (s : State) (h : Nat) (v : Hart) :
    (setHart s h v).owners = s.owners := rfl
@[simp] theorem setHart_handleTenants (s : State) (h : Nat) (v : Hart) :
    (setHart s h v).handleTenants = s.handleTenants := rfl
@[simp] theorem setHart_shootdowns (s : State) (h : Nat) (v : Hart) :
    (setHart s h v).shootdowns = s.shootdowns := rfl
@[simp] theorem setHart_ptroot (s : State) (h : Nat) (v : Hart) :
    (setHart s h v).ptroot = s.ptroot := rfl
@[simp] theorem setHart_tensors (s : State) (h : Nat) (v : Hart) :
    (setHart s h v).tensors = s.tensors := rfl
@[simp] theorem setHart_keptVersion (s : State) (h : Nat) (v : Hart) :
    (setHart s h v).keptVersion = s.keptVersion := rfl
@[simp] theorem setHart_tidWithdrawn (s : State) (h : Nat) (v : Hart) :
    (setHart s h v).tidWithdrawn = s.tidWithdrawn := rfl
@[simp] theorem setHart_tensorQ (s : State) (h : Nat) (v : Hart) :
    (setHart s h v).tensorQ = s.tensorQ := rfl
@[simp] theorem setHart_launches (s : State) (h : Nat) (v : Hart) :
    (setHart s h v).launches = s.launches := rfl
@[simp] theorem setHart_saves (s : State) (h : Nat) (v : Hart) :
    (setHart s h v).saves = s.saves := rfl
@[simp] theorem setHart_tenants (s : State) (h : Nat) (v : Hart) :
    (setHart s h v).tenants = s.tenants := rfl
@[simp] theorem setHart_keys (s : State) (h : Nat) (v : Hart) :
    (setHart s h v).keys = s.keys := rfl
@[simp] theorem setHart_nextKey (s : State) (h : Nat) (v : Hart) :
    (setHart s h v).nextKey = s.nextKey := rfl
@[simp] theorem setHart_spdm (s : State) (h : Nat) (v : Hart) :
    (setHart s h v).spdm = s.spdm := rfl
@[simp] theorem setHart_spdmLog (s : State) (h : Nat) (v : Hart) :
    (setHart s h v).spdmLog = s.spdmLog := rfl
@[simp] theorem setHart_spdmSigned (s : State) (h : Nat) (v : Hart) :
    (setHart s h v).spdmSigned = s.spdmSigned := rfl
@[simp] theorem setHart_layoutEpoch (s : State) (h : Nat) (v : Hart) :
    (setHart s h v).layoutEpoch = s.layoutEpoch := rfl
@[simp] theorem setHart_firmware (s : State) (h : Nat) (v : Hart) :
    (setHart s h v).firmware = s.firmware := rfl
@[simp] theorem setHart_windows (s : State) (h : Nat) (v : Hart) :
    (setHart s h v).windows = s.windows := rfl
@[simp] theorem setHart_groupTenants (s : State) (h : Nat) (v : Hart) :
    (setHart s h v).groupTenants = s.groupTenants := rfl
@[simp] theorem setHart_isolation (s : State) (h : Nat) (v : Hart) :
    (setHart s h v).isolation = s.isolation := rfl
@[simp] theorem setHart_dev (s : State) (h : Nat) (v : Hart) :
    (setHart s h v).dev = s.dev := rfl
@[simp] theorem setHart_grouped (s : State) (h : Nat) (v : Hart) :
    (setHart s h v).grouped = s.grouped := rfl
@[simp] theorem setHart_ports (s : State) (h : Nat) (v : Hart) :
    (setHart s h v).ports = s.ports := rfl
@[simp] theorem setHart_linkReqs (s : State) (h : Nat) (v : Hart) :
    (setHart s h v).linkReqs = s.linkReqs := rfl
@[simp] theorem setHart_channels (s : State) (h : Nat) (v : Hart) :
    (setHart s h v).channels = s.channels := rfl
@[simp] theorem setHart_charges (s : State) (h : Nat) (v : Hart) :
    (setHart s h v).charges = s.charges := rfl
@[simp] theorem setHart_debts (s : State) (h : Nat) (v : Hart) :
    (setHart s h v).debts = s.debts := rfl
@[simp] theorem setHart_budgetAt (s : State) (h : Nat) (v : Hart) :
    (setHart s h v).budgetAt = s.budgetAt := rfl
@[simp] theorem setHart_sensors (s : State) (h : Nat) (v : Hart) :
    (setHart s h v).sensors = s.sensors := rfl
@[simp] theorem setHart_errors (s : State) (h : Nat) (v : Hart) :
    (setHart s h v).errors = s.errors := rfl
@[simp] theorem setHart_power (s : State) (h : Nat) (v : Hart) :
    (setHart s h v).power = s.power := rfl
@[simp] theorem setHart_invalidations (s : State) (h : Nat) (v : Hart) :
    (setHart s h v).invalidations = s.invalidations := rfl
@[simp] theorem setHart_migrations (s : State) (h : Nat) (v : Hart) :
    (setHart s h v).migrations = s.migrations := rfl
@[simp] theorem setHart_sentOut (s : State) (h : Nat) (v : Hart) :
    (setHart s h v).sentOut = s.sentOut := rfl

/-! ### A hart changed: `modHart` -/

@[simp] theorem modHart_cur (s : State) (h : Nat) (f : Hart → Hart) :
    (modHart s h f).cur = s.cur := rfl
@[simp] theorem modHart_agenda (s : State) (h : Nat) (f : Hart → Hart) :
    (modHart s h f).agenda = s.agenda := rfl
@[simp] theorem modHart_tick (s : State) (h : Nat) (f : Hart → Hart) :
    (modHart s h f).tick = s.tick := rfl
@[simp] theorem modHart_serial (s : State) (h : Nat) (f : Hart → Hart) :
    (modHart s h f).serial = s.serial := rfl
@[simp] theorem modHart_time (s : State) (h : Nat) (f : Hart → Hart) :
    (modHart s h f).time = s.time := rfl
@[simp] theorem modHart_cycles (s : State) (h : Nat) (f : Hart → Hart) :
    (modHart s h f).cycles = s.cycles := rfl
@[simp] theorem modHart_cores (s : State) (h : Nat) (f : Hart → Hart) :
    (modHart s h f).cores = s.cores := rfl
@[simp] theorem modHart_clusters (s : State) (h : Nat) (f : Hart → Hart) :
    (modHart s h f).clusters = s.clusters := rfl
@[simp] theorem modHart_dies (s : State) (h : Nat) (f : Hart → Hart) :
    (modHart s h f).dies = s.dies := rfl
@[simp] theorem modHart_views (s : State) (h : Nat) (f : Hart → Hart) :
    (modHart s h f).views = s.views := rfl
@[simp] theorem modHart_outer (s : State) (h : Nat) (f : Hart → Hart) :
    (modHart s h f).outer = s.outer := rfl
@[simp] theorem modHart_lineKeys (s : State) (h : Nat) (f : Hart → Hart) :
    (modHart s h f).lineKeys = s.lineKeys := rfl
@[simp] theorem modHart_badLines (s : State) (h : Nat) (f : Hart → Hart) :
    (modHart s h f).badLines = s.badLines := rfl
@[simp] theorem modHart_stamps (s : State) (h : Nat) (f : Hart → Hart) :
    (modHart s h f).stamps = s.stamps := rfl
@[simp] theorem modHart_flights (s : State) (h : Nat) (f : Hart → Hart) :
    (modHart s h f).flights = s.flights := rfl
@[simp] theorem modHart_mca (s : State) (h : Nat) (f : Hart → Hart) :
    (modHart s h f).mca = s.mca := rfl
@[simp] theorem modHart_ops (s : State) (h : Nat) (f : Hart → Hart) :
    (modHart s h f).ops = s.ops := rfl
@[simp] theorem modHart_counters (s : State) (h : Nat) (f : Hart → Hart) :
    (modHart s h f).counters = s.counters := rfl
@[simp] theorem modHart_counterOwner (s : State) (h : Nat) (f : Hart → Hart) :
    (modHart s h f).counterOwner = s.counterOwner := rfl
@[simp] theorem modHart_counterStamp (s : State) (h : Nat) (f : Hart → Hart) :
    (modHart s h f).counterStamp = s.counterStamp := rfl
@[simp] theorem modHart_barriers (s : State) (h : Nat) (f : Hart → Hart) :
    (modHart s h f).barriers = s.barriers := rfl
@[simp] theorem modHart_ranges (s : State) (h : Nat) (f : Hart → Hart) :
    (modHart s h f).ranges = s.ranges := rfl
@[simp] theorem modHart_freed (s : State) (h : Nat) (f : Hart → Hart) :
    (modHart s h f).freed = s.freed := rfl
@[simp] theorem modHart_withdrawn (s : State) (h : Nat) (f : Hart → Hart) :
    (modHart s h f).withdrawn = s.withdrawn := rfl
@[simp] theorem modHart_rights (s : State) (h : Nat) (f : Hart → Hart) :
    (modHart s h f).rights = s.rights := rfl
@[simp] theorem modHart_owners (s : State) (h : Nat) (f : Hart → Hart) :
    (modHart s h f).owners = s.owners := rfl
@[simp] theorem modHart_handleTenants (s : State) (h : Nat) (f : Hart → Hart) :
    (modHart s h f).handleTenants = s.handleTenants := rfl
@[simp] theorem modHart_shootdowns (s : State) (h : Nat) (f : Hart → Hart) :
    (modHart s h f).shootdowns = s.shootdowns := rfl
@[simp] theorem modHart_ptroot (s : State) (h : Nat) (f : Hart → Hart) :
    (modHart s h f).ptroot = s.ptroot := rfl
@[simp] theorem modHart_tensors (s : State) (h : Nat) (f : Hart → Hart) :
    (modHart s h f).tensors = s.tensors := rfl
@[simp] theorem modHart_keptVersion (s : State) (h : Nat) (f : Hart → Hart) :
    (modHart s h f).keptVersion = s.keptVersion := rfl
@[simp] theorem modHart_tidWithdrawn (s : State) (h : Nat) (f : Hart → Hart) :
    (modHart s h f).tidWithdrawn = s.tidWithdrawn := rfl
@[simp] theorem modHart_tensorQ (s : State) (h : Nat) (f : Hart → Hart) :
    (modHart s h f).tensorQ = s.tensorQ := rfl
@[simp] theorem modHart_launches (s : State) (h : Nat) (f : Hart → Hart) :
    (modHart s h f).launches = s.launches := rfl
@[simp] theorem modHart_saves (s : State) (h : Nat) (f : Hart → Hart) :
    (modHart s h f).saves = s.saves := rfl
@[simp] theorem modHart_tenants (s : State) (h : Nat) (f : Hart → Hart) :
    (modHart s h f).tenants = s.tenants := rfl
@[simp] theorem modHart_keys (s : State) (h : Nat) (f : Hart → Hart) :
    (modHart s h f).keys = s.keys := rfl
@[simp] theorem modHart_nextKey (s : State) (h : Nat) (f : Hart → Hart) :
    (modHart s h f).nextKey = s.nextKey := rfl
@[simp] theorem modHart_spdm (s : State) (h : Nat) (f : Hart → Hart) :
    (modHart s h f).spdm = s.spdm := rfl
@[simp] theorem modHart_spdmLog (s : State) (h : Nat) (f : Hart → Hart) :
    (modHart s h f).spdmLog = s.spdmLog := rfl
@[simp] theorem modHart_spdmSigned (s : State) (h : Nat) (f : Hart → Hart) :
    (modHart s h f).spdmSigned = s.spdmSigned := rfl
@[simp] theorem modHart_layoutEpoch (s : State) (h : Nat) (f : Hart → Hart) :
    (modHart s h f).layoutEpoch = s.layoutEpoch := rfl
@[simp] theorem modHart_firmware (s : State) (h : Nat) (f : Hart → Hart) :
    (modHart s h f).firmware = s.firmware := rfl
@[simp] theorem modHart_windows (s : State) (h : Nat) (f : Hart → Hart) :
    (modHart s h f).windows = s.windows := rfl
@[simp] theorem modHart_groupTenants (s : State) (h : Nat) (f : Hart → Hart) :
    (modHart s h f).groupTenants = s.groupTenants := rfl
@[simp] theorem modHart_isolation (s : State) (h : Nat) (f : Hart → Hart) :
    (modHart s h f).isolation = s.isolation := rfl
@[simp] theorem modHart_dev (s : State) (h : Nat) (f : Hart → Hart) :
    (modHart s h f).dev = s.dev := rfl
@[simp] theorem modHart_grouped (s : State) (h : Nat) (f : Hart → Hart) :
    (modHart s h f).grouped = s.grouped := rfl
@[simp] theorem modHart_ports (s : State) (h : Nat) (f : Hart → Hart) :
    (modHart s h f).ports = s.ports := rfl
@[simp] theorem modHart_linkReqs (s : State) (h : Nat) (f : Hart → Hart) :
    (modHart s h f).linkReqs = s.linkReqs := rfl
@[simp] theorem modHart_channels (s : State) (h : Nat) (f : Hart → Hart) :
    (modHart s h f).channels = s.channels := rfl
@[simp] theorem modHart_charges (s : State) (h : Nat) (f : Hart → Hart) :
    (modHart s h f).charges = s.charges := rfl
@[simp] theorem modHart_debts (s : State) (h : Nat) (f : Hart → Hart) :
    (modHart s h f).debts = s.debts := rfl
@[simp] theorem modHart_budgetAt (s : State) (h : Nat) (f : Hart → Hart) :
    (modHart s h f).budgetAt = s.budgetAt := rfl
@[simp] theorem modHart_sensors (s : State) (h : Nat) (f : Hart → Hart) :
    (modHart s h f).sensors = s.sensors := rfl
@[simp] theorem modHart_errors (s : State) (h : Nat) (f : Hart → Hart) :
    (modHart s h f).errors = s.errors := rfl
@[simp] theorem modHart_power (s : State) (h : Nat) (f : Hart → Hart) :
    (modHart s h f).power = s.power := rfl
@[simp] theorem modHart_invalidations (s : State) (h : Nat) (f : Hart → Hart) :
    (modHart s h f).invalidations = s.invalidations := rfl
@[simp] theorem modHart_migrations (s : State) (h : Nat) (f : Hart → Hart) :
    (modHart s h f).migrations = s.migrations := rfl
@[simp] theorem modHart_sentOut (s : State) (h : Nat) (f : Hart → Hart) :
    (modHart s h f).sentOut = s.sentOut := rfl

/-! ### The executing hart changed: `modMe` -/

@[simp] theorem modMe_cur (s : State) (f : Hart → Hart) :
    (modMe s f).cur = s.cur := rfl
@[simp] theorem modMe_agenda (s : State) (f : Hart → Hart) :
    (modMe s f).agenda = s.agenda := rfl
@[simp] theorem modMe_tick (s : State) (f : Hart → Hart) :
    (modMe s f).tick = s.tick := rfl
@[simp] theorem modMe_serial (s : State) (f : Hart → Hart) :
    (modMe s f).serial = s.serial := rfl
@[simp] theorem modMe_time (s : State) (f : Hart → Hart) :
    (modMe s f).time = s.time := rfl
@[simp] theorem modMe_cycles (s : State) (f : Hart → Hart) :
    (modMe s f).cycles = s.cycles := rfl
@[simp] theorem modMe_cores (s : State) (f : Hart → Hart) :
    (modMe s f).cores = s.cores := rfl
@[simp] theorem modMe_clusters (s : State) (f : Hart → Hart) :
    (modMe s f).clusters = s.clusters := rfl
@[simp] theorem modMe_dies (s : State) (f : Hart → Hart) :
    (modMe s f).dies = s.dies := rfl
@[simp] theorem modMe_views (s : State) (f : Hart → Hart) :
    (modMe s f).views = s.views := rfl
@[simp] theorem modMe_outer (s : State) (f : Hart → Hart) :
    (modMe s f).outer = s.outer := rfl
@[simp] theorem modMe_lineKeys (s : State) (f : Hart → Hart) :
    (modMe s f).lineKeys = s.lineKeys := rfl
@[simp] theorem modMe_badLines (s : State) (f : Hart → Hart) :
    (modMe s f).badLines = s.badLines := rfl
@[simp] theorem modMe_stamps (s : State) (f : Hart → Hart) :
    (modMe s f).stamps = s.stamps := rfl
@[simp] theorem modMe_flights (s : State) (f : Hart → Hart) :
    (modMe s f).flights = s.flights := rfl
@[simp] theorem modMe_mca (s : State) (f : Hart → Hart) :
    (modMe s f).mca = s.mca := rfl
@[simp] theorem modMe_ops (s : State) (f : Hart → Hart) :
    (modMe s f).ops = s.ops := rfl
@[simp] theorem modMe_counters (s : State) (f : Hart → Hart) :
    (modMe s f).counters = s.counters := rfl
@[simp] theorem modMe_counterOwner (s : State) (f : Hart → Hart) :
    (modMe s f).counterOwner = s.counterOwner := rfl
@[simp] theorem modMe_counterStamp (s : State) (f : Hart → Hart) :
    (modMe s f).counterStamp = s.counterStamp := rfl
@[simp] theorem modMe_barriers (s : State) (f : Hart → Hart) :
    (modMe s f).barriers = s.barriers := rfl
@[simp] theorem modMe_ranges (s : State) (f : Hart → Hart) :
    (modMe s f).ranges = s.ranges := rfl
@[simp] theorem modMe_freed (s : State) (f : Hart → Hart) :
    (modMe s f).freed = s.freed := rfl
@[simp] theorem modMe_withdrawn (s : State) (f : Hart → Hart) :
    (modMe s f).withdrawn = s.withdrawn := rfl
@[simp] theorem modMe_rights (s : State) (f : Hart → Hart) :
    (modMe s f).rights = s.rights := rfl
@[simp] theorem modMe_owners (s : State) (f : Hart → Hart) :
    (modMe s f).owners = s.owners := rfl
@[simp] theorem modMe_handleTenants (s : State) (f : Hart → Hart) :
    (modMe s f).handleTenants = s.handleTenants := rfl
@[simp] theorem modMe_shootdowns (s : State) (f : Hart → Hart) :
    (modMe s f).shootdowns = s.shootdowns := rfl
@[simp] theorem modMe_ptroot (s : State) (f : Hart → Hart) :
    (modMe s f).ptroot = s.ptroot := rfl
@[simp] theorem modMe_tensors (s : State) (f : Hart → Hart) :
    (modMe s f).tensors = s.tensors := rfl
@[simp] theorem modMe_keptVersion (s : State) (f : Hart → Hart) :
    (modMe s f).keptVersion = s.keptVersion := rfl
@[simp] theorem modMe_tidWithdrawn (s : State) (f : Hart → Hart) :
    (modMe s f).tidWithdrawn = s.tidWithdrawn := rfl
@[simp] theorem modMe_tensorQ (s : State) (f : Hart → Hart) :
    (modMe s f).tensorQ = s.tensorQ := rfl
@[simp] theorem modMe_launches (s : State) (f : Hart → Hart) :
    (modMe s f).launches = s.launches := rfl
@[simp] theorem modMe_saves (s : State) (f : Hart → Hart) :
    (modMe s f).saves = s.saves := rfl
@[simp] theorem modMe_tenants (s : State) (f : Hart → Hart) :
    (modMe s f).tenants = s.tenants := rfl
@[simp] theorem modMe_keys (s : State) (f : Hart → Hart) :
    (modMe s f).keys = s.keys := rfl
@[simp] theorem modMe_nextKey (s : State) (f : Hart → Hart) :
    (modMe s f).nextKey = s.nextKey := rfl
@[simp] theorem modMe_spdm (s : State) (f : Hart → Hart) :
    (modMe s f).spdm = s.spdm := rfl
@[simp] theorem modMe_spdmLog (s : State) (f : Hart → Hart) :
    (modMe s f).spdmLog = s.spdmLog := rfl
@[simp] theorem modMe_spdmSigned (s : State) (f : Hart → Hart) :
    (modMe s f).spdmSigned = s.spdmSigned := rfl
@[simp] theorem modMe_layoutEpoch (s : State) (f : Hart → Hart) :
    (modMe s f).layoutEpoch = s.layoutEpoch := rfl
@[simp] theorem modMe_firmware (s : State) (f : Hart → Hart) :
    (modMe s f).firmware = s.firmware := rfl
@[simp] theorem modMe_windows (s : State) (f : Hart → Hart) :
    (modMe s f).windows = s.windows := rfl
@[simp] theorem modMe_groupTenants (s : State) (f : Hart → Hart) :
    (modMe s f).groupTenants = s.groupTenants := rfl
@[simp] theorem modMe_isolation (s : State) (f : Hart → Hart) :
    (modMe s f).isolation = s.isolation := rfl
@[simp] theorem modMe_dev (s : State) (f : Hart → Hart) :
    (modMe s f).dev = s.dev := rfl
@[simp] theorem modMe_grouped (s : State) (f : Hart → Hart) :
    (modMe s f).grouped = s.grouped := rfl
@[simp] theorem modMe_ports (s : State) (f : Hart → Hart) :
    (modMe s f).ports = s.ports := rfl
@[simp] theorem modMe_linkReqs (s : State) (f : Hart → Hart) :
    (modMe s f).linkReqs = s.linkReqs := rfl
@[simp] theorem modMe_channels (s : State) (f : Hart → Hart) :
    (modMe s f).channels = s.channels := rfl
@[simp] theorem modMe_charges (s : State) (f : Hart → Hart) :
    (modMe s f).charges = s.charges := rfl
@[simp] theorem modMe_debts (s : State) (f : Hart → Hart) :
    (modMe s f).debts = s.debts := rfl
@[simp] theorem modMe_budgetAt (s : State) (f : Hart → Hart) :
    (modMe s f).budgetAt = s.budgetAt := rfl
@[simp] theorem modMe_sensors (s : State) (f : Hart → Hart) :
    (modMe s f).sensors = s.sensors := rfl
@[simp] theorem modMe_errors (s : State) (f : Hart → Hart) :
    (modMe s f).errors = s.errors := rfl
@[simp] theorem modMe_power (s : State) (f : Hart → Hart) :
    (modMe s f).power = s.power := rfl
@[simp] theorem modMe_invalidations (s : State) (f : Hart → Hart) :
    (modMe s f).invalidations = s.invalidations := rfl
@[simp] theorem modMe_migrations (s : State) (f : Hart → Hart) :
    (modMe s f).migrations = s.migrations := rfl
@[simp] theorem modMe_sentOut (s : State) (f : Hart → Hart) :
    (modMe s f).sentOut = s.sentOut := rfl

/-! ### An instruction retired: `retire` -/

@[simp] theorem retire_cur (s : State) (n : Nat) :
    (retire s n).cur = s.cur := rfl
@[simp] theorem retire_agenda (s : State) (n : Nat) :
    (retire s n).agenda = s.agenda := rfl
@[simp] theorem retire_tick (s : State) (n : Nat) :
    (retire s n).tick = s.tick := rfl
@[simp] theorem retire_serial (s : State) (n : Nat) :
    (retire s n).serial = s.serial := rfl
@[simp] theorem retire_time (s : State) (n : Nat) :
    (retire s n).time = s.time := rfl
@[simp] theorem retire_cycles (s : State) (n : Nat) :
    (retire s n).cycles = s.cycles := rfl
@[simp] theorem retire_cores (s : State) (n : Nat) :
    (retire s n).cores = s.cores := rfl
@[simp] theorem retire_clusters (s : State) (n : Nat) :
    (retire s n).clusters = s.clusters := rfl
@[simp] theorem retire_dies (s : State) (n : Nat) :
    (retire s n).dies = s.dies := rfl
@[simp] theorem retire_views (s : State) (n : Nat) :
    (retire s n).views = s.views := rfl
@[simp] theorem retire_outer (s : State) (n : Nat) :
    (retire s n).outer = s.outer := rfl
@[simp] theorem retire_lineKeys (s : State) (n : Nat) :
    (retire s n).lineKeys = s.lineKeys := rfl
@[simp] theorem retire_badLines (s : State) (n : Nat) :
    (retire s n).badLines = s.badLines := rfl
@[simp] theorem retire_stamps (s : State) (n : Nat) :
    (retire s n).stamps = s.stamps := rfl
@[simp] theorem retire_flights (s : State) (n : Nat) :
    (retire s n).flights = s.flights := rfl
@[simp] theorem retire_mca (s : State) (n : Nat) :
    (retire s n).mca = s.mca := rfl
@[simp] theorem retire_ops (s : State) (n : Nat) :
    (retire s n).ops = s.ops := rfl
@[simp] theorem retire_counters (s : State) (n : Nat) :
    (retire s n).counters = s.counters := rfl
@[simp] theorem retire_counterOwner (s : State) (n : Nat) :
    (retire s n).counterOwner = s.counterOwner := rfl
@[simp] theorem retire_counterStamp (s : State) (n : Nat) :
    (retire s n).counterStamp = s.counterStamp := rfl
@[simp] theorem retire_barriers (s : State) (n : Nat) :
    (retire s n).barriers = s.barriers := rfl
@[simp] theorem retire_ranges (s : State) (n : Nat) :
    (retire s n).ranges = s.ranges := rfl
@[simp] theorem retire_freed (s : State) (n : Nat) :
    (retire s n).freed = s.freed := rfl
@[simp] theorem retire_withdrawn (s : State) (n : Nat) :
    (retire s n).withdrawn = s.withdrawn := rfl
@[simp] theorem retire_rights (s : State) (n : Nat) :
    (retire s n).rights = s.rights := rfl
@[simp] theorem retire_owners (s : State) (n : Nat) :
    (retire s n).owners = s.owners := rfl
@[simp] theorem retire_handleTenants (s : State) (n : Nat) :
    (retire s n).handleTenants = s.handleTenants := rfl
@[simp] theorem retire_shootdowns (s : State) (n : Nat) :
    (retire s n).shootdowns = s.shootdowns := rfl
@[simp] theorem retire_ptroot (s : State) (n : Nat) :
    (retire s n).ptroot = s.ptroot := rfl
@[simp] theorem retire_tensors (s : State) (n : Nat) :
    (retire s n).tensors = s.tensors := rfl
@[simp] theorem retire_keptVersion (s : State) (n : Nat) :
    (retire s n).keptVersion = s.keptVersion := rfl
@[simp] theorem retire_tidWithdrawn (s : State) (n : Nat) :
    (retire s n).tidWithdrawn = s.tidWithdrawn := rfl
@[simp] theorem retire_tensorQ (s : State) (n : Nat) :
    (retire s n).tensorQ = s.tensorQ := rfl
@[simp] theorem retire_launches (s : State) (n : Nat) :
    (retire s n).launches = s.launches := rfl
@[simp] theorem retire_saves (s : State) (n : Nat) :
    (retire s n).saves = s.saves := rfl
@[simp] theorem retire_tenants (s : State) (n : Nat) :
    (retire s n).tenants = s.tenants := rfl
@[simp] theorem retire_keys (s : State) (n : Nat) :
    (retire s n).keys = s.keys := rfl
@[simp] theorem retire_nextKey (s : State) (n : Nat) :
    (retire s n).nextKey = s.nextKey := rfl
@[simp] theorem retire_spdm (s : State) (n : Nat) :
    (retire s n).spdm = s.spdm := rfl
@[simp] theorem retire_spdmLog (s : State) (n : Nat) :
    (retire s n).spdmLog = s.spdmLog := rfl
@[simp] theorem retire_spdmSigned (s : State) (n : Nat) :
    (retire s n).spdmSigned = s.spdmSigned := rfl
@[simp] theorem retire_layoutEpoch (s : State) (n : Nat) :
    (retire s n).layoutEpoch = s.layoutEpoch := rfl
@[simp] theorem retire_firmware (s : State) (n : Nat) :
    (retire s n).firmware = s.firmware := rfl
@[simp] theorem retire_windows (s : State) (n : Nat) :
    (retire s n).windows = s.windows := rfl
@[simp] theorem retire_groupTenants (s : State) (n : Nat) :
    (retire s n).groupTenants = s.groupTenants := rfl
@[simp] theorem retire_isolation (s : State) (n : Nat) :
    (retire s n).isolation = s.isolation := rfl
@[simp] theorem retire_dev (s : State) (n : Nat) :
    (retire s n).dev = s.dev := rfl
@[simp] theorem retire_grouped (s : State) (n : Nat) :
    (retire s n).grouped = s.grouped := rfl
@[simp] theorem retire_ports (s : State) (n : Nat) :
    (retire s n).ports = s.ports := rfl
@[simp] theorem retire_linkReqs (s : State) (n : Nat) :
    (retire s n).linkReqs = s.linkReqs := rfl
@[simp] theorem retire_channels (s : State) (n : Nat) :
    (retire s n).channels = s.channels := rfl
@[simp] theorem retire_charges (s : State) (n : Nat) :
    (retire s n).charges = s.charges := rfl
@[simp] theorem retire_debts (s : State) (n : Nat) :
    (retire s n).debts = s.debts := rfl
@[simp] theorem retire_budgetAt (s : State) (n : Nat) :
    (retire s n).budgetAt = s.budgetAt := rfl
@[simp] theorem retire_sensors (s : State) (n : Nat) :
    (retire s n).sensors = s.sensors := rfl
@[simp] theorem retire_errors (s : State) (n : Nat) :
    (retire s n).errors = s.errors := rfl
@[simp] theorem retire_power (s : State) (n : Nat) :
    (retire s n).power = s.power := rfl
@[simp] theorem retire_invalidations (s : State) (n : Nat) :
    (retire s n).invalidations = s.invalidations := rfl
@[simp] theorem retire_migrations (s : State) (n : Nat) :
    (retire s n).migrations = s.migrations := rfl
@[simp] theorem retire_sentOut (s : State) (n : Nat) :
    (retire s n).sentOut = s.sentOut := rfl

/-! ### A core written: `setCore` -/

@[simp] theorem setCore_cur (s : State) (g : Nat) (v : Core) :
    (setCore s g v).cur = s.cur := rfl
@[simp] theorem setCore_agenda (s : State) (g : Nat) (v : Core) :
    (setCore s g v).agenda = s.agenda := rfl
@[simp] theorem setCore_tick (s : State) (g : Nat) (v : Core) :
    (setCore s g v).tick = s.tick := rfl
@[simp] theorem setCore_serial (s : State) (g : Nat) (v : Core) :
    (setCore s g v).serial = s.serial := rfl
@[simp] theorem setCore_time (s : State) (g : Nat) (v : Core) :
    (setCore s g v).time = s.time := rfl
@[simp] theorem setCore_cycles (s : State) (g : Nat) (v : Core) :
    (setCore s g v).cycles = s.cycles := rfl
@[simp] theorem setCore_harts (s : State) (g : Nat) (v : Core) :
    (setCore s g v).harts = s.harts := rfl
@[simp] theorem setCore_clusters (s : State) (g : Nat) (v : Core) :
    (setCore s g v).clusters = s.clusters := rfl
@[simp] theorem setCore_dies (s : State) (g : Nat) (v : Core) :
    (setCore s g v).dies = s.dies := rfl
@[simp] theorem setCore_views (s : State) (g : Nat) (v : Core) :
    (setCore s g v).views = s.views := rfl
@[simp] theorem setCore_outer (s : State) (g : Nat) (v : Core) :
    (setCore s g v).outer = s.outer := rfl
@[simp] theorem setCore_lineKeys (s : State) (g : Nat) (v : Core) :
    (setCore s g v).lineKeys = s.lineKeys := rfl
@[simp] theorem setCore_badLines (s : State) (g : Nat) (v : Core) :
    (setCore s g v).badLines = s.badLines := rfl
@[simp] theorem setCore_stamps (s : State) (g : Nat) (v : Core) :
    (setCore s g v).stamps = s.stamps := rfl
@[simp] theorem setCore_flights (s : State) (g : Nat) (v : Core) :
    (setCore s g v).flights = s.flights := rfl
@[simp] theorem setCore_mca (s : State) (g : Nat) (v : Core) :
    (setCore s g v).mca = s.mca := rfl
@[simp] theorem setCore_ops (s : State) (g : Nat) (v : Core) :
    (setCore s g v).ops = s.ops := rfl
@[simp] theorem setCore_counters (s : State) (g : Nat) (v : Core) :
    (setCore s g v).counters = s.counters := rfl
@[simp] theorem setCore_counterOwner (s : State) (g : Nat) (v : Core) :
    (setCore s g v).counterOwner = s.counterOwner := rfl
@[simp] theorem setCore_counterStamp (s : State) (g : Nat) (v : Core) :
    (setCore s g v).counterStamp = s.counterStamp := rfl
@[simp] theorem setCore_barriers (s : State) (g : Nat) (v : Core) :
    (setCore s g v).barriers = s.barriers := rfl
@[simp] theorem setCore_ranges (s : State) (g : Nat) (v : Core) :
    (setCore s g v).ranges = s.ranges := rfl
@[simp] theorem setCore_freed (s : State) (g : Nat) (v : Core) :
    (setCore s g v).freed = s.freed := rfl
@[simp] theorem setCore_withdrawn (s : State) (g : Nat) (v : Core) :
    (setCore s g v).withdrawn = s.withdrawn := rfl
@[simp] theorem setCore_rights (s : State) (g : Nat) (v : Core) :
    (setCore s g v).rights = s.rights := rfl
@[simp] theorem setCore_owners (s : State) (g : Nat) (v : Core) :
    (setCore s g v).owners = s.owners := rfl
@[simp] theorem setCore_handleTenants (s : State) (g : Nat) (v : Core) :
    (setCore s g v).handleTenants = s.handleTenants := rfl
@[simp] theorem setCore_shootdowns (s : State) (g : Nat) (v : Core) :
    (setCore s g v).shootdowns = s.shootdowns := rfl
@[simp] theorem setCore_ptroot (s : State) (g : Nat) (v : Core) :
    (setCore s g v).ptroot = s.ptroot := rfl
@[simp] theorem setCore_tensors (s : State) (g : Nat) (v : Core) :
    (setCore s g v).tensors = s.tensors := rfl
@[simp] theorem setCore_keptVersion (s : State) (g : Nat) (v : Core) :
    (setCore s g v).keptVersion = s.keptVersion := rfl
@[simp] theorem setCore_tidWithdrawn (s : State) (g : Nat) (v : Core) :
    (setCore s g v).tidWithdrawn = s.tidWithdrawn := rfl
@[simp] theorem setCore_tensorQ (s : State) (g : Nat) (v : Core) :
    (setCore s g v).tensorQ = s.tensorQ := rfl
@[simp] theorem setCore_launches (s : State) (g : Nat) (v : Core) :
    (setCore s g v).launches = s.launches := rfl
@[simp] theorem setCore_saves (s : State) (g : Nat) (v : Core) :
    (setCore s g v).saves = s.saves := rfl
@[simp] theorem setCore_tenants (s : State) (g : Nat) (v : Core) :
    (setCore s g v).tenants = s.tenants := rfl
@[simp] theorem setCore_keys (s : State) (g : Nat) (v : Core) :
    (setCore s g v).keys = s.keys := rfl
@[simp] theorem setCore_nextKey (s : State) (g : Nat) (v : Core) :
    (setCore s g v).nextKey = s.nextKey := rfl
@[simp] theorem setCore_spdm (s : State) (g : Nat) (v : Core) :
    (setCore s g v).spdm = s.spdm := rfl
@[simp] theorem setCore_spdmLog (s : State) (g : Nat) (v : Core) :
    (setCore s g v).spdmLog = s.spdmLog := rfl
@[simp] theorem setCore_spdmSigned (s : State) (g : Nat) (v : Core) :
    (setCore s g v).spdmSigned = s.spdmSigned := rfl
@[simp] theorem setCore_layoutEpoch (s : State) (g : Nat) (v : Core) :
    (setCore s g v).layoutEpoch = s.layoutEpoch := rfl
@[simp] theorem setCore_firmware (s : State) (g : Nat) (v : Core) :
    (setCore s g v).firmware = s.firmware := rfl
@[simp] theorem setCore_windows (s : State) (g : Nat) (v : Core) :
    (setCore s g v).windows = s.windows := rfl
@[simp] theorem setCore_groupTenants (s : State) (g : Nat) (v : Core) :
    (setCore s g v).groupTenants = s.groupTenants := rfl
@[simp] theorem setCore_isolation (s : State) (g : Nat) (v : Core) :
    (setCore s g v).isolation = s.isolation := rfl
@[simp] theorem setCore_dev (s : State) (g : Nat) (v : Core) :
    (setCore s g v).dev = s.dev := rfl
@[simp] theorem setCore_grouped (s : State) (g : Nat) (v : Core) :
    (setCore s g v).grouped = s.grouped := rfl
@[simp] theorem setCore_ports (s : State) (g : Nat) (v : Core) :
    (setCore s g v).ports = s.ports := rfl
@[simp] theorem setCore_linkReqs (s : State) (g : Nat) (v : Core) :
    (setCore s g v).linkReqs = s.linkReqs := rfl
@[simp] theorem setCore_channels (s : State) (g : Nat) (v : Core) :
    (setCore s g v).channels = s.channels := rfl
@[simp] theorem setCore_charges (s : State) (g : Nat) (v : Core) :
    (setCore s g v).charges = s.charges := rfl
@[simp] theorem setCore_debts (s : State) (g : Nat) (v : Core) :
    (setCore s g v).debts = s.debts := rfl
@[simp] theorem setCore_budgetAt (s : State) (g : Nat) (v : Core) :
    (setCore s g v).budgetAt = s.budgetAt := rfl
@[simp] theorem setCore_sensors (s : State) (g : Nat) (v : Core) :
    (setCore s g v).sensors = s.sensors := rfl
@[simp] theorem setCore_errors (s : State) (g : Nat) (v : Core) :
    (setCore s g v).errors = s.errors := rfl
@[simp] theorem setCore_power (s : State) (g : Nat) (v : Core) :
    (setCore s g v).power = s.power := rfl
@[simp] theorem setCore_invalidations (s : State) (g : Nat) (v : Core) :
    (setCore s g v).invalidations = s.invalidations := rfl
@[simp] theorem setCore_migrations (s : State) (g : Nat) (v : Core) :
    (setCore s g v).migrations = s.migrations := rfl
@[simp] theorem setCore_sentOut (s : State) (g : Nat) (v : Core) :
    (setCore s g v).sentOut = s.sentOut := rfl

/-! ### A core changed: `modCore` -/

@[simp] theorem modCore_cur (s : State) (g : Nat) (f : Core → Core) :
    (modCore s g f).cur = s.cur := rfl
@[simp] theorem modCore_agenda (s : State) (g : Nat) (f : Core → Core) :
    (modCore s g f).agenda = s.agenda := rfl
@[simp] theorem modCore_tick (s : State) (g : Nat) (f : Core → Core) :
    (modCore s g f).tick = s.tick := rfl
@[simp] theorem modCore_serial (s : State) (g : Nat) (f : Core → Core) :
    (modCore s g f).serial = s.serial := rfl
@[simp] theorem modCore_time (s : State) (g : Nat) (f : Core → Core) :
    (modCore s g f).time = s.time := rfl
@[simp] theorem modCore_cycles (s : State) (g : Nat) (f : Core → Core) :
    (modCore s g f).cycles = s.cycles := rfl
@[simp] theorem modCore_harts (s : State) (g : Nat) (f : Core → Core) :
    (modCore s g f).harts = s.harts := rfl
@[simp] theorem modCore_clusters (s : State) (g : Nat) (f : Core → Core) :
    (modCore s g f).clusters = s.clusters := rfl
@[simp] theorem modCore_dies (s : State) (g : Nat) (f : Core → Core) :
    (modCore s g f).dies = s.dies := rfl
@[simp] theorem modCore_views (s : State) (g : Nat) (f : Core → Core) :
    (modCore s g f).views = s.views := rfl
@[simp] theorem modCore_outer (s : State) (g : Nat) (f : Core → Core) :
    (modCore s g f).outer = s.outer := rfl
@[simp] theorem modCore_lineKeys (s : State) (g : Nat) (f : Core → Core) :
    (modCore s g f).lineKeys = s.lineKeys := rfl
@[simp] theorem modCore_badLines (s : State) (g : Nat) (f : Core → Core) :
    (modCore s g f).badLines = s.badLines := rfl
@[simp] theorem modCore_stamps (s : State) (g : Nat) (f : Core → Core) :
    (modCore s g f).stamps = s.stamps := rfl
@[simp] theorem modCore_flights (s : State) (g : Nat) (f : Core → Core) :
    (modCore s g f).flights = s.flights := rfl
@[simp] theorem modCore_mca (s : State) (g : Nat) (f : Core → Core) :
    (modCore s g f).mca = s.mca := rfl
@[simp] theorem modCore_ops (s : State) (g : Nat) (f : Core → Core) :
    (modCore s g f).ops = s.ops := rfl
@[simp] theorem modCore_counters (s : State) (g : Nat) (f : Core → Core) :
    (modCore s g f).counters = s.counters := rfl
@[simp] theorem modCore_counterOwner (s : State) (g : Nat) (f : Core → Core) :
    (modCore s g f).counterOwner = s.counterOwner := rfl
@[simp] theorem modCore_counterStamp (s : State) (g : Nat) (f : Core → Core) :
    (modCore s g f).counterStamp = s.counterStamp := rfl
@[simp] theorem modCore_barriers (s : State) (g : Nat) (f : Core → Core) :
    (modCore s g f).barriers = s.barriers := rfl
@[simp] theorem modCore_ranges (s : State) (g : Nat) (f : Core → Core) :
    (modCore s g f).ranges = s.ranges := rfl
@[simp] theorem modCore_freed (s : State) (g : Nat) (f : Core → Core) :
    (modCore s g f).freed = s.freed := rfl
@[simp] theorem modCore_withdrawn (s : State) (g : Nat) (f : Core → Core) :
    (modCore s g f).withdrawn = s.withdrawn := rfl
@[simp] theorem modCore_rights (s : State) (g : Nat) (f : Core → Core) :
    (modCore s g f).rights = s.rights := rfl
@[simp] theorem modCore_owners (s : State) (g : Nat) (f : Core → Core) :
    (modCore s g f).owners = s.owners := rfl
@[simp] theorem modCore_handleTenants (s : State) (g : Nat) (f : Core → Core) :
    (modCore s g f).handleTenants = s.handleTenants := rfl
@[simp] theorem modCore_shootdowns (s : State) (g : Nat) (f : Core → Core) :
    (modCore s g f).shootdowns = s.shootdowns := rfl
@[simp] theorem modCore_ptroot (s : State) (g : Nat) (f : Core → Core) :
    (modCore s g f).ptroot = s.ptroot := rfl
@[simp] theorem modCore_tensors (s : State) (g : Nat) (f : Core → Core) :
    (modCore s g f).tensors = s.tensors := rfl
@[simp] theorem modCore_keptVersion (s : State) (g : Nat) (f : Core → Core) :
    (modCore s g f).keptVersion = s.keptVersion := rfl
@[simp] theorem modCore_tidWithdrawn (s : State) (g : Nat) (f : Core → Core) :
    (modCore s g f).tidWithdrawn = s.tidWithdrawn := rfl
@[simp] theorem modCore_tensorQ (s : State) (g : Nat) (f : Core → Core) :
    (modCore s g f).tensorQ = s.tensorQ := rfl
@[simp] theorem modCore_launches (s : State) (g : Nat) (f : Core → Core) :
    (modCore s g f).launches = s.launches := rfl
@[simp] theorem modCore_saves (s : State) (g : Nat) (f : Core → Core) :
    (modCore s g f).saves = s.saves := rfl
@[simp] theorem modCore_tenants (s : State) (g : Nat) (f : Core → Core) :
    (modCore s g f).tenants = s.tenants := rfl
@[simp] theorem modCore_keys (s : State) (g : Nat) (f : Core → Core) :
    (modCore s g f).keys = s.keys := rfl
@[simp] theorem modCore_nextKey (s : State) (g : Nat) (f : Core → Core) :
    (modCore s g f).nextKey = s.nextKey := rfl
@[simp] theorem modCore_spdm (s : State) (g : Nat) (f : Core → Core) :
    (modCore s g f).spdm = s.spdm := rfl
@[simp] theorem modCore_spdmLog (s : State) (g : Nat) (f : Core → Core) :
    (modCore s g f).spdmLog = s.spdmLog := rfl
@[simp] theorem modCore_spdmSigned (s : State) (g : Nat) (f : Core → Core) :
    (modCore s g f).spdmSigned = s.spdmSigned := rfl
@[simp] theorem modCore_layoutEpoch (s : State) (g : Nat) (f : Core → Core) :
    (modCore s g f).layoutEpoch = s.layoutEpoch := rfl
@[simp] theorem modCore_firmware (s : State) (g : Nat) (f : Core → Core) :
    (modCore s g f).firmware = s.firmware := rfl
@[simp] theorem modCore_windows (s : State) (g : Nat) (f : Core → Core) :
    (modCore s g f).windows = s.windows := rfl
@[simp] theorem modCore_groupTenants (s : State) (g : Nat) (f : Core → Core) :
    (modCore s g f).groupTenants = s.groupTenants := rfl
@[simp] theorem modCore_isolation (s : State) (g : Nat) (f : Core → Core) :
    (modCore s g f).isolation = s.isolation := rfl
@[simp] theorem modCore_dev (s : State) (g : Nat) (f : Core → Core) :
    (modCore s g f).dev = s.dev := rfl
@[simp] theorem modCore_grouped (s : State) (g : Nat) (f : Core → Core) :
    (modCore s g f).grouped = s.grouped := rfl
@[simp] theorem modCore_ports (s : State) (g : Nat) (f : Core → Core) :
    (modCore s g f).ports = s.ports := rfl
@[simp] theorem modCore_linkReqs (s : State) (g : Nat) (f : Core → Core) :
    (modCore s g f).linkReqs = s.linkReqs := rfl
@[simp] theorem modCore_channels (s : State) (g : Nat) (f : Core → Core) :
    (modCore s g f).channels = s.channels := rfl
@[simp] theorem modCore_charges (s : State) (g : Nat) (f : Core → Core) :
    (modCore s g f).charges = s.charges := rfl
@[simp] theorem modCore_debts (s : State) (g : Nat) (f : Core → Core) :
    (modCore s g f).debts = s.debts := rfl
@[simp] theorem modCore_budgetAt (s : State) (g : Nat) (f : Core → Core) :
    (modCore s g f).budgetAt = s.budgetAt := rfl
@[simp] theorem modCore_sensors (s : State) (g : Nat) (f : Core → Core) :
    (modCore s g f).sensors = s.sensors := rfl
@[simp] theorem modCore_errors (s : State) (g : Nat) (f : Core → Core) :
    (modCore s g f).errors = s.errors := rfl
@[simp] theorem modCore_power (s : State) (g : Nat) (f : Core → Core) :
    (modCore s g f).power = s.power := rfl
@[simp] theorem modCore_invalidations (s : State) (g : Nat) (f : Core → Core) :
    (modCore s g f).invalidations = s.invalidations := rfl
@[simp] theorem modCore_migrations (s : State) (g : Nat) (f : Core → Core) :
    (modCore s g f).migrations = s.migrations := rfl
@[simp] theorem modCore_sentOut (s : State) (g : Nat) (f : Core → Core) :
    (modCore s g f).sentOut = s.sentOut := rfl

/-! ### A cluster changed: `modCluster` -/

@[simp] theorem modCluster_cur (s : State) (c : Nat) (f : Cluster → Cluster) :
    (modCluster s c f).cur = s.cur := rfl
@[simp] theorem modCluster_agenda (s : State) (c : Nat) (f : Cluster → Cluster) :
    (modCluster s c f).agenda = s.agenda := rfl
@[simp] theorem modCluster_tick (s : State) (c : Nat) (f : Cluster → Cluster) :
    (modCluster s c f).tick = s.tick := rfl
@[simp] theorem modCluster_serial (s : State) (c : Nat) (f : Cluster → Cluster) :
    (modCluster s c f).serial = s.serial := rfl
@[simp] theorem modCluster_time (s : State) (c : Nat) (f : Cluster → Cluster) :
    (modCluster s c f).time = s.time := rfl
@[simp] theorem modCluster_cycles (s : State) (c : Nat) (f : Cluster → Cluster) :
    (modCluster s c f).cycles = s.cycles := rfl
@[simp] theorem modCluster_harts (s : State) (c : Nat) (f : Cluster → Cluster) :
    (modCluster s c f).harts = s.harts := rfl
@[simp] theorem modCluster_cores (s : State) (c : Nat) (f : Cluster → Cluster) :
    (modCluster s c f).cores = s.cores := rfl
@[simp] theorem modCluster_dies (s : State) (c : Nat) (f : Cluster → Cluster) :
    (modCluster s c f).dies = s.dies := rfl
@[simp] theorem modCluster_views (s : State) (c : Nat) (f : Cluster → Cluster) :
    (modCluster s c f).views = s.views := rfl
@[simp] theorem modCluster_outer (s : State) (c : Nat) (f : Cluster → Cluster) :
    (modCluster s c f).outer = s.outer := rfl
@[simp] theorem modCluster_lineKeys (s : State) (c : Nat) (f : Cluster → Cluster) :
    (modCluster s c f).lineKeys = s.lineKeys := rfl
@[simp] theorem modCluster_badLines (s : State) (c : Nat) (f : Cluster → Cluster) :
    (modCluster s c f).badLines = s.badLines := rfl
@[simp] theorem modCluster_stamps (s : State) (c : Nat) (f : Cluster → Cluster) :
    (modCluster s c f).stamps = s.stamps := rfl
@[simp] theorem modCluster_flights (s : State) (c : Nat) (f : Cluster → Cluster) :
    (modCluster s c f).flights = s.flights := rfl
@[simp] theorem modCluster_mca (s : State) (c : Nat) (f : Cluster → Cluster) :
    (modCluster s c f).mca = s.mca := rfl
@[simp] theorem modCluster_ops (s : State) (c : Nat) (f : Cluster → Cluster) :
    (modCluster s c f).ops = s.ops := rfl
@[simp] theorem modCluster_counters (s : State) (c : Nat) (f : Cluster → Cluster) :
    (modCluster s c f).counters = s.counters := rfl
@[simp] theorem modCluster_counterOwner (s : State) (c : Nat) (f : Cluster → Cluster) :
    (modCluster s c f).counterOwner = s.counterOwner := rfl
@[simp] theorem modCluster_counterStamp (s : State) (c : Nat) (f : Cluster → Cluster) :
    (modCluster s c f).counterStamp = s.counterStamp := rfl
@[simp] theorem modCluster_barriers (s : State) (c : Nat) (f : Cluster → Cluster) :
    (modCluster s c f).barriers = s.barriers := rfl
@[simp] theorem modCluster_ranges (s : State) (c : Nat) (f : Cluster → Cluster) :
    (modCluster s c f).ranges = s.ranges := rfl
@[simp] theorem modCluster_freed (s : State) (c : Nat) (f : Cluster → Cluster) :
    (modCluster s c f).freed = s.freed := rfl
@[simp] theorem modCluster_withdrawn (s : State) (c : Nat) (f : Cluster → Cluster) :
    (modCluster s c f).withdrawn = s.withdrawn := rfl
@[simp] theorem modCluster_rights (s : State) (c : Nat) (f : Cluster → Cluster) :
    (modCluster s c f).rights = s.rights := rfl
@[simp] theorem modCluster_owners (s : State) (c : Nat) (f : Cluster → Cluster) :
    (modCluster s c f).owners = s.owners := rfl
@[simp] theorem modCluster_handleTenants (s : State) (c : Nat) (f : Cluster → Cluster) :
    (modCluster s c f).handleTenants = s.handleTenants := rfl
@[simp] theorem modCluster_shootdowns (s : State) (c : Nat) (f : Cluster → Cluster) :
    (modCluster s c f).shootdowns = s.shootdowns := rfl
@[simp] theorem modCluster_ptroot (s : State) (c : Nat) (f : Cluster → Cluster) :
    (modCluster s c f).ptroot = s.ptroot := rfl
@[simp] theorem modCluster_tensors (s : State) (c : Nat) (f : Cluster → Cluster) :
    (modCluster s c f).tensors = s.tensors := rfl
@[simp] theorem modCluster_keptVersion (s : State) (c : Nat) (f : Cluster → Cluster) :
    (modCluster s c f).keptVersion = s.keptVersion := rfl
@[simp] theorem modCluster_tidWithdrawn (s : State) (c : Nat) (f : Cluster → Cluster) :
    (modCluster s c f).tidWithdrawn = s.tidWithdrawn := rfl
@[simp] theorem modCluster_tensorQ (s : State) (c : Nat) (f : Cluster → Cluster) :
    (modCluster s c f).tensorQ = s.tensorQ := rfl
@[simp] theorem modCluster_launches (s : State) (c : Nat) (f : Cluster → Cluster) :
    (modCluster s c f).launches = s.launches := rfl
@[simp] theorem modCluster_saves (s : State) (c : Nat) (f : Cluster → Cluster) :
    (modCluster s c f).saves = s.saves := rfl
@[simp] theorem modCluster_tenants (s : State) (c : Nat) (f : Cluster → Cluster) :
    (modCluster s c f).tenants = s.tenants := rfl
@[simp] theorem modCluster_keys (s : State) (c : Nat) (f : Cluster → Cluster) :
    (modCluster s c f).keys = s.keys := rfl
@[simp] theorem modCluster_nextKey (s : State) (c : Nat) (f : Cluster → Cluster) :
    (modCluster s c f).nextKey = s.nextKey := rfl
@[simp] theorem modCluster_spdm (s : State) (c : Nat) (f : Cluster → Cluster) :
    (modCluster s c f).spdm = s.spdm := rfl
@[simp] theorem modCluster_spdmLog (s : State) (c : Nat) (f : Cluster → Cluster) :
    (modCluster s c f).spdmLog = s.spdmLog := rfl
@[simp] theorem modCluster_spdmSigned (s : State) (c : Nat) (f : Cluster → Cluster) :
    (modCluster s c f).spdmSigned = s.spdmSigned := rfl
@[simp] theorem modCluster_layoutEpoch (s : State) (c : Nat) (f : Cluster → Cluster) :
    (modCluster s c f).layoutEpoch = s.layoutEpoch := rfl
@[simp] theorem modCluster_firmware (s : State) (c : Nat) (f : Cluster → Cluster) :
    (modCluster s c f).firmware = s.firmware := rfl
@[simp] theorem modCluster_windows (s : State) (c : Nat) (f : Cluster → Cluster) :
    (modCluster s c f).windows = s.windows := rfl
@[simp] theorem modCluster_groupTenants (s : State) (c : Nat) (f : Cluster → Cluster) :
    (modCluster s c f).groupTenants = s.groupTenants := rfl
@[simp] theorem modCluster_isolation (s : State) (c : Nat) (f : Cluster → Cluster) :
    (modCluster s c f).isolation = s.isolation := rfl
@[simp] theorem modCluster_dev (s : State) (c : Nat) (f : Cluster → Cluster) :
    (modCluster s c f).dev = s.dev := rfl
@[simp] theorem modCluster_grouped (s : State) (c : Nat) (f : Cluster → Cluster) :
    (modCluster s c f).grouped = s.grouped := rfl
@[simp] theorem modCluster_ports (s : State) (c : Nat) (f : Cluster → Cluster) :
    (modCluster s c f).ports = s.ports := rfl
@[simp] theorem modCluster_linkReqs (s : State) (c : Nat) (f : Cluster → Cluster) :
    (modCluster s c f).linkReqs = s.linkReqs := rfl
@[simp] theorem modCluster_channels (s : State) (c : Nat) (f : Cluster → Cluster) :
    (modCluster s c f).channels = s.channels := rfl
@[simp] theorem modCluster_charges (s : State) (c : Nat) (f : Cluster → Cluster) :
    (modCluster s c f).charges = s.charges := rfl
@[simp] theorem modCluster_debts (s : State) (c : Nat) (f : Cluster → Cluster) :
    (modCluster s c f).debts = s.debts := rfl
@[simp] theorem modCluster_budgetAt (s : State) (c : Nat) (f : Cluster → Cluster) :
    (modCluster s c f).budgetAt = s.budgetAt := rfl
@[simp] theorem modCluster_sensors (s : State) (c : Nat) (f : Cluster → Cluster) :
    (modCluster s c f).sensors = s.sensors := rfl
@[simp] theorem modCluster_errors (s : State) (c : Nat) (f : Cluster → Cluster) :
    (modCluster s c f).errors = s.errors := rfl
@[simp] theorem modCluster_power (s : State) (c : Nat) (f : Cluster → Cluster) :
    (modCluster s c f).power = s.power := rfl
@[simp] theorem modCluster_invalidations (s : State) (c : Nat) (f : Cluster → Cluster) :
    (modCluster s c f).invalidations = s.invalidations := rfl
@[simp] theorem modCluster_migrations (s : State) (c : Nat) (f : Cluster → Cluster) :
    (modCluster s c f).migrations = s.migrations := rfl
@[simp] theorem modCluster_sentOut (s : State) (c : Nat) (f : Cluster → Cluster) :
    (modCluster s c f).sentOut = s.sentOut := rfl

/-! ### A die changed: `modDie` -/

@[simp] theorem modDie_cur (s : State) (d : Nat) (f : Die → Die) :
    (modDie s d f).cur = s.cur := rfl
@[simp] theorem modDie_agenda (s : State) (d : Nat) (f : Die → Die) :
    (modDie s d f).agenda = s.agenda := rfl
@[simp] theorem modDie_tick (s : State) (d : Nat) (f : Die → Die) :
    (modDie s d f).tick = s.tick := rfl
@[simp] theorem modDie_serial (s : State) (d : Nat) (f : Die → Die) :
    (modDie s d f).serial = s.serial := rfl
@[simp] theorem modDie_time (s : State) (d : Nat) (f : Die → Die) :
    (modDie s d f).time = s.time := rfl
@[simp] theorem modDie_cycles (s : State) (d : Nat) (f : Die → Die) :
    (modDie s d f).cycles = s.cycles := rfl
@[simp] theorem modDie_harts (s : State) (d : Nat) (f : Die → Die) :
    (modDie s d f).harts = s.harts := rfl
@[simp] theorem modDie_cores (s : State) (d : Nat) (f : Die → Die) :
    (modDie s d f).cores = s.cores := rfl
@[simp] theorem modDie_clusters (s : State) (d : Nat) (f : Die → Die) :
    (modDie s d f).clusters = s.clusters := rfl
@[simp] theorem modDie_views (s : State) (d : Nat) (f : Die → Die) :
    (modDie s d f).views = s.views := rfl
@[simp] theorem modDie_outer (s : State) (d : Nat) (f : Die → Die) :
    (modDie s d f).outer = s.outer := rfl
@[simp] theorem modDie_lineKeys (s : State) (d : Nat) (f : Die → Die) :
    (modDie s d f).lineKeys = s.lineKeys := rfl
@[simp] theorem modDie_badLines (s : State) (d : Nat) (f : Die → Die) :
    (modDie s d f).badLines = s.badLines := rfl
@[simp] theorem modDie_stamps (s : State) (d : Nat) (f : Die → Die) :
    (modDie s d f).stamps = s.stamps := rfl
@[simp] theorem modDie_flights (s : State) (d : Nat) (f : Die → Die) :
    (modDie s d f).flights = s.flights := rfl
@[simp] theorem modDie_mca (s : State) (d : Nat) (f : Die → Die) :
    (modDie s d f).mca = s.mca := rfl
@[simp] theorem modDie_ops (s : State) (d : Nat) (f : Die → Die) :
    (modDie s d f).ops = s.ops := rfl
@[simp] theorem modDie_counters (s : State) (d : Nat) (f : Die → Die) :
    (modDie s d f).counters = s.counters := rfl
@[simp] theorem modDie_counterOwner (s : State) (d : Nat) (f : Die → Die) :
    (modDie s d f).counterOwner = s.counterOwner := rfl
@[simp] theorem modDie_counterStamp (s : State) (d : Nat) (f : Die → Die) :
    (modDie s d f).counterStamp = s.counterStamp := rfl
@[simp] theorem modDie_barriers (s : State) (d : Nat) (f : Die → Die) :
    (modDie s d f).barriers = s.barriers := rfl
@[simp] theorem modDie_ranges (s : State) (d : Nat) (f : Die → Die) :
    (modDie s d f).ranges = s.ranges := rfl
@[simp] theorem modDie_freed (s : State) (d : Nat) (f : Die → Die) :
    (modDie s d f).freed = s.freed := rfl
@[simp] theorem modDie_withdrawn (s : State) (d : Nat) (f : Die → Die) :
    (modDie s d f).withdrawn = s.withdrawn := rfl
@[simp] theorem modDie_rights (s : State) (d : Nat) (f : Die → Die) :
    (modDie s d f).rights = s.rights := rfl
@[simp] theorem modDie_owners (s : State) (d : Nat) (f : Die → Die) :
    (modDie s d f).owners = s.owners := rfl
@[simp] theorem modDie_handleTenants (s : State) (d : Nat) (f : Die → Die) :
    (modDie s d f).handleTenants = s.handleTenants := rfl
@[simp] theorem modDie_shootdowns (s : State) (d : Nat) (f : Die → Die) :
    (modDie s d f).shootdowns = s.shootdowns := rfl
@[simp] theorem modDie_ptroot (s : State) (d : Nat) (f : Die → Die) :
    (modDie s d f).ptroot = s.ptroot := rfl
@[simp] theorem modDie_tensors (s : State) (d : Nat) (f : Die → Die) :
    (modDie s d f).tensors = s.tensors := rfl
@[simp] theorem modDie_keptVersion (s : State) (d : Nat) (f : Die → Die) :
    (modDie s d f).keptVersion = s.keptVersion := rfl
@[simp] theorem modDie_tidWithdrawn (s : State) (d : Nat) (f : Die → Die) :
    (modDie s d f).tidWithdrawn = s.tidWithdrawn := rfl
@[simp] theorem modDie_tensorQ (s : State) (d : Nat) (f : Die → Die) :
    (modDie s d f).tensorQ = s.tensorQ := rfl
@[simp] theorem modDie_launches (s : State) (d : Nat) (f : Die → Die) :
    (modDie s d f).launches = s.launches := rfl
@[simp] theorem modDie_saves (s : State) (d : Nat) (f : Die → Die) :
    (modDie s d f).saves = s.saves := rfl
@[simp] theorem modDie_tenants (s : State) (d : Nat) (f : Die → Die) :
    (modDie s d f).tenants = s.tenants := rfl
@[simp] theorem modDie_keys (s : State) (d : Nat) (f : Die → Die) :
    (modDie s d f).keys = s.keys := rfl
@[simp] theorem modDie_nextKey (s : State) (d : Nat) (f : Die → Die) :
    (modDie s d f).nextKey = s.nextKey := rfl
@[simp] theorem modDie_spdm (s : State) (d : Nat) (f : Die → Die) :
    (modDie s d f).spdm = s.spdm := rfl
@[simp] theorem modDie_spdmLog (s : State) (d : Nat) (f : Die → Die) :
    (modDie s d f).spdmLog = s.spdmLog := rfl
@[simp] theorem modDie_spdmSigned (s : State) (d : Nat) (f : Die → Die) :
    (modDie s d f).spdmSigned = s.spdmSigned := rfl
@[simp] theorem modDie_layoutEpoch (s : State) (d : Nat) (f : Die → Die) :
    (modDie s d f).layoutEpoch = s.layoutEpoch := rfl
@[simp] theorem modDie_firmware (s : State) (d : Nat) (f : Die → Die) :
    (modDie s d f).firmware = s.firmware := rfl
@[simp] theorem modDie_windows (s : State) (d : Nat) (f : Die → Die) :
    (modDie s d f).windows = s.windows := rfl
@[simp] theorem modDie_groupTenants (s : State) (d : Nat) (f : Die → Die) :
    (modDie s d f).groupTenants = s.groupTenants := rfl
@[simp] theorem modDie_isolation (s : State) (d : Nat) (f : Die → Die) :
    (modDie s d f).isolation = s.isolation := rfl
@[simp] theorem modDie_dev (s : State) (d : Nat) (f : Die → Die) :
    (modDie s d f).dev = s.dev := rfl
@[simp] theorem modDie_grouped (s : State) (d : Nat) (f : Die → Die) :
    (modDie s d f).grouped = s.grouped := rfl
@[simp] theorem modDie_ports (s : State) (d : Nat) (f : Die → Die) :
    (modDie s d f).ports = s.ports := rfl
@[simp] theorem modDie_linkReqs (s : State) (d : Nat) (f : Die → Die) :
    (modDie s d f).linkReqs = s.linkReqs := rfl
@[simp] theorem modDie_channels (s : State) (d : Nat) (f : Die → Die) :
    (modDie s d f).channels = s.channels := rfl
@[simp] theorem modDie_charges (s : State) (d : Nat) (f : Die → Die) :
    (modDie s d f).charges = s.charges := rfl
@[simp] theorem modDie_debts (s : State) (d : Nat) (f : Die → Die) :
    (modDie s d f).debts = s.debts := rfl
@[simp] theorem modDie_budgetAt (s : State) (d : Nat) (f : Die → Die) :
    (modDie s d f).budgetAt = s.budgetAt := rfl
@[simp] theorem modDie_sensors (s : State) (d : Nat) (f : Die → Die) :
    (modDie s d f).sensors = s.sensors := rfl
@[simp] theorem modDie_errors (s : State) (d : Nat) (f : Die → Die) :
    (modDie s d f).errors = s.errors := rfl
@[simp] theorem modDie_power (s : State) (d : Nat) (f : Die → Die) :
    (modDie s d f).power = s.power := rfl
@[simp] theorem modDie_invalidations (s : State) (d : Nat) (f : Die → Die) :
    (modDie s d f).invalidations = s.invalidations := rfl
@[simp] theorem modDie_migrations (s : State) (d : Nat) (f : Die → Die) :
    (modDie s d f).migrations = s.migrations := rfl
@[simp] theorem modDie_sentOut (s : State) (d : Nat) (f : Die → Die) :
    (modDie s d f).sentOut = s.sentOut := rfl

/-! ### A tenant changed: `modTenant` -/

@[simp] theorem modTenant_cur (s : State) (t : Nat) (f : Tenant → Tenant) :
    (modTenant s t f).cur = s.cur := rfl
@[simp] theorem modTenant_agenda (s : State) (t : Nat) (f : Tenant → Tenant) :
    (modTenant s t f).agenda = s.agenda := rfl
@[simp] theorem modTenant_tick (s : State) (t : Nat) (f : Tenant → Tenant) :
    (modTenant s t f).tick = s.tick := rfl
@[simp] theorem modTenant_serial (s : State) (t : Nat) (f : Tenant → Tenant) :
    (modTenant s t f).serial = s.serial := rfl
@[simp] theorem modTenant_time (s : State) (t : Nat) (f : Tenant → Tenant) :
    (modTenant s t f).time = s.time := rfl
@[simp] theorem modTenant_cycles (s : State) (t : Nat) (f : Tenant → Tenant) :
    (modTenant s t f).cycles = s.cycles := rfl
@[simp] theorem modTenant_harts (s : State) (t : Nat) (f : Tenant → Tenant) :
    (modTenant s t f).harts = s.harts := rfl
@[simp] theorem modTenant_cores (s : State) (t : Nat) (f : Tenant → Tenant) :
    (modTenant s t f).cores = s.cores := rfl
@[simp] theorem modTenant_clusters (s : State) (t : Nat) (f : Tenant → Tenant) :
    (modTenant s t f).clusters = s.clusters := rfl
@[simp] theorem modTenant_dies (s : State) (t : Nat) (f : Tenant → Tenant) :
    (modTenant s t f).dies = s.dies := rfl
@[simp] theorem modTenant_views (s : State) (t : Nat) (f : Tenant → Tenant) :
    (modTenant s t f).views = s.views := rfl
@[simp] theorem modTenant_outer (s : State) (t : Nat) (f : Tenant → Tenant) :
    (modTenant s t f).outer = s.outer := rfl
@[simp] theorem modTenant_lineKeys (s : State) (t : Nat) (f : Tenant → Tenant) :
    (modTenant s t f).lineKeys = s.lineKeys := rfl
@[simp] theorem modTenant_badLines (s : State) (t : Nat) (f : Tenant → Tenant) :
    (modTenant s t f).badLines = s.badLines := rfl
@[simp] theorem modTenant_stamps (s : State) (t : Nat) (f : Tenant → Tenant) :
    (modTenant s t f).stamps = s.stamps := rfl
@[simp] theorem modTenant_flights (s : State) (t : Nat) (f : Tenant → Tenant) :
    (modTenant s t f).flights = s.flights := rfl
@[simp] theorem modTenant_mca (s : State) (t : Nat) (f : Tenant → Tenant) :
    (modTenant s t f).mca = s.mca := rfl
@[simp] theorem modTenant_ops (s : State) (t : Nat) (f : Tenant → Tenant) :
    (modTenant s t f).ops = s.ops := rfl
@[simp] theorem modTenant_counters (s : State) (t : Nat) (f : Tenant → Tenant) :
    (modTenant s t f).counters = s.counters := rfl
@[simp] theorem modTenant_counterOwner (s : State) (t : Nat) (f : Tenant → Tenant) :
    (modTenant s t f).counterOwner = s.counterOwner := rfl
@[simp] theorem modTenant_counterStamp (s : State) (t : Nat) (f : Tenant → Tenant) :
    (modTenant s t f).counterStamp = s.counterStamp := rfl
@[simp] theorem modTenant_barriers (s : State) (t : Nat) (f : Tenant → Tenant) :
    (modTenant s t f).barriers = s.barriers := rfl
@[simp] theorem modTenant_ranges (s : State) (t : Nat) (f : Tenant → Tenant) :
    (modTenant s t f).ranges = s.ranges := rfl
@[simp] theorem modTenant_freed (s : State) (t : Nat) (f : Tenant → Tenant) :
    (modTenant s t f).freed = s.freed := rfl
@[simp] theorem modTenant_withdrawn (s : State) (t : Nat) (f : Tenant → Tenant) :
    (modTenant s t f).withdrawn = s.withdrawn := rfl
@[simp] theorem modTenant_rights (s : State) (t : Nat) (f : Tenant → Tenant) :
    (modTenant s t f).rights = s.rights := rfl
@[simp] theorem modTenant_owners (s : State) (t : Nat) (f : Tenant → Tenant) :
    (modTenant s t f).owners = s.owners := rfl
@[simp] theorem modTenant_handleTenants (s : State) (t : Nat) (f : Tenant → Tenant) :
    (modTenant s t f).handleTenants = s.handleTenants := rfl
@[simp] theorem modTenant_shootdowns (s : State) (t : Nat) (f : Tenant → Tenant) :
    (modTenant s t f).shootdowns = s.shootdowns := rfl
@[simp] theorem modTenant_ptroot (s : State) (t : Nat) (f : Tenant → Tenant) :
    (modTenant s t f).ptroot = s.ptroot := rfl
@[simp] theorem modTenant_tensors (s : State) (t : Nat) (f : Tenant → Tenant) :
    (modTenant s t f).tensors = s.tensors := rfl
@[simp] theorem modTenant_keptVersion (s : State) (t : Nat) (f : Tenant → Tenant) :
    (modTenant s t f).keptVersion = s.keptVersion := rfl
@[simp] theorem modTenant_tidWithdrawn (s : State) (t : Nat) (f : Tenant → Tenant) :
    (modTenant s t f).tidWithdrawn = s.tidWithdrawn := rfl
@[simp] theorem modTenant_tensorQ (s : State) (t : Nat) (f : Tenant → Tenant) :
    (modTenant s t f).tensorQ = s.tensorQ := rfl
@[simp] theorem modTenant_launches (s : State) (t : Nat) (f : Tenant → Tenant) :
    (modTenant s t f).launches = s.launches := rfl
@[simp] theorem modTenant_saves (s : State) (t : Nat) (f : Tenant → Tenant) :
    (modTenant s t f).saves = s.saves := rfl
@[simp] theorem modTenant_keys (s : State) (t : Nat) (f : Tenant → Tenant) :
    (modTenant s t f).keys = s.keys := rfl
@[simp] theorem modTenant_nextKey (s : State) (t : Nat) (f : Tenant → Tenant) :
    (modTenant s t f).nextKey = s.nextKey := rfl
@[simp] theorem modTenant_spdm (s : State) (t : Nat) (f : Tenant → Tenant) :
    (modTenant s t f).spdm = s.spdm := rfl
@[simp] theorem modTenant_spdmLog (s : State) (t : Nat) (f : Tenant → Tenant) :
    (modTenant s t f).spdmLog = s.spdmLog := rfl
@[simp] theorem modTenant_spdmSigned (s : State) (t : Nat) (f : Tenant → Tenant) :
    (modTenant s t f).spdmSigned = s.spdmSigned := rfl
@[simp] theorem modTenant_layoutEpoch (s : State) (t : Nat) (f : Tenant → Tenant) :
    (modTenant s t f).layoutEpoch = s.layoutEpoch := rfl
@[simp] theorem modTenant_firmware (s : State) (t : Nat) (f : Tenant → Tenant) :
    (modTenant s t f).firmware = s.firmware := rfl
@[simp] theorem modTenant_windows (s : State) (t : Nat) (f : Tenant → Tenant) :
    (modTenant s t f).windows = s.windows := rfl
@[simp] theorem modTenant_groupTenants (s : State) (t : Nat) (f : Tenant → Tenant) :
    (modTenant s t f).groupTenants = s.groupTenants := rfl
@[simp] theorem modTenant_isolation (s : State) (t : Nat) (f : Tenant → Tenant) :
    (modTenant s t f).isolation = s.isolation := rfl
@[simp] theorem modTenant_dev (s : State) (t : Nat) (f : Tenant → Tenant) :
    (modTenant s t f).dev = s.dev := rfl
@[simp] theorem modTenant_grouped (s : State) (t : Nat) (f : Tenant → Tenant) :
    (modTenant s t f).grouped = s.grouped := rfl
@[simp] theorem modTenant_ports (s : State) (t : Nat) (f : Tenant → Tenant) :
    (modTenant s t f).ports = s.ports := rfl
@[simp] theorem modTenant_linkReqs (s : State) (t : Nat) (f : Tenant → Tenant) :
    (modTenant s t f).linkReqs = s.linkReqs := rfl
@[simp] theorem modTenant_channels (s : State) (t : Nat) (f : Tenant → Tenant) :
    (modTenant s t f).channels = s.channels := rfl
@[simp] theorem modTenant_charges (s : State) (t : Nat) (f : Tenant → Tenant) :
    (modTenant s t f).charges = s.charges := rfl
@[simp] theorem modTenant_debts (s : State) (t : Nat) (f : Tenant → Tenant) :
    (modTenant s t f).debts = s.debts := rfl
@[simp] theorem modTenant_budgetAt (s : State) (t : Nat) (f : Tenant → Tenant) :
    (modTenant s t f).budgetAt = s.budgetAt := rfl
@[simp] theorem modTenant_sensors (s : State) (t : Nat) (f : Tenant → Tenant) :
    (modTenant s t f).sensors = s.sensors := rfl
@[simp] theorem modTenant_errors (s : State) (t : Nat) (f : Tenant → Tenant) :
    (modTenant s t f).errors = s.errors := rfl
@[simp] theorem modTenant_power (s : State) (t : Nat) (f : Tenant → Tenant) :
    (modTenant s t f).power = s.power := rfl
@[simp] theorem modTenant_invalidations (s : State) (t : Nat) (f : Tenant → Tenant) :
    (modTenant s t f).invalidations = s.invalidations := rfl
@[simp] theorem modTenant_migrations (s : State) (t : Nat) (f : Tenant → Tenant) :
    (modTenant s t f).migrations = s.migrations := rfl
@[simp] theorem modTenant_sentOut (s : State) (t : Nat) (f : Tenant → Tenant) :
    (modTenant s t f).sentOut = s.sentOut := rfl

/-! ### An event posted: `post` -/

@[simp] theorem post_cur (s : State) (e : Event) :
    (post s e).cur = s.cur := rfl
@[simp] theorem post_tick (s : State) (e : Event) :
    (post s e).tick = s.tick := rfl
@[simp] theorem post_serial (s : State) (e : Event) :
    (post s e).serial = s.serial := rfl
@[simp] theorem post_time (s : State) (e : Event) :
    (post s e).time = s.time := rfl
@[simp] theorem post_cycles (s : State) (e : Event) :
    (post s e).cycles = s.cycles := rfl
@[simp] theorem post_harts (s : State) (e : Event) :
    (post s e).harts = s.harts := rfl
@[simp] theorem post_cores (s : State) (e : Event) :
    (post s e).cores = s.cores := rfl
@[simp] theorem post_clusters (s : State) (e : Event) :
    (post s e).clusters = s.clusters := rfl
@[simp] theorem post_dies (s : State) (e : Event) :
    (post s e).dies = s.dies := rfl
@[simp] theorem post_views (s : State) (e : Event) :
    (post s e).views = s.views := rfl
@[simp] theorem post_outer (s : State) (e : Event) :
    (post s e).outer = s.outer := rfl
@[simp] theorem post_lineKeys (s : State) (e : Event) :
    (post s e).lineKeys = s.lineKeys := rfl
@[simp] theorem post_badLines (s : State) (e : Event) :
    (post s e).badLines = s.badLines := rfl
@[simp] theorem post_stamps (s : State) (e : Event) :
    (post s e).stamps = s.stamps := rfl
@[simp] theorem post_flights (s : State) (e : Event) :
    (post s e).flights = s.flights := rfl
@[simp] theorem post_mca (s : State) (e : Event) :
    (post s e).mca = s.mca := rfl
@[simp] theorem post_ops (s : State) (e : Event) :
    (post s e).ops = s.ops := rfl
@[simp] theorem post_counters (s : State) (e : Event) :
    (post s e).counters = s.counters := rfl
@[simp] theorem post_counterOwner (s : State) (e : Event) :
    (post s e).counterOwner = s.counterOwner := rfl
@[simp] theorem post_counterStamp (s : State) (e : Event) :
    (post s e).counterStamp = s.counterStamp := rfl
@[simp] theorem post_barriers (s : State) (e : Event) :
    (post s e).barriers = s.barriers := rfl
@[simp] theorem post_ranges (s : State) (e : Event) :
    (post s e).ranges = s.ranges := rfl
@[simp] theorem post_freed (s : State) (e : Event) :
    (post s e).freed = s.freed := rfl
@[simp] theorem post_withdrawn (s : State) (e : Event) :
    (post s e).withdrawn = s.withdrawn := rfl
@[simp] theorem post_rights (s : State) (e : Event) :
    (post s e).rights = s.rights := rfl
@[simp] theorem post_owners (s : State) (e : Event) :
    (post s e).owners = s.owners := rfl
@[simp] theorem post_handleTenants (s : State) (e : Event) :
    (post s e).handleTenants = s.handleTenants := rfl
@[simp] theorem post_shootdowns (s : State) (e : Event) :
    (post s e).shootdowns = s.shootdowns := rfl
@[simp] theorem post_ptroot (s : State) (e : Event) :
    (post s e).ptroot = s.ptroot := rfl
@[simp] theorem post_tensors (s : State) (e : Event) :
    (post s e).tensors = s.tensors := rfl
@[simp] theorem post_keptVersion (s : State) (e : Event) :
    (post s e).keptVersion = s.keptVersion := rfl
@[simp] theorem post_tidWithdrawn (s : State) (e : Event) :
    (post s e).tidWithdrawn = s.tidWithdrawn := rfl
@[simp] theorem post_tensorQ (s : State) (e : Event) :
    (post s e).tensorQ = s.tensorQ := rfl
@[simp] theorem post_launches (s : State) (e : Event) :
    (post s e).launches = s.launches := rfl
@[simp] theorem post_saves (s : State) (e : Event) :
    (post s e).saves = s.saves := rfl
@[simp] theorem post_tenants (s : State) (e : Event) :
    (post s e).tenants = s.tenants := rfl
@[simp] theorem post_keys (s : State) (e : Event) :
    (post s e).keys = s.keys := rfl
@[simp] theorem post_nextKey (s : State) (e : Event) :
    (post s e).nextKey = s.nextKey := rfl
@[simp] theorem post_spdm (s : State) (e : Event) :
    (post s e).spdm = s.spdm := rfl
@[simp] theorem post_spdmLog (s : State) (e : Event) :
    (post s e).spdmLog = s.spdmLog := rfl
@[simp] theorem post_spdmSigned (s : State) (e : Event) :
    (post s e).spdmSigned = s.spdmSigned := rfl
@[simp] theorem post_layoutEpoch (s : State) (e : Event) :
    (post s e).layoutEpoch = s.layoutEpoch := rfl
@[simp] theorem post_firmware (s : State) (e : Event) :
    (post s e).firmware = s.firmware := rfl
@[simp] theorem post_windows (s : State) (e : Event) :
    (post s e).windows = s.windows := rfl
@[simp] theorem post_groupTenants (s : State) (e : Event) :
    (post s e).groupTenants = s.groupTenants := rfl
@[simp] theorem post_isolation (s : State) (e : Event) :
    (post s e).isolation = s.isolation := rfl
@[simp] theorem post_dev (s : State) (e : Event) :
    (post s e).dev = s.dev := rfl
@[simp] theorem post_grouped (s : State) (e : Event) :
    (post s e).grouped = s.grouped := rfl
@[simp] theorem post_ports (s : State) (e : Event) :
    (post s e).ports = s.ports := rfl
@[simp] theorem post_linkReqs (s : State) (e : Event) :
    (post s e).linkReqs = s.linkReqs := rfl
@[simp] theorem post_channels (s : State) (e : Event) :
    (post s e).channels = s.channels := rfl
@[simp] theorem post_charges (s : State) (e : Event) :
    (post s e).charges = s.charges := rfl
@[simp] theorem post_debts (s : State) (e : Event) :
    (post s e).debts = s.debts := rfl
@[simp] theorem post_budgetAt (s : State) (e : Event) :
    (post s e).budgetAt = s.budgetAt := rfl
@[simp] theorem post_sensors (s : State) (e : Event) :
    (post s e).sensors = s.sensors := rfl
@[simp] theorem post_errors (s : State) (e : Event) :
    (post s e).errors = s.errors := rfl
@[simp] theorem post_power (s : State) (e : Event) :
    (post s e).power = s.power := rfl
@[simp] theorem post_invalidations (s : State) (e : Event) :
    (post s e).invalidations = s.invalidations := rfl
@[simp] theorem post_migrations (s : State) (e : Event) :
    (post s e).migrations = s.migrations := rfl
@[simp] theorem post_sentOut (s : State) (e : Event) :
    (post s e).sentOut = s.sentOut := rfl

/-! ### Events posted: `postAll` -/

@[simp] theorem postAll_cur (s : State) (es : List Event) :
    (postAll s es).cur = s.cur := rfl
@[simp] theorem postAll_tick (s : State) (es : List Event) :
    (postAll s es).tick = s.tick := rfl
@[simp] theorem postAll_serial (s : State) (es : List Event) :
    (postAll s es).serial = s.serial := rfl
@[simp] theorem postAll_time (s : State) (es : List Event) :
    (postAll s es).time = s.time := rfl
@[simp] theorem postAll_cycles (s : State) (es : List Event) :
    (postAll s es).cycles = s.cycles := rfl
@[simp] theorem postAll_harts (s : State) (es : List Event) :
    (postAll s es).harts = s.harts := rfl
@[simp] theorem postAll_cores (s : State) (es : List Event) :
    (postAll s es).cores = s.cores := rfl
@[simp] theorem postAll_clusters (s : State) (es : List Event) :
    (postAll s es).clusters = s.clusters := rfl
@[simp] theorem postAll_dies (s : State) (es : List Event) :
    (postAll s es).dies = s.dies := rfl
@[simp] theorem postAll_views (s : State) (es : List Event) :
    (postAll s es).views = s.views := rfl
@[simp] theorem postAll_outer (s : State) (es : List Event) :
    (postAll s es).outer = s.outer := rfl
@[simp] theorem postAll_lineKeys (s : State) (es : List Event) :
    (postAll s es).lineKeys = s.lineKeys := rfl
@[simp] theorem postAll_badLines (s : State) (es : List Event) :
    (postAll s es).badLines = s.badLines := rfl
@[simp] theorem postAll_stamps (s : State) (es : List Event) :
    (postAll s es).stamps = s.stamps := rfl
@[simp] theorem postAll_flights (s : State) (es : List Event) :
    (postAll s es).flights = s.flights := rfl
@[simp] theorem postAll_mca (s : State) (es : List Event) :
    (postAll s es).mca = s.mca := rfl
@[simp] theorem postAll_ops (s : State) (es : List Event) :
    (postAll s es).ops = s.ops := rfl
@[simp] theorem postAll_counters (s : State) (es : List Event) :
    (postAll s es).counters = s.counters := rfl
@[simp] theorem postAll_counterOwner (s : State) (es : List Event) :
    (postAll s es).counterOwner = s.counterOwner := rfl
@[simp] theorem postAll_counterStamp (s : State) (es : List Event) :
    (postAll s es).counterStamp = s.counterStamp := rfl
@[simp] theorem postAll_barriers (s : State) (es : List Event) :
    (postAll s es).barriers = s.barriers := rfl
@[simp] theorem postAll_ranges (s : State) (es : List Event) :
    (postAll s es).ranges = s.ranges := rfl
@[simp] theorem postAll_freed (s : State) (es : List Event) :
    (postAll s es).freed = s.freed := rfl
@[simp] theorem postAll_withdrawn (s : State) (es : List Event) :
    (postAll s es).withdrawn = s.withdrawn := rfl
@[simp] theorem postAll_rights (s : State) (es : List Event) :
    (postAll s es).rights = s.rights := rfl
@[simp] theorem postAll_owners (s : State) (es : List Event) :
    (postAll s es).owners = s.owners := rfl
@[simp] theorem postAll_handleTenants (s : State) (es : List Event) :
    (postAll s es).handleTenants = s.handleTenants := rfl
@[simp] theorem postAll_shootdowns (s : State) (es : List Event) :
    (postAll s es).shootdowns = s.shootdowns := rfl
@[simp] theorem postAll_ptroot (s : State) (es : List Event) :
    (postAll s es).ptroot = s.ptroot := rfl
@[simp] theorem postAll_tensors (s : State) (es : List Event) :
    (postAll s es).tensors = s.tensors := rfl
@[simp] theorem postAll_keptVersion (s : State) (es : List Event) :
    (postAll s es).keptVersion = s.keptVersion := rfl
@[simp] theorem postAll_tidWithdrawn (s : State) (es : List Event) :
    (postAll s es).tidWithdrawn = s.tidWithdrawn := rfl
@[simp] theorem postAll_tensorQ (s : State) (es : List Event) :
    (postAll s es).tensorQ = s.tensorQ := rfl
@[simp] theorem postAll_launches (s : State) (es : List Event) :
    (postAll s es).launches = s.launches := rfl
@[simp] theorem postAll_saves (s : State) (es : List Event) :
    (postAll s es).saves = s.saves := rfl
@[simp] theorem postAll_tenants (s : State) (es : List Event) :
    (postAll s es).tenants = s.tenants := rfl
@[simp] theorem postAll_keys (s : State) (es : List Event) :
    (postAll s es).keys = s.keys := rfl
@[simp] theorem postAll_nextKey (s : State) (es : List Event) :
    (postAll s es).nextKey = s.nextKey := rfl
@[simp] theorem postAll_spdm (s : State) (es : List Event) :
    (postAll s es).spdm = s.spdm := rfl
@[simp] theorem postAll_spdmLog (s : State) (es : List Event) :
    (postAll s es).spdmLog = s.spdmLog := rfl
@[simp] theorem postAll_spdmSigned (s : State) (es : List Event) :
    (postAll s es).spdmSigned = s.spdmSigned := rfl
@[simp] theorem postAll_layoutEpoch (s : State) (es : List Event) :
    (postAll s es).layoutEpoch = s.layoutEpoch := rfl
@[simp] theorem postAll_firmware (s : State) (es : List Event) :
    (postAll s es).firmware = s.firmware := rfl
@[simp] theorem postAll_windows (s : State) (es : List Event) :
    (postAll s es).windows = s.windows := rfl
@[simp] theorem postAll_groupTenants (s : State) (es : List Event) :
    (postAll s es).groupTenants = s.groupTenants := rfl
@[simp] theorem postAll_isolation (s : State) (es : List Event) :
    (postAll s es).isolation = s.isolation := rfl
@[simp] theorem postAll_dev (s : State) (es : List Event) :
    (postAll s es).dev = s.dev := rfl
@[simp] theorem postAll_grouped (s : State) (es : List Event) :
    (postAll s es).grouped = s.grouped := rfl
@[simp] theorem postAll_ports (s : State) (es : List Event) :
    (postAll s es).ports = s.ports := rfl
@[simp] theorem postAll_linkReqs (s : State) (es : List Event) :
    (postAll s es).linkReqs = s.linkReqs := rfl
@[simp] theorem postAll_channels (s : State) (es : List Event) :
    (postAll s es).channels = s.channels := rfl
@[simp] theorem postAll_charges (s : State) (es : List Event) :
    (postAll s es).charges = s.charges := rfl
@[simp] theorem postAll_debts (s : State) (es : List Event) :
    (postAll s es).debts = s.debts := rfl
@[simp] theorem postAll_budgetAt (s : State) (es : List Event) :
    (postAll s es).budgetAt = s.budgetAt := rfl
@[simp] theorem postAll_sensors (s : State) (es : List Event) :
    (postAll s es).sensors = s.sensors := rfl
@[simp] theorem postAll_errors (s : State) (es : List Event) :
    (postAll s es).errors = s.errors := rfl
@[simp] theorem postAll_power (s : State) (es : List Event) :
    (postAll s es).power = s.power := rfl
@[simp] theorem postAll_invalidations (s : State) (es : List Event) :
    (postAll s es).invalidations = s.invalidations := rfl
@[simp] theorem postAll_migrations (s : State) (es : List Event) :
    (postAll s es).migrations = s.migrations := rfl
@[simp] theorem postAll_sentOut (s : State) (es : List Event) :
    (postAll s es).sentOut = s.sentOut := rfl

/-! ### A view written: `setView` -/

@[simp] theorem setView_cur (s : State) (d : Nat) (m : SMap Byte) :
    (setView s d m).cur = s.cur := rfl
@[simp] theorem setView_agenda (s : State) (d : Nat) (m : SMap Byte) :
    (setView s d m).agenda = s.agenda := rfl
@[simp] theorem setView_tick (s : State) (d : Nat) (m : SMap Byte) :
    (setView s d m).tick = s.tick := rfl
@[simp] theorem setView_serial (s : State) (d : Nat) (m : SMap Byte) :
    (setView s d m).serial = s.serial := rfl
@[simp] theorem setView_time (s : State) (d : Nat) (m : SMap Byte) :
    (setView s d m).time = s.time := rfl
@[simp] theorem setView_cycles (s : State) (d : Nat) (m : SMap Byte) :
    (setView s d m).cycles = s.cycles := rfl
@[simp] theorem setView_harts (s : State) (d : Nat) (m : SMap Byte) :
    (setView s d m).harts = s.harts := rfl
@[simp] theorem setView_cores (s : State) (d : Nat) (m : SMap Byte) :
    (setView s d m).cores = s.cores := rfl
@[simp] theorem setView_clusters (s : State) (d : Nat) (m : SMap Byte) :
    (setView s d m).clusters = s.clusters := rfl
@[simp] theorem setView_dies (s : State) (d : Nat) (m : SMap Byte) :
    (setView s d m).dies = s.dies := rfl
@[simp] theorem setView_outer (s : State) (d : Nat) (m : SMap Byte) :
    (setView s d m).outer = s.outer := rfl
@[simp] theorem setView_lineKeys (s : State) (d : Nat) (m : SMap Byte) :
    (setView s d m).lineKeys = s.lineKeys := rfl
@[simp] theorem setView_badLines (s : State) (d : Nat) (m : SMap Byte) :
    (setView s d m).badLines = s.badLines := rfl
@[simp] theorem setView_stamps (s : State) (d : Nat) (m : SMap Byte) :
    (setView s d m).stamps = s.stamps := rfl
@[simp] theorem setView_flights (s : State) (d : Nat) (m : SMap Byte) :
    (setView s d m).flights = s.flights := rfl
@[simp] theorem setView_mca (s : State) (d : Nat) (m : SMap Byte) :
    (setView s d m).mca = s.mca := rfl
@[simp] theorem setView_ops (s : State) (d : Nat) (m : SMap Byte) :
    (setView s d m).ops = s.ops := rfl
@[simp] theorem setView_counters (s : State) (d : Nat) (m : SMap Byte) :
    (setView s d m).counters = s.counters := rfl
@[simp] theorem setView_counterOwner (s : State) (d : Nat) (m : SMap Byte) :
    (setView s d m).counterOwner = s.counterOwner := rfl
@[simp] theorem setView_counterStamp (s : State) (d : Nat) (m : SMap Byte) :
    (setView s d m).counterStamp = s.counterStamp := rfl
@[simp] theorem setView_barriers (s : State) (d : Nat) (m : SMap Byte) :
    (setView s d m).barriers = s.barriers := rfl
@[simp] theorem setView_ranges (s : State) (d : Nat) (m : SMap Byte) :
    (setView s d m).ranges = s.ranges := rfl
@[simp] theorem setView_freed (s : State) (d : Nat) (m : SMap Byte) :
    (setView s d m).freed = s.freed := rfl
@[simp] theorem setView_withdrawn (s : State) (d : Nat) (m : SMap Byte) :
    (setView s d m).withdrawn = s.withdrawn := rfl
@[simp] theorem setView_rights (s : State) (d : Nat) (m : SMap Byte) :
    (setView s d m).rights = s.rights := rfl
@[simp] theorem setView_owners (s : State) (d : Nat) (m : SMap Byte) :
    (setView s d m).owners = s.owners := rfl
@[simp] theorem setView_handleTenants (s : State) (d : Nat) (m : SMap Byte) :
    (setView s d m).handleTenants = s.handleTenants := rfl
@[simp] theorem setView_shootdowns (s : State) (d : Nat) (m : SMap Byte) :
    (setView s d m).shootdowns = s.shootdowns := rfl
@[simp] theorem setView_ptroot (s : State) (d : Nat) (m : SMap Byte) :
    (setView s d m).ptroot = s.ptroot := rfl
@[simp] theorem setView_tensors (s : State) (d : Nat) (m : SMap Byte) :
    (setView s d m).tensors = s.tensors := rfl
@[simp] theorem setView_keptVersion (s : State) (d : Nat) (m : SMap Byte) :
    (setView s d m).keptVersion = s.keptVersion := rfl
@[simp] theorem setView_tidWithdrawn (s : State) (d : Nat) (m : SMap Byte) :
    (setView s d m).tidWithdrawn = s.tidWithdrawn := rfl
@[simp] theorem setView_tensorQ (s : State) (d : Nat) (m : SMap Byte) :
    (setView s d m).tensorQ = s.tensorQ := rfl
@[simp] theorem setView_launches (s : State) (d : Nat) (m : SMap Byte) :
    (setView s d m).launches = s.launches := rfl
@[simp] theorem setView_saves (s : State) (d : Nat) (m : SMap Byte) :
    (setView s d m).saves = s.saves := rfl
@[simp] theorem setView_tenants (s : State) (d : Nat) (m : SMap Byte) :
    (setView s d m).tenants = s.tenants := rfl
@[simp] theorem setView_keys (s : State) (d : Nat) (m : SMap Byte) :
    (setView s d m).keys = s.keys := rfl
@[simp] theorem setView_nextKey (s : State) (d : Nat) (m : SMap Byte) :
    (setView s d m).nextKey = s.nextKey := rfl
@[simp] theorem setView_spdm (s : State) (d : Nat) (m : SMap Byte) :
    (setView s d m).spdm = s.spdm := rfl
@[simp] theorem setView_spdmLog (s : State) (d : Nat) (m : SMap Byte) :
    (setView s d m).spdmLog = s.spdmLog := rfl
@[simp] theorem setView_spdmSigned (s : State) (d : Nat) (m : SMap Byte) :
    (setView s d m).spdmSigned = s.spdmSigned := rfl
@[simp] theorem setView_layoutEpoch (s : State) (d : Nat) (m : SMap Byte) :
    (setView s d m).layoutEpoch = s.layoutEpoch := rfl
@[simp] theorem setView_firmware (s : State) (d : Nat) (m : SMap Byte) :
    (setView s d m).firmware = s.firmware := rfl
@[simp] theorem setView_windows (s : State) (d : Nat) (m : SMap Byte) :
    (setView s d m).windows = s.windows := rfl
@[simp] theorem setView_groupTenants (s : State) (d : Nat) (m : SMap Byte) :
    (setView s d m).groupTenants = s.groupTenants := rfl
@[simp] theorem setView_isolation (s : State) (d : Nat) (m : SMap Byte) :
    (setView s d m).isolation = s.isolation := rfl
@[simp] theorem setView_dev (s : State) (d : Nat) (m : SMap Byte) :
    (setView s d m).dev = s.dev := rfl
@[simp] theorem setView_grouped (s : State) (d : Nat) (m : SMap Byte) :
    (setView s d m).grouped = s.grouped := rfl
@[simp] theorem setView_ports (s : State) (d : Nat) (m : SMap Byte) :
    (setView s d m).ports = s.ports := rfl
@[simp] theorem setView_linkReqs (s : State) (d : Nat) (m : SMap Byte) :
    (setView s d m).linkReqs = s.linkReqs := rfl
@[simp] theorem setView_channels (s : State) (d : Nat) (m : SMap Byte) :
    (setView s d m).channels = s.channels := rfl
@[simp] theorem setView_charges (s : State) (d : Nat) (m : SMap Byte) :
    (setView s d m).charges = s.charges := rfl
@[simp] theorem setView_debts (s : State) (d : Nat) (m : SMap Byte) :
    (setView s d m).debts = s.debts := rfl
@[simp] theorem setView_budgetAt (s : State) (d : Nat) (m : SMap Byte) :
    (setView s d m).budgetAt = s.budgetAt := rfl
@[simp] theorem setView_sensors (s : State) (d : Nat) (m : SMap Byte) :
    (setView s d m).sensors = s.sensors := rfl
@[simp] theorem setView_errors (s : State) (d : Nat) (m : SMap Byte) :
    (setView s d m).errors = s.errors := rfl
@[simp] theorem setView_power (s : State) (d : Nat) (m : SMap Byte) :
    (setView s d m).power = s.power := rfl
@[simp] theorem setView_invalidations (s : State) (d : Nat) (m : SMap Byte) :
    (setView s d m).invalidations = s.invalidations := rfl
@[simp] theorem setView_migrations (s : State) (d : Nat) (m : SMap Byte) :
    (setView s d m).migrations = s.migrations := rfl
@[simp] theorem setView_sentOut (s : State) (d : Nat) (m : SMap Byte) :
    (setView s d m).sentOut = s.sentOut := rfl

/-! ### A count vector written: `setStamp` -/

@[simp] theorem setStamp_cur (s : State) (d : Nat) (t : Stamp) :
    (setStamp s d t).cur = s.cur := rfl
@[simp] theorem setStamp_agenda (s : State) (d : Nat) (t : Stamp) :
    (setStamp s d t).agenda = s.agenda := rfl
@[simp] theorem setStamp_tick (s : State) (d : Nat) (t : Stamp) :
    (setStamp s d t).tick = s.tick := rfl
@[simp] theorem setStamp_serial (s : State) (d : Nat) (t : Stamp) :
    (setStamp s d t).serial = s.serial := rfl
@[simp] theorem setStamp_time (s : State) (d : Nat) (t : Stamp) :
    (setStamp s d t).time = s.time := rfl
@[simp] theorem setStamp_cycles (s : State) (d : Nat) (t : Stamp) :
    (setStamp s d t).cycles = s.cycles := rfl
@[simp] theorem setStamp_harts (s : State) (d : Nat) (t : Stamp) :
    (setStamp s d t).harts = s.harts := rfl
@[simp] theorem setStamp_cores (s : State) (d : Nat) (t : Stamp) :
    (setStamp s d t).cores = s.cores := rfl
@[simp] theorem setStamp_clusters (s : State) (d : Nat) (t : Stamp) :
    (setStamp s d t).clusters = s.clusters := rfl
@[simp] theorem setStamp_dies (s : State) (d : Nat) (t : Stamp) :
    (setStamp s d t).dies = s.dies := rfl
@[simp] theorem setStamp_views (s : State) (d : Nat) (t : Stamp) :
    (setStamp s d t).views = s.views := rfl
@[simp] theorem setStamp_outer (s : State) (d : Nat) (t : Stamp) :
    (setStamp s d t).outer = s.outer := rfl
@[simp] theorem setStamp_lineKeys (s : State) (d : Nat) (t : Stamp) :
    (setStamp s d t).lineKeys = s.lineKeys := rfl
@[simp] theorem setStamp_badLines (s : State) (d : Nat) (t : Stamp) :
    (setStamp s d t).badLines = s.badLines := rfl
@[simp] theorem setStamp_flights (s : State) (d : Nat) (t : Stamp) :
    (setStamp s d t).flights = s.flights := rfl
@[simp] theorem setStamp_mca (s : State) (d : Nat) (t : Stamp) :
    (setStamp s d t).mca = s.mca := rfl
@[simp] theorem setStamp_ops (s : State) (d : Nat) (t : Stamp) :
    (setStamp s d t).ops = s.ops := rfl
@[simp] theorem setStamp_counters (s : State) (d : Nat) (t : Stamp) :
    (setStamp s d t).counters = s.counters := rfl
@[simp] theorem setStamp_counterOwner (s : State) (d : Nat) (t : Stamp) :
    (setStamp s d t).counterOwner = s.counterOwner := rfl
@[simp] theorem setStamp_counterStamp (s : State) (d : Nat) (t : Stamp) :
    (setStamp s d t).counterStamp = s.counterStamp := rfl
@[simp] theorem setStamp_barriers (s : State) (d : Nat) (t : Stamp) :
    (setStamp s d t).barriers = s.barriers := rfl
@[simp] theorem setStamp_ranges (s : State) (d : Nat) (t : Stamp) :
    (setStamp s d t).ranges = s.ranges := rfl
@[simp] theorem setStamp_freed (s : State) (d : Nat) (t : Stamp) :
    (setStamp s d t).freed = s.freed := rfl
@[simp] theorem setStamp_withdrawn (s : State) (d : Nat) (t : Stamp) :
    (setStamp s d t).withdrawn = s.withdrawn := rfl
@[simp] theorem setStamp_rights (s : State) (d : Nat) (t : Stamp) :
    (setStamp s d t).rights = s.rights := rfl
@[simp] theorem setStamp_owners (s : State) (d : Nat) (t : Stamp) :
    (setStamp s d t).owners = s.owners := rfl
@[simp] theorem setStamp_handleTenants (s : State) (d : Nat) (t : Stamp) :
    (setStamp s d t).handleTenants = s.handleTenants := rfl
@[simp] theorem setStamp_shootdowns (s : State) (d : Nat) (t : Stamp) :
    (setStamp s d t).shootdowns = s.shootdowns := rfl
@[simp] theorem setStamp_ptroot (s : State) (d : Nat) (t : Stamp) :
    (setStamp s d t).ptroot = s.ptroot := rfl
@[simp] theorem setStamp_tensors (s : State) (d : Nat) (t : Stamp) :
    (setStamp s d t).tensors = s.tensors := rfl
@[simp] theorem setStamp_keptVersion (s : State) (d : Nat) (t : Stamp) :
    (setStamp s d t).keptVersion = s.keptVersion := rfl
@[simp] theorem setStamp_tidWithdrawn (s : State) (d : Nat) (t : Stamp) :
    (setStamp s d t).tidWithdrawn = s.tidWithdrawn := rfl
@[simp] theorem setStamp_tensorQ (s : State) (d : Nat) (t : Stamp) :
    (setStamp s d t).tensorQ = s.tensorQ := rfl
@[simp] theorem setStamp_launches (s : State) (d : Nat) (t : Stamp) :
    (setStamp s d t).launches = s.launches := rfl
@[simp] theorem setStamp_saves (s : State) (d : Nat) (t : Stamp) :
    (setStamp s d t).saves = s.saves := rfl
@[simp] theorem setStamp_tenants (s : State) (d : Nat) (t : Stamp) :
    (setStamp s d t).tenants = s.tenants := rfl
@[simp] theorem setStamp_keys (s : State) (d : Nat) (t : Stamp) :
    (setStamp s d t).keys = s.keys := rfl
@[simp] theorem setStamp_nextKey (s : State) (d : Nat) (t : Stamp) :
    (setStamp s d t).nextKey = s.nextKey := rfl
@[simp] theorem setStamp_spdm (s : State) (d : Nat) (t : Stamp) :
    (setStamp s d t).spdm = s.spdm := rfl
@[simp] theorem setStamp_spdmLog (s : State) (d : Nat) (t : Stamp) :
    (setStamp s d t).spdmLog = s.spdmLog := rfl
@[simp] theorem setStamp_spdmSigned (s : State) (d : Nat) (t : Stamp) :
    (setStamp s d t).spdmSigned = s.spdmSigned := rfl
@[simp] theorem setStamp_layoutEpoch (s : State) (d : Nat) (t : Stamp) :
    (setStamp s d t).layoutEpoch = s.layoutEpoch := rfl
@[simp] theorem setStamp_firmware (s : State) (d : Nat) (t : Stamp) :
    (setStamp s d t).firmware = s.firmware := rfl
@[simp] theorem setStamp_windows (s : State) (d : Nat) (t : Stamp) :
    (setStamp s d t).windows = s.windows := rfl
@[simp] theorem setStamp_groupTenants (s : State) (d : Nat) (t : Stamp) :
    (setStamp s d t).groupTenants = s.groupTenants := rfl
@[simp] theorem setStamp_isolation (s : State) (d : Nat) (t : Stamp) :
    (setStamp s d t).isolation = s.isolation := rfl
@[simp] theorem setStamp_dev (s : State) (d : Nat) (t : Stamp) :
    (setStamp s d t).dev = s.dev := rfl
@[simp] theorem setStamp_grouped (s : State) (d : Nat) (t : Stamp) :
    (setStamp s d t).grouped = s.grouped := rfl
@[simp] theorem setStamp_ports (s : State) (d : Nat) (t : Stamp) :
    (setStamp s d t).ports = s.ports := rfl
@[simp] theorem setStamp_linkReqs (s : State) (d : Nat) (t : Stamp) :
    (setStamp s d t).linkReqs = s.linkReqs := rfl
@[simp] theorem setStamp_channels (s : State) (d : Nat) (t : Stamp) :
    (setStamp s d t).channels = s.channels := rfl
@[simp] theorem setStamp_charges (s : State) (d : Nat) (t : Stamp) :
    (setStamp s d t).charges = s.charges := rfl
@[simp] theorem setStamp_debts (s : State) (d : Nat) (t : Stamp) :
    (setStamp s d t).debts = s.debts := rfl
@[simp] theorem setStamp_budgetAt (s : State) (d : Nat) (t : Stamp) :
    (setStamp s d t).budgetAt = s.budgetAt := rfl
@[simp] theorem setStamp_sensors (s : State) (d : Nat) (t : Stamp) :
    (setStamp s d t).sensors = s.sensors := rfl
@[simp] theorem setStamp_errors (s : State) (d : Nat) (t : Stamp) :
    (setStamp s d t).errors = s.errors := rfl
@[simp] theorem setStamp_power (s : State) (d : Nat) (t : Stamp) :
    (setStamp s d t).power = s.power := rfl
@[simp] theorem setStamp_invalidations (s : State) (d : Nat) (t : Stamp) :
    (setStamp s d t).invalidations = s.invalidations := rfl
@[simp] theorem setStamp_migrations (s : State) (d : Nat) (t : Stamp) :
    (setStamp s d t).migrations = s.migrations := rfl
@[simp] theorem setStamp_sentOut (s : State) (d : Nat) (t : Stamp) :
    (setStamp s d t).sentOut = s.sentOut := rfl

/-! ### An operation in flight changed: `modOp` -/

@[simp] theorem modOp_cur (s : State) (id : Nat) (f : Op → Op) :
    (modOp s id f).cur = s.cur := rfl
@[simp] theorem modOp_agenda (s : State) (id : Nat) (f : Op → Op) :
    (modOp s id f).agenda = s.agenda := rfl
@[simp] theorem modOp_tick (s : State) (id : Nat) (f : Op → Op) :
    (modOp s id f).tick = s.tick := rfl
@[simp] theorem modOp_serial (s : State) (id : Nat) (f : Op → Op) :
    (modOp s id f).serial = s.serial := rfl
@[simp] theorem modOp_time (s : State) (id : Nat) (f : Op → Op) :
    (modOp s id f).time = s.time := rfl
@[simp] theorem modOp_cycles (s : State) (id : Nat) (f : Op → Op) :
    (modOp s id f).cycles = s.cycles := rfl
@[simp] theorem modOp_harts (s : State) (id : Nat) (f : Op → Op) :
    (modOp s id f).harts = s.harts := rfl
@[simp] theorem modOp_cores (s : State) (id : Nat) (f : Op → Op) :
    (modOp s id f).cores = s.cores := rfl
@[simp] theorem modOp_clusters (s : State) (id : Nat) (f : Op → Op) :
    (modOp s id f).clusters = s.clusters := rfl
@[simp] theorem modOp_dies (s : State) (id : Nat) (f : Op → Op) :
    (modOp s id f).dies = s.dies := rfl
@[simp] theorem modOp_views (s : State) (id : Nat) (f : Op → Op) :
    (modOp s id f).views = s.views := rfl
@[simp] theorem modOp_outer (s : State) (id : Nat) (f : Op → Op) :
    (modOp s id f).outer = s.outer := rfl
@[simp] theorem modOp_lineKeys (s : State) (id : Nat) (f : Op → Op) :
    (modOp s id f).lineKeys = s.lineKeys := rfl
@[simp] theorem modOp_badLines (s : State) (id : Nat) (f : Op → Op) :
    (modOp s id f).badLines = s.badLines := rfl
@[simp] theorem modOp_stamps (s : State) (id : Nat) (f : Op → Op) :
    (modOp s id f).stamps = s.stamps := rfl
@[simp] theorem modOp_flights (s : State) (id : Nat) (f : Op → Op) :
    (modOp s id f).flights = s.flights := rfl
@[simp] theorem modOp_mca (s : State) (id : Nat) (f : Op → Op) :
    (modOp s id f).mca = s.mca := rfl
@[simp] theorem modOp_counters (s : State) (id : Nat) (f : Op → Op) :
    (modOp s id f).counters = s.counters := rfl
@[simp] theorem modOp_counterOwner (s : State) (id : Nat) (f : Op → Op) :
    (modOp s id f).counterOwner = s.counterOwner := rfl
@[simp] theorem modOp_counterStamp (s : State) (id : Nat) (f : Op → Op) :
    (modOp s id f).counterStamp = s.counterStamp := rfl
@[simp] theorem modOp_barriers (s : State) (id : Nat) (f : Op → Op) :
    (modOp s id f).barriers = s.barriers := rfl
@[simp] theorem modOp_ranges (s : State) (id : Nat) (f : Op → Op) :
    (modOp s id f).ranges = s.ranges := rfl
@[simp] theorem modOp_freed (s : State) (id : Nat) (f : Op → Op) :
    (modOp s id f).freed = s.freed := rfl
@[simp] theorem modOp_withdrawn (s : State) (id : Nat) (f : Op → Op) :
    (modOp s id f).withdrawn = s.withdrawn := rfl
@[simp] theorem modOp_rights (s : State) (id : Nat) (f : Op → Op) :
    (modOp s id f).rights = s.rights := rfl
@[simp] theorem modOp_owners (s : State) (id : Nat) (f : Op → Op) :
    (modOp s id f).owners = s.owners := rfl
@[simp] theorem modOp_handleTenants (s : State) (id : Nat) (f : Op → Op) :
    (modOp s id f).handleTenants = s.handleTenants := rfl
@[simp] theorem modOp_shootdowns (s : State) (id : Nat) (f : Op → Op) :
    (modOp s id f).shootdowns = s.shootdowns := rfl
@[simp] theorem modOp_ptroot (s : State) (id : Nat) (f : Op → Op) :
    (modOp s id f).ptroot = s.ptroot := rfl
@[simp] theorem modOp_tensors (s : State) (id : Nat) (f : Op → Op) :
    (modOp s id f).tensors = s.tensors := rfl
@[simp] theorem modOp_keptVersion (s : State) (id : Nat) (f : Op → Op) :
    (modOp s id f).keptVersion = s.keptVersion := rfl
@[simp] theorem modOp_tidWithdrawn (s : State) (id : Nat) (f : Op → Op) :
    (modOp s id f).tidWithdrawn = s.tidWithdrawn := rfl
@[simp] theorem modOp_tensorQ (s : State) (id : Nat) (f : Op → Op) :
    (modOp s id f).tensorQ = s.tensorQ := rfl
@[simp] theorem modOp_launches (s : State) (id : Nat) (f : Op → Op) :
    (modOp s id f).launches = s.launches := rfl
@[simp] theorem modOp_saves (s : State) (id : Nat) (f : Op → Op) :
    (modOp s id f).saves = s.saves := rfl
@[simp] theorem modOp_tenants (s : State) (id : Nat) (f : Op → Op) :
    (modOp s id f).tenants = s.tenants := rfl
@[simp] theorem modOp_keys (s : State) (id : Nat) (f : Op → Op) :
    (modOp s id f).keys = s.keys := rfl
@[simp] theorem modOp_nextKey (s : State) (id : Nat) (f : Op → Op) :
    (modOp s id f).nextKey = s.nextKey := rfl
@[simp] theorem modOp_spdm (s : State) (id : Nat) (f : Op → Op) :
    (modOp s id f).spdm = s.spdm := rfl
@[simp] theorem modOp_spdmLog (s : State) (id : Nat) (f : Op → Op) :
    (modOp s id f).spdmLog = s.spdmLog := rfl
@[simp] theorem modOp_spdmSigned (s : State) (id : Nat) (f : Op → Op) :
    (modOp s id f).spdmSigned = s.spdmSigned := rfl
@[simp] theorem modOp_layoutEpoch (s : State) (id : Nat) (f : Op → Op) :
    (modOp s id f).layoutEpoch = s.layoutEpoch := rfl
@[simp] theorem modOp_firmware (s : State) (id : Nat) (f : Op → Op) :
    (modOp s id f).firmware = s.firmware := rfl
@[simp] theorem modOp_windows (s : State) (id : Nat) (f : Op → Op) :
    (modOp s id f).windows = s.windows := rfl
@[simp] theorem modOp_groupTenants (s : State) (id : Nat) (f : Op → Op) :
    (modOp s id f).groupTenants = s.groupTenants := rfl
@[simp] theorem modOp_isolation (s : State) (id : Nat) (f : Op → Op) :
    (modOp s id f).isolation = s.isolation := rfl
@[simp] theorem modOp_dev (s : State) (id : Nat) (f : Op → Op) :
    (modOp s id f).dev = s.dev := rfl
@[simp] theorem modOp_grouped (s : State) (id : Nat) (f : Op → Op) :
    (modOp s id f).grouped = s.grouped := rfl
@[simp] theorem modOp_ports (s : State) (id : Nat) (f : Op → Op) :
    (modOp s id f).ports = s.ports := rfl
@[simp] theorem modOp_linkReqs (s : State) (id : Nat) (f : Op → Op) :
    (modOp s id f).linkReqs = s.linkReqs := rfl
@[simp] theorem modOp_channels (s : State) (id : Nat) (f : Op → Op) :
    (modOp s id f).channels = s.channels := rfl
@[simp] theorem modOp_charges (s : State) (id : Nat) (f : Op → Op) :
    (modOp s id f).charges = s.charges := rfl
@[simp] theorem modOp_debts (s : State) (id : Nat) (f : Op → Op) :
    (modOp s id f).debts = s.debts := rfl
@[simp] theorem modOp_budgetAt (s : State) (id : Nat) (f : Op → Op) :
    (modOp s id f).budgetAt = s.budgetAt := rfl
@[simp] theorem modOp_sensors (s : State) (id : Nat) (f : Op → Op) :
    (modOp s id f).sensors = s.sensors := rfl
@[simp] theorem modOp_errors (s : State) (id : Nat) (f : Op → Op) :
    (modOp s id f).errors = s.errors := rfl
@[simp] theorem modOp_power (s : State) (id : Nat) (f : Op → Op) :
    (modOp s id f).power = s.power := rfl
@[simp] theorem modOp_invalidations (s : State) (id : Nat) (f : Op → Op) :
    (modOp s id f).invalidations = s.invalidations := rfl
@[simp] theorem modOp_migrations (s : State) (id : Nat) (f : Op → Op) :
    (modOp s id f).migrations = s.migrations := rfl
@[simp] theorem modOp_sentOut (s : State) (id : Nat) (f : Op → Op) :
    (modOp s id f).sentOut = s.sentOut := rfl

/-! ### An operation in flight removed: `dropOp` -/

@[simp] theorem dropOp_cur (s : State) (id : Nat) :
    (dropOp s id).cur = s.cur := rfl
@[simp] theorem dropOp_agenda (s : State) (id : Nat) :
    (dropOp s id).agenda = s.agenda := rfl
@[simp] theorem dropOp_tick (s : State) (id : Nat) :
    (dropOp s id).tick = s.tick := rfl
@[simp] theorem dropOp_serial (s : State) (id : Nat) :
    (dropOp s id).serial = s.serial := rfl
@[simp] theorem dropOp_time (s : State) (id : Nat) :
    (dropOp s id).time = s.time := rfl
@[simp] theorem dropOp_cycles (s : State) (id : Nat) :
    (dropOp s id).cycles = s.cycles := rfl
@[simp] theorem dropOp_harts (s : State) (id : Nat) :
    (dropOp s id).harts = s.harts := rfl
@[simp] theorem dropOp_cores (s : State) (id : Nat) :
    (dropOp s id).cores = s.cores := rfl
@[simp] theorem dropOp_clusters (s : State) (id : Nat) :
    (dropOp s id).clusters = s.clusters := rfl
@[simp] theorem dropOp_dies (s : State) (id : Nat) :
    (dropOp s id).dies = s.dies := rfl
@[simp] theorem dropOp_views (s : State) (id : Nat) :
    (dropOp s id).views = s.views := rfl
@[simp] theorem dropOp_outer (s : State) (id : Nat) :
    (dropOp s id).outer = s.outer := rfl
@[simp] theorem dropOp_lineKeys (s : State) (id : Nat) :
    (dropOp s id).lineKeys = s.lineKeys := rfl
@[simp] theorem dropOp_badLines (s : State) (id : Nat) :
    (dropOp s id).badLines = s.badLines := rfl
@[simp] theorem dropOp_stamps (s : State) (id : Nat) :
    (dropOp s id).stamps = s.stamps := rfl
@[simp] theorem dropOp_flights (s : State) (id : Nat) :
    (dropOp s id).flights = s.flights := rfl
@[simp] theorem dropOp_mca (s : State) (id : Nat) :
    (dropOp s id).mca = s.mca := rfl
@[simp] theorem dropOp_counters (s : State) (id : Nat) :
    (dropOp s id).counters = s.counters := rfl
@[simp] theorem dropOp_counterOwner (s : State) (id : Nat) :
    (dropOp s id).counterOwner = s.counterOwner := rfl
@[simp] theorem dropOp_counterStamp (s : State) (id : Nat) :
    (dropOp s id).counterStamp = s.counterStamp := rfl
@[simp] theorem dropOp_barriers (s : State) (id : Nat) :
    (dropOp s id).barriers = s.barriers := rfl
@[simp] theorem dropOp_ranges (s : State) (id : Nat) :
    (dropOp s id).ranges = s.ranges := rfl
@[simp] theorem dropOp_freed (s : State) (id : Nat) :
    (dropOp s id).freed = s.freed := rfl
@[simp] theorem dropOp_withdrawn (s : State) (id : Nat) :
    (dropOp s id).withdrawn = s.withdrawn := rfl
@[simp] theorem dropOp_rights (s : State) (id : Nat) :
    (dropOp s id).rights = s.rights := rfl
@[simp] theorem dropOp_owners (s : State) (id : Nat) :
    (dropOp s id).owners = s.owners := rfl
@[simp] theorem dropOp_handleTenants (s : State) (id : Nat) :
    (dropOp s id).handleTenants = s.handleTenants := rfl
@[simp] theorem dropOp_shootdowns (s : State) (id : Nat) :
    (dropOp s id).shootdowns = s.shootdowns := rfl
@[simp] theorem dropOp_ptroot (s : State) (id : Nat) :
    (dropOp s id).ptroot = s.ptroot := rfl
@[simp] theorem dropOp_tensors (s : State) (id : Nat) :
    (dropOp s id).tensors = s.tensors := rfl
@[simp] theorem dropOp_keptVersion (s : State) (id : Nat) :
    (dropOp s id).keptVersion = s.keptVersion := rfl
@[simp] theorem dropOp_tidWithdrawn (s : State) (id : Nat) :
    (dropOp s id).tidWithdrawn = s.tidWithdrawn := rfl
@[simp] theorem dropOp_tensorQ (s : State) (id : Nat) :
    (dropOp s id).tensorQ = s.tensorQ := rfl
@[simp] theorem dropOp_launches (s : State) (id : Nat) :
    (dropOp s id).launches = s.launches := rfl
@[simp] theorem dropOp_saves (s : State) (id : Nat) :
    (dropOp s id).saves = s.saves := rfl
@[simp] theorem dropOp_tenants (s : State) (id : Nat) :
    (dropOp s id).tenants = s.tenants := rfl
@[simp] theorem dropOp_keys (s : State) (id : Nat) :
    (dropOp s id).keys = s.keys := rfl
@[simp] theorem dropOp_nextKey (s : State) (id : Nat) :
    (dropOp s id).nextKey = s.nextKey := rfl
@[simp] theorem dropOp_spdm (s : State) (id : Nat) :
    (dropOp s id).spdm = s.spdm := rfl
@[simp] theorem dropOp_spdmLog (s : State) (id : Nat) :
    (dropOp s id).spdmLog = s.spdmLog := rfl
@[simp] theorem dropOp_spdmSigned (s : State) (id : Nat) :
    (dropOp s id).spdmSigned = s.spdmSigned := rfl
@[simp] theorem dropOp_layoutEpoch (s : State) (id : Nat) :
    (dropOp s id).layoutEpoch = s.layoutEpoch := rfl
@[simp] theorem dropOp_firmware (s : State) (id : Nat) :
    (dropOp s id).firmware = s.firmware := rfl
@[simp] theorem dropOp_windows (s : State) (id : Nat) :
    (dropOp s id).windows = s.windows := rfl
@[simp] theorem dropOp_groupTenants (s : State) (id : Nat) :
    (dropOp s id).groupTenants = s.groupTenants := rfl
@[simp] theorem dropOp_isolation (s : State) (id : Nat) :
    (dropOp s id).isolation = s.isolation := rfl
@[simp] theorem dropOp_dev (s : State) (id : Nat) :
    (dropOp s id).dev = s.dev := rfl
@[simp] theorem dropOp_grouped (s : State) (id : Nat) :
    (dropOp s id).grouped = s.grouped := rfl
@[simp] theorem dropOp_ports (s : State) (id : Nat) :
    (dropOp s id).ports = s.ports := rfl
@[simp] theorem dropOp_linkReqs (s : State) (id : Nat) :
    (dropOp s id).linkReqs = s.linkReqs := rfl
@[simp] theorem dropOp_channels (s : State) (id : Nat) :
    (dropOp s id).channels = s.channels := rfl
@[simp] theorem dropOp_charges (s : State) (id : Nat) :
    (dropOp s id).charges = s.charges := rfl
@[simp] theorem dropOp_debts (s : State) (id : Nat) :
    (dropOp s id).debts = s.debts := rfl
@[simp] theorem dropOp_budgetAt (s : State) (id : Nat) :
    (dropOp s id).budgetAt = s.budgetAt := rfl
@[simp] theorem dropOp_sensors (s : State) (id : Nat) :
    (dropOp s id).sensors = s.sensors := rfl
@[simp] theorem dropOp_errors (s : State) (id : Nat) :
    (dropOp s id).errors = s.errors := rfl
@[simp] theorem dropOp_power (s : State) (id : Nat) :
    (dropOp s id).power = s.power := rfl
@[simp] theorem dropOp_invalidations (s : State) (id : Nat) :
    (dropOp s id).invalidations = s.invalidations := rfl
@[simp] theorem dropOp_migrations (s : State) (id : Nat) :
    (dropOp s id).migrations = s.migrations := rfl
@[simp] theorem dropOp_sentOut (s : State) (id : Nat) :
    (dropOp s id).sentOut = s.sentOut := rfl

/-! ### Completion: `retireHart` -/

@[simp] theorem retireHart_tenure (n : Nat) (h : Hart) :
    (retireHart n h).tenure = h.tenure := rfl
@[simp] theorem retireHart_mode (n : Nat) (h : Hart) :
    (retireHart n h).mode = h.mode := rfl
@[simp] theorem retireHart_x (n : Nat) (h : Hart) :
    (retireHart n h).x = h.x := rfl
@[simp] theorem retireHart_v (n : Nat) (h : Hart) :
    (retireHart n h).v = h.v := rfl
@[simp] theorem retireHart_live (n : Nat) (h : Hart) :
    (retireHart n h).live = h.live := rfl
@[simp] theorem retireHart_sr (n : Nat) (h : Hart) :
    (retireHart n h).sr = h.sr := rfl
@[simp] theorem retireHart_gen (n : Nat) (h : Hart) :
    (retireHart n h).gen = h.gen := rfl
@[simp] theorem retireHart_launch (n : Nat) (h : Hart) :
    (retireHart n h).launch = h.launch := rfl
@[simp] theorem retireHart_tile (n : Nat) (h : Hart) :
    (retireHart n h).tile = h.tile := rfl
@[simp] theorem retireHart_mpend (n : Nat) (h : Hart) :
    (retireHart n h).mpend = h.mpend := rfl
@[simp] theorem retireHart_latch (n : Nat) (h : Hart) :
    (retireHart n h).latch = h.latch := rfl
@[simp] theorem retireHart_ipend (n : Nat) (h : Hart) :
    (retireHart n h).ipend = h.ipend := rfl
@[simp] theorem retireHart_faults (n : Nat) (h : Hart) :
    (retireHart n h).faults = h.faults := rfl
@[simp] theorem retireHart_xpend (n : Nat) (h : Hart) :
    (retireHart n h).xpend = h.xpend := rfl
@[simp] theorem retireHart_poison (n : Nat) (h : Hart) :
    (retireHart n h).poison = h.poison := rfl
@[simp] theorem retireHart_loans (n : Nat) (h : Hart) :
    (retireHart n h).loans = h.loans := rfl
@[simp] theorem retireHart_preempt (n : Nat) (h : Hart) :
    (retireHart n h).preempt = h.preempt := rfl
@[simp] theorem retireHart_sup (n : Nat) (h : Hart) :
    (retireHart n h).sup = h.sup := rfl
@[simp] theorem retireHart_budget (n : Nat) (h : Hart) :
    (retireHart n h).budget = h.budget := rfl
@[simp] theorem retireHart_msg (n : Nat) (h : Hart) :
    (retireHart n h).msg = h.msg := rfl
@[simp] theorem retireHart_ganged (n : Nat) (h : Hart) :
    (retireHart n h).ganged = h.ganged := rfl
@[simp] theorem retireHart_beforeLoads (n : Nat) (h : Hart) :
    (retireHart n h).beforeLoads = h.beforeLoads := rfl
@[simp] theorem retireHart_beforeStores (n : Nat) (h : Hart) :
    (retireHart n h).beforeStores = h.beforeStores := rfl
@[simp] theorem retireHart_resumed (n : Nat) (h : Hart) :
    (retireHart n h).resumed = h.resumed := rfl
@[simp] theorem retireHart_after (n : Nat) (h : Hart) :
    (retireHart n h).after = h.after := rfl
@[simp] theorem retireHart_remain (n : Nat) (h : Hart) :
    (retireHart n h).remain = h.remain := rfl

/-! ### Control transfer: `jumpHart` -/

@[simp] theorem jumpHart_tenure (p : Word) (h : Hart) :
    (jumpHart p h).tenure = h.tenure := rfl
@[simp] theorem jumpHart_mode (p : Word) (h : Hart) :
    (jumpHart p h).mode = h.mode := rfl
@[simp] theorem jumpHart_x (p : Word) (h : Hart) :
    (jumpHart p h).x = h.x := rfl
@[simp] theorem jumpHart_v (p : Word) (h : Hart) :
    (jumpHart p h).v = h.v := rfl
@[simp] theorem jumpHart_live (p : Word) (h : Hart) :
    (jumpHart p h).live = h.live := rfl
@[simp] theorem jumpHart_sr (p : Word) (h : Hart) :
    (jumpHart p h).sr = h.sr := rfl
@[simp] theorem jumpHart_gen (p : Word) (h : Hart) :
    (jumpHart p h).gen = h.gen := rfl
@[simp] theorem jumpHart_launch (p : Word) (h : Hart) :
    (jumpHart p h).launch = h.launch := rfl
@[simp] theorem jumpHart_tile (p : Word) (h : Hart) :
    (jumpHart p h).tile = h.tile := rfl
@[simp] theorem jumpHart_mpend (p : Word) (h : Hart) :
    (jumpHart p h).mpend = h.mpend := rfl
@[simp] theorem jumpHart_latch (p : Word) (h : Hart) :
    (jumpHart p h).latch = h.latch := rfl
@[simp] theorem jumpHart_ipend (p : Word) (h : Hart) :
    (jumpHart p h).ipend = h.ipend := rfl
@[simp] theorem jumpHart_faults (p : Word) (h : Hart) :
    (jumpHart p h).faults = h.faults := rfl
@[simp] theorem jumpHart_xpend (p : Word) (h : Hart) :
    (jumpHart p h).xpend = h.xpend := rfl
@[simp] theorem jumpHart_poison (p : Word) (h : Hart) :
    (jumpHart p h).poison = h.poison := rfl
@[simp] theorem jumpHart_loans (p : Word) (h : Hart) :
    (jumpHart p h).loans = h.loans := rfl
@[simp] theorem jumpHart_preempt (p : Word) (h : Hart) :
    (jumpHart p h).preempt = h.preempt := rfl
@[simp] theorem jumpHart_sup (p : Word) (h : Hart) :
    (jumpHart p h).sup = h.sup := rfl
@[simp] theorem jumpHart_budget (p : Word) (h : Hart) :
    (jumpHart p h).budget = h.budget := rfl
@[simp] theorem jumpHart_msg (p : Word) (h : Hart) :
    (jumpHart p h).msg = h.msg := rfl
@[simp] theorem jumpHart_ganged (p : Word) (h : Hart) :
    (jumpHart p h).ganged = h.ganged := rfl
@[simp] theorem jumpHart_beforeLoads (p : Word) (h : Hart) :
    (jumpHart p h).beforeLoads = h.beforeLoads := rfl
@[simp] theorem jumpHart_beforeStores (p : Word) (h : Hart) :
    (jumpHart p h).beforeStores = h.beforeStores := rfl
@[simp] theorem jumpHart_resumed (p : Word) (h : Hart) :
    (jumpHart p h).resumed = h.resumed := rfl
@[simp] theorem jumpHart_after (p : Word) (h : Hart) :
    (jumpHart p h).after = h.after := rfl
@[simp] theorem jumpHart_remain (p : Word) (h : Hart) :
    (jumpHart p h).remain = h.remain := rfl

/-! ### A scalar register written: `writeX` -/

@[simp] theorem writeX_tenure (h : Hart) (r : Reg) (v : Word) :
    (writeX h r v).tenure = h.tenure := by unfold writeX; split <;> rfl
@[simp] theorem writeX_mode (h : Hart) (r : Reg) (v : Word) :
    (writeX h r v).mode = h.mode := by unfold writeX; split <;> rfl
@[simp] theorem writeX_pc (h : Hart) (r : Reg) (v : Word) :
    (writeX h r v).pc = h.pc := by unfold writeX; split <;> rfl
@[simp] theorem writeX_v (h : Hart) (r : Reg) (v : Word) :
    (writeX h r v).v = h.v := by unfold writeX; split <;> rfl
@[simp] theorem writeX_live (h : Hart) (r : Reg) (v : Word) :
    (writeX h r v).live = h.live := by unfold writeX; split <;> rfl
@[simp] theorem writeX_sr (h : Hart) (r : Reg) (v : Word) :
    (writeX h r v).sr = h.sr := by unfold writeX; split <;> rfl
@[simp] theorem writeX_gen (h : Hart) (r : Reg) (v : Word) :
    (writeX h r v).gen = h.gen := by unfold writeX; split <;> rfl
@[simp] theorem writeX_launch (h : Hart) (r : Reg) (v : Word) :
    (writeX h r v).launch = h.launch := by unfold writeX; split <;> rfl
@[simp] theorem writeX_tile (h : Hart) (r : Reg) (v : Word) :
    (writeX h r v).tile = h.tile := by unfold writeX; split <;> rfl
@[simp] theorem writeX_mpend (h : Hart) (r : Reg) (v : Word) :
    (writeX h r v).mpend = h.mpend := by unfold writeX; split <;> rfl
@[simp] theorem writeX_latch (h : Hart) (r : Reg) (v : Word) :
    (writeX h r v).latch = h.latch := by unfold writeX; split <;> rfl
@[simp] theorem writeX_ipend (h : Hart) (r : Reg) (v : Word) :
    (writeX h r v).ipend = h.ipend := by unfold writeX; split <;> rfl
@[simp] theorem writeX_faults (h : Hart) (r : Reg) (v : Word) :
    (writeX h r v).faults = h.faults := by unfold writeX; split <;> rfl
@[simp] theorem writeX_wait (h : Hart) (r : Reg) (v : Word) :
    (writeX h r v).wait = h.wait := by unfold writeX; split <;> rfl
@[simp] theorem writeX_met (h : Hart) (r : Reg) (v : Word) :
    (writeX h r v).met = h.met := by unfold writeX; split <;> rfl
@[simp] theorem writeX_unit (h : Hart) (r : Reg) (v : Word) :
    (writeX h r v).unit = h.unit := by unfold writeX; split <;> rfl
@[simp] theorem writeX_walk (h : Hart) (r : Reg) (v : Word) :
    (writeX h r v).walk = h.walk := by unfold writeX; split <;> rfl
@[simp] theorem writeX_loans (h : Hart) (r : Reg) (v : Word) :
    (writeX h r v).loans = h.loans := by unfold writeX; split <;> rfl
@[simp] theorem writeX_preempt (h : Hart) (r : Reg) (v : Word) :
    (writeX h r v).preempt = h.preempt := by unfold writeX; split <;> rfl
@[simp] theorem writeX_sup (h : Hart) (r : Reg) (v : Word) :
    (writeX h r v).sup = h.sup := by unfold writeX; split <;> rfl
@[simp] theorem writeX_budget (h : Hart) (r : Reg) (v : Word) :
    (writeX h r v).budget = h.budget := by unfold writeX; split <;> rfl
@[simp] theorem writeX_msg (h : Hart) (r : Reg) (v : Word) :
    (writeX h r v).msg = h.msg := by unfold writeX; split <;> rfl
@[simp] theorem writeX_ganged (h : Hart) (r : Reg) (v : Word) :
    (writeX h r v).ganged = h.ganged := by unfold writeX; split <;> rfl
@[simp] theorem writeX_beforeLoads (h : Hart) (r : Reg) (v : Word) :
    (writeX h r v).beforeLoads = h.beforeLoads := by unfold writeX; split <;> rfl
@[simp] theorem writeX_beforeStores (h : Hart) (r : Reg) (v : Word) :
    (writeX h r v).beforeStores = h.beforeStores := by unfold writeX; split <;> rfl
@[simp] theorem writeX_resumed (h : Hart) (r : Reg) (v : Word) :
    (writeX h r v).resumed = h.resumed := by unfold writeX; split <;> rfl
@[simp] theorem writeX_after (h : Hart) (r : Reg) (v : Word) :
    (writeX h r v).after = h.after := by unfold writeX; split <;> rfl
@[simp] theorem writeX_remain (h : Hart) (r : Reg) (v : Word) :
    (writeX h r v).remain = h.remain := by unfold writeX; split <;> rfl

/-! ### What is written is read -/

@[simp] theorem post_agenda (s : State) (e : Event) : (post s e).agenda = s.agenda ++ [e] := rfl
@[simp] theorem postAll_agenda (s : State) (es : List Event) : (postAll s es).agenda = s.agenda ++ es := rfl
@[simp] theorem retireHart_pc (n : Nat) (h : Hart) : (retireHart n h).pc = h.pc + BitVec.ofNat 64 n := rfl
@[simp] theorem retireHart_unit (n : Nat) (h : Hart) : (retireHart n h).unit = none := rfl
@[simp] theorem retireHart_wait (n : Nat) (h : Hart) : (retireHart n h).wait = none := rfl
@[simp] theorem retireHart_met (n : Nat) (h : Hart) : (retireHart n h).met = none := rfl
@[simp] theorem retireHart_walk (n : Nat) (h : Hart) : (retireHart n h).walk = none := rfl
@[simp] theorem jumpHart_pc (p : Word) (h : Hart) : (jumpHart p h).pc = evenPc p := rfl
@[simp] theorem jumpHart_unit (p : Word) (h : Hart) : (jumpHart p h).unit = none := rfl
@[simp] theorem jumpHart_wait (p : Word) (h : Hart) : (jumpHart p h).wait = none := rfl
@[simp] theorem jumpHart_met (p : Word) (h : Hart) : (jumpHart p h).met = none := rfl
@[simp] theorem jumpHart_walk (p : Word) (h : Hart) : (jumpHart p h).walk = none := rfl

@[simp] theorem getHart_setHart_same (s : State) (h : Nat) (v : Hart) : getHart (setHart s h v) h = v := by
  simp [getHart, setHart]

theorem getHart_setHart_ne (s : State) {h k : Nat} (v : Hart) (hk : k ≠ h) :
    getHart (setHart s h v) k = getHart s k := by
  simp [getHart, setHart, mapGet_mapPut_ne _ _ _ hk]

@[simp] theorem getHart_modHart_same (s : State) (h : Nat) (f : Hart → Hart) :
    getHart (modHart s h f) h = f (getHart s h) := by simp [modHart]

theorem getHart_modHart_ne (s : State) {h k : Nat} (f : Hart → Hart) (hk : k ≠ h) :
    getHart (modHart s h f) k = getHart s k := getHart_setHart_ne s _ hk

@[simp] theorem me_modMe (s : State) (f : Hart → Hart) : me (modMe s f) = f (me s) := by simp [me, modMe]

@[simp] theorem me_retire (s : State) (n : Nat) : me (retire s n) = retireHart n (me s) := by simp [retire]

theorem getHart_modMe_ne (s : State) {k : Nat} (f : Hart → Hart) (hk : k ≠ s.cur) :
    getHart (modMe s f) k = getHart s k := getHart_modHart_ne s f hk

@[simp] theorem getCore_setCore_same (s : State) (g : Nat) (v : Core) : getCore (setCore s g v) g = v := by
  simp [getCore, setCore]

theorem getCore_setCore_ne (s : State) {g k : Nat} (v : Core) (hk : k ≠ g) :
    getCore (setCore s g v) k = getCore s k := by
  simp [getCore, setCore, mapGet_mapPut_ne _ _ _ hk]

@[simp] theorem getCore_modCore_same (s : State) (g : Nat) (f : Core → Core) :
    getCore (modCore s g f) g = f (getCore s g) := by simp [modCore]

theorem getCore_modCore_ne (s : State) {g k : Nat} (f : Core → Core) (hk : k ≠ g) :
    getCore (modCore s g f) k = getCore s k := getCore_setCore_ne s _ hk

@[simp] theorem getCluster_modCluster_same (s : State) (c : Nat) (f : Cluster → Cluster) :
    getCluster (modCluster s c f) c = f (getCluster s c) := by simp [getCluster, modCluster]

theorem getCluster_modCluster_ne (s : State) {c k : Nat} (f : Cluster → Cluster) (hk : k ≠ c) :
    getCluster (modCluster s c f) k = getCluster s k := by
  simp [getCluster, modCluster, mapGet_mapPut_ne _ _ _ hk]

@[simp] theorem getDie_modDie_same (s : State) (d : Nat) (f : Die → Die) :
    getDie (modDie s d f) d = f (getDie s d) := by simp [getDie, modDie]

theorem getDie_modDie_ne (s : State) {d k : Nat} (f : Die → Die) (hk : k ≠ d) :
    getDie (modDie s d f) k = getDie s k := by
  simp [getDie, modDie, mapGet_mapPut_ne _ _ _ hk]

@[simp] theorem getTenant_modTenant_same (s : State) (t : Nat) (f : Tenant → Tenant) :
    getTenant (modTenant s t f) t = f (getTenant s t) := by simp [getTenant, modTenant]

theorem getTenant_modTenant_ne (s : State) {t k : Nat} (f : Tenant → Tenant) (hk : k ≠ t) :
    getTenant (modTenant s t f) k = getTenant s k := by
  simp [getTenant, modTenant, mapGet_mapPut_ne _ _ _ hk]

@[simp] theorem stampOf_setStamp_same (s : State) (d : Nat) (t : Stamp) : stampOf (setStamp s d t) d = t := by
  simp [stampOf, setStamp]

@[simp] theorem ptrootOf_setPtroot_same (s : State) (d : Nat) (w : Word) : ptrootOf (setPtroot s d w) d = w := by
  simp [ptrootOf, setPtroot]

theorem ptrootOf_setPtroot_ne (s : State) {d k : Nat} (w : Word) (hk : k ≠ d) : ptrootOf (setPtroot s d w) k = ptrootOf s k := by
  simp [ptrootOf, setPtroot, mapGet_mapPut_ne _ _ _ hk]

/-! ### Parts that another part's update leaves alone -/

@[simp] theorem getHart_setCore (s : State) (g : Nat) (v : Core) (k : Nat) :
    getHart (setCore s g v) k = getHart s k := rfl
@[simp] theorem getHart_modCore (s : State) (g : Nat) (f : Core → Core) (k : Nat) :
    getHart (modCore s g f) k = getHart s k := rfl
@[simp] theorem getHart_modCluster (s : State) (c : Nat) (f : Cluster → Cluster) (k : Nat) :
    getHart (modCluster s c f) k = getHart s k := rfl
@[simp] theorem getHart_modDie (s : State) (d : Nat) (f : Die → Die) (k : Nat) :
    getHart (modDie s d f) k = getHart s k := rfl
@[simp] theorem getHart_modTenant (s : State) (t : Nat) (f : Tenant → Tenant) (k : Nat) :
    getHart (modTenant s t f) k = getHart s k := rfl
@[simp] theorem getHart_post (s : State) (e : Event) (k : Nat) :
    getHart (post s e) k = getHart s k := rfl
@[simp] theorem getHart_postAll (s : State) (es : List Event) (k : Nat) :
    getHart (postAll s es) k = getHart s k := rfl
@[simp] theorem getHart_setView (s : State) (d : Nat) (m : SMap Byte) (k : Nat) :
    getHart (setView s d m) k = getHart s k := rfl
@[simp] theorem getHart_setStamp (s : State) (d : Nat) (t : Stamp) (k : Nat) :
    getHart (setStamp s d t) k = getHart s k := rfl
@[simp] theorem getHart_modOp (s : State) (id : Nat) (f : Op → Op) (k : Nat) :
    getHart (modOp s id f) k = getHart s k := rfl
@[simp] theorem getHart_dropOp (s : State) (id : Nat) (k : Nat) :
    getHart (dropOp s id) k = getHart s k := rfl
@[simp] theorem getCore_setHart (s : State) (h : Nat) (v : Hart) (k : Nat) :
    getCore (setHart s h v) k = getCore s k := rfl
@[simp] theorem getCore_modHart (s : State) (h : Nat) (f : Hart → Hart) (k : Nat) :
    getCore (modHart s h f) k = getCore s k := rfl
@[simp] theorem getCore_modMe (s : State) (f : Hart → Hart) (k : Nat) :
    getCore (modMe s f) k = getCore s k := rfl
@[simp] theorem getCore_retire (s : State) (n : Nat) (k : Nat) :
    getCore (retire s n) k = getCore s k := rfl
@[simp] theorem getCore_modCluster (s : State) (c : Nat) (f : Cluster → Cluster) (k : Nat) :
    getCore (modCluster s c f) k = getCore s k := rfl
@[simp] theorem getCore_modDie (s : State) (d : Nat) (f : Die → Die) (k : Nat) :
    getCore (modDie s d f) k = getCore s k := rfl
@[simp] theorem getCore_modTenant (s : State) (t : Nat) (f : Tenant → Tenant) (k : Nat) :
    getCore (modTenant s t f) k = getCore s k := rfl
@[simp] theorem getCore_post (s : State) (e : Event) (k : Nat) :
    getCore (post s e) k = getCore s k := rfl
@[simp] theorem getCore_postAll (s : State) (es : List Event) (k : Nat) :
    getCore (postAll s es) k = getCore s k := rfl
@[simp] theorem getCore_setView (s : State) (d : Nat) (m : SMap Byte) (k : Nat) :
    getCore (setView s d m) k = getCore s k := rfl
@[simp] theorem getCore_setStamp (s : State) (d : Nat) (t : Stamp) (k : Nat) :
    getCore (setStamp s d t) k = getCore s k := rfl
@[simp] theorem getCore_modOp (s : State) (id : Nat) (f : Op → Op) (k : Nat) :
    getCore (modOp s id f) k = getCore s k := rfl
@[simp] theorem getCore_dropOp (s : State) (id : Nat) (k : Nat) :
    getCore (dropOp s id) k = getCore s k := rfl
@[simp] theorem getCluster_setHart (s : State) (h : Nat) (v : Hart) (k : Nat) :
    getCluster (setHart s h v) k = getCluster s k := rfl
@[simp] theorem getCluster_modHart (s : State) (h : Nat) (f : Hart → Hart) (k : Nat) :
    getCluster (modHart s h f) k = getCluster s k := rfl
@[simp] theorem getCluster_modMe (s : State) (f : Hart → Hart) (k : Nat) :
    getCluster (modMe s f) k = getCluster s k := rfl
@[simp] theorem getCluster_retire (s : State) (n : Nat) (k : Nat) :
    getCluster (retire s n) k = getCluster s k := rfl
@[simp] theorem getCluster_setCore (s : State) (g : Nat) (v : Core) (k : Nat) :
    getCluster (setCore s g v) k = getCluster s k := rfl
@[simp] theorem getCluster_modCore (s : State) (g : Nat) (f : Core → Core) (k : Nat) :
    getCluster (modCore s g f) k = getCluster s k := rfl
@[simp] theorem getCluster_modDie (s : State) (d : Nat) (f : Die → Die) (k : Nat) :
    getCluster (modDie s d f) k = getCluster s k := rfl
@[simp] theorem getCluster_modTenant (s : State) (t : Nat) (f : Tenant → Tenant) (k : Nat) :
    getCluster (modTenant s t f) k = getCluster s k := rfl
@[simp] theorem getCluster_post (s : State) (e : Event) (k : Nat) :
    getCluster (post s e) k = getCluster s k := rfl
@[simp] theorem getCluster_postAll (s : State) (es : List Event) (k : Nat) :
    getCluster (postAll s es) k = getCluster s k := rfl
@[simp] theorem getCluster_setView (s : State) (d : Nat) (m : SMap Byte) (k : Nat) :
    getCluster (setView s d m) k = getCluster s k := rfl
@[simp] theorem getCluster_setStamp (s : State) (d : Nat) (t : Stamp) (k : Nat) :
    getCluster (setStamp s d t) k = getCluster s k := rfl
@[simp] theorem getCluster_modOp (s : State) (id : Nat) (f : Op → Op) (k : Nat) :
    getCluster (modOp s id f) k = getCluster s k := rfl
@[simp] theorem getCluster_dropOp (s : State) (id : Nat) (k : Nat) :
    getCluster (dropOp s id) k = getCluster s k := rfl
@[simp] theorem getDie_setHart (s : State) (h : Nat) (v : Hart) (k : Nat) :
    getDie (setHart s h v) k = getDie s k := rfl
@[simp] theorem getDie_modHart (s : State) (h : Nat) (f : Hart → Hart) (k : Nat) :
    getDie (modHart s h f) k = getDie s k := rfl
@[simp] theorem getDie_modMe (s : State) (f : Hart → Hart) (k : Nat) :
    getDie (modMe s f) k = getDie s k := rfl
@[simp] theorem getDie_retire (s : State) (n : Nat) (k : Nat) :
    getDie (retire s n) k = getDie s k := rfl
@[simp] theorem getDie_setCore (s : State) (g : Nat) (v : Core) (k : Nat) :
    getDie (setCore s g v) k = getDie s k := rfl
@[simp] theorem getDie_modCore (s : State) (g : Nat) (f : Core → Core) (k : Nat) :
    getDie (modCore s g f) k = getDie s k := rfl
@[simp] theorem getDie_modCluster (s : State) (c : Nat) (f : Cluster → Cluster) (k : Nat) :
    getDie (modCluster s c f) k = getDie s k := rfl
@[simp] theorem getDie_modTenant (s : State) (t : Nat) (f : Tenant → Tenant) (k : Nat) :
    getDie (modTenant s t f) k = getDie s k := rfl
@[simp] theorem getDie_post (s : State) (e : Event) (k : Nat) :
    getDie (post s e) k = getDie s k := rfl
@[simp] theorem getDie_postAll (s : State) (es : List Event) (k : Nat) :
    getDie (postAll s es) k = getDie s k := rfl
@[simp] theorem getDie_setView (s : State) (d : Nat) (m : SMap Byte) (k : Nat) :
    getDie (setView s d m) k = getDie s k := rfl
@[simp] theorem getDie_setStamp (s : State) (d : Nat) (t : Stamp) (k : Nat) :
    getDie (setStamp s d t) k = getDie s k := rfl
@[simp] theorem getDie_modOp (s : State) (id : Nat) (f : Op → Op) (k : Nat) :
    getDie (modOp s id f) k = getDie s k := rfl
@[simp] theorem getDie_dropOp (s : State) (id : Nat) (k : Nat) :
    getDie (dropOp s id) k = getDie s k := rfl
@[simp] theorem getTenant_setHart (s : State) (h : Nat) (v : Hart) (k : Nat) :
    getTenant (setHart s h v) k = getTenant s k := rfl
@[simp] theorem getTenant_modHart (s : State) (h : Nat) (f : Hart → Hart) (k : Nat) :
    getTenant (modHart s h f) k = getTenant s k := rfl
@[simp] theorem getTenant_modMe (s : State) (f : Hart → Hart) (k : Nat) :
    getTenant (modMe s f) k = getTenant s k := rfl
@[simp] theorem getTenant_retire (s : State) (n : Nat) (k : Nat) :
    getTenant (retire s n) k = getTenant s k := rfl
@[simp] theorem getTenant_setCore (s : State) (g : Nat) (v : Core) (k : Nat) :
    getTenant (setCore s g v) k = getTenant s k := rfl
@[simp] theorem getTenant_modCore (s : State) (g : Nat) (f : Core → Core) (k : Nat) :
    getTenant (modCore s g f) k = getTenant s k := rfl
@[simp] theorem getTenant_modCluster (s : State) (c : Nat) (f : Cluster → Cluster) (k : Nat) :
    getTenant (modCluster s c f) k = getTenant s k := rfl
@[simp] theorem getTenant_modDie (s : State) (d : Nat) (f : Die → Die) (k : Nat) :
    getTenant (modDie s d f) k = getTenant s k := rfl
@[simp] theorem getTenant_post (s : State) (e : Event) (k : Nat) :
    getTenant (post s e) k = getTenant s k := rfl
@[simp] theorem getTenant_postAll (s : State) (es : List Event) (k : Nat) :
    getTenant (postAll s es) k = getTenant s k := rfl
@[simp] theorem getTenant_setView (s : State) (d : Nat) (m : SMap Byte) (k : Nat) :
    getTenant (setView s d m) k = getTenant s k := rfl
@[simp] theorem getTenant_setStamp (s : State) (d : Nat) (t : Stamp) (k : Nat) :
    getTenant (setStamp s d t) k = getTenant s k := rfl
@[simp] theorem getTenant_modOp (s : State) (id : Nat) (f : Op → Op) (k : Nat) :
    getTenant (modOp s id f) k = getTenant s k := rfl
@[simp] theorem getTenant_dropOp (s : State) (id : Nat) (k : Nat) :
    getTenant (dropOp s id) k = getTenant s k := rfl
@[simp] theorem getLaunch_setHart (s : State) (h : Nat) (v : Hart) (k : Nat) :
    getLaunch (setHart s h v) k = getLaunch s k := rfl
@[simp] theorem getLaunch_modHart (s : State) (h : Nat) (f : Hart → Hart) (k : Nat) :
    getLaunch (modHart s h f) k = getLaunch s k := rfl
@[simp] theorem getLaunch_modMe (s : State) (f : Hart → Hart) (k : Nat) :
    getLaunch (modMe s f) k = getLaunch s k := rfl
@[simp] theorem getLaunch_retire (s : State) (n : Nat) (k : Nat) :
    getLaunch (retire s n) k = getLaunch s k := rfl
@[simp] theorem getLaunch_setCore (s : State) (g : Nat) (v : Core) (k : Nat) :
    getLaunch (setCore s g v) k = getLaunch s k := rfl
@[simp] theorem getLaunch_modCore (s : State) (g : Nat) (f : Core → Core) (k : Nat) :
    getLaunch (modCore s g f) k = getLaunch s k := rfl
@[simp] theorem getLaunch_modCluster (s : State) (c : Nat) (f : Cluster → Cluster) (k : Nat) :
    getLaunch (modCluster s c f) k = getLaunch s k := rfl
@[simp] theorem getLaunch_modDie (s : State) (d : Nat) (f : Die → Die) (k : Nat) :
    getLaunch (modDie s d f) k = getLaunch s k := rfl
@[simp] theorem getLaunch_modTenant (s : State) (t : Nat) (f : Tenant → Tenant) (k : Nat) :
    getLaunch (modTenant s t f) k = getLaunch s k := rfl
@[simp] theorem getLaunch_post (s : State) (e : Event) (k : Nat) :
    getLaunch (post s e) k = getLaunch s k := rfl
@[simp] theorem getLaunch_postAll (s : State) (es : List Event) (k : Nat) :
    getLaunch (postAll s es) k = getLaunch s k := rfl
@[simp] theorem getLaunch_setView (s : State) (d : Nat) (m : SMap Byte) (k : Nat) :
    getLaunch (setView s d m) k = getLaunch s k := rfl
@[simp] theorem getLaunch_setStamp (s : State) (d : Nat) (t : Stamp) (k : Nat) :
    getLaunch (setStamp s d t) k = getLaunch s k := rfl
@[simp] theorem getLaunch_modOp (s : State) (id : Nat) (f : Op → Op) (k : Nat) :
    getLaunch (modOp s id f) k = getLaunch s k := rfl
@[simp] theorem getLaunch_dropOp (s : State) (id : Nat) (k : Nat) :
    getLaunch (dropOp s id) k = getLaunch s k := rfl
@[simp] theorem viewOf_setHart (s : State) (h : Nat) (v : Hart) (k : Nat) :
    viewOf (setHart s h v) k = viewOf s k := rfl
@[simp] theorem viewOf_modHart (s : State) (h : Nat) (f : Hart → Hart) (k : Nat) :
    viewOf (modHart s h f) k = viewOf s k := rfl
@[simp] theorem viewOf_modMe (s : State) (f : Hart → Hart) (k : Nat) :
    viewOf (modMe s f) k = viewOf s k := rfl
@[simp] theorem viewOf_retire (s : State) (n : Nat) (k : Nat) :
    viewOf (retire s n) k = viewOf s k := rfl
@[simp] theorem viewOf_setCore (s : State) (g : Nat) (v : Core) (k : Nat) :
    viewOf (setCore s g v) k = viewOf s k := rfl
@[simp] theorem viewOf_modCore (s : State) (g : Nat) (f : Core → Core) (k : Nat) :
    viewOf (modCore s g f) k = viewOf s k := rfl
@[simp] theorem viewOf_modCluster (s : State) (c : Nat) (f : Cluster → Cluster) (k : Nat) :
    viewOf (modCluster s c f) k = viewOf s k := rfl
@[simp] theorem viewOf_modDie (s : State) (d : Nat) (f : Die → Die) (k : Nat) :
    viewOf (modDie s d f) k = viewOf s k := rfl
@[simp] theorem viewOf_modTenant (s : State) (t : Nat) (f : Tenant → Tenant) (k : Nat) :
    viewOf (modTenant s t f) k = viewOf s k := rfl
@[simp] theorem viewOf_post (s : State) (e : Event) (k : Nat) :
    viewOf (post s e) k = viewOf s k := rfl
@[simp] theorem viewOf_postAll (s : State) (es : List Event) (k : Nat) :
    viewOf (postAll s es) k = viewOf s k := rfl
@[simp] theorem viewOf_setStamp (s : State) (d : Nat) (t : Stamp) (k : Nat) :
    viewOf (setStamp s d t) k = viewOf s k := rfl
@[simp] theorem viewOf_modOp (s : State) (id : Nat) (f : Op → Op) (k : Nat) :
    viewOf (modOp s id f) k = viewOf s k := rfl
@[simp] theorem viewOf_dropOp (s : State) (id : Nat) (k : Nat) :
    viewOf (dropOp s id) k = viewOf s k := rfl
@[simp] theorem me_setCore (s : State) (g : Nat) (v : Core) :
    me (setCore s g v) = me s := rfl
@[simp] theorem me_modCore (s : State) (g : Nat) (f : Core → Core) :
    me (modCore s g f) = me s := rfl
@[simp] theorem me_modCluster (s : State) (c : Nat) (f : Cluster → Cluster) :
    me (modCluster s c f) = me s := rfl
@[simp] theorem me_modDie (s : State) (d : Nat) (f : Die → Die) :
    me (modDie s d f) = me s := rfl
@[simp] theorem me_modTenant (s : State) (t : Nat) (f : Tenant → Tenant) :
    me (modTenant s t f) = me s := rfl
@[simp] theorem me_post (s : State) (e : Event) :
    me (post s e) = me s := rfl
@[simp] theorem me_postAll (s : State) (es : List Event) :
    me (postAll s es) = me s := rfl
@[simp] theorem me_setView (s : State) (d : Nat) (m : SMap Byte) :
    me (setView s d m) = me s := rfl
@[simp] theorem me_setStamp (s : State) (d : Nat) (t : Stamp) :
    me (setStamp s d t) = me s := rfl
@[simp] theorem me_modOp (s : State) (id : Nat) (f : Op → Op) :
    me (modOp s id f) = me s := rfl
@[simp] theorem me_dropOp (s : State) (id : Nat) :
    me (dropOp s id) = me s := rfl

/-! ### Scalar registers -/

@[simp] theorem readX_zero (h : Hart) : readX h 0 = 0 := rfl

@[simp] theorem writeX_zero (h : Hart) (v : Word) : writeX h 0 v = h := rfl

theorem readX_writeX_same (h : Hart) {r : Reg} (v : Word) (hr : r ≠ 0) : readX (writeX h r v) r = v := by
  unfold readX writeX
  rw [if_neg hr, if_neg hr]
  exact Vector.getElem_set_self _

theorem readX_writeX_ne (h : Hart) {r q : Reg} (v : Word) (hq : q ≠ r) : readX (writeX h r v) q = readX h q := by
  unfold readX writeX
  by_cases hr : r = 0
  · rw [if_pos hr]
  · by_cases h0 : q = 0
    · rw [if_pos h0, if_pos h0]
    · rw [if_neg h0, if_neg h0, if_neg hr]
      exact Vector.getElem_set_ne r.isLt q.isLt fun e => hq (BitVec.eq_of_toNat_eq e.symm)

@[simp] theorem readX_retireHart (n : Nat) (h : Hart) (r : Reg) : readX (retireHart n h) r = readX h r := rfl

@[simp] theorem readX_jumpHart (p : Word) (h : Hart) (r : Reg) : readX (jumpHart p h) r = readX h r := rfl

end Sys2Proof.Machine
end

