-- ==== Sys2Proof/Laws/Memory.lean ====
section
/-!
SUPPORT. Memory: what a write leaves in a view, and that every operation on memory keeps the canonical form.
-/

namespace Sys2Proof.Machine

/-! ### Bytes of a map -/

@[simp] theorem mapBytes_length (m : SMap Byte) (key n : Nat) : (mapBytes m key n).length = n := by
  induction n generalizing key with
  | zero => rfl
  | succ n ih => simp [mapBytes, ih]

/-- A key outside a write reads what it read before. -/
theorem mapGet_putBytes_outside (m : SMap Byte) (key : Nat) (bs : List Byte) (k : Nat)
    (h : k < key ∨ key + bs.length ≤ k) : mapGet 0 (putBytes m key bs) k = mapGet 0 m k := by
  induction bs generalizing m key with
  | nil => rfl
  | cons b bs ih =>
    simp only [List.length_cons] at h
    rw [putBytes, ih _ _ (by omega), mapGet_mapPut_ne _ _ _ (by omega)]

/-- A key inside a write reads the byte written. -/
theorem mapGet_putBytes_inside (m : SMap Byte) (key : Nat) (bs : List Byte) (i : Nat) (h : i < bs.length) :
    mapGet 0 (putBytes m key bs) (key + i) = bs[i] := by
  induction bs generalizing m key i with
  | nil => simp at h
  | cons b bs ih =>
    cases i with
    | zero =>
      show mapGet 0 (putBytes m key (b :: bs)) key = b
      rw [putBytes, mapGet_putBytes_outside _ _ _ _ (by omega), mapGet_mapPut_same]
    | succ i =>
      simp only [List.length_cons] at h
      have := ih (mapPut 0 m key b) (key + 1) i (by omega)
      simpa [putBytes, Nat.add_assoc, Nat.add_comm 1 i] using this

theorem mapBytes_congr (m m' : SMap Byte) (key n : Nat) (h : ∀ i < n, mapGet 0 m (key + i) = mapGet 0 m' (key + i)) :
    mapBytes m key n = mapBytes m' key n := by
  induction n generalizing key with
  | zero => rfl
  | succ n ih =>
    simp only [mapBytes]
    congr 1
    · simpa using h 0 (by omega)
    · exact ih _ fun i hi => by simpa [Nat.add_assoc, Nat.add_comm 1 i] using h (i + 1) (by omega)

/-- What was written is read. -/
@[simp] theorem mapBytes_putBytes (m : SMap Byte) (key : Nat) (bs : List Byte) :
    mapBytes (putBytes m key bs) key bs.length = bs := by
  induction bs generalizing m key with
  | nil => rfl
  | cons b bs ih =>
    rw [putBytes, List.length_cons, mapBytes, ih, mapGet_putBytes_outside _ _ _ _ (by omega), mapGet_mapPut_same]

/-- Bytes that a write does not meet read as before. -/
theorem mapBytes_putBytes_outside (m : SMap Byte) (key : Nat) (bs : List Byte) (k n : Nat)
    (h : k + n ≤ key ∨ key + bs.length ≤ k) : mapBytes (putBytes m key bs) k n = mapBytes m k n :=
  mapBytes_congr _ _ _ _ fun i hi => mapGet_putBytes_outside _ _ _ _ (by omega)

/-! ### Views -/

@[simp] theorem viewOf_setView_same (s : State) (d : Nat) (m : SMap Byte) : viewOf (setView s d m) d = m := by
  simp [viewOf, setView]

theorem viewOf_setView_ne (s : State) {d k : Nat} (m : SMap Byte) (hk : k ≠ d) :
    viewOf (setView s d m) k = viewOf s k := by
  simp [viewOf, setView, mapGet_mapPut_ne _ _ _ hk]

theorem viewByte_applyView_outside (s : State) (d key : Nat) (bs : List Byte) (k : Nat)
    (h : k < key ∨ key + bs.length ≤ k) : viewByte (applyView s d key bs) d k = viewByte s d k := by
  rw [viewByte, applyView, viewOf_setView_same, mapGet_putBytes_outside _ _ _ _ h, viewByte]

theorem viewByte_applyView_other (s : State) {d e : Nat} (key : Nat) (bs : List Byte) (k : Nat) (he : e ≠ d) :
    viewByte (applyView s d key bs) e k = viewByte s e k := by
  simp [viewByte, applyView, viewOf_setView_ne _ _ he]

theorem mapBytes_applyView (s : State) (d key : Nat) (bs : List Byte) :
    mapBytes (viewOf (applyView s d key bs) d) key bs.length = bs := by simp [applyView]

/-! ### The canonical form -/

theorem mapWf_putBytes {m : SMap Byte} (key : Nat) (bs : List Byte) (w : mapWf 0 m = true) :
    mapWf 0 (putBytes m key bs) = true := by
  induction bs generalizing m key with
  | nil => exact w
  | cons b bs ih => exact ih _ (mapWf_mapPut 0 key b w)

/-- The parts of the canonical form. -/
theorem Memory.wf_iff (s : State) :
    Memory.wf s = true ↔
      mapWf [] s.views = true ∧ (∀ e ∈ s.views, mapWf 0 e.2 = true) ∧ mapWf 0 s.outer = true := by
  simp [Memory.wf, and_assoc]

/-- It depends on the views and on the memory outside alone. -/
theorem Memory.wf_congr {s t : State} (hv : t.views = s.views) (ho : t.outer = s.outer) :
    Memory.wf t = Memory.wf s := by simp [Memory.wf, hv, ho]

theorem Memory.wf_reset : Memory.wf State.reset = true := rfl

theorem Memory.wf_viewOf {s : State} (w : Memory.wf s = true) (d : Nat) : mapWf 0 (viewOf s d) = true := by
  rw [Memory.wf_iff] at w
  exact mapGet_of_forall (p := fun m => mapWf (0 : Byte) m = true) [] s.views d rfl w.2.1

theorem Memory.wf_setView {s : State} (w : Memory.wf s = true) (d : Nat) {m : SMap Byte} (hm : mapWf 0 m = true) :
    Memory.wf (setView s d m) = true := by
  rw [Memory.wf_iff] at w ⊢
  refine ⟨mapWf_mapPut _ _ _ w.1, fun e he => ?_, w.2.2⟩
  rcases mem_mapPut he with h | h
  · subst h; exact hm
  · exact w.2.1 e h

theorem Memory.wf_applyView {s : State} (w : Memory.wf s = true) (d key : Nat) (bs : List Byte) :
    Memory.wf (applyView s d key bs) = true :=
  Memory.wf_setView w d (mapWf_putBytes key bs (Memory.wf_viewOf w d))

theorem Memory.wf_applyAll {s : State} (w : Memory.wf s = true) (key : Nat) (bs : List Byte) :
    Memory.wf (applyAll s key bs) = true :=
  Memory.wf_applyView (Memory.wf_applyView (Memory.wf_applyView (Memory.wf_applyView w 0 key bs) 1 key bs) 2 key bs) 3
    key bs

theorem zeroKeys_views (s : State) (lo n : Nat) :
    (zeroKeys s lo n).views =
      mapVals [] (fun _ m => mapDrop (fun k => decide (lo ≤ k) && decide (k < lo + n)) m) s.views := rfl

theorem Memory.wf_zeroKeys {s : State} (w : Memory.wf s = true) (lo n : Nat) : Memory.wf (zeroKeys s lo n) = true := by
  rw [Memory.wf_iff] at w ⊢
  rw [zeroKeys_views]
  refine ⟨mapWf_mapVals _ _ w.1, fun e he => ?_, w.2.2⟩
  obtain ⟨a, ha, h⟩ := mem_mapVals he
  rw [h]
  have := mapWf_mapDrop 0 (fun k => decide (lo ≤ k) && decide (k < lo + n)) (w.2.1 a ha)
  exact this

theorem Memory.wf_putOuter {s : State} (w : Memory.wf s = true) (key : Nat) (bs : List Byte) :
    Memory.wf { s with outer := putBytes s.outer key bs } = true := by
  rw [Memory.wf_iff] at w ⊢
  exact ⟨w.1, w.2.1, mapWf_putBytes key bs w.2.2⟩

@[simp] theorem setLineKey_views (s : State) (die key : Nat) (u : LineKey) : (setLineKey s die key u).views = s.views := rfl
@[simp] theorem setLineKey_outer (s : State) (die key : Nat) (u : LineKey) : (setLineKey s die key u).outer = s.outer := rfl

theorem Memory.wf_applyUnder {s : State} (w : Memory.wf s = true) (die key : Nat) (bs : List Byte) (u : LineKey) :
    Memory.wf (applyUnder s die key bs u) = true := by
  unfold applyUnder
  split
  · exact Memory.wf_applyView w die key bs
  · simp only
    rw [Memory.wf_congr (setLineKey_views ..) (setLineKey_outer ..)]
    exact Memory.wf_applyView w die _ _

theorem Memory.wf_applyEverywhere {s : State} (w : Memory.wf s = true) (key : Nat) (bs : List Byte) (u : LineKey) :
    Memory.wf (applyEverywhere s key bs u) = true :=
  Memory.wf_applyUnder (Memory.wf_applyUnder (Memory.wf_applyUnder (Memory.wf_applyUnder w 0 key bs u) 1 key bs u) 2 key bs u)
    3 key bs u

/-- A write to one die's view leaves the views of the others. -/
theorem viewOf_applyUnder_other (s : State) {d e : Nat} (key : Nat) (bs : List Byte) (u : LineKey) (he : e ≠ d) :
    viewOf (applyUnder s d key bs u) e = viewOf s e := by
  unfold applyUnder
  split
  · exact viewOf_setView_ne s _ he
  · exact viewOf_setView_ne s _ he

/-- A write applied in a view is read there: to memory that is no DRAM, or to a line already stored as the write is. -/
theorem mapBytes_applyUnder (s : State) (d key : Nat) (bs : List Byte) (u : LineKey)
    (h : isDram key = false ∨ lineKeyOf s d key = u) :
    mapBytes (viewOf (applyUnder s d key bs u) d) key bs.length = bs := by
  have e : (!isDram key || decide (lineKeyOf s d key = u)) = true := by
    rcases h with h | h <;> simp [h]
  rw [applyUnder, if_pos e]
  exact mapBytes_applyView s d key bs

theorem sendFlight_views (src key : Nat) (bs : List Byte) (p : PageProp) (u : LineKey) (q : Nat) (st : Stamp) (s : State)
    (d : Nat) : (sendFlight src key bs p u q st s d).views = s.views := by unfold sendFlight; split <;> rfl

theorem sendFlight_outer (src key : Nat) (bs : List Byte) (p : PageProp) (u : LineKey) (q : Nat) (st : Stamp) (s : State)
    (d : Nat) : (sendFlight src key bs p u q st s d).outer = s.outer := by unfold sendFlight; split <;> rfl

@[simp] theorem sendFlights_views (s : State) (src key : Nat) (bs : List Byte) (p : PageProp) (u : LineKey) (q : Nat)
    (st : Stamp) : (sendFlights s src key bs p u q st).views = s.views := by simp [sendFlights, sendFlight_views]

@[simp] theorem sendFlights_outer (s : State) (src key : Nat) (bs : List Byte) (p : PageProp) (u : LineKey) (q : Nat)
    (st : Stamp) : (sendFlights s src key bs p u q st).outer = s.outer := by simp [sendFlights, sendFlight_outer]

theorem Memory.wf_performUnder {s : State} (w : Memory.wf s = true) (die h key : Nat) (bs : List Byte) (p : PageProp)
    (all : Bool) (u : LineKey) : Memory.wf (performUnder s die h key bs p all u) = true := by
  unfold performUnder
  split
  · exact Memory.wf_putOuter w key bs
  · simp only
    split
    · exact Memory.wf_applyEverywhere w key bs u
    · cases p with
      | na =>
        simp only
        rw [Memory.wf_congr (s := applyUnder s die key bs u) (by simp) (by simp)]
        exact Memory.wf_applyUnder w die key bs u
      | repl =>
        simp only
        rw [Memory.wf_congr (s := applyUnder s die key bs u) (by simp) (by simp)]
        exact Memory.wf_applyUnder w die key bs u
      | mca => exact w

theorem Memory.wf_performWrite {s : State} (w : Memory.wf s = true) (die h key : Nat) (bs : List Byte) (p : PageProp)
    (all : Bool) : Memory.wf (performWrite s die h key bs p all) = true := Memory.wf_performUnder w die h key bs p all .plain

theorem Memory.wf_writeStored {s : State} (w : Memory.wf s = true) (die h : Nat) (t : Target) (bs : List Byte)
    (all : Bool) : Memory.wf (writeStored s die h t bs all) = true := by
  unfold writeStored
  split
  · exact w
  · exact Memory.wf_performUnder w _ _ _ _ _ _ _

theorem Memory.wf_storeBytes {s : State} (w : Memory.wf s = true) (h : Nat) (t : Target) (bs : List Byte) (all : Bool) :
    Memory.wf (storeBytes s h t bs all) = true := by
  have e := Memory.wf_writeStored w (dieOf (coreOf h)) h t bs all
  unfold storeBytes
  simp only
  split
  · exact e
  · exact e

theorem Memory.wf_engineWrite {s : State} (w : Memory.wf s = true) (core h : Nat) (t : Target) (bs : List Byte) :
    Memory.wf (engineWrite s core h t bs) = true := Memory.wf_writeStored w (dieOf core) h t bs false

theorem Memory.wf_loadBytes {s : State} (w : Memory.wf s = true) (h : Nat) (t : Target) (n : Nat) :
    Memory.wf (loadBytes s h t n).1 = true := by
  unfold loadBytes
  simp only
  split
  · split
    · exact w
    · split <;> exact w
  · exact w

theorem Memory.wf_fetchLine {s : State} (w : Memory.wf s = true) (core : Nat) (t : Target) :
    Memory.wf (fetchLine s core t).1 = true := by
  unfold fetchLine
  split
  · split <;> exact w
  · split <;> exact w

end Sys2Proof.Machine
end

