-- ==== Sys2Proof/Laws/Ops.lean ====
section
/-!
SUPPORT. What the shared operations can do: writing a register, completing, waiting, taking a trap, returning from one, and ordering.
-/

namespace Sys2Proof.Machine

/-! ### Registers -/

theorem readX_writeX (h : Hart) (d r : Reg) (v : Word) :
    readX (writeX h d v) r = if r = 0 then 0 else if r = d then v else readX h r := by
  by_cases hr : r = 0
  · subst hr; rfl
  · by_cases hd : d = 0
    · subst hd; rw [writeX_zero, if_neg hr, if_neg hr]
    · by_cases hrd : r = d
      · rw [hrd, readX_writeX_same h v hd, if_neg hd, if_pos rfl]
      · rw [readX_writeX_ne h v hrd, if_neg hr, if_neg hrd]

/-! ### Completing and waiting -/

/-- An instruction that writes x[d] and completes: the register, the PC, and that only its own hart changes. -/
theorem done4With_spec (s : State) (d : Reg) (v : Word) :
    ∃ t, done4With s d v = .next t ∧ me t = retireHart 4 (writeX (me s) d v) ∧
      (∀ k, k ≠ s.cur → getHart t k = getHart s k) ∧ t = { s with harts := t.harts } :=
  ⟨_, rfl, me_modMe _ _, fun _ hk => getHart_modMe_ne _ _ hk, rfl⟩

theorem done4_spec (s : State) :
    ∃ t, done4 s = .next t ∧ me t = retireHart 4 (me s) ∧ (∀ k, k ≠ s.cur → getHart t k = getHart s k) ∧
      t = { s with harts := t.harts } :=
  ⟨_, rfl, me_retire _ _, fun _ hk => getHart_modMe_ne _ _ hk, rfl⟩

/-- An instruction that waits: nothing but the wait of its own hart changes. -/
theorem waitFor_spec (s : State) (w : Wait) :
    ∃ t, waitFor s w = .next t ∧ me t = { me s with wait := some w } ∧ (∀ k, k ≠ s.cur → getHart t k = getHart s k) ∧
      t = { s with harts := t.harts } :=
  ⟨_, rfl, me_modMe _ _, fun _ hk => getHart_modMe_ne _ _ hk, rfl⟩

/-! ### Exceptions (R231, R50) -/

/-- A trap of a hart context: its hart enters S mode, and nothing else changes. -/
theorem takeTrap_hart (s : State) {h : Nat} (t : Trap) (hh : isHandler h = false) :
    getHart (takeTrap s h t) h = enterS (getHart s h) (trapPc (getHart s h)) t.cause t.eval t.detail .trap ∧
      (∀ k, k ≠ h → getHart (takeTrap s h t) k = getHart s k) ∧ takeTrap s h t = { s with harts := (takeTrap s h t).harts } := by
  have e : takeTrap s h t = modHart s h fun v => enterS v (trapPc v) t.cause t.eval t.detail .trap := by
    unfold takeTrap; rw [hh]; rfl
  rw [e]
  exact ⟨getHart_modHart_same _ _ _, fun _ hk => getHart_modHart_ne _ _ hk, rfl⟩

/-- A trap in the handler context ends the handler with status FAILED (R50). -/
theorem takeTrap_handler (s : State) {h : Nat} (t : Trap) (hh : isHandler h = true) : takeTrap s h t = endHandler s (coreOf h) 3 := by
  unfold takeTrap; rw [hh]; rfl

theorem trapR_spec (s : State) (t : Trap) : trapR s t = .next (takeTrap s s.cur t) := rfl

@[simp] theorem enterS_pc (h : Hart) (e : Word) (c : BitVec 8) (v : Word) (d : BitVec 16) (k : SupTask) :
    (enterS h e c v d k).pc = evenPc h.sr.evec := rfl
@[simp] theorem enterS_mode (h : Hart) (e : Word) (c : BitVec 8) (v : Word) (d : BitVec 16) (k : SupTask) :
    (enterS h e c v d k).mode = .S := rfl
@[simp] theorem enterS_x (h : Hart) (e : Word) (c : BitVec 8) (v : Word) (d : BitVec 16) (k : SupTask) :
    (enterS h e c v d k).x = h.x := rfl
@[simp] theorem enterS_epc (h : Hart) (e : Word) (c : BitVec 8) (v : Word) (d : BitVec 16) (k : SupTask) :
    (enterS h e c v d k).sr.epc = e := rfl
@[simp] theorem enterS_ecause (h : Hart) (e : Word) (c : BitVec 8) (v : Word) (d : BitVec 16) (k : SupTask) :
    (enterS h e c v d k).sr.ecause = c := rfl
@[simp] theorem enterS_eval (h : Hart) (e : Word) (c : BitVec 8) (v : Word) (d : BitVec 16) (k : SupTask) :
    (enterS h e c v d k).sr.eval = v := rfl

/-! ### Clusters and handlers -/

/-- Noting that a cluster is empty changes when it became so, and posts its idle entry (R292). -/
theorem noteEmpty_cases (s : State) (c : Nat) :
    (clusterEmpty s c = true ∧
      noteEmpty s c = post (modCluster s c fun v => { v with emptySince := s.time }) (.clusterIdleEntry c)) ∨
      (clusterEmpty s c = false ∧ noteEmpty s c = s) := by
  unfold noteEmpty
  cases clusterEmpty s c
  · exact .inr ⟨rfl, rfl⟩
  · exact .inl ⟨rfl, rfl⟩

/-- No hart, core or view is touched by it. -/
theorem noteEmpty_frame (s : State) (c : Nat) :
    noteEmpty s c = { s with clusters := (noteEmpty s c).clusters, agenda := (noteEmpty s c).agenda } := by
  rcases noteEmpty_cases s c with ⟨-, h⟩ | ⟨-, h⟩
  · rw [h]; rfl
  · rw [h]

/-- A handler context that has been freed is as after reset, and no other hart has changed. -/
theorem freeHandler_harts (s : State) (g : Nat) : (freeHandler s g).harts = (setHart s (hartKey g 8) .reset).harts := by
  unfold freeHandler
  rw [noteEmpty_frame]

/-! ### Orders -/

/-- A release either lets its instruction go on or makes it wait. -/
theorem afterRelease_cases (s : State) (sc : Scope) (k : Result) :
    (releaseReady s s.cur sc = true ∧ afterRelease s sc k = k) ∨
      (releaseReady s s.cur sc = false ∧ afterRelease s sc k = waitFor s (.order sc)) := by
  unfold afterRelease
  cases h : releaseReady s s.cur sc
  · exact .inr ⟨rfl, rfl⟩
  · exact .inl ⟨rfl, rfl⟩

/-- An instruction outside a unit that releases is not held up. -/
theorem orderedBefore_of_unit_none (s : State) (k : Result) (h : (me s).unit = none) : orderedBefore s k = k := by
  simp [orderedBefore, orderNow, h, orderReleases]

theorem orderedAfter_of_unit_none (s : State) (h : (me s).unit = none) : orderedAfter s = s := by
  simp [orderedAfter, orderNow, h, orderAcquires]

/-- An acquire changes nothing but the L1 of its core. -/
theorem acquireAt_frame (s : State) (g : Nat) (sc : Scope) : acquireAt s g sc = { s with cores := (acquireAt s g sc).cores } := by
  unfold acquireAt
  split <;> rfl

theorem Stamp.le_refl (a : Stamp) : a.le a = true := by simp [Stamp.le]

theorem Stamp.le_join_left (a b : Stamp) : a.le (a.join b) = true := by simp [Stamp.le, Stamp.join]

theorem Stamp.le_join_right (a b : Stamp) : b.le (a.join b) = true := by simp [Stamp.le, Stamp.join]

end Sys2Proof.Machine
end

