-- ==== Sys2Proof/Laws/Access.lean ====
section
/-!
SUPPORT. What the checks of an access can do: they fill lookaside buffers and translation structures of a core, and nothing else.
-/

namespace Sys2Proof.Machine

/-- Only cores differ. -/
def OnlyCores (s t : State) : Prop := t = { s with cores := t.cores }

theorem OnlyCores.refl (s : State) : OnlyCores s s := rfl

theorem OnlyCores.trans {s t u : State} (a : OnlyCores s t) (b : OnlyCores t u) : OnlyCores s u := by
  unfold OnlyCores at *
  rw [b, a]

theorem onlyCores_modCore (s : State) (g : Nat) (f : Core → Core) : OnlyCores s (modCore s g f) := rfl

theorem OnlyCores.harts {s t : State} (h : OnlyCores s t) : t.harts = s.harts := by rw [h]
theorem OnlyCores.views {s t : State} (h : OnlyCores s t) : t.views = s.views := by rw [h]
theorem OnlyCores.outer {s t : State} (h : OnlyCores s t) : t.outer = s.outer := by rw [h]
theorem OnlyCores.cur {s t : State} (h : OnlyCores s t) : t.cur = s.cur := by rw [h]
theorem OnlyCores.me {s t : State} (h : OnlyCores s t) : Machine.me t = Machine.me s := by
  unfold Machine.me getHart; rw [h.harts, h.cur]
theorem OnlyCores.memoryWf {s t : State} (h : OnlyCores s t) : Memory.wf t = Memory.wf s := Memory.wf_congr h.views h.outer

theorem plbRange_frame (s : State) (g : Nat) (own : BitVec 16) (va : Nat) : OnlyCores s (plbRange s g own va).1 := by
  unfold plbRange
  simp only
  split
  · exact .refl s
  · split
    · rfl
    · exact .refl s

theorem plbRight_frame (s : State) (g : Nat) (own : BitVec 16) (va : Nat) (tag need : BitVec 8) :
    OnlyCores s (plbRight s g own va tag need).1 := by
  unfold plbRight
  simp only
  split
  · exact .refl s
  · split
    · rfl
    · exact .refl s

/-- Checks 6 to 8 change no more than cores. -/
theorem checkRights_frame {s u : State} {h : Nat} {p : Word} {w : Want} {t x : Target} {k : BitVec 12}
    (e : checkRights s h p w t k = .ok u x) : OnlyCores s u := by
  unfold checkRights at e
  simp only at e
  have hr := plbRange_frame s (coreOf h) (getHart s h).sr.own t.va
  split at e
  · simp [denied] at e
  · next s1 rg hs =>
    rw [hs] at hr
    split at e
    · simp at e
    · have hq := plbRight_frame s1 (coreOf h) (getHart s h).sr.own t.va rg.tag w.need
      split at e
      · simp [denied] at e
      · next s2 hs2 =>
        rw [hs2] at hq
        have hu : OnlyCores s s2 := hr.trans hq
        repeat' split at e
        all_goals first
          | (simp [denied] at e; done)
          | (simp only [Check.ok.injEq] at e; rw [← e.1]; exact hu)

theorem fillTlb_frame (s : State) (g : Nat) (l : Leaf) : OnlyCores s (fillTlb s g l) := rfl

theorem findLeaf_frame {s u : State} {h va : Nat} {l : Leaf} (e : findLeaf s h va = .leaf u l) : OnlyCores s u := by
  unfold findLeaf at e
  simp only at e
  repeat' split at e
  all_goals first
    | (cases e; done)
    | (cases e; exact fillTlb_frame _ _ _)

/-- A check that lets an access go on has changed no more than cores (R218 to R220). -/
theorem checkAccess_frame {s u : State} {h : Nat} {p : Word} {w : Want} {t : Target} (e : checkAccess s h p w = .ok u t) :
    OnlyCores s u := by
  unfold checkAccess at e
  simp only at e
  split at e
  · cases e
  split at e
  · simp [denied] at e
  · repeat' split at e
    all_goals first
      | (simp [denied] at e; done)
      | (cases e; rfl)
  · repeat' split at e
    all_goals first
      | (simp [denied] at e; done)
      | (cases e; rfl)
  · repeat' split at e
    all_goals simp [denied] at e
  · cases e
  · exact checkRights_frame e
  · split at e
    · cases e
    · cases e
    · next s1 l hl =>
      have hf := findLeaf_frame hl
      split at e
      · cases e
      split at e
      · cases e
      split at e
      · cases e
      · exact hf.trans (checkRights_frame e)

/-- A walk started: it is on its die's list, its completion on the agenda (R214). -/
theorem startWalk_frame (s : State) (kind : WalkKind) (va : Nat) :
    startWalk s kind va = { s with dies := (startWalk s kind va).dies, agenda := s.agenda ++ [.pageWalkComplete s.cur] } := rfl

@[simp] theorem startWalk_me (s : State) (kind : WalkKind) (va : Nat) : me (startWalk s kind va) = me s := rfl

/-- A wait for a walk: the hart waits, and its die's walkers and the agenda hold the walk (R214). -/
theorem waitWalk_spec (s : State) (kind : WalkKind) (va : Nat) :
    ∃ t, waitWalk s kind va = .next t ∧ me t = { me s with wait := some (.walk va) } ∧
      t = { s with harts := t.harts, dies := t.dies, agenda := t.agenda } :=
  ⟨_, rfl, by rw [me_modMe, startWalk_me], rfl⟩

/-- An access goes on with its target, traps, or waits for a walk. -/
theorem withAccess_cases (s : State) (p : Word) (w : Want) (k : State → Target → Result) :
    (∃ u t, OnlyCores s u ∧ checkAccess s s.cur p w = .ok u t ∧ withAccess s p w k = k u t) ∨
      (∃ t, withAccess s p w k = trapR s t) ∨
      ∃ va, withAccess s p w k = waitWalk s w.kind va := by
  unfold withAccess
  cases e : checkAccess s s.cur p w with
  | ok u t => exact .inl ⟨u, t, checkAccess_frame e, rfl, rfl⟩
  | trap t => exact .inr (.inl ⟨t, rfl⟩)
  | walk va => exact .inr (.inr ⟨va, rfl⟩)

end Sys2Proof.Machine
end

