-- ==== Sys2Proof/Laws/Fields.lean ====
section
/-!
SUPPORT. The fields of a word written in one of the formats of R313 to R317 read back, bit for bit.
-/

namespace Sys2Proof

theorem extract_append_low {m n : Nat} (x : BitVec m) (y : BitVec n) (lo k : Nat) (h : lo + k ≤ n) :
    (x ++ y).extractLsb' lo k = y.extractLsb' lo k := by
  apply BitVec.eq_of_getLsbD_eq
  intro i hi
  simp only [BitVec.getLsbD_extractLsb', BitVec.getLsbD_append, hi, decide_true, Bool.true_and]
  rw [if_pos (by omega)]

theorem extract_append_high {m n : Nat} (x : BitVec m) (y : BitVec n) (lo k : Nat) (h : n ≤ lo) :
    (x ++ y).extractLsb' lo k = x.extractLsb' (lo - n) k := by
  apply BitVec.eq_of_getLsbD_eq
  intro i hi
  simp only [BitVec.getLsbD_extractLsb', BitVec.getLsbD_append, hi, decide_true, Bool.true_and]
  rw [if_neg (by omega)]
  congr 1
  omega

theorem extract_whole {n : Nat} (x : BitVec n) : x.extractLsb' 0 n = x := by
  apply BitVec.eq_of_getLsbD_eq
  intro i hi
  simp [hi]

theorem getLsbD_append_low {m n : Nat} (x : BitVec m) (y : BitVec n) (i : Nat) (h : i < n) :
    (x ++ y).getLsbD i = y.getLsbD i := by rw [BitVec.getLsbD_append, if_pos h]

theorem getLsbD_append_high {m n : Nat} (x : BitVec m) (y : BitVec n) (i : Nat) (h : n ≤ i) :
    (x ++ y).getLsbD i = x.getLsbD (i - n) := by rw [BitVec.getLsbD_append, if_neg (by omega)]

theorem getLsbD_ofBool_zero (b : Bool) : (BitVec.ofBool b).getLsbD 0 = b := by cases b <;> rfl

/-! ### `rWord` -/

@[simp] theorem rWord_major (m : BitVec 7) (fn : BitVec 9) (b a d : BitVec 5) :
    (rWord m fn b a d).extractLsb' 1 7 = m := by
  unfold rWord
  exact (extract_append_high (fn ++ b ++ a ++ d ++ m) 1#1 1 7 (by decide)).trans (
      (extract_append_low (fn ++ b ++ a ++ d) m 0 7 (by decide)).trans (
      extract_whole m))
@[simp] theorem rWord_d (m : BitVec 7) (fn : BitVec 9) (b a d : BitVec 5) :
    fD (rWord m fn b a d) = d := by
  unfold rWord fD
  exact (extract_append_high (fn ++ b ++ a ++ d ++ m) 1#1 8 5 (by decide)).trans (
      (extract_append_high (fn ++ b ++ a ++ d) m 7 5 (by decide)).trans (
      (extract_append_low (fn ++ b ++ a) d 0 5 (by decide)).trans (
      extract_whole d)))
@[simp] theorem rWord_a (m : BitVec 7) (fn : BitVec 9) (b a d : BitVec 5) :
    fA (rWord m fn b a d) = a := by
  unfold rWord fA
  exact (extract_append_high (fn ++ b ++ a ++ d ++ m) 1#1 13 5 (by decide)).trans (
      (extract_append_high (fn ++ b ++ a ++ d) m 12 5 (by decide)).trans (
      (extract_append_high (fn ++ b ++ a) d 5 5 (by decide)).trans (
      (extract_append_low (fn ++ b) a 0 5 (by decide)).trans (
      extract_whole a))))
@[simp] theorem rWord_b (m : BitVec 7) (fn : BitVec 9) (b a d : BitVec 5) :
    fB (rWord m fn b a d) = b := by
  unfold rWord fB
  exact (extract_append_high (fn ++ b ++ a ++ d ++ m) 1#1 18 5 (by decide)).trans (
      (extract_append_high (fn ++ b ++ a ++ d) m 17 5 (by decide)).trans (
      (extract_append_high (fn ++ b ++ a) d 10 5 (by decide)).trans (
      (extract_append_high (fn ++ b) a 5 5 (by decide)).trans (
      (extract_append_low fn b 0 5 (by decide)).trans (
      extract_whole b)))))
@[simp] theorem rWord_fn (m : BitVec 7) (fn : BitVec 9) (b a d : BitVec 5) :
    fFn (rWord m fn b a d) = fn := by
  unfold rWord fFn
  exact (extract_append_high (fn ++ b ++ a ++ d ++ m) 1#1 23 9 (by decide)).trans (
      (extract_append_high (fn ++ b ++ a ++ d) m 22 9 (by decide)).trans (
      (extract_append_high (fn ++ b ++ a) d 15 9 (by decide)).trans (
      (extract_append_high (fn ++ b) a 10 9 (by decide)).trans (
      (extract_append_high fn b 5 9 (by decide)).trans (
      extract_whole fn)))))

/-! ### `iWord` -/

@[simp] theorem iWord_major (m : BitVec 7) (imm : BitVec 14) (a d : BitVec 5) :
    (iWord m imm a d).extractLsb' 1 7 = m := by
  unfold iWord
  exact (extract_append_high (imm ++ a ++ d ++ m) 1#1 1 7 (by decide)).trans (
      (extract_append_low (imm ++ a ++ d) m 0 7 (by decide)).trans (
      extract_whole m))
@[simp] theorem iWord_d (m : BitVec 7) (imm : BitVec 14) (a d : BitVec 5) :
    fD (iWord m imm a d) = d := by
  unfold iWord fD
  exact (extract_append_high (imm ++ a ++ d ++ m) 1#1 8 5 (by decide)).trans (
      (extract_append_high (imm ++ a ++ d) m 7 5 (by decide)).trans (
      (extract_append_low (imm ++ a) d 0 5 (by decide)).trans (
      extract_whole d)))
@[simp] theorem iWord_a (m : BitVec 7) (imm : BitVec 14) (a d : BitVec 5) :
    fA (iWord m imm a d) = a := by
  unfold iWord fA
  exact (extract_append_high (imm ++ a ++ d ++ m) 1#1 13 5 (by decide)).trans (
      (extract_append_high (imm ++ a ++ d) m 12 5 (by decide)).trans (
      (extract_append_high (imm ++ a) d 5 5 (by decide)).trans (
      (extract_append_low imm a 0 5 (by decide)).trans (
      extract_whole a))))
@[simp] theorem iWord_imm (m : BitVec 7) (imm : BitVec 14) (a d : BitVec 5) :
    fImm (iWord m imm a d) = imm := by
  unfold iWord fImm
  exact (extract_append_high (imm ++ a ++ d ++ m) 1#1 18 14 (by decide)).trans (
      (extract_append_high (imm ++ a ++ d) m 17 14 (by decide)).trans (
      (extract_append_high (imm ++ a) d 10 14 (by decide)).trans (
      (extract_append_high imm a 5 14 (by decide)).trans (
      extract_whole imm))))

/-! ### `uWord` -/

@[simp] theorem uWord_major (m : BitVec 7) (imm : BitVec 19) (d : BitVec 5) :
    (uWord m imm d).extractLsb' 1 7 = m := by
  unfold uWord
  exact (extract_append_high (imm ++ d ++ m) 1#1 1 7 (by decide)).trans (
      (extract_append_low (imm ++ d) m 0 7 (by decide)).trans (
      extract_whole m))
@[simp] theorem uWord_d (m : BitVec 7) (imm : BitVec 19) (d : BitVec 5) :
    fD (uWord m imm d) = d := by
  unfold uWord fD
  exact (extract_append_high (imm ++ d ++ m) 1#1 8 5 (by decide)).trans (
      (extract_append_high (imm ++ d) m 7 5 (by decide)).trans (
      (extract_append_low imm d 0 5 (by decide)).trans (
      extract_whole d)))
@[simp] theorem uWord_imm (m : BitVec 7) (imm : BitVec 19) (d : BitVec 5) :
    (uWord m imm d).extractLsb' 13 19 = imm := by
  unfold uWord
  exact (extract_append_high (imm ++ d ++ m) 1#1 13 19 (by decide)).trans (
      (extract_append_high (imm ++ d) m 12 19 (by decide)).trans (
      (extract_append_high imm d 5 19 (by decide)).trans (
      extract_whole imm)))

/-! ### `mWord` -/

@[simp] theorem mWord_major (m : BitVec 7) (off : BitVec 11) (sz : BitVec 3) (a d : BitVec 5) :
    (mWord m off sz a d).extractLsb' 1 7 = m := by
  unfold mWord
  exact (extract_append_high (off ++ sz ++ a ++ d ++ m) 1#1 1 7 (by decide)).trans (
      (extract_append_low (off ++ sz ++ a ++ d) m 0 7 (by decide)).trans (
      extract_whole m))
@[simp] theorem mWord_d (m : BitVec 7) (off : BitVec 11) (sz : BitVec 3) (a d : BitVec 5) :
    fD (mWord m off sz a d) = d := by
  unfold mWord fD
  exact (extract_append_high (off ++ sz ++ a ++ d ++ m) 1#1 8 5 (by decide)).trans (
      (extract_append_high (off ++ sz ++ a ++ d) m 7 5 (by decide)).trans (
      (extract_append_low (off ++ sz ++ a) d 0 5 (by decide)).trans (
      extract_whole d)))
@[simp] theorem mWord_a (m : BitVec 7) (off : BitVec 11) (sz : BitVec 3) (a d : BitVec 5) :
    fA (mWord m off sz a d) = a := by
  unfold mWord fA
  exact (extract_append_high (off ++ sz ++ a ++ d ++ m) 1#1 13 5 (by decide)).trans (
      (extract_append_high (off ++ sz ++ a ++ d) m 12 5 (by decide)).trans (
      (extract_append_high (off ++ sz ++ a) d 5 5 (by decide)).trans (
      (extract_append_low (off ++ sz) a 0 5 (by decide)).trans (
      extract_whole a))))
@[simp] theorem mWord_size (m : BitVec 7) (off : BitVec 11) (sz : BitVec 3) (a d : BitVec 5) :
    fS (mWord m off sz a d) = sz := by
  unfold mWord fS
  exact (extract_append_high (off ++ sz ++ a ++ d ++ m) 1#1 18 3 (by decide)).trans (
      (extract_append_high (off ++ sz ++ a ++ d) m 17 3 (by decide)).trans (
      (extract_append_high (off ++ sz ++ a) d 10 3 (by decide)).trans (
      (extract_append_high (off ++ sz) a 5 3 (by decide)).trans (
      (extract_append_low off sz 0 3 (by decide)).trans (
      extract_whole sz)))))
@[simp] theorem mWord_off (m : BitVec 7) (off : BitVec 11) (sz : BitVec 3) (a d : BitVec 5) :
    fOff (mWord m off sz a d) = off := by
  unfold mWord fOff
  exact (extract_append_high (off ++ sz ++ a ++ d ++ m) 1#1 21 11 (by decide)).trans (
      (extract_append_high (off ++ sz ++ a ++ d) m 20 11 (by decide)).trans (
      (extract_append_high (off ++ sz ++ a) d 13 11 (by decide)).trans (
      (extract_append_high (off ++ sz) a 8 11 (by decide)).trans (
      (extract_append_high off sz 3 11 (by decide)).trans (
      extract_whole off)))))

/-! ### `vWord` -/

@[simp] theorem vWord_major (m : BitVec 7) (f : VFmt) :
    (vWord m f).extractLsb' 1 7 = m := by
  unfold vWord
  exact (extract_append_high (BitVec.ofBool f.lub ++ BitVec.ofBool f.lua ++ BitVec.ofBool f.z ++ f.mask ++ f.vb ++ f.va ++ f.vd ++ f.et ++ m) 1#1 1 7 (by decide)).trans (
      (extract_append_low (BitVec.ofBool f.lub ++ BitVec.ofBool f.lua ++ BitVec.ofBool f.z ++ f.mask ++ f.vb ++ f.va ++ f.vd ++ f.et) m 0 7 (by decide)).trans (
      extract_whole m))
@[simp] theorem vWord_et (m : BitVec 7) (f : VFmt) :
    (vWord m f).extractLsb' 8 3 = f.et := by
  unfold vWord
  exact (extract_append_high (BitVec.ofBool f.lub ++ BitVec.ofBool f.lua ++ BitVec.ofBool f.z ++ f.mask ++ f.vb ++ f.va ++ f.vd ++ f.et ++ m) 1#1 8 3 (by decide)).trans (
      (extract_append_high (BitVec.ofBool f.lub ++ BitVec.ofBool f.lua ++ BitVec.ofBool f.z ++ f.mask ++ f.vb ++ f.va ++ f.vd ++ f.et) m 7 3 (by decide)).trans (
      (extract_append_low (BitVec.ofBool f.lub ++ BitVec.ofBool f.lua ++ BitVec.ofBool f.z ++ f.mask ++ f.vb ++ f.va ++ f.vd) f.et 0 3 (by decide)).trans (
      extract_whole f.et)))
@[simp] theorem vWord_vd (m : BitVec 7) (f : VFmt) :
    (vWord m f).extractLsb' 11 5 = f.vd := by
  unfold vWord
  exact (extract_append_high (BitVec.ofBool f.lub ++ BitVec.ofBool f.lua ++ BitVec.ofBool f.z ++ f.mask ++ f.vb ++ f.va ++ f.vd ++ f.et ++ m) 1#1 11 5 (by decide)).trans (
      (extract_append_high (BitVec.ofBool f.lub ++ BitVec.ofBool f.lua ++ BitVec.ofBool f.z ++ f.mask ++ f.vb ++ f.va ++ f.vd ++ f.et) m 10 5 (by decide)).trans (
      (extract_append_high (BitVec.ofBool f.lub ++ BitVec.ofBool f.lua ++ BitVec.ofBool f.z ++ f.mask ++ f.vb ++ f.va ++ f.vd) f.et 3 5 (by decide)).trans (
      (extract_append_low (BitVec.ofBool f.lub ++ BitVec.ofBool f.lua ++ BitVec.ofBool f.z ++ f.mask ++ f.vb ++ f.va) f.vd 0 5 (by decide)).trans (
      extract_whole f.vd))))
@[simp] theorem vWord_va (m : BitVec 7) (f : VFmt) :
    (vWord m f).extractLsb' 16 5 = f.va := by
  unfold vWord
  exact (extract_append_high (BitVec.ofBool f.lub ++ BitVec.ofBool f.lua ++ BitVec.ofBool f.z ++ f.mask ++ f.vb ++ f.va ++ f.vd ++ f.et ++ m) 1#1 16 5 (by decide)).trans (
      (extract_append_high (BitVec.ofBool f.lub ++ BitVec.ofBool f.lua ++ BitVec.ofBool f.z ++ f.mask ++ f.vb ++ f.va ++ f.vd ++ f.et) m 15 5 (by decide)).trans (
      (extract_append_high (BitVec.ofBool f.lub ++ BitVec.ofBool f.lua ++ BitVec.ofBool f.z ++ f.mask ++ f.vb ++ f.va ++ f.vd) f.et 8 5 (by decide)).trans (
      (extract_append_high (BitVec.ofBool f.lub ++ BitVec.ofBool f.lua ++ BitVec.ofBool f.z ++ f.mask ++ f.vb ++ f.va) f.vd 5 5 (by decide)).trans (
      (extract_append_low (BitVec.ofBool f.lub ++ BitVec.ofBool f.lua ++ BitVec.ofBool f.z ++ f.mask ++ f.vb) f.va 0 5 (by decide)).trans (
      extract_whole f.va)))))
@[simp] theorem vWord_vb (m : BitVec 7) (f : VFmt) :
    (vWord m f).extractLsb' 21 5 = f.vb := by
  unfold vWord
  exact (extract_append_high (BitVec.ofBool f.lub ++ BitVec.ofBool f.lua ++ BitVec.ofBool f.z ++ f.mask ++ f.vb ++ f.va ++ f.vd ++ f.et ++ m) 1#1 21 5 (by decide)).trans (
      (extract_append_high (BitVec.ofBool f.lub ++ BitVec.ofBool f.lua ++ BitVec.ofBool f.z ++ f.mask ++ f.vb ++ f.va ++ f.vd ++ f.et) m 20 5 (by decide)).trans (
      (extract_append_high (BitVec.ofBool f.lub ++ BitVec.ofBool f.lua ++ BitVec.ofBool f.z ++ f.mask ++ f.vb ++ f.va ++ f.vd) f.et 13 5 (by decide)).trans (
      (extract_append_high (BitVec.ofBool f.lub ++ BitVec.ofBool f.lua ++ BitVec.ofBool f.z ++ f.mask ++ f.vb ++ f.va) f.vd 10 5 (by decide)).trans (
      (extract_append_high (BitVec.ofBool f.lub ++ BitVec.ofBool f.lua ++ BitVec.ofBool f.z ++ f.mask ++ f.vb) f.va 5 5 (by decide)).trans (
      (extract_append_low (BitVec.ofBool f.lub ++ BitVec.ofBool f.lua ++ BitVec.ofBool f.z ++ f.mask) f.vb 0 5 (by decide)).trans (
      extract_whole f.vb))))))
@[simp] theorem vWord_mask (m : BitVec 7) (f : VFmt) :
    (vWord m f).extractLsb' 26 3 = f.mask := by
  unfold vWord
  exact (extract_append_high (BitVec.ofBool f.lub ++ BitVec.ofBool f.lua ++ BitVec.ofBool f.z ++ f.mask ++ f.vb ++ f.va ++ f.vd ++ f.et ++ m) 1#1 26 3 (by decide)).trans (
      (extract_append_high (BitVec.ofBool f.lub ++ BitVec.ofBool f.lua ++ BitVec.ofBool f.z ++ f.mask ++ f.vb ++ f.va ++ f.vd ++ f.et) m 25 3 (by decide)).trans (
      (extract_append_high (BitVec.ofBool f.lub ++ BitVec.ofBool f.lua ++ BitVec.ofBool f.z ++ f.mask ++ f.vb ++ f.va ++ f.vd) f.et 18 3 (by decide)).trans (
      (extract_append_high (BitVec.ofBool f.lub ++ BitVec.ofBool f.lua ++ BitVec.ofBool f.z ++ f.mask ++ f.vb ++ f.va) f.vd 15 3 (by decide)).trans (
      (extract_append_high (BitVec.ofBool f.lub ++ BitVec.ofBool f.lua ++ BitVec.ofBool f.z ++ f.mask ++ f.vb) f.va 10 3 (by decide)).trans (
      (extract_append_high (BitVec.ofBool f.lub ++ BitVec.ofBool f.lua ++ BitVec.ofBool f.z ++ f.mask) f.vb 5 3 (by decide)).trans (
      (extract_append_low (BitVec.ofBool f.lub ++ BitVec.ofBool f.lua ++ BitVec.ofBool f.z) f.mask 0 3 (by decide)).trans (
      extract_whole f.mask)))))))
@[simp] theorem vWord_z (m : BitVec 7) (f : VFmt) :
    (vWord m f).getLsbD 29 = f.z := by
  unfold vWord
  exact (getLsbD_append_high (BitVec.ofBool f.lub ++ BitVec.ofBool f.lua ++ BitVec.ofBool f.z ++ f.mask ++ f.vb ++ f.va ++ f.vd ++ f.et ++ m) 1#1 29 (by decide)).trans (
      (getLsbD_append_high (BitVec.ofBool f.lub ++ BitVec.ofBool f.lua ++ BitVec.ofBool f.z ++ f.mask ++ f.vb ++ f.va ++ f.vd ++ f.et) m 28 (by decide)).trans (
      (getLsbD_append_high (BitVec.ofBool f.lub ++ BitVec.ofBool f.lua ++ BitVec.ofBool f.z ++ f.mask ++ f.vb ++ f.va ++ f.vd) f.et 21 (by decide)).trans (
      (getLsbD_append_high (BitVec.ofBool f.lub ++ BitVec.ofBool f.lua ++ BitVec.ofBool f.z ++ f.mask ++ f.vb ++ f.va) f.vd 18 (by decide)).trans (
      (getLsbD_append_high (BitVec.ofBool f.lub ++ BitVec.ofBool f.lua ++ BitVec.ofBool f.z ++ f.mask ++ f.vb) f.va 13 (by decide)).trans (
      (getLsbD_append_high (BitVec.ofBool f.lub ++ BitVec.ofBool f.lua ++ BitVec.ofBool f.z ++ f.mask) f.vb 8 (by decide)).trans (
      (getLsbD_append_high (BitVec.ofBool f.lub ++ BitVec.ofBool f.lua ++ BitVec.ofBool f.z) f.mask 3 (by decide)).trans (
      (getLsbD_append_low (BitVec.ofBool f.lub ++ BitVec.ofBool f.lua) (BitVec.ofBool f.z) 0 (by decide)).trans (
      getLsbD_ofBool_zero f.z))))))))
@[simp] theorem vWord_lua (m : BitVec 7) (f : VFmt) :
    (vWord m f).getLsbD 30 = f.lua := by
  unfold vWord
  exact (getLsbD_append_high (BitVec.ofBool f.lub ++ BitVec.ofBool f.lua ++ BitVec.ofBool f.z ++ f.mask ++ f.vb ++ f.va ++ f.vd ++ f.et ++ m) 1#1 30 (by decide)).trans (
      (getLsbD_append_high (BitVec.ofBool f.lub ++ BitVec.ofBool f.lua ++ BitVec.ofBool f.z ++ f.mask ++ f.vb ++ f.va ++ f.vd ++ f.et) m 29 (by decide)).trans (
      (getLsbD_append_high (BitVec.ofBool f.lub ++ BitVec.ofBool f.lua ++ BitVec.ofBool f.z ++ f.mask ++ f.vb ++ f.va ++ f.vd) f.et 22 (by decide)).trans (
      (getLsbD_append_high (BitVec.ofBool f.lub ++ BitVec.ofBool f.lua ++ BitVec.ofBool f.z ++ f.mask ++ f.vb ++ f.va) f.vd 19 (by decide)).trans (
      (getLsbD_append_high (BitVec.ofBool f.lub ++ BitVec.ofBool f.lua ++ BitVec.ofBool f.z ++ f.mask ++ f.vb) f.va 14 (by decide)).trans (
      (getLsbD_append_high (BitVec.ofBool f.lub ++ BitVec.ofBool f.lua ++ BitVec.ofBool f.z ++ f.mask) f.vb 9 (by decide)).trans (
      (getLsbD_append_high (BitVec.ofBool f.lub ++ BitVec.ofBool f.lua ++ BitVec.ofBool f.z) f.mask 4 (by decide)).trans (
      (getLsbD_append_high (BitVec.ofBool f.lub ++ BitVec.ofBool f.lua) (BitVec.ofBool f.z) 1 (by decide)).trans (
      (getLsbD_append_low (BitVec.ofBool f.lub) (BitVec.ofBool f.lua) 0 (by decide)).trans (
      getLsbD_ofBool_zero f.lua)))))))))
@[simp] theorem vWord_lub (m : BitVec 7) (f : VFmt) :
    (vWord m f).getLsbD 31 = f.lub := by
  unfold vWord
  exact (getLsbD_append_high (BitVec.ofBool f.lub ++ BitVec.ofBool f.lua ++ BitVec.ofBool f.z ++ f.mask ++ f.vb ++ f.va ++ f.vd ++ f.et ++ m) 1#1 31 (by decide)).trans (
      (getLsbD_append_high (BitVec.ofBool f.lub ++ BitVec.ofBool f.lua ++ BitVec.ofBool f.z ++ f.mask ++ f.vb ++ f.va ++ f.vd ++ f.et) m 30 (by decide)).trans (
      (getLsbD_append_high (BitVec.ofBool f.lub ++ BitVec.ofBool f.lua ++ BitVec.ofBool f.z ++ f.mask ++ f.vb ++ f.va ++ f.vd) f.et 23 (by decide)).trans (
      (getLsbD_append_high (BitVec.ofBool f.lub ++ BitVec.ofBool f.lua ++ BitVec.ofBool f.z ++ f.mask ++ f.vb ++ f.va) f.vd 20 (by decide)).trans (
      (getLsbD_append_high (BitVec.ofBool f.lub ++ BitVec.ofBool f.lua ++ BitVec.ofBool f.z ++ f.mask ++ f.vb) f.va 15 (by decide)).trans (
      (getLsbD_append_high (BitVec.ofBool f.lub ++ BitVec.ofBool f.lua ++ BitVec.ofBool f.z ++ f.mask) f.vb 10 (by decide)).trans (
      (getLsbD_append_high (BitVec.ofBool f.lub ++ BitVec.ofBool f.lua ++ BitVec.ofBool f.z) f.mask 5 (by decide)).trans (
      (getLsbD_append_high (BitVec.ofBool f.lub ++ BitVec.ofBool f.lua) (BitVec.ofBool f.z) 2 (by decide)).trans (
      (getLsbD_append_high (BitVec.ofBool f.lub) (BitVec.ofBool f.lua) 1 (by decide)).trans (
      getLsbD_ofBool_zero f.lub)))))))))

/-! ### `vmWord` -/

@[simp] theorem vmWord_major (m : BitVec 7) (f : VmFmt) :
    (vmWord m f).extractLsb' 1 7 = m := by
  unfold vmWord
  exact (extract_append_high (0#1 ++ BitVec.ofBool f.lu ++ BitVec.ofBool f.z ++ f.mask ++ f.idx ++ f.base ++ f.vd ++ f.et ++ m) 1#1 1 7 (by decide)).trans (
      (extract_append_low (0#1 ++ BitVec.ofBool f.lu ++ BitVec.ofBool f.z ++ f.mask ++ f.idx ++ f.base ++ f.vd ++ f.et) m 0 7 (by decide)).trans (
      extract_whole m))
@[simp] theorem vmWord_et (m : BitVec 7) (f : VmFmt) :
    (vmWord m f).extractLsb' 8 3 = f.et := by
  unfold vmWord
  exact (extract_append_high (0#1 ++ BitVec.ofBool f.lu ++ BitVec.ofBool f.z ++ f.mask ++ f.idx ++ f.base ++ f.vd ++ f.et ++ m) 1#1 8 3 (by decide)).trans (
      (extract_append_high (0#1 ++ BitVec.ofBool f.lu ++ BitVec.ofBool f.z ++ f.mask ++ f.idx ++ f.base ++ f.vd ++ f.et) m 7 3 (by decide)).trans (
      (extract_append_low (0#1 ++ BitVec.ofBool f.lu ++ BitVec.ofBool f.z ++ f.mask ++ f.idx ++ f.base ++ f.vd) f.et 0 3 (by decide)).trans (
      extract_whole f.et)))
@[simp] theorem vmWord_vd (m : BitVec 7) (f : VmFmt) :
    (vmWord m f).extractLsb' 11 5 = f.vd := by
  unfold vmWord
  exact (extract_append_high (0#1 ++ BitVec.ofBool f.lu ++ BitVec.ofBool f.z ++ f.mask ++ f.idx ++ f.base ++ f.vd ++ f.et ++ m) 1#1 11 5 (by decide)).trans (
      (extract_append_high (0#1 ++ BitVec.ofBool f.lu ++ BitVec.ofBool f.z ++ f.mask ++ f.idx ++ f.base ++ f.vd ++ f.et) m 10 5 (by decide)).trans (
      (extract_append_high (0#1 ++ BitVec.ofBool f.lu ++ BitVec.ofBool f.z ++ f.mask ++ f.idx ++ f.base ++ f.vd) f.et 3 5 (by decide)).trans (
      (extract_append_low (0#1 ++ BitVec.ofBool f.lu ++ BitVec.ofBool f.z ++ f.mask ++ f.idx ++ f.base) f.vd 0 5 (by decide)).trans (
      extract_whole f.vd))))
@[simp] theorem vmWord_base (m : BitVec 7) (f : VmFmt) :
    (vmWord m f).extractLsb' 16 5 = f.base := by
  unfold vmWord
  exact (extract_append_high (0#1 ++ BitVec.ofBool f.lu ++ BitVec.ofBool f.z ++ f.mask ++ f.idx ++ f.base ++ f.vd ++ f.et ++ m) 1#1 16 5 (by decide)).trans (
      (extract_append_high (0#1 ++ BitVec.ofBool f.lu ++ BitVec.ofBool f.z ++ f.mask ++ f.idx ++ f.base ++ f.vd ++ f.et) m 15 5 (by decide)).trans (
      (extract_append_high (0#1 ++ BitVec.ofBool f.lu ++ BitVec.ofBool f.z ++ f.mask ++ f.idx ++ f.base ++ f.vd) f.et 8 5 (by decide)).trans (
      (extract_append_high (0#1 ++ BitVec.ofBool f.lu ++ BitVec.ofBool f.z ++ f.mask ++ f.idx ++ f.base) f.vd 5 5 (by decide)).trans (
      (extract_append_low (0#1 ++ BitVec.ofBool f.lu ++ BitVec.ofBool f.z ++ f.mask ++ f.idx) f.base 0 5 (by decide)).trans (
      extract_whole f.base)))))
@[simp] theorem vmWord_idx (m : BitVec 7) (f : VmFmt) :
    (vmWord m f).extractLsb' 21 5 = f.idx := by
  unfold vmWord
  exact (extract_append_high (0#1 ++ BitVec.ofBool f.lu ++ BitVec.ofBool f.z ++ f.mask ++ f.idx ++ f.base ++ f.vd ++ f.et ++ m) 1#1 21 5 (by decide)).trans (
      (extract_append_high (0#1 ++ BitVec.ofBool f.lu ++ BitVec.ofBool f.z ++ f.mask ++ f.idx ++ f.base ++ f.vd ++ f.et) m 20 5 (by decide)).trans (
      (extract_append_high (0#1 ++ BitVec.ofBool f.lu ++ BitVec.ofBool f.z ++ f.mask ++ f.idx ++ f.base ++ f.vd) f.et 13 5 (by decide)).trans (
      (extract_append_high (0#1 ++ BitVec.ofBool f.lu ++ BitVec.ofBool f.z ++ f.mask ++ f.idx ++ f.base) f.vd 10 5 (by decide)).trans (
      (extract_append_high (0#1 ++ BitVec.ofBool f.lu ++ BitVec.ofBool f.z ++ f.mask ++ f.idx) f.base 5 5 (by decide)).trans (
      (extract_append_low (0#1 ++ BitVec.ofBool f.lu ++ BitVec.ofBool f.z ++ f.mask) f.idx 0 5 (by decide)).trans (
      extract_whole f.idx))))))
@[simp] theorem vmWord_mask (m : BitVec 7) (f : VmFmt) :
    (vmWord m f).extractLsb' 26 3 = f.mask := by
  unfold vmWord
  exact (extract_append_high (0#1 ++ BitVec.ofBool f.lu ++ BitVec.ofBool f.z ++ f.mask ++ f.idx ++ f.base ++ f.vd ++ f.et ++ m) 1#1 26 3 (by decide)).trans (
      (extract_append_high (0#1 ++ BitVec.ofBool f.lu ++ BitVec.ofBool f.z ++ f.mask ++ f.idx ++ f.base ++ f.vd ++ f.et) m 25 3 (by decide)).trans (
      (extract_append_high (0#1 ++ BitVec.ofBool f.lu ++ BitVec.ofBool f.z ++ f.mask ++ f.idx ++ f.base ++ f.vd) f.et 18 3 (by decide)).trans (
      (extract_append_high (0#1 ++ BitVec.ofBool f.lu ++ BitVec.ofBool f.z ++ f.mask ++ f.idx ++ f.base) f.vd 15 3 (by decide)).trans (
      (extract_append_high (0#1 ++ BitVec.ofBool f.lu ++ BitVec.ofBool f.z ++ f.mask ++ f.idx) f.base 10 3 (by decide)).trans (
      (extract_append_high (0#1 ++ BitVec.ofBool f.lu ++ BitVec.ofBool f.z ++ f.mask) f.idx 5 3 (by decide)).trans (
      (extract_append_low (0#1 ++ BitVec.ofBool f.lu ++ BitVec.ofBool f.z) f.mask 0 3 (by decide)).trans (
      extract_whole f.mask)))))))
@[simp] theorem vmWord_z (m : BitVec 7) (f : VmFmt) :
    (vmWord m f).getLsbD 29 = f.z := by
  unfold vmWord
  exact (getLsbD_append_high (0#1 ++ BitVec.ofBool f.lu ++ BitVec.ofBool f.z ++ f.mask ++ f.idx ++ f.base ++ f.vd ++ f.et ++ m) 1#1 29 (by decide)).trans (
      (getLsbD_append_high (0#1 ++ BitVec.ofBool f.lu ++ BitVec.ofBool f.z ++ f.mask ++ f.idx ++ f.base ++ f.vd ++ f.et) m 28 (by decide)).trans (
      (getLsbD_append_high (0#1 ++ BitVec.ofBool f.lu ++ BitVec.ofBool f.z ++ f.mask ++ f.idx ++ f.base ++ f.vd) f.et 21 (by decide)).trans (
      (getLsbD_append_high (0#1 ++ BitVec.ofBool f.lu ++ BitVec.ofBool f.z ++ f.mask ++ f.idx ++ f.base) f.vd 18 (by decide)).trans (
      (getLsbD_append_high (0#1 ++ BitVec.ofBool f.lu ++ BitVec.ofBool f.z ++ f.mask ++ f.idx) f.base 13 (by decide)).trans (
      (getLsbD_append_high (0#1 ++ BitVec.ofBool f.lu ++ BitVec.ofBool f.z ++ f.mask) f.idx 8 (by decide)).trans (
      (getLsbD_append_high (0#1 ++ BitVec.ofBool f.lu ++ BitVec.ofBool f.z) f.mask 3 (by decide)).trans (
      (getLsbD_append_low (0#1 ++ BitVec.ofBool f.lu) (BitVec.ofBool f.z) 0 (by decide)).trans (
      getLsbD_ofBool_zero f.z))))))))
@[simp] theorem vmWord_lu (m : BitVec 7) (f : VmFmt) :
    (vmWord m f).getLsbD 30 = f.lu := by
  unfold vmWord
  exact (getLsbD_append_high (0#1 ++ BitVec.ofBool f.lu ++ BitVec.ofBool f.z ++ f.mask ++ f.idx ++ f.base ++ f.vd ++ f.et ++ m) 1#1 30 (by decide)).trans (
      (getLsbD_append_high (0#1 ++ BitVec.ofBool f.lu ++ BitVec.ofBool f.z ++ f.mask ++ f.idx ++ f.base ++ f.vd ++ f.et) m 29 (by decide)).trans (
      (getLsbD_append_high (0#1 ++ BitVec.ofBool f.lu ++ BitVec.ofBool f.z ++ f.mask ++ f.idx ++ f.base ++ f.vd) f.et 22 (by decide)).trans (
      (getLsbD_append_high (0#1 ++ BitVec.ofBool f.lu ++ BitVec.ofBool f.z ++ f.mask ++ f.idx ++ f.base) f.vd 19 (by decide)).trans (
      (getLsbD_append_high (0#1 ++ BitVec.ofBool f.lu ++ BitVec.ofBool f.z ++ f.mask ++ f.idx) f.base 14 (by decide)).trans (
      (getLsbD_append_high (0#1 ++ BitVec.ofBool f.lu ++ BitVec.ofBool f.z ++ f.mask) f.idx 9 (by decide)).trans (
      (getLsbD_append_high (0#1 ++ BitVec.ofBool f.lu ++ BitVec.ofBool f.z) f.mask 4 (by decide)).trans (
      (getLsbD_append_high (0#1 ++ BitVec.ofBool f.lu) (BitVec.ofBool f.z) 1 (by decide)).trans (
      (getLsbD_append_low 0#1 (BitVec.ofBool f.lu) 0 (by decide)).trans (
      getLsbD_ofBool_zero f.lu)))))))))

/-! ### `eWord` -/

@[simp] theorem eWord_major (m : BitVec 7) (d : BitVec 5) (sub : BitVec 4) (rel acq : Bool) (sc : BitVec 3) (b a : BitVec 5) :
    (eWord m d sub rel acq sc b a).extractLsb' 1 7 = m := by
  unfold eWord
  exact (extract_append_high (d ++ sub ++ BitVec.ofBool rel ++ BitVec.ofBool acq ++ sc ++ b ++ a ++ m) 1#1 1 7 (by decide)).trans (
      (extract_append_low (d ++ sub ++ BitVec.ofBool rel ++ BitVec.ofBool acq ++ sc ++ b ++ a) m 0 7 (by decide)).trans (
      extract_whole m))
@[simp] theorem eWord_a (m : BitVec 7) (d : BitVec 5) (sub : BitVec 4) (rel acq : Bool) (sc : BitVec 3) (b a : BitVec 5) :
    fD (eWord m d sub rel acq sc b a) = a := by
  unfold eWord fD
  exact (extract_append_high (d ++ sub ++ BitVec.ofBool rel ++ BitVec.ofBool acq ++ sc ++ b ++ a ++ m) 1#1 8 5 (by decide)).trans (
      (extract_append_high (d ++ sub ++ BitVec.ofBool rel ++ BitVec.ofBool acq ++ sc ++ b ++ a) m 7 5 (by decide)).trans (
      (extract_append_low (d ++ sub ++ BitVec.ofBool rel ++ BitVec.ofBool acq ++ sc ++ b) a 0 5 (by decide)).trans (
      extract_whole a)))
@[simp] theorem eWord_b (m : BitVec 7) (d : BitVec 5) (sub : BitVec 4) (rel acq : Bool) (sc : BitVec 3) (b a : BitVec 5) :
    fA (eWord m d sub rel acq sc b a) = b := by
  unfold eWord fA
  exact (extract_append_high (d ++ sub ++ BitVec.ofBool rel ++ BitVec.ofBool acq ++ sc ++ b ++ a ++ m) 1#1 13 5 (by decide)).trans (
      (extract_append_high (d ++ sub ++ BitVec.ofBool rel ++ BitVec.ofBool acq ++ sc ++ b ++ a) m 12 5 (by decide)).trans (
      (extract_append_high (d ++ sub ++ BitVec.ofBool rel ++ BitVec.ofBool acq ++ sc ++ b) a 5 5 (by decide)).trans (
      (extract_append_low (d ++ sub ++ BitVec.ofBool rel ++ BitVec.ofBool acq ++ sc) b 0 5 (by decide)).trans (
      extract_whole b))))
@[simp] theorem eWord_scope (m : BitVec 7) (d : BitVec 5) (sub : BitVec 4) (rel acq : Bool) (sc : BitVec 3) (b a : BitVec 5) :
    fS (eWord m d sub rel acq sc b a) = sc := by
  unfold eWord fS
  exact (extract_append_high (d ++ sub ++ BitVec.ofBool rel ++ BitVec.ofBool acq ++ sc ++ b ++ a ++ m) 1#1 18 3 (by decide)).trans (
      (extract_append_high (d ++ sub ++ BitVec.ofBool rel ++ BitVec.ofBool acq ++ sc ++ b ++ a) m 17 3 (by decide)).trans (
      (extract_append_high (d ++ sub ++ BitVec.ofBool rel ++ BitVec.ofBool acq ++ sc ++ b) a 10 3 (by decide)).trans (
      (extract_append_high (d ++ sub ++ BitVec.ofBool rel ++ BitVec.ofBool acq ++ sc) b 5 3 (by decide)).trans (
      (extract_append_low (d ++ sub ++ BitVec.ofBool rel ++ BitVec.ofBool acq) sc 0 3 (by decide)).trans (
      extract_whole sc)))))
@[simp] theorem eWord_acq (m : BitVec 7) (d : BitVec 5) (sub : BitVec 4) (rel acq : Bool) (sc : BitVec 3) (b a : BitVec 5) :
    (eWord m d sub rel acq sc b a).getLsbD 21 = acq := by
  unfold eWord
  exact (getLsbD_append_high (d ++ sub ++ BitVec.ofBool rel ++ BitVec.ofBool acq ++ sc ++ b ++ a ++ m) 1#1 21 (by decide)).trans (
      (getLsbD_append_high (d ++ sub ++ BitVec.ofBool rel ++ BitVec.ofBool acq ++ sc ++ b ++ a) m 20 (by decide)).trans (
      (getLsbD_append_high (d ++ sub ++ BitVec.ofBool rel ++ BitVec.ofBool acq ++ sc ++ b) a 13 (by decide)).trans (
      (getLsbD_append_high (d ++ sub ++ BitVec.ofBool rel ++ BitVec.ofBool acq ++ sc) b 8 (by decide)).trans (
      (getLsbD_append_high (d ++ sub ++ BitVec.ofBool rel ++ BitVec.ofBool acq) sc 3 (by decide)).trans (
      (getLsbD_append_low (d ++ sub ++ BitVec.ofBool rel) (BitVec.ofBool acq) 0 (by decide)).trans (
      getLsbD_ofBool_zero acq))))))
@[simp] theorem eWord_rel (m : BitVec 7) (d : BitVec 5) (sub : BitVec 4) (rel acq : Bool) (sc : BitVec 3) (b a : BitVec 5) :
    (eWord m d sub rel acq sc b a).getLsbD 22 = rel := by
  unfold eWord
  exact (getLsbD_append_high (d ++ sub ++ BitVec.ofBool rel ++ BitVec.ofBool acq ++ sc ++ b ++ a ++ m) 1#1 22 (by decide)).trans (
      (getLsbD_append_high (d ++ sub ++ BitVec.ofBool rel ++ BitVec.ofBool acq ++ sc ++ b ++ a) m 21 (by decide)).trans (
      (getLsbD_append_high (d ++ sub ++ BitVec.ofBool rel ++ BitVec.ofBool acq ++ sc ++ b) a 14 (by decide)).trans (
      (getLsbD_append_high (d ++ sub ++ BitVec.ofBool rel ++ BitVec.ofBool acq ++ sc) b 9 (by decide)).trans (
      (getLsbD_append_high (d ++ sub ++ BitVec.ofBool rel ++ BitVec.ofBool acq) sc 4 (by decide)).trans (
      (getLsbD_append_high (d ++ sub ++ BitVec.ofBool rel) (BitVec.ofBool acq) 1 (by decide)).trans (
      (getLsbD_append_low (d ++ sub) (BitVec.ofBool rel) 0 (by decide)).trans (
      getLsbD_ofBool_zero rel)))))))
@[simp] theorem eWord_sub (m : BitVec 7) (d : BitVec 5) (sub : BitVec 4) (rel acq : Bool) (sc : BitVec 3) (b a : BitVec 5) :
    fSub (eWord m d sub rel acq sc b a) = sub := by
  unfold eWord fSub
  exact (extract_append_high (d ++ sub ++ BitVec.ofBool rel ++ BitVec.ofBool acq ++ sc ++ b ++ a ++ m) 1#1 23 4 (by decide)).trans (
      (extract_append_high (d ++ sub ++ BitVec.ofBool rel ++ BitVec.ofBool acq ++ sc ++ b ++ a) m 22 4 (by decide)).trans (
      (extract_append_high (d ++ sub ++ BitVec.ofBool rel ++ BitVec.ofBool acq ++ sc ++ b) a 15 4 (by decide)).trans (
      (extract_append_high (d ++ sub ++ BitVec.ofBool rel ++ BitVec.ofBool acq ++ sc) b 10 4 (by decide)).trans (
      (extract_append_high (d ++ sub ++ BitVec.ofBool rel ++ BitVec.ofBool acq) sc 5 4 (by decide)).trans (
      (extract_append_high (d ++ sub ++ BitVec.ofBool rel) (BitVec.ofBool acq) 2 4 (by decide)).trans (
      (extract_append_high (d ++ sub) (BitVec.ofBool rel) 1 4 (by decide)).trans (
      (extract_append_low d sub 0 4 (by decide)).trans (
      extract_whole sub))))))))
@[simp] theorem eWord_d (m : BitVec 7) (d : BitVec 5) (sub : BitVec 4) (rel acq : Bool) (sc : BitVec 3) (b a : BitVec 5) :
    fDE (eWord m d sub rel acq sc b a) = d := by
  unfold eWord fDE
  exact (extract_append_high (d ++ sub ++ BitVec.ofBool rel ++ BitVec.ofBool acq ++ sc ++ b ++ a ++ m) 1#1 27 5 (by decide)).trans (
      (extract_append_high (d ++ sub ++ BitVec.ofBool rel ++ BitVec.ofBool acq ++ sc ++ b ++ a) m 26 5 (by decide)).trans (
      (extract_append_high (d ++ sub ++ BitVec.ofBool rel ++ BitVec.ofBool acq ++ sc ++ b) a 19 5 (by decide)).trans (
      (extract_append_high (d ++ sub ++ BitVec.ofBool rel ++ BitVec.ofBool acq ++ sc) b 14 5 (by decide)).trans (
      (extract_append_high (d ++ sub ++ BitVec.ofBool rel ++ BitVec.ofBool acq) sc 9 5 (by decide)).trans (
      (extract_append_high (d ++ sub ++ BitVec.ofBool rel) (BitVec.ofBool acq) 6 5 (by decide)).trans (
      (extract_append_high (d ++ sub) (BitVec.ofBool rel) 5 5 (by decide)).trans (
      (extract_append_high d sub 4 5 (by decide)).trans (
      extract_whole d))))))))

/-! ### `hWord` -/

@[simp] theorem hWord_op (op : BitVec 4) (w : BitVec 1) (a d : BitVec 5) :
    (hWord op w a d).extractLsb' 1 4 = op := by
  unfold hWord
  exact (extract_append_high (0#16 ++ w ++ a ++ d ++ op) 0#1 1 4 (by decide)).trans (
      (extract_append_low (0#16 ++ w ++ a ++ d) op 0 4 (by decide)).trans (
      extract_whole op))
@[simp] theorem hWord_d (op : BitVec 4) (w : BitVec 1) (a d : BitVec 5) :
    (hWord op w a d).extractLsb' 5 5 = d := by
  unfold hWord
  exact (extract_append_high (0#16 ++ w ++ a ++ d ++ op) 0#1 5 5 (by decide)).trans (
      (extract_append_high (0#16 ++ w ++ a ++ d) op 4 5 (by decide)).trans (
      (extract_append_low (0#16 ++ w ++ a) d 0 5 (by decide)).trans (
      extract_whole d)))
@[simp] theorem hWord_a (op : BitVec 4) (w : BitVec 1) (a d : BitVec 5) :
    (hWord op w a d).extractLsb' 10 5 = a := by
  unfold hWord
  exact (extract_append_high (0#16 ++ w ++ a ++ d ++ op) 0#1 10 5 (by decide)).trans (
      (extract_append_high (0#16 ++ w ++ a ++ d) op 9 5 (by decide)).trans (
      (extract_append_high (0#16 ++ w ++ a) d 5 5 (by decide)).trans (
      (extract_append_low (0#16 ++ w) a 0 5 (by decide)).trans (
      extract_whole a))))
@[simp] theorem hWord_wide (op : BitVec 4) (w : BitVec 1) (a d : BitVec 5) :
    (hWord op w a d).getLsbD 15 = w.getLsbD 0 := by
  unfold hWord
  exact (getLsbD_append_high (0#16 ++ w ++ a ++ d ++ op) 0#1 15 (by decide)).trans (
      (getLsbD_append_high (0#16 ++ w ++ a ++ d) op 14 (by decide)).trans (
      (getLsbD_append_high (0#16 ++ w ++ a) d 10 (by decide)).trans (
      (getLsbD_append_high (0#16 ++ w) a 5 (by decide)).trans (
      getLsbD_append_low 0#16 w 0 (by decide)))))

/-! ### Parts of fields -/

theorem iWord_part (m : BitVec 7) (imm : BitVec 14) (a d : BitVec 5) (k n : Nat) :
    (iWord m imm a d).extractLsb' (18 + k) n = imm.extractLsb' k n := by
  unfold iWord
  refine (extract_append_high (imm ++ a ++ d ++ m) 1#1 (18 + k) n (by omega)).trans ?_
  refine (extract_append_high (imm ++ a ++ d) m (18 + k - 1) n (by omega)).trans ?_
  refine (extract_append_high (imm ++ a) d (18 + k - 1 - 7) n (by omega)).trans ?_
  refine (extract_append_high imm a (18 + k - 1 - 7 - 5) n (by omega)).trans ?_
  congr 1
  omega

theorem rWord_part (m : BitVec 7) (fn : BitVec 9) (b a d : BitVec 5) (k n : Nat) :
    (rWord m fn b a d).extractLsb' (23 + k) n = fn.extractLsb' k n := by
  unfold rWord
  refine (extract_append_high (fn ++ b ++ a ++ d ++ m) 1#1 (23 + k) n (by omega)).trans ?_
  refine (extract_append_high (fn ++ b ++ a ++ d) m (23 + k - 1) n (by omega)).trans ?_
  refine (extract_append_high (fn ++ b ++ a) d (23 + k - 1 - 7) n (by omega)).trans ?_
  refine (extract_append_high (fn ++ b) a (23 + k - 1 - 7 - 5) n (by omega)).trans ?_
  refine (extract_append_high fn b (23 + k - 1 - 7 - 5 - 5) n (by omega)).trans ?_
  congr 1
  omega

theorem eWord_part (m : BitVec 7) (d : BitVec 5) (sub : BitVec 4) (rel acq : Bool) (sc : BitVec 3) (b a : BitVec 5) :
    (eWord m d sub rel acq sc b a).extractLsb' 23 3 = sub.extractLsb' 0 3 := by
  have h := congrArg (fun v => v.extractLsb' 0 3) (eWord_sub m d sub rel acq sc b a)
  refine Eq.trans ?_ h
  apply BitVec.eq_of_getLsbD_eq
  intro i hi
  simp only [fSub, BitVec.getLsbD_extractLsb', hi, decide_true, Bool.true_and, Nat.zero_add]
  rw [decide_eq_true (by omega : i < 4), Bool.true_and]

/-- Bit 4 of vb tells VCVTIU from VCVTI. -/
theorem vb_top : ∀ v : BitVec 5, v.getLsbD 4 = false → (v ||| 16).getLsbD 4 = true ∧ (v ||| 16) &&& 15 = v := by
  decide

theorem vWord_top (m : BitVec 7) (f : VFmt) : (vWord m f).getLsbD 25 = f.vb.getLsbD 4 := by
  have h := congrArg (fun v => v.getLsbD 4) (vWord_vb m f)
  simpa only [BitVec.getLsbD_extractLsb', (by decide : (4 < 5)), decide_true, Bool.true_and, Nat.reduceAdd] using h

theorem vWithVb_back {f : VFmt} (h : f.vb = 0) (k : BitVec 5) : (f.withVb k).withVb 0 = f := by
  cases f
  simp only [VFmt.withVb] at h ⊢
  rw [h]

theorem VFmt.unary_vb {f : VFmt} {n : Nat} (h : f.unary n = true) : f.vb = 0 := by
  simp only [VFmt.unary, Bool.and_eq_true, decide_eq_true_eq] at h
  exact h.1.2

theorem VFmt.unmaskedUnary_vb {f : VFmt} {n : Nat} (h : f.unmaskedUnary n = true) : f.vb = 0 := by
  simp only [VFmt.unmaskedUnary, Bool.and_eq_true, decide_eq_true_eq] at h
  exact h.1.2

theorem vFields_vWord (m : BitVec 7) (f : VFmt) : vFields (vWord m f) = f := by
  simp only [vFields, vWord_lub, vWord_lua, vWord_z, vWord_mask, vWord_vb, vWord_va, vWord_vd, vWord_et]

theorem vmFields_vmWord (m : BitVec 7) (f : VmFmt) : vmFields (vmWord m f) = f := by
  simp only [vmFields, vmWord_lu, vmWord_z, vmWord_mask, vmWord_idx, vmWord_base, vmWord_vd, vmWord_et]

/-- The major opcode picks the reading of the word. -/
theorem readFields_major {w : BitVec 32} {m : BitVec 7} (h : w.extractLsb' 1 7 = m) :
    readFields w = readMajor w m.toNat := by rw [readFields, h]

end Sys2Proof
end

