-- ==== Sys2Proof/Laws/PerInstr.lean ====
section
/-!
SUPPORT. Statements made once per instruction. Family `Fields`: the word of a well-formed instruction names its
constructor and holds every operand in its place, as the tables of chapter 20 lay it out; an event has no word.
-/

namespace Sys2Proof.Laws

/-- The fields of the encoding, read in place, give the instruction back. -/
def Fields.Statement (i : Instr) : Prop :=
  (instrLength i = 4 → wellFormed i = true → readFields (encodeWord i) = some i) ∧
    (instrLength i = 2 → readHalf (encodeWord i) = some i)

theorem Fields.word {i : Instr} (l : instrLength i = 4)
    (h : wellFormed i = true → readFields (encodeWord i) = some i) : Fields.Statement i :=
  ⟨fun _ => h, fun e => absurd (l.symm.trans e) (by decide)⟩

theorem Fields.half {i : Instr} (l : instrLength i = 2) (h : readHalf (encodeWord i) = some i) : Fields.Statement i :=
  ⟨fun e => absurd (l.symm.trans e) (by decide), fun _ => h⟩

theorem Fields.event {i : Instr} (l : instrLength i = 0) : Fields.Statement i :=
  ⟨fun e => absurd (l.symm.trans e) (by decide), fun e => absurd (l.symm.trans e) (by decide)⟩

theorem Fields.add (d a b : Reg) : Fields.Statement (.add d a b) := by
  refine Fields.word rfl fun _ => (readFields_major (rWord_major ..)).trans ?_
  show aluOf (rWord 0x01 0x0 b a d) (fFn (rWord 0x01 0x0 b a d)).toNat = _
  rw [rWord_fn]
  show some (Instr.add (fD (rWord 0x01 0x0 b a d)) (fA (rWord 0x01 0x0 b a d)) (fB (rWord 0x01 0x0 b a d))) = _
  rw [rWord_d, rWord_a, rWord_b]

theorem Fields.sub (d a b : Reg) : Fields.Statement (.sub d a b) := by
  refine Fields.word rfl fun _ => (readFields_major (rWord_major ..)).trans ?_
  show aluOf (rWord 0x01 0x1 b a d) (fFn (rWord 0x01 0x1 b a d)).toNat = _
  rw [rWord_fn]
  show some (Instr.sub (fD (rWord 0x01 0x1 b a d)) (fA (rWord 0x01 0x1 b a d)) (fB (rWord 0x01 0x1 b a d))) = _
  rw [rWord_d, rWord_a, rWord_b]

theorem Fields.andR (d a b : Reg) : Fields.Statement (.andR d a b) := by
  refine Fields.word rfl fun _ => (readFields_major (rWord_major ..)).trans ?_
  show aluOf (rWord 0x01 0x2 b a d) (fFn (rWord 0x01 0x2 b a d)).toNat = _
  rw [rWord_fn]
  show some (Instr.andR (fD (rWord 0x01 0x2 b a d)) (fA (rWord 0x01 0x2 b a d)) (fB (rWord 0x01 0x2 b a d))) = _
  rw [rWord_d, rWord_a, rWord_b]

theorem Fields.orR (d a b : Reg) : Fields.Statement (.orR d a b) := by
  refine Fields.word rfl fun _ => (readFields_major (rWord_major ..)).trans ?_
  show aluOf (rWord 0x01 0x3 b a d) (fFn (rWord 0x01 0x3 b a d)).toNat = _
  rw [rWord_fn]
  show some (Instr.orR (fD (rWord 0x01 0x3 b a d)) (fA (rWord 0x01 0x3 b a d)) (fB (rWord 0x01 0x3 b a d))) = _
  rw [rWord_d, rWord_a, rWord_b]

theorem Fields.xorR (d a b : Reg) : Fields.Statement (.xorR d a b) := by
  refine Fields.word rfl fun _ => (readFields_major (rWord_major ..)).trans ?_
  show aluOf (rWord 0x01 0x4 b a d) (fFn (rWord 0x01 0x4 b a d)).toNat = _
  rw [rWord_fn]
  show some (Instr.xorR (fD (rWord 0x01 0x4 b a d)) (fA (rWord 0x01 0x4 b a d)) (fB (rWord 0x01 0x4 b a d))) = _
  rw [rWord_d, rWord_a, rWord_b]

theorem Fields.shl (d a b : Reg) : Fields.Statement (.shl d a b) := by
  refine Fields.word rfl fun _ => (readFields_major (rWord_major ..)).trans ?_
  show aluOf (rWord 0x01 0x5 b a d) (fFn (rWord 0x01 0x5 b a d)).toNat = _
  rw [rWord_fn]
  show some (Instr.shl (fD (rWord 0x01 0x5 b a d)) (fA (rWord 0x01 0x5 b a d)) (fB (rWord 0x01 0x5 b a d))) = _
  rw [rWord_d, rWord_a, rWord_b]

theorem Fields.shr (d a b : Reg) : Fields.Statement (.shr d a b) := by
  refine Fields.word rfl fun _ => (readFields_major (rWord_major ..)).trans ?_
  show aluOf (rWord 0x01 0x6 b a d) (fFn (rWord 0x01 0x6 b a d)).toNat = _
  rw [rWord_fn]
  show some (Instr.shr (fD (rWord 0x01 0x6 b a d)) (fA (rWord 0x01 0x6 b a d)) (fB (rWord 0x01 0x6 b a d))) = _
  rw [rWord_d, rWord_a, rWord_b]

theorem Fields.sra (d a b : Reg) : Fields.Statement (.sra d a b) := by
  refine Fields.word rfl fun _ => (readFields_major (rWord_major ..)).trans ?_
  show aluOf (rWord 0x01 0x7 b a d) (fFn (rWord 0x01 0x7 b a d)).toNat = _
  rw [rWord_fn]
  show some (Instr.sra (fD (rWord 0x01 0x7 b a d)) (fA (rWord 0x01 0x7 b a d)) (fB (rWord 0x01 0x7 b a d))) = _
  rw [rWord_d, rWord_a, rWord_b]

theorem Fields.slt (d a b : Reg) : Fields.Statement (.slt d a b) := by
  refine Fields.word rfl fun _ => (readFields_major (rWord_major ..)).trans ?_
  show aluOf (rWord 0x01 0x8 b a d) (fFn (rWord 0x01 0x8 b a d)).toNat = _
  rw [rWord_fn]
  show some (Instr.slt (fD (rWord 0x01 0x8 b a d)) (fA (rWord 0x01 0x8 b a d)) (fB (rWord 0x01 0x8 b a d))) = _
  rw [rWord_d, rWord_a, rWord_b]

theorem Fields.sltu (d a b : Reg) : Fields.Statement (.sltu d a b) := by
  refine Fields.word rfl fun _ => (readFields_major (rWord_major ..)).trans ?_
  show aluOf (rWord 0x01 0x9 b a d) (fFn (rWord 0x01 0x9 b a d)).toNat = _
  rw [rWord_fn]
  show some (Instr.sltu (fD (rWord 0x01 0x9 b a d)) (fA (rWord 0x01 0x9 b a d)) (fB (rWord 0x01 0x9 b a d))) = _
  rw [rWord_d, rWord_a, rWord_b]

theorem Fields.minS (d a b : Reg) : Fields.Statement (.minS d a b) := by
  refine Fields.word rfl fun _ => (readFields_major (rWord_major ..)).trans ?_
  show aluOf (rWord 0x01 0xa b a d) (fFn (rWord 0x01 0xa b a d)).toNat = _
  rw [rWord_fn]
  show some (Instr.minS (fD (rWord 0x01 0xa b a d)) (fA (rWord 0x01 0xa b a d)) (fB (rWord 0x01 0xa b a d))) = _
  rw [rWord_d, rWord_a, rWord_b]

theorem Fields.maxS (d a b : Reg) : Fields.Statement (.maxS d a b) := by
  refine Fields.word rfl fun _ => (readFields_major (rWord_major ..)).trans ?_
  show aluOf (rWord 0x01 0xb b a d) (fFn (rWord 0x01 0xb b a d)).toNat = _
  rw [rWord_fn]
  show some (Instr.maxS (fD (rWord 0x01 0xb b a d)) (fA (rWord 0x01 0xb b a d)) (fB (rWord 0x01 0xb b a d))) = _
  rw [rWord_d, rWord_a, rWord_b]

theorem Fields.minu (d a b : Reg) : Fields.Statement (.minu d a b) := by
  refine Fields.word rfl fun _ => (readFields_major (rWord_major ..)).trans ?_
  show aluOf (rWord 0x01 0xc b a d) (fFn (rWord 0x01 0xc b a d)).toNat = _
  rw [rWord_fn]
  show some (Instr.minu (fD (rWord 0x01 0xc b a d)) (fA (rWord 0x01 0xc b a d)) (fB (rWord 0x01 0xc b a d))) = _
  rw [rWord_d, rWord_a, rWord_b]

theorem Fields.maxu (d a b : Reg) : Fields.Statement (.maxu d a b) := by
  refine Fields.word rfl fun _ => (readFields_major (rWord_major ..)).trans ?_
  show aluOf (rWord 0x01 0xd b a d) (fFn (rWord 0x01 0xd b a d)).toNat = _
  rw [rWord_fn]
  show some (Instr.maxu (fD (rWord 0x01 0xd b a d)) (fA (rWord 0x01 0xd b a d)) (fB (rWord 0x01 0xd b a d))) = _
  rw [rWord_d, rWord_a, rWord_b]

theorem Fields.mul (d a b : Reg) : Fields.Statement (.mul d a b) := by
  refine Fields.word rfl fun _ => (readFields_major (rWord_major ..)).trans ?_
  show aluOf (rWord 0x01 0x10 b a d) (fFn (rWord 0x01 0x10 b a d)).toNat = _
  rw [rWord_fn]
  show some (Instr.mul (fD (rWord 0x01 0x10 b a d)) (fA (rWord 0x01 0x10 b a d)) (fB (rWord 0x01 0x10 b a d))) = _
  rw [rWord_d, rWord_a, rWord_b]

theorem Fields.mulh (d a b : Reg) : Fields.Statement (.mulh d a b) := by
  refine Fields.word rfl fun _ => (readFields_major (rWord_major ..)).trans ?_
  show aluOf (rWord 0x01 0x11 b a d) (fFn (rWord 0x01 0x11 b a d)).toNat = _
  rw [rWord_fn]
  show some (Instr.mulh (fD (rWord 0x01 0x11 b a d)) (fA (rWord 0x01 0x11 b a d)) (fB (rWord 0x01 0x11 b a d))) = _
  rw [rWord_d, rWord_a, rWord_b]

theorem Fields.mulhu (d a b : Reg) : Fields.Statement (.mulhu d a b) := by
  refine Fields.word rfl fun _ => (readFields_major (rWord_major ..)).trans ?_
  show aluOf (rWord 0x01 0x12 b a d) (fFn (rWord 0x01 0x12 b a d)).toNat = _
  rw [rWord_fn]
  show some (Instr.mulhu (fD (rWord 0x01 0x12 b a d)) (fA (rWord 0x01 0x12 b a d)) (fB (rWord 0x01 0x12 b a d))) = _
  rw [rWord_d, rWord_a, rWord_b]

theorem Fields.div (d a b : Reg) : Fields.Statement (.div d a b) := by
  refine Fields.word rfl fun _ => (readFields_major (rWord_major ..)).trans ?_
  show aluOf (rWord 0x01 0x14 b a d) (fFn (rWord 0x01 0x14 b a d)).toNat = _
  rw [rWord_fn]
  show some (Instr.div (fD (rWord 0x01 0x14 b a d)) (fA (rWord 0x01 0x14 b a d)) (fB (rWord 0x01 0x14 b a d))) = _
  rw [rWord_d, rWord_a, rWord_b]

theorem Fields.divu (d a b : Reg) : Fields.Statement (.divu d a b) := by
  refine Fields.word rfl fun _ => (readFields_major (rWord_major ..)).trans ?_
  show aluOf (rWord 0x01 0x15 b a d) (fFn (rWord 0x01 0x15 b a d)).toNat = _
  rw [rWord_fn]
  show some (Instr.divu (fD (rWord 0x01 0x15 b a d)) (fA (rWord 0x01 0x15 b a d)) (fB (rWord 0x01 0x15 b a d))) = _
  rw [rWord_d, rWord_a, rWord_b]

theorem Fields.rem (d a b : Reg) : Fields.Statement (.rem d a b) := by
  refine Fields.word rfl fun _ => (readFields_major (rWord_major ..)).trans ?_
  show aluOf (rWord 0x01 0x16 b a d) (fFn (rWord 0x01 0x16 b a d)).toNat = _
  rw [rWord_fn]
  show some (Instr.rem (fD (rWord 0x01 0x16 b a d)) (fA (rWord 0x01 0x16 b a d)) (fB (rWord 0x01 0x16 b a d))) = _
  rw [rWord_d, rWord_a, rWord_b]

theorem Fields.remu (d a b : Reg) : Fields.Statement (.remu d a b) := by
  refine Fields.word rfl fun _ => (readFields_major (rWord_major ..)).trans ?_
  show aluOf (rWord 0x01 0x17 b a d) (fFn (rWord 0x01 0x17 b a d)).toNat = _
  rw [rWord_fn]
  show some (Instr.remu (fD (rWord 0x01 0x17 b a d)) (fA (rWord 0x01 0x17 b a d)) (fB (rWord 0x01 0x17 b a d))) = _
  rw [rWord_d, rWord_a, rWord_b]

theorem Fields.clz (d a : Reg) : Fields.Statement (.clz d a) := by
  refine Fields.word rfl fun _ => (readFields_major (rWord_major ..)).trans ?_
  show aluOf (rWord 0x01 0x18 0 a d) (fFn (rWord 0x01 0x18 0 a d)).toNat = _
  rw [rWord_fn]
  show some (Instr.clz (fD (rWord 0x01 0x18 0 a d)) (fA (rWord 0x01 0x18 0 a d))) = _
  rw [rWord_d, rWord_a]

theorem Fields.ctz (d a : Reg) : Fields.Statement (.ctz d a) := by
  refine Fields.word rfl fun _ => (readFields_major (rWord_major ..)).trans ?_
  show aluOf (rWord 0x01 0x19 0 a d) (fFn (rWord 0x01 0x19 0 a d)).toNat = _
  rw [rWord_fn]
  show some (Instr.ctz (fD (rWord 0x01 0x19 0 a d)) (fA (rWord 0x01 0x19 0 a d))) = _
  rw [rWord_d, rWord_a]

theorem Fields.popc (d a : Reg) : Fields.Statement (.popc d a) := by
  refine Fields.word rfl fun _ => (readFields_major (rWord_major ..)).trans ?_
  show aluOf (rWord 0x01 0x1a 0 a d) (fFn (rWord 0x01 0x1a 0 a d)).toNat = _
  rw [rWord_fn]
  show some (Instr.popc (fD (rWord 0x01 0x1a 0 a d)) (fA (rWord 0x01 0x1a 0 a d))) = _
  rw [rWord_d, rWord_a]

theorem Fields.bswap (d a : Reg) : Fields.Statement (.bswap d a) := by
  refine Fields.word rfl fun _ => (readFields_major (rWord_major ..)).trans ?_
  show aluOf (rWord 0x01 0x1b 0 a d) (fFn (rWord 0x01 0x1b 0 a d)).toNat = _
  rw [rWord_fn]
  show some (Instr.bswap (fD (rWord 0x01 0x1b 0 a d)) (fA (rWord 0x01 0x1b 0 a d))) = _
  rw [rWord_d, rWord_a]

theorem Fields.addi (d a : Reg) (imm : BitVec 14) : Fields.Statement (.addi d a imm) := by
  refine Fields.word rfl fun _ => (readFields_major (iWord_major ..)).trans ?_
  show some (Instr.addi (fD (iWord 0x2 imm a d)) (fA (iWord 0x2 imm a d)) (fImm (iWord 0x2 imm a d))) = _
  rw [iWord_d, iWord_a, iWord_imm]

theorem Fields.andi (d a : Reg) (imm : BitVec 14) : Fields.Statement (.andi d a imm) := by
  refine Fields.word rfl fun _ => (readFields_major (iWord_major ..)).trans ?_
  show some (Instr.andi (fD (iWord 0x3 imm a d)) (fA (iWord 0x3 imm a d)) (fImm (iWord 0x3 imm a d))) = _
  rw [iWord_d, iWord_a, iWord_imm]

theorem Fields.ori (d a : Reg) (imm : BitVec 14) : Fields.Statement (.ori d a imm) := by
  refine Fields.word rfl fun _ => (readFields_major (iWord_major ..)).trans ?_
  show some (Instr.ori (fD (iWord 0x4 imm a d)) (fA (iWord 0x4 imm a d)) (fImm (iWord 0x4 imm a d))) = _
  rw [iWord_d, iWord_a, iWord_imm]

theorem Fields.xori (d a : Reg) (imm : BitVec 14) : Fields.Statement (.xori d a imm) := by
  refine Fields.word rfl fun _ => (readFields_major (iWord_major ..)).trans ?_
  show some (Instr.xori (fD (iWord 0x5 imm a d)) (fA (iWord 0x5 imm a d)) (fImm (iWord 0x5 imm a d))) = _
  rw [iWord_d, iWord_a, iWord_imm]

theorem Fields.shli (d a : Reg) (sh : BitVec 6) : Fields.Statement (.shli d a sh) := by
  refine Fields.word rfl fun _ => (readFields_major (iWord_major ..)).trans ?_
  show some (Instr.shli (fD (iWord 0x6 (0#8 ++ sh) a d)) (fA (iWord 0x6 (0#8 ++ sh) a d)) ((iWord 0x6 (0#8 ++ sh) a d).extractLsb' (18 + 0) 6)) = _
  rw [iWord_d, iWord_a, iWord_part, extract_append_low _ _ _ _ (by decide), extract_whole]

theorem Fields.shri (d a : Reg) (sh : BitVec 6) : Fields.Statement (.shri d a sh) := by
  refine Fields.word rfl fun _ => (readFields_major (iWord_major ..)).trans ?_
  show some (Instr.shri (fD (iWord 0x7 (0#8 ++ sh) a d)) (fA (iWord 0x7 (0#8 ++ sh) a d)) ((iWord 0x7 (0#8 ++ sh) a d).extractLsb' (18 + 0) 6)) = _
  rw [iWord_d, iWord_a, iWord_part, extract_append_low _ _ _ _ (by decide), extract_whole]

theorem Fields.srai (d a : Reg) (sh : BitVec 6) : Fields.Statement (.srai d a sh) := by
  refine Fields.word rfl fun _ => (readFields_major (iWord_major ..)).trans ?_
  show some (Instr.srai (fD (iWord 0x8 (0#8 ++ sh) a d)) (fA (iWord 0x8 (0#8 ++ sh) a d)) ((iWord 0x8 (0#8 ++ sh) a d).extractLsb' (18 + 0) 6)) = _
  rw [iWord_d, iWord_a, iWord_part, extract_append_low _ _ _ _ (by decide), extract_whole]

theorem Fields.slti (d a : Reg) (imm : BitVec 14) : Fields.Statement (.slti d a imm) := by
  refine Fields.word rfl fun _ => (readFields_major (iWord_major ..)).trans ?_
  show some (Instr.slti (fD (iWord 0x9 imm a d)) (fA (iWord 0x9 imm a d)) (fImm (iWord 0x9 imm a d))) = _
  rw [iWord_d, iWord_a, iWord_imm]

theorem Fields.sltui (d a : Reg) (imm : BitVec 14) : Fields.Statement (.sltui d a imm) := by
  refine Fields.word rfl fun _ => (readFields_major (iWord_major ..)).trans ?_
  show some (Instr.sltui (fD (iWord 0xa imm a d)) (fA (iWord 0xa imm a d)) (fImm (iWord 0xa imm a d))) = _
  rw [iWord_d, iWord_a, iWord_imm]

theorem Fields.lui (d : Reg) (imm : BitVec 19) : Fields.Statement (.lui d imm) := by
  refine Fields.word rfl fun _ => (readFields_major (uWord_major ..)).trans ?_
  show some (Instr.lui (fD (uWord 0xb imm d)) ((uWord 0xb imm d).extractLsb' 13 19)) = _
  rw [uWord_d, uWord_imm]

theorem Fields.extu (d a : Reg) (pos len1 : BitVec 6) : Fields.Statement (.extu d a pos len1) := by
  refine Fields.word rfl fun _ => (readFields_major (iWord_major ..)).trans ?_
  show some (Instr.extu (fD (iWord 0xc (0#2 ++ len1 ++ pos) a d)) (fA (iWord 0xc (0#2 ++ len1 ++ pos) a d)) ((iWord 0xc (0#2 ++ len1 ++ pos) a d).extractLsb' (18 + 0) 6)
    ((iWord 0xc (0#2 ++ len1 ++ pos) a d).extractLsb' (18 + 6) 6)) = _
  rw [iWord_d, iWord_a, iWord_part, iWord_part]
  exact congrArg₂ (fun p l => some (Instr.extu d a p l))
    ((extract_append_low (0#2 ++ len1) pos 0 6 (by decide)).trans (extract_whole pos))
    ((extract_append_high (0#2 ++ len1) pos 6 6 (by decide)).trans
      ((extract_append_low 0#2 len1 0 6 (by decide)).trans (extract_whole len1)))

theorem Fields.exts (d a : Reg) (pos len1 : BitVec 6) : Fields.Statement (.exts d a pos len1) := by
  refine Fields.word rfl fun _ => (readFields_major (iWord_major ..)).trans ?_
  show some (Instr.exts (fD (iWord 0xd (0#2 ++ len1 ++ pos) a d)) (fA (iWord 0xd (0#2 ++ len1 ++ pos) a d)) ((iWord 0xd (0#2 ++ len1 ++ pos) a d).extractLsb' (18 + 0) 6)
    ((iWord 0xd (0#2 ++ len1 ++ pos) a d).extractLsb' (18 + 6) 6)) = _
  rw [iWord_d, iWord_a, iWord_part, iWord_part]
  exact congrArg₂ (fun p l => some (Instr.exts d a p l))
    ((extract_append_low (0#2 ++ len1) pos 0 6 (by decide)).trans (extract_whole pos))
    ((extract_append_high (0#2 ++ len1) pos 6 6 (by decide)).trans
      ((extract_append_low 0#2 len1 0 6 (by decide)).trans (extract_whole len1)))

theorem Fields.ins (d a : Reg) (pos len1 : BitVec 6) : Fields.Statement (.ins d a pos len1) := by
  refine Fields.word rfl fun _ => (readFields_major (iWord_major ..)).trans ?_
  show some (Instr.ins (fD (iWord 0xe (0#2 ++ len1 ++ pos) a d)) (fA (iWord 0xe (0#2 ++ len1 ++ pos) a d)) ((iWord 0xe (0#2 ++ len1 ++ pos) a d).extractLsb' (18 + 0) 6)
    ((iWord 0xe (0#2 ++ len1 ++ pos) a d).extractLsb' (18 + 6) 6)) = _
  rw [iWord_d, iWord_a, iWord_part, iWord_part]
  exact congrArg₂ (fun p l => some (Instr.ins d a p l))
    ((extract_append_low (0#2 ++ len1) pos 0 6 (by decide)).trans (extract_whole pos))
    ((extract_append_high (0#2 ++ len1) pos 6 6 (by decide)).trans
      ((extract_append_low 0#2 len1 0 6 (by decide)).trans (extract_whole len1)))

theorem Fields.addpc (d : Reg) (imm : BitVec 19) : Fields.Statement (.addpc d imm) := by
  refine Fields.word rfl fun _ => (readFields_major (uWord_major ..)).trans ?_
  show some (Instr.addpc (fD (uWord 0xf imm d)) ((uWord 0xf imm d).extractLsb' 13 19)) = _
  rw [uWord_d, uWord_imm]

theorem Fields.bcond (c : Cond) (a b : Reg) (off : BitVec 11) : Fields.Statement (.bcond c a b off) := by
  refine Fields.word rfl fun _ => (readFields_major (mWord_major ..)).trans ?_
  show (condOf (fS (mWord 0x10 off c.code b a))).map (fun z => Instr.bcond z (fD (mWord 0x10 off c.code b a)) (fA (mWord 0x10 off c.code b a)) (fOff (mWord 0x10 off c.code b a))) = _
  rw [mWord_d, mWord_a, mWord_size, mWord_off]
  cases c <;> rfl

theorem Fields.jal (d : Reg) (off : BitVec 19) : Fields.Statement (.jal d off) := by
  refine Fields.word rfl fun _ => (readFields_major (uWord_major ..)).trans ?_
  show some (Instr.jal (fD (uWord 0x11 off d)) ((uWord 0x11 off d).extractLsb' 13 19)) = _
  rw [uWord_d, uWord_imm]

theorem Fields.jalr (d a : Reg) (imm : BitVec 14) : Fields.Statement (.jalr d a imm) := by
  refine Fields.word rfl fun _ => (readFields_major (iWord_major ..)).trans ?_
  show some (Instr.jalr (fD (iWord 0x12 imm a d)) (fA (iWord 0x12 imm a d)) (fImm (iWord 0x12 imm a d))) = _
  rw [iWord_d, iWord_a, iWord_imm]

theorem Fields.yield : Fields.Statement .yield := by
  refine Fields.word rfl fun _ => (readFields_major (rWord_major ..)).trans ?_
  show sysOf (fFn (rWord 0x13 0 0 0 0)).toNat = _
  rw [rWord_fn]
  rfl

theorem Fields.wfi : Fields.Statement .wfi := by
  refine Fields.word rfl fun wf => (readFields_major (rWord_major ..)).trans ?_
  show sysOf (fFn (rWord 0x13 1 0 0 0)).toNat = _
  rw [rWord_fn]
  rfl

theorem Fields.eret : Fields.Statement .eret := by
  refine Fields.word rfl fun _ => (readFields_major (rWord_major ..)).trans ?_
  show sysOf (fFn (rWord 0x13 2 0 0 0)).toNat = _
  rw [rWord_fn]
  rfl

theorem Fields.ebreak : Fields.Statement .ebreak := by
  refine Fields.word rfl fun _ => (readFields_major (rWord_major ..)).trans ?_
  show sysOf (fFn (rWord 0x13 3 0 0 0)).toNat = _
  rw [rWord_fn]
  rfl

theorem Fields.mfsr (d : Reg) (n : BitVec 12) : Fields.Statement (.mfsr d n) := by
  refine Fields.word rfl fun _ => (readFields_major (iWord_major ..)).trans ?_
  show some (Instr.mfsr (fD (iWord 0x14 (0#2 ++ n) 0 d)) ((iWord 0x14 (0#2 ++ n) 0 d).extractLsb' (18 + 0) 12)) = _
  rw [iWord_d, iWord_part, extract_append_low _ _ _ _ (by decide), extract_whole]

theorem Fields.mtsr (n : BitVec 12) (a : Reg) : Fields.Statement (.mtsr n a) := by
  refine Fields.word rfl fun _ => (readFields_major (iWord_major ..)).trans ?_
  show some (Instr.mtsr ((iWord 0x15 (0#2 ++ n) a 0).extractLsb' (18 + 0) 12) (fA (iWord 0x15 (0#2 ++ n) a 0))) = _
  rw [iWord_a, iWord_part, extract_append_low _ _ _ _ (by decide), extract_whole]

theorem Fields.safept (n : BitVec 12) : Fields.Statement (.safept n) := by
  refine Fields.word rfl fun _ => (readFields_major (iWord_major ..)).trans ?_
  show some (Instr.safept ((iWord 0x16 (0#2 ++ n) 0 0).extractLsb' (18 + 0) 12)) = _
  rw [iWord_part, extract_append_low _ _ _ _ (by decide), extract_whole]

theorem Fields.halt : Fields.Statement .halt := by
  refine Fields.word rfl fun _ => (readFields_major (rWord_major ..)).trans ?_
  show haltOf (rWord 0x17 0 0 0 0) (fFn (rWord 0x17 0 0 0 0)).toNat = _
  rw [rWord_fn]
  rfl

theorem Fields.haltRetain (a : Reg) : Fields.Statement (.haltRetain a) := by
  refine Fields.word rfl fun _ => (readFields_major (rWord_major ..)).trans ?_
  show haltOf (rWord 0x17 1 0 a 0) (fFn (rWord 0x17 1 0 a 0)).toNat = _
  rw [rWord_fn]
  show some (Instr.haltRetain (fA (rWord 0x17 1 0 a 0))) = _
  rw [rWord_a]

theorem Fields.ld (sz : LdSize) (d a : Reg) (off : BitVec 11) : Fields.Statement (.ld sz d a off) := by
  refine Fields.word rfl fun _ => (readFields_major (mWord_major ..)).trans ?_
  show (ldSizeOf (fS (mWord 0x18 off sz.code a d))).map (fun z => Instr.ld z (fD (mWord 0x18 off sz.code a d)) (fA (mWord 0x18 off sz.code a d)) (fOff (mWord 0x18 off sz.code a d))) = _
  rw [mWord_d, mWord_a, mWord_size, mWord_off]
  cases sz <;> rfl

theorem Fields.st (sz : StSize) (s a : Reg) (off : BitVec 11) : Fields.Statement (.st sz s a off) := by
  refine Fields.word rfl fun _ => (readFields_major (mWord_major ..)).trans ?_
  show (stSizeOf (fS (mWord 0x19 off sz.code a s))).map (fun z => Instr.st z (fD (mWord 0x19 off sz.code a s)) (fA (mWord 0x19 off sz.code a s)) (fOff (mWord 0x19 off sz.code a s))) = _
  rw [mWord_d, mWord_a, mWord_size, mWord_off]
  cases sz <;> rfl

theorem Fields.amo (op : AmoOp) (sz : AmoSize) (d a b : Reg) : Fields.Statement (.amo op sz d a b) := by
  refine Fields.word rfl fun _ => (readFields_major (rWord_major ..)).trans ?_
  show (amoOpOf ((rWord 0x1A (0#2 ++ sz.code ++ op.code) b a d).extractLsb' (23 + 0) 4)).bind (fun o =>
    (amoSizeOf ((rWord 0x1A (0#2 ++ sz.code ++ op.code) b a d).extractLsb' (23 + 4) 3)).map fun z =>
      Instr.amo o z (fD (rWord 0x1A (0#2 ++ sz.code ++ op.code) b a d)) (fA (rWord 0x1A (0#2 ++ sz.code ++ op.code) b a d)) (fB (rWord 0x1A (0#2 ++ sz.code ++ op.code) b a d))) = _
  rw [rWord_d, rWord_a, rWord_b, rWord_part, rWord_part]
  cases op <;> cases sz <;> rfl

theorem Fields.ord (o : Order) (sc : Scope) : Fields.Statement (.ord o sc) := by
  refine Fields.word rfl fun _ => ?_
  cases o <;> cases sc <;> rfl

theorem Fields.fence (kinds : BitVec 4) (sc : Scope) : Fields.Statement (.fence kinds sc) := by
  refine Fields.word rfl fun _ => (readFields_major (eWord_major ..)).trans ?_
  show (scopeOf (fS (eWord 0x1C 0 kinds false false sc.code 0 0))).map (fun z => Instr.fence (fSub (eWord 0x1C 0 kinds false false sc.code 0 0)) z) = _
  rw [eWord_scope, eWord_sub]
  cases sc <;> rfl

theorem Fields.msend (d a b : Reg) (n : BitVec 4) : Fields.Statement (.msend d a b n) := by
  refine Fields.word rfl fun _ => (readFields_major (eWord_major ..)).trans ?_
  show some (Instr.msend (fDE (eWord 0x1D d n false false 0 b a)) (fD (eWord 0x1D d n false false 0 b a)) (fA (eWord 0x1D d n false false 0 b a)) (fSub (eWord 0x1D d n false false 0 b a))) = _
  rw [eWord_a, eWord_b, eWord_sub, eWord_d]

theorem Fields.mwait (d : Reg) : Fields.Statement (.mwait d) := by
  refine Fields.word rfl fun _ => (readFields_major (rWord_major ..)).trans ?_
  show msgOf (rWord 0x1E 0 0 0 d) (fFn (rWord 0x1E 0 0 0 d)).toNat = _
  rw [rWord_fn]
  show some (Instr.mwait (fD (rWord 0x1E 0 0 0 d))) = _
  rw [rWord_d]

theorem Fields.mret : Fields.Statement .mret := by
  refine Fields.word rfl fun _ => (readFields_major (rWord_major ..)).trans ?_
  show msgOf (rWord 0x1E 1 0 0 0) (fFn (rWord 0x1E 1 0 0 0)).toNat = _
  rw [rWord_fn]
  rfl

theorem Fields.mpoll (d : Reg) : Fields.Statement (.mpoll d) := by
  refine Fields.word rfl fun _ => (readFields_major (rWord_major ..)).trans ?_
  show msgOf (rWord 0x1E 2 0 0 d) (fFn (rWord 0x1E 2 0 0 d)).toNat = _
  rw [rWord_fn]
  show some (Instr.mpoll (fD (rWord 0x1E 2 0 0 d))) = _
  rw [rWord_d]

theorem Fields.qpush (q b : Reg) : Fields.Statement (.qpush q b) := by
  refine Fields.word rfl fun _ => (readFields_major (rWord_major ..)).trans ?_
  show queueOf (rWord 0x20 0 b q 0) (fFn (rWord 0x20 0 b q 0)).toNat = _
  rw [rWord_fn]
  show some (Instr.qpush (fA (rWord 0x20 0 b q 0)) (fB (rWord 0x20 0 b q 0))) = _
  rw [rWord_a, rWord_b]

theorem Fields.qpop (d q : Reg) : Fields.Statement (.qpop d q) := by
  refine Fields.word rfl fun _ => (readFields_major (rWord_major ..)).trans ?_
  show queueOf (rWord 0x20 1 0 q d) (fFn (rWord 0x20 1 0 q d)).toNat = _
  rw [rWord_fn]
  show some (Instr.qpop (fD (rWord 0x20 1 0 q d)) (fA (rWord 0x20 1 0 q d))) = _
  rw [rWord_d, rWord_a]

theorem Fields.qpeek (d q : Reg) : Fields.Statement (.qpeek d q) := by
  refine Fields.word rfl fun _ => (readFields_major (rWord_major ..)).trans ?_
  show queueOf (rWord 0x20 2 0 q d) (fFn (rWord 0x20 2 0 q d)).toNat = _
  rw [rWord_fn]
  show some (Instr.qpeek (fD (rWord 0x20 2 0 q d)) (fA (rWord 0x20 2 0 q d))) = _
  rw [rWord_d, rWord_a]

theorem Fields.qcnt (d q : Reg) : Fields.Statement (.qcnt d q) := by
  refine Fields.word rfl fun _ => (readFields_major (rWord_major ..)).trans ?_
  show queueOf (rWord 0x20 3 0 q d) (fFn (rWord 0x20 3 0 q d)).toNat = _
  rw [rWord_fn]
  show some (Instr.qcnt (fD (rWord 0x20 3 0 q d)) (fA (rWord 0x20 3 0 q d))) = _
  rw [rWord_d, rWord_a]

theorem Fields.tfetch (d : Reg) : Fields.Statement (.tfetch d) := by
  refine Fields.word rfl fun _ => (readFields_major (rWord_major ..)).trans ?_
  show some (Instr.tfetch (fD (rWord 0x21 0 0 0 d))) = _
  rw [rWord_d]

theorem Fields.tspawn (d a : Reg) : Fields.Statement (.tspawn d a) := by
  refine Fields.word rfl fun _ => (readFields_major (rWord_major ..)).trans ?_
  show some (Instr.tspawn (fD (rWord 0x22 0 0 a d)) (fA (rWord 0x22 0 0 a d))) = _
  rw [rWord_d, rWord_a]

theorem Fields.tdone : Fields.Statement .tdone := by
  refine Fields.word rfl fun _ => (readFields_major (rWord_major ..)).trans ?_
  rfl

theorem Fields.svc (d a : Reg) (n : BitVec 14) : Fields.Statement (.svc d a n) := by
  refine Fields.word rfl fun _ => (readFields_major (iWord_major ..)).trans ?_
  show some (Instr.svc (fD (iWord 0x24 n a d)) (fA (iWord 0x24 n a d)) (fImm (iWord 0x24 n a d))) = _
  rw [iWord_d, iWord_a, iWord_imm]

theorem Fields.svcStatusReturn (h : Nat) : Fields.Statement (.svcStatusReturn h) := Fields.event rfl

theorem Fields.sigc (d a b : Reg) (sc : Scope) : Fields.Statement (.sigc d a b sc) := by
  refine Fields.word rfl fun _ => (readFields_major (eWord_major ..)).trans ?_
  show (scopeOf (fS (eWord 0x25 d 0 true false sc.code b a))).map (fun z =>
    Instr.sigc (fDE (eWord 0x25 d 0 true false sc.code b a)) (fD (eWord 0x25 d 0 true false sc.code b a)) (fA (eWord 0x25 d 0 true false sc.code b a)) z) = _
  rw [eWord_scope, eWord_d, eWord_a, eWord_b]
  cases sc <;> rfl

theorem Fields.waitc (d a b : Reg) (sc : Scope) : Fields.Statement (.waitc d a b sc) := by
  refine Fields.word rfl fun _ => (readFields_major (eWord_major ..)).trans ?_
  show (scopeOf (fS (eWord 0x26 d 0 false false sc.code b a))).map (fun z =>
    Instr.waitc (fDE (eWord 0x26 d 0 false false sc.code b a)) (fD (eWord 0x26 d 0 false false sc.code b a)) (fA (eWord 0x26 d 0 false false sc.code b a)) z) = _
  rw [eWord_scope, eWord_d, eWord_a, eWord_b]
  cases sc <;> rfl

theorem Fields.bar (sc : Scope) : Fields.Statement (.bar sc) := by
  refine Fields.word rfl fun _ => (readFields_major (eWord_major ..)).trans ?_
  show (scopeOf (fS (eWord 0x27 0 0 false false sc.code 0 0))).map (fun z => Instr.bar z) = _
  rw [eWord_scope]
  cases sc <;> rfl

theorem Fields.gang (n : GangSize) : Fields.Statement (.gang n) := by
  refine Fields.word rfl fun _ => ?_
  cases n <;> rfl

theorem Fields.gangGatherComplete (clus gather : Nat) : Fields.Statement (.gangGatherComplete clus gather) := Fields.event rfl

theorem Fields.grant (a b : Reg) : Fields.Statement (.grant a b) := by
  refine Fields.word rfl fun _ => (readFields_major (rWord_major ..)).trans ?_
  show some (Instr.grant (fA (rWord 0x29 0 b a 0)) (fB (rWord 0x29 0 b a 0))) = _
  rw [rWord_a, rWord_b]

theorem Fields.revoke (a b : Reg) : Fields.Statement (.revoke a b) := by
  refine Fields.word rfl fun _ => (readFields_major (rWord_major ..)).trans ?_
  show some (Instr.revoke (fA (rWord 0x2A 0 b a 0)) (fB (rWord 0x2A 0 b a 0))) = _
  rw [rWord_a, rWord_b]

theorem Fields.pgreq (d a b : Reg) : Fields.Statement (.pgreq d a b) := by
  refine Fields.word rfl fun _ => (readFields_major (rWord_major ..)).trans ?_
  show some (Instr.pgreq (fD (rWord 0x2B 0 b a d)) (fA (rWord 0x2B 0 b a d)) (fB (rWord 0x2B 0 b a d))) = _
  rw [rWord_d, rWord_a, rWord_b]

theorem Fields.cpcmd (d a b : Reg) (acq rel : Option Scope) : Fields.Statement (.cpcmd d a b acq rel) := by
  refine Fields.word rfl fun _ => (readFields_major (eWord_major ..)).trans ?_
  show (if fSub (eWord 0x2c d (0#1 ++ flagCode acq) rel.isSome acq.isSome (flagCode rel) b a) = 8 then some (Instr.cpcmdResume (fDE (eWord 0x2c d (0#1 ++ flagCode acq) rel.isSome acq.isSome (flagCode rel) b a)) (fD (eWord 0x2c d (0#1 ++ flagCode acq) rel.isSome acq.isSome (flagCode rel) b a)) (fA (eWord 0x2c d (0#1 ++ flagCode acq) rel.isSome acq.isSome (flagCode rel) b a)))
    else (flagOf ((eWord 0x2c d (0#1 ++ flagCode acq) rel.isSome acq.isSome (flagCode rel) b a).getLsbD 21) ((eWord 0x2c d (0#1 ++ flagCode acq) rel.isSome acq.isSome (flagCode rel) b a).extractLsb' 23 3)).bind fun q =>
      (flagOf ((eWord 0x2c d (0#1 ++ flagCode acq) rel.isSome acq.isSome (flagCode rel) b a).getLsbD 22) (fS (eWord 0x2c d (0#1 ++ flagCode acq) rel.isSome acq.isSome (flagCode rel) b a))).map fun r =>
        Instr.cpcmd (fDE (eWord 0x2c d (0#1 ++ flagCode acq) rel.isSome acq.isSome (flagCode rel) b a)) (fD (eWord 0x2c d (0#1 ++ flagCode acq) rel.isSome acq.isSome (flagCode rel) b a)) (fA (eWord 0x2c d (0#1 ++ flagCode acq) rel.isSome acq.isSome (flagCode rel) b a)) q r) = _
  rw [eWord_sub, eWord_d, eWord_a, eWord_b, eWord_acq, eWord_rel, eWord_scope, eWord_part]
  cases acq with
  | none =>
    cases rel with
    | none => rfl
    | some r => cases r <;> rfl
  | some q =>
    cases rel with
    | none => cases q <;> rfl
    | some r => cases q <;> cases r <;> rfl

theorem Fields.cpcmdResume (d a b : Reg) : Fields.Statement (.cpcmdResume d a b) := by
  refine Fields.word rfl fun _ => (readFields_major (eWord_major ..)).trans ?_
  show (if fSub (eWord 0x2c d 8 false false 0 b a) = 8 then some (Instr.cpcmdResume (fDE (eWord 0x2c d 8 false false 0 b a)) (fD (eWord 0x2c d 8 false false 0 b a))
    (fA (eWord 0x2c d 8 false false 0 b a))) else _) = _
  rw [eWord_sub, if_pos rfl, eWord_d, eWord_a, eWord_b]

theorem Fields.cpstat (d a : Reg) : Fields.Statement (.cpstat d a) := by
  refine Fields.word rfl fun _ => (readFields_major (eWord_major ..)).trans ?_
  show some (Instr.cpstat (fDE (eWord 0x2D d 0 false false 0 0 a)) (fD (eWord 0x2D d 0 false false 0 0 a))) = _
  rw [eWord_a, eWord_d]

theorem Fields.twait (a : Reg) : Fields.Statement (.twait a) := by
  refine Fields.word rfl fun _ => (readFields_major (eWord_major ..)).trans ?_
  show some (Instr.twait (fD (eWord 0x2E 0 0 false false 0 0 a))) = _
  rw [eWord_a]

theorem Fields.bkcmd (d a b : Reg) (acq rel : Option Scope) : Fields.Statement (.bkcmd d a b acq rel) := by
  refine Fields.word rfl fun _ => (readFields_major (eWord_major ..)).trans ?_
  show (if fSub (eWord 0x2f d (0#1 ++ flagCode acq) rel.isSome acq.isSome (flagCode rel) b a) = 8 then some (Instr.bkcmdResume (fDE (eWord 0x2f d (0#1 ++ flagCode acq) rel.isSome acq.isSome (flagCode rel) b a)) (fD (eWord 0x2f d (0#1 ++ flagCode acq) rel.isSome acq.isSome (flagCode rel) b a)) (fA (eWord 0x2f d (0#1 ++ flagCode acq) rel.isSome acq.isSome (flagCode rel) b a)))
    else (flagOf ((eWord 0x2f d (0#1 ++ flagCode acq) rel.isSome acq.isSome (flagCode rel) b a).getLsbD 21) ((eWord 0x2f d (0#1 ++ flagCode acq) rel.isSome acq.isSome (flagCode rel) b a).extractLsb' 23 3)).bind fun q =>
      (flagOf ((eWord 0x2f d (0#1 ++ flagCode acq) rel.isSome acq.isSome (flagCode rel) b a).getLsbD 22) (fS (eWord 0x2f d (0#1 ++ flagCode acq) rel.isSome acq.isSome (flagCode rel) b a))).map fun r =>
        Instr.bkcmd (fDE (eWord 0x2f d (0#1 ++ flagCode acq) rel.isSome acq.isSome (flagCode rel) b a)) (fD (eWord 0x2f d (0#1 ++ flagCode acq) rel.isSome acq.isSome (flagCode rel) b a)) (fA (eWord 0x2f d (0#1 ++ flagCode acq) rel.isSome acq.isSome (flagCode rel) b a)) q r) = _
  rw [eWord_sub, eWord_d, eWord_a, eWord_b, eWord_acq, eWord_rel, eWord_scope, eWord_part]
  cases acq with
  | none =>
    cases rel with
    | none => rfl
    | some r => cases r <;> rfl
  | some q =>
    cases rel with
    | none => cases q <;> rfl
    | some r => cases q <;> cases r <;> rfl

theorem Fields.bkcmdResume (d a b : Reg) : Fields.Statement (.bkcmdResume d a b) := by
  refine Fields.word rfl fun _ => (readFields_major (eWord_major ..)).trans ?_
  show (if fSub (eWord 0x2f d 8 false false 0 b a) = 8 then some (Instr.bkcmdResume (fDE (eWord 0x2f d 8 false false 0 b a)) (fD (eWord 0x2f d 8 false false 0 b a))
    (fA (eWord 0x2f d 8 false false 0 b a))) else _) = _
  rw [eWord_sub, if_pos rfl, eWord_d, eWord_a, eWord_b]

theorem Fields.colcmd (d a : Reg) (sc : Scope) : Fields.Statement (.colcmd d a sc) := by
  refine Fields.word rfl fun _ => (readFields_major (eWord_major ..)).trans ?_
  show (scopeOf (fS (eWord 0x30 d 0 false false sc.code 0 a))).map (fun z => Instr.colcmd (fDE (eWord 0x30 d 0 false false sc.code 0 a)) (fD (eWord 0x30 d 0 false false sc.code 0 a)) z) = _
  rw [eWord_scope, eWord_d, eWord_a]
  cases sc <;> rfl

theorem Fields.crot (a b : Reg) : Fields.Statement (.crot a b) := by
  refine Fields.word rfl fun _ => (readFields_major (eWord_major ..)).trans ?_
  show some (Instr.crot (fD (eWord 0x31 0 0 false false 2 b a)) (fA (eWord 0x31 0 0 false false 2 b a))) = _
  rw [eWord_a, eWord_b]

theorem Fields.tdef (d a : Reg) : Fields.Statement (.tdef d a) := by
  refine Fields.word rfl fun _ => (readFields_major (rWord_major ..)).trans ?_
  show some (Instr.tdef (fD (rWord 0x32 0 0 a d)) (fA (rWord 0x32 0 0 a d))) = _
  rw [rWord_d, rWord_a]

theorem Fields.tver (d a : Reg) : Fields.Statement (.tver d a) := by
  refine Fields.word rfl fun _ => (readFields_major (rWord_major ..)).trans ?_
  show some (Instr.tver (fD (rWord 0x33 0 0 a d)) (fA (rWord 0x33 0 0 a d))) = _
  rw [rWord_d, rWord_a]

theorem Fields.tkill (a : Reg) : Fields.Statement (.tkill a) := by
  refine Fields.word rfl fun _ => (readFields_major (rWord_major ..)).trans ?_
  show some (Instr.tkill (fA (rWord 0x34 0 0 a 0))) = _
  rw [rWord_a]

theorem Fields.mcfg (a b : Reg) : Fields.Statement (.mcfg a b) := by
  refine Fields.word rfl fun _ => (readFields_major (rWord_major ..)).trans ?_
  show some (Instr.mcfg (fA (rWord 0x35 0 b a 0)) (fB (rWord 0x35 0 b a 0))) = _
  rw [rWord_a, rWord_b]

theorem Fields.mldw (a : Reg) : Fields.Statement (.mldw a) := by
  refine Fields.word rfl fun _ => (readFields_major (rWord_major ..)).trans ?_
  show some (Instr.mldw (fA (rWord 0x36 0 0 a 0))) = _
  rw [rWord_a]

theorem Fields.mswap : Fields.Statement .mswap := by
  refine Fields.word rfl fun _ => (readFields_major (rWord_major ..)).trans ?_
  rfl

theorem Fields.mstr (a b : Reg) : Fields.Statement (.mstr a b) := by
  refine Fields.word rfl fun _ => (readFields_major (rWord_major ..)).trans ?_
  show some (Instr.mstr (fA (rWord 0x38 0 b a 0)) (fB (rWord 0x38 0 b a 0))) = _
  rw [rWord_a, rWord_b]

theorem Fields.mdrn (t : DrainType) (a : Reg) : Fields.Statement (.mdrn t a) := by
  refine Fields.word rfl fun _ => (readFields_major (rWord_major ..)).trans ?_
  show some (Instr.mdrn (drainOf ((rWord 0x39 (0#7 ++ t.code) 0 a 0).extractLsb' (23 + 0) 2)) (fA (rWord 0x39 (0#7 ++ t.code) 0 a 0))) = _
  rw [rWord_a, rWord_part]
  cases t <;> rfl

theorem Fields.mzero : Fields.Statement .mzero := by
  refine Fields.word rfl fun _ => (readFields_major (rWord_major ..)).trans ?_
  rfl

theorem Fields.mstat (d : Reg) : Fields.Statement (.mstat d) := by
  refine Fields.word rfl fun _ => (readFields_major (rWord_major ..)).trans ?_
  show some (Instr.mstat (fD (rWord 0x3B 0 0 0 d))) = _
  rw [rWord_d]

theorem Fields.winit (a b : Reg) : Fields.Statement (.winit a b) := by
  refine Fields.word rfl fun _ => (readFields_major (rWord_major ..)).trans ?_
  show waccOf (rWord 0x3C 0 b a 0) (fFn (rWord 0x3C 0 b a 0)).toNat = _
  rw [rWord_fn]
  show some (Instr.winit (fA (rWord 0x3C 0 b a 0)) (fB (rWord 0x3C 0 b a 0))) = _
  rw [rWord_a, rWord_b]

theorem Fields.wpush (d a b : Reg) : Fields.Statement (.wpush d a b) := by
  refine Fields.word rfl fun _ => (readFields_major (rWord_major ..)).trans ?_
  show waccOf (rWord 0x3C 1 b a d) (fFn (rWord 0x3C 1 b a d)).toNat = _
  rw [rWord_fn]
  show some (Instr.wpush (fD (rWord 0x3C 1 b a d)) (fA (rWord 0x3C 1 b a d)) (fB (rWord 0x3C 1 b a d))) = _
  rw [rWord_d, rWord_a, rWord_b]

theorem Fields.wread (d a : Reg) : Fields.Statement (.wread d a) := by
  refine Fields.word rfl fun _ => (readFields_major (rWord_major ..)).trans ?_
  show waccOf (rWord 0x3C 2 0 a d) (fFn (rWord 0x3C 2 0 a d)).toNat = _
  rw [rWord_fn]
  show some (Instr.wread (fD (rWord 0x3C 2 0 a d)) (fA (rWord 0x3C 2 0 a d))) = _
  rw [rWord_d, rWord_a]

theorem Fields.wflip (d a : Reg) : Fields.Statement (.wflip d a) := by
  refine Fields.word rfl fun wf => (readFields_major (rWord_major ..)).trans ?_
  show waccOf (rWord 0x3C 3 0 a d) (fFn (rWord 0x3C 3 0 a d)).toNat = _
  rw [rWord_fn]
  show some (Instr.wflip (fD (rWord 0x3C 3 0 a d)) (fA (rWord 0x3C 3 0 a d))) = _
  rw [rWord_d, rWord_a]

theorem Fields.wreset (d a : Reg) : Fields.Statement (.wreset d a) := by
  refine Fields.word rfl fun _ => (readFields_major (rWord_major ..)).trans ?_
  show waccOf (rWord 0x3C 4 0 a d) (fFn (rWord 0x3C 4 0 a d)).toNat = _
  rw [rWord_fn]
  show some (Instr.wreset (fD (rWord 0x3C 4 0 a d)) (fA (rWord 0x3C 4 0 a d))) = _
  rw [rWord_d, rWord_a]

theorem Fields.wstat (d a : Reg) : Fields.Statement (.wstat d a) := by
  refine Fields.word rfl fun _ => (readFields_major (rWord_major ..)).trans ?_
  show waccOf (rWord 0x3C 5 0 a d) (fFn (rWord 0x3C 5 0 a d)).toNat = _
  rw [rWord_fn]
  show some (Instr.wstat (fD (rWord 0x3C 5 0 a d)) (fA (rWord 0x3C 5 0 a d))) = _
  rw [rWord_d, rWord_a]

theorem Fields.vadd (f : VFmt) : Fields.Statement (.vadd f) := by
  refine Fields.word rfl fun _ => (readFields_major (vWord_major ..)).trans ?_
  exact congrArg (fun f => some (Instr.vadd f)) (vFields_vWord ..)

theorem Fields.vsub (f : VFmt) : Fields.Statement (.vsub f) := by
  refine Fields.word rfl fun _ => (readFields_major (vWord_major ..)).trans ?_
  exact congrArg (fun f => some (Instr.vsub f)) (vFields_vWord ..)

theorem Fields.vmul (f : VFmt) : Fields.Statement (.vmul f) := by
  refine Fields.word rfl fun _ => (readFields_major (vWord_major ..)).trans ?_
  exact congrArg (fun f => some (Instr.vmul f)) (vFields_vWord ..)

theorem Fields.vmulh (f : VFmt) : Fields.Statement (.vmulh f) := by
  refine Fields.word rfl fun _ => (readFields_major (vWord_major ..)).trans ?_
  exact congrArg (fun f => some (Instr.vmulh f)) (vFields_vWord ..)

theorem Fields.vmin (f : VFmt) : Fields.Statement (.vmin f) := by
  refine Fields.word rfl fun _ => (readFields_major (vWord_major ..)).trans ?_
  exact congrArg (fun f => some (Instr.vmin f)) (vFields_vWord ..)

theorem Fields.vmax (f : VFmt) : Fields.Statement (.vmax f) := by
  refine Fields.word rfl fun _ => (readFields_major (vWord_major ..)).trans ?_
  exact congrArg (fun f => some (Instr.vmax f)) (vFields_vWord ..)

theorem Fields.vminu (f : VFmt) : Fields.Statement (.vminu f) := by
  refine Fields.word rfl fun _ => (readFields_major (vWord_major ..)).trans ?_
  exact congrArg (fun f => some (Instr.vminu f)) (vFields_vWord ..)

theorem Fields.vmaxu (f : VFmt) : Fields.Statement (.vmaxu f) := by
  refine Fields.word rfl fun _ => (readFields_major (vWord_major ..)).trans ?_
  exact congrArg (fun f => some (Instr.vmaxu f)) (vFields_vWord ..)

theorem Fields.vand (f : VFmt) : Fields.Statement (.vand f) := by
  refine Fields.word rfl fun _ => (readFields_major (vWord_major ..)).trans ?_
  exact congrArg (fun f => some (Instr.vand f)) (vFields_vWord ..)

theorem Fields.vor (f : VFmt) : Fields.Statement (.vor f) := by
  refine Fields.word rfl fun _ => (readFields_major (vWord_major ..)).trans ?_
  exact congrArg (fun f => some (Instr.vor f)) (vFields_vWord ..)

theorem Fields.vxor (f : VFmt) : Fields.Statement (.vxor f) := by
  refine Fields.word rfl fun _ => (readFields_major (vWord_major ..)).trans ?_
  exact congrArg (fun f => some (Instr.vxor f)) (vFields_vWord ..)

theorem Fields.vshl (f : VFmt) : Fields.Statement (.vshl f) := by
  refine Fields.word rfl fun _ => (readFields_major (vWord_major ..)).trans ?_
  exact congrArg (fun f => some (Instr.vshl f)) (vFields_vWord ..)

theorem Fields.vshr (f : VFmt) : Fields.Statement (.vshr f) := by
  refine Fields.word rfl fun _ => (readFields_major (vWord_major ..)).trans ?_
  exact congrArg (fun f => some (Instr.vshr f)) (vFields_vWord ..)

theorem Fields.vsra (f : VFmt) : Fields.Statement (.vsra f) := by
  refine Fields.word rfl fun _ => (readFields_major (vWord_major ..)).trans ?_
  exact congrArg (fun f => some (Instr.vsra f)) (vFields_vWord ..)

theorem Fields.vsadd (f : VFmt) : Fields.Statement (.vsadd f) := by
  refine Fields.word rfl fun _ => (readFields_major (vWord_major ..)).trans ?_
  exact congrArg (fun f => some (Instr.vsadd f)) (vFields_vWord ..)

theorem Fields.vssub (f : VFmt) : Fields.Statement (.vssub f) := by
  refine Fields.word rfl fun _ => (readFields_major (vWord_major ..)).trans ?_
  exact congrArg (fun f => some (Instr.vssub f)) (vFields_vWord ..)

theorem Fields.vfadd (f : VFmt) : Fields.Statement (.vfadd f) := by
  refine Fields.word rfl fun _ => (readFields_major (vWord_major ..)).trans ?_
  exact congrArg (fun f => some (Instr.vfadd f)) (vFields_vWord ..)

theorem Fields.vfsub (f : VFmt) : Fields.Statement (.vfsub f) := by
  refine Fields.word rfl fun _ => (readFields_major (vWord_major ..)).trans ?_
  exact congrArg (fun f => some (Instr.vfsub f)) (vFields_vWord ..)

theorem Fields.vfmul (f : VFmt) : Fields.Statement (.vfmul f) := by
  refine Fields.word rfl fun _ => (readFields_major (vWord_major ..)).trans ?_
  exact congrArg (fun f => some (Instr.vfmul f)) (vFields_vWord ..)

theorem Fields.vfma (f : VFmt) : Fields.Statement (.vfma f) := by
  refine Fields.word rfl fun _ => (readFields_major (vWord_major ..)).trans ?_
  exact congrArg (fun f => some (Instr.vfma f)) (vFields_vWord ..)

theorem Fields.vfnma (f : VFmt) : Fields.Statement (.vfnma f) := by
  refine Fields.word rfl fun _ => (readFields_major (vWord_major ..)).trans ?_
  exact congrArg (fun f => some (Instr.vfnma f)) (vFields_vWord ..)

theorem Fields.vfmin (f : VFmt) : Fields.Statement (.vfmin f) := by
  refine Fields.word rfl fun _ => (readFields_major (vWord_major ..)).trans ?_
  exact congrArg (fun f => some (Instr.vfmin f)) (vFields_vWord ..)

theorem Fields.vfmax (f : VFmt) : Fields.Statement (.vfmax f) := by
  refine Fields.word rfl fun _ => (readFields_major (vWord_major ..)).trans ?_
  exact congrArg (fun f => some (Instr.vfmax f)) (vFields_vWord ..)

theorem Fields.vfdiv (f : VFmt) : Fields.Statement (.vfdiv f) := by
  refine Fields.word rfl fun _ => (readFields_major (vWord_major ..)).trans ?_
  exact congrArg (fun f => some (Instr.vfdiv f)) (vFields_vWord ..)

theorem Fields.vabs (f : VFmt) : Fields.Statement (.vabs f) := by
  refine Fields.word rfl fun wf => (readFields_major (vWord_major ..)).trans ?_
  show unaryOf (vWord 0x58 (f.withVb 0)) (vFields (vWord 0x58 (f.withVb 0))).vb.toNat = _
  rw [vFields_vWord]
  show some (Instr.vabs ((vFields (vWord 0x58 (f.withVb 0))).withVb 0)) = _
  rw [vFields_vWord]
  exact congrArg (fun f => some (Instr.vabs f)) (vWithVb_back (VFmt.unary_vb wf) _)

theorem Fields.vneg (f : VFmt) : Fields.Statement (.vneg f) := by
  refine Fields.word rfl fun wf => (readFields_major (vWord_major ..)).trans ?_
  show unaryOf (vWord 0x58 (f.withVb 1)) (vFields (vWord 0x58 (f.withVb 1))).vb.toNat = _
  rw [vFields_vWord]
  show some (Instr.vneg ((vFields (vWord 0x58 (f.withVb 1))).withVb 0)) = _
  rw [vFields_vWord]
  exact congrArg (fun f => some (Instr.vneg f)) (vWithVb_back (VFmt.unary_vb wf) _)

theorem Fields.vfabs (f : VFmt) : Fields.Statement (.vfabs f) := by
  refine Fields.word rfl fun wf => (readFields_major (vWord_major ..)).trans ?_
  show unaryOf (vWord 0x58 (f.withVb 2)) (vFields (vWord 0x58 (f.withVb 2))).vb.toNat = _
  rw [vFields_vWord]
  show some (Instr.vfabs ((vFields (vWord 0x58 (f.withVb 2))).withVb 0)) = _
  rw [vFields_vWord]
  exact congrArg (fun f => some (Instr.vfabs f)) (vWithVb_back (VFmt.unary_vb wf) _)

theorem Fields.vfneg (f : VFmt) : Fields.Statement (.vfneg f) := by
  refine Fields.word rfl fun wf => (readFields_major (vWord_major ..)).trans ?_
  show unaryOf (vWord 0x58 (f.withVb 3)) (vFields (vWord 0x58 (f.withVb 3))).vb.toNat = _
  rw [vFields_vWord]
  show some (Instr.vfneg ((vFields (vWord 0x58 (f.withVb 3))).withVb 0)) = _
  rw [vFields_vWord]
  exact congrArg (fun f => some (Instr.vfneg f)) (vWithVb_back (VFmt.unary_vb wf) _)

theorem Fields.vfsqrt (f : VFmt) : Fields.Statement (.vfsqrt f) := by
  refine Fields.word rfl fun wf => (readFields_major (vWord_major ..)).trans ?_
  show unaryOf (vWord 0x58 (f.withVb 4)) (vFields (vWord 0x58 (f.withVb 4))).vb.toNat = _
  rw [vFields_vWord]
  show some (Instr.vfsqrt ((vFields (vWord 0x58 (f.withVb 4))).withVb 0)) = _
  rw [vFields_vWord]
  exact congrArg (fun f => some (Instr.vfsqrt f)) (vWithVb_back (VFmt.unary_vb wf) _)

theorem Fields.vrcp (f : VFmt) : Fields.Statement (.vrcp f) := by
  refine Fields.word rfl fun wf => (readFields_major (vWord_major ..)).trans ?_
  show unaryOf (vWord 0x58 (f.withVb 5)) (vFields (vWord 0x58 (f.withVb 5))).vb.toNat = _
  rw [vFields_vWord]
  show some (Instr.vrcp ((vFields (vWord 0x58 (f.withVb 5))).withVb 0)) = _
  rw [vFields_vWord]
  exact congrArg (fun f => some (Instr.vrcp f)) (vWithVb_back (VFmt.unary_vb wf) _)

theorem Fields.vrsq (f : VFmt) : Fields.Statement (.vrsq f) := by
  refine Fields.word rfl fun wf => (readFields_major (vWord_major ..)).trans ?_
  show unaryOf (vWord 0x58 (f.withVb 6)) (vFields (vWord 0x58 (f.withVb 6))).vb.toNat = _
  rw [vFields_vWord]
  show some (Instr.vrsq ((vFields (vWord 0x58 (f.withVb 6))).withVb 0)) = _
  rw [vFields_vWord]
  exact congrArg (fun f => some (Instr.vrsq f)) (vWithVb_back (VFmt.unary_vb wf) _)

theorem Fields.vexp2 (f : VFmt) : Fields.Statement (.vexp2 f) := by
  refine Fields.word rfl fun wf => (readFields_major (vWord_major ..)).trans ?_
  show unaryOf (vWord 0x58 (f.withVb 7)) (vFields (vWord 0x58 (f.withVb 7))).vb.toNat = _
  rw [vFields_vWord]
  show some (Instr.vexp2 ((vFields (vWord 0x58 (f.withVb 7))).withVb 0)) = _
  rw [vFields_vWord]
  exact congrArg (fun f => some (Instr.vexp2 f)) (vWithVb_back (VFmt.unary_vb wf) _)

theorem Fields.vlog2 (f : VFmt) : Fields.Statement (.vlog2 f) := by
  refine Fields.word rfl fun wf => (readFields_major (vWord_major ..)).trans ?_
  show unaryOf (vWord 0x58 (f.withVb 8)) (vFields (vWord 0x58 (f.withVb 8))).vb.toNat = _
  rw [vFields_vWord]
  show some (Instr.vlog2 ((vFields (vWord 0x58 (f.withVb 8))).withVb 0)) = _
  rw [vFields_vWord]
  exact congrArg (fun f => some (Instr.vlog2 f)) (vWithVb_back (VFmt.unary_vb wf) _)

theorem Fields.vsin (f : VFmt) : Fields.Statement (.vsin f) := by
  refine Fields.word rfl fun wf => (readFields_major (vWord_major ..)).trans ?_
  show unaryOf (vWord 0x58 (f.withVb 9)) (vFields (vWord 0x58 (f.withVb 9))).vb.toNat = _
  rw [vFields_vWord]
  show some (Instr.vsin ((vFields (vWord 0x58 (f.withVb 9))).withVb 0)) = _
  rw [vFields_vWord]
  exact congrArg (fun f => some (Instr.vsin f)) (vWithVb_back (VFmt.unary_vb wf) _)

theorem Fields.vcos (f : VFmt) : Fields.Statement (.vcos f) := by
  refine Fields.word rfl fun wf => (readFields_major (vWord_major ..)).trans ?_
  show unaryOf (vWord 0x58 (f.withVb 10)) (vFields (vWord 0x58 (f.withVb 10))).vb.toNat = _
  rw [vFields_vWord]
  show some (Instr.vcos ((vFields (vWord 0x58 (f.withVb 10))).withVb 0)) = _
  rw [vFields_vWord]
  exact congrArg (fun f => some (Instr.vcos f)) (vWithVb_back (VFmt.unary_vb wf) _)

theorem Fields.vcmpeq (f : VFmt) : Fields.Statement (.vcmpeq f) := by
  refine Fields.word rfl fun _ => (readFields_major (vWord_major ..)).trans ?_
  exact congrArg (fun f => some (Instr.vcmpeq f)) (vFields_vWord ..)

theorem Fields.vcmplt (f : VFmt) : Fields.Statement (.vcmplt f) := by
  refine Fields.word rfl fun _ => (readFields_major (vWord_major ..)).trans ?_
  exact congrArg (fun f => some (Instr.vcmplt f)) (vFields_vWord ..)

theorem Fields.vcmpltu (f : VFmt) : Fields.Statement (.vcmpltu f) := by
  refine Fields.word rfl fun _ => (readFields_major (vWord_major ..)).trans ?_
  exact congrArg (fun f => some (Instr.vcmpltu f)) (vFields_vWord ..)

theorem Fields.vfcmpeq (f : VFmt) : Fields.Statement (.vfcmpeq f) := by
  refine Fields.word rfl fun _ => (readFields_major (vWord_major ..)).trans ?_
  exact congrArg (fun f => some (Instr.vfcmpeq f)) (vFields_vWord ..)

theorem Fields.vfcmplt (f : VFmt) : Fields.Statement (.vfcmplt f) := by
  refine Fields.word rfl fun _ => (readFields_major (vWord_major ..)).trans ?_
  exact congrArg (fun f => some (Instr.vfcmplt f)) (vFields_vWord ..)

theorem Fields.vfcmple (f : VFmt) : Fields.Statement (.vfcmple f) := by
  refine Fields.word rfl fun _ => (readFields_major (vWord_major ..)).trans ?_
  exact congrArg (fun f => some (Instr.vfcmple f)) (vFields_vWord ..)

theorem Fields.vfcmpun (f : VFmt) : Fields.Statement (.vfcmpun f) := by
  refine Fields.word rfl fun _ => (readFields_major (vWord_major ..)).trans ?_
  exact congrArg (fun f => some (Instr.vfcmpun f)) (vFields_vWord ..)

theorem Fields.vcvt (f : VFmt) : Fields.Statement (.vcvt f) := by
  refine Fields.word rfl fun _ => (readFields_major (vWord_major ..)).trans ?_
  exact congrArg (fun f => some (Instr.vcvt f)) (vFields_vWord ..)

theorem Fields.vperm (f : VFmt) : Fields.Statement (.vperm f) := by
  refine Fields.word rfl fun _ => (readFields_major (vWord_major ..)).trans ?_
  exact congrArg (fun f => some (Instr.vperm f)) (vFields_vWord ..)

theorem Fields.vsel (f : VFmt) : Fields.Statement (.vsel f) := by
  refine Fields.word rfl fun _ => (readFields_major (vWord_major ..)).trans ?_
  exact congrArg (fun f => some (Instr.vsel f)) (vFields_vWord ..)

theorem Fields.vcvti (f : VFmt) : Fields.Statement (.vcvti f) := by
  refine Fields.word rfl fun wf => (readFields_major (vWord_major ..)).trans ?_
  show (if (vWord 0x63 f).getLsbD 25 then some (Instr.vcvtiu ((vFields (vWord 0x63 f)).withVb ((vFields (vWord 0x63 f)).vb &&& 15)))
    else some (Instr.vcvti (vFields (vWord 0x63 f)))) = _
  rw [vWord_top, vFields_vWord]
  simp only [wellFormed, Bool.and_eq_true, Bool.not_eq_true'] at wf
  rw [wf.2]
  rfl

theorem Fields.vcvtiu (f : VFmt) : Fields.Statement (.vcvtiu f) := by
  refine Fields.word rfl fun wf => (readFields_major (vWord_major ..)).trans ?_
  show (if (vWord 0x63 (f.withVb (f.vb ||| 16))).getLsbD 25 then some (Instr.vcvtiu ((vFields (vWord 0x63 (f.withVb (f.vb ||| 16)))).withVb ((vFields (vWord 0x63 (f.withVb (f.vb ||| 16)))).vb &&& 15)))
    else some (Instr.vcvti (vFields (vWord 0x63 (f.withVb (f.vb ||| 16)))))) = _
  rw [vWord_top, vFields_vWord]
  simp only [wellFormed, Bool.and_eq_true, Bool.not_eq_true'] at wf
  show (if (f.vb ||| 16).getLsbD 4 then some (Instr.vcvtiu (f.withVb ((f.vb ||| 16) &&& 15))) else _) = _
  rw [(vb_top f.vb wf.2).1, (vb_top f.vb wf.2).2]
  rfl

theorem Fields.vredsum (f : VFmt) : Fields.Statement (.vredsum f) := by
  refine Fields.word rfl fun _ => (readFields_major (vWord_major ..)).trans ?_
  exact congrArg (fun f => some (Instr.vredsum f)) (vFields_vWord ..)

theorem Fields.vredmax (f : VFmt) : Fields.Statement (.vredmax f) := by
  refine Fields.word rfl fun _ => (readFields_major (vWord_major ..)).trans ?_
  exact congrArg (fun f => some (Instr.vredmax f)) (vFields_vWord ..)

theorem Fields.vredmin (f : VFmt) : Fields.Statement (.vredmin f) := by
  refine Fields.word rfl fun _ => (readFields_major (vWord_major ..)).trans ?_
  exact congrArg (fun f => some (Instr.vredmin f)) (vFields_vWord ..)

theorem Fields.vfredsum (f : VFmt) : Fields.Statement (.vfredsum f) := by
  refine Fields.word rfl fun _ => (readFields_major (vWord_major ..)).trans ?_
  exact congrArg (fun f => some (Instr.vfredsum f)) (vFields_vWord ..)

theorem Fields.vfredmax (f : VFmt) : Fields.Statement (.vfredmax f) := by
  refine Fields.word rfl fun _ => (readFields_major (vWord_major ..)).trans ?_
  exact congrArg (fun f => some (Instr.vfredmax f)) (vFields_vWord ..)

theorem Fields.vscan (f : VFmt) : Fields.Statement (.vscan f) := by
  refine Fields.word rfl fun _ => (readFields_major (vWord_major ..)).trans ?_
  exact congrArg (fun f => some (Instr.vscan f)) (vFields_vWord ..)

theorem Fields.vdot (f : VFmt) : Fields.Statement (.vdot f) := by
  refine Fields.word rfl fun _ => (readFields_major (vWord_major ..)).trans ?_
  exact congrArg (fun f => some (Instr.vdot f)) (vFields_vWord ..)

theorem Fields.vtdot (f : VFmt) : Fields.Statement (.vtdot f) := by
  refine Fields.word rfl fun _ => (readFields_major (vWord_major ..)).trans ?_
  exact congrArg (fun f => some (Instr.vtdot f)) (vFields_vWord ..)

theorem Fields.vunpk3 (f : VFmt) : Fields.Statement (.vunpk3 f) := by
  refine Fields.word rfl fun _ => (readFields_major (vWord_major ..)).trans ?_
  exact congrArg (fun f => some (Instr.vunpk3 f)) (vFields_vWord ..)

theorem Fields.vpack3 (f : VFmt) : Fields.Statement (.vpack3 f) := by
  refine Fields.word rfl fun _ => (readFields_major (vWord_major ..)).trans ?_
  exact congrArg (fun f => some (Instr.vpack3 f)) (vFields_vWord ..)

theorem Fields.vhad (f : VFmt) : Fields.Statement (.vhad f) := by
  refine Fields.word rfl fun _ => (readFields_major (vWord_major ..)).trans ?_
  exact congrArg (fun f => some (Instr.vhad f)) (vFields_vWord ..)

theorem Fields.vqnt (f : VFmt) : Fields.Statement (.vqnt f) := by
  refine Fields.word rfl fun _ => (readFields_major (vWord_major ..)).trans ?_
  exact congrArg (fun f => some (Instr.vqnt f)) (vFields_vWord ..)

theorem Fields.vld (f : VmFmt) : Fields.Statement (.vld f) := by
  refine Fields.word rfl fun _ => (readFields_major (vmWord_major ..)).trans ?_
  exact congrArg (fun f => some (Instr.vld f)) (vmFields_vmWord ..)

theorem Fields.vst (f : VmFmt) : Fields.Statement (.vst f) := by
  refine Fields.word rfl fun _ => (readFields_major (vmWord_major ..)).trans ?_
  exact congrArg (fun f => some (Instr.vst f)) (vmFields_vmWord ..)

theorem Fields.vlds (f : VmFmt) : Fields.Statement (.vlds f) := by
  refine Fields.word rfl fun _ => (readFields_major (vmWord_major ..)).trans ?_
  exact congrArg (fun f => some (Instr.vlds f)) (vmFields_vmWord ..)

theorem Fields.vsts (f : VmFmt) : Fields.Statement (.vsts f) := by
  refine Fields.word rfl fun _ => (readFields_major (vmWord_major ..)).trans ?_
  exact congrArg (fun f => some (Instr.vsts f)) (vmFields_vmWord ..)

theorem Fields.vgth (f : VmFmt) : Fields.Statement (.vgth f) := by
  refine Fields.word rfl fun _ => (readFields_major (vmWord_major ..)).trans ?_
  exact congrArg (fun f => some (Instr.vgth f)) (vmFields_vmWord ..)

theorem Fields.vsct (f : VmFmt) : Fields.Statement (.vsct f) := by
  refine Fields.word rfl fun _ => (readFields_major (vmWord_major ..)).trans ?_
  exact congrArg (fun f => some (Instr.vsct f)) (vmFields_vmWord ..)

theorem Fields.vbcast (f : VFmt) : Fields.Statement (.vbcast f) := by
  refine Fields.word rfl fun _ => (readFields_major (vWord_major ..)).trans ?_
  exact congrArg (fun f => some (Instr.vbcast f)) (vFields_vWord ..)

theorem Fields.vins (f : VFmt) : Fields.Statement (.vins f) := by
  refine Fields.word rfl fun _ => (readFields_major (vWord_major ..)).trans ?_
  exact congrArg (fun f => some (Instr.vins f)) (vFields_vWord ..)

theorem Fields.vext (f : VFmt) : Fields.Statement (.vext f) := by
  refine Fields.word rfl fun _ => (readFields_major (vWord_major ..)).trans ?_
  exact congrArg (fun f => some (Instr.vext f)) (vFields_vWord ..)

theorem Fields.vslup (f : VFmt) : Fields.Statement (.vslup f) := by
  refine Fields.word rfl fun _ => (readFields_major (vWord_major ..)).trans ?_
  exact congrArg (fun f => some (Instr.vslup f)) (vFields_vWord ..)

theorem Fields.vsldn (f : VFmt) : Fields.Statement (.vsldn f) := by
  refine Fields.word rfl fun _ => (readFields_major (vWord_major ..)).trans ?_
  exact congrArg (fun f => some (Instr.vsldn f)) (vFields_vWord ..)

theorem Fields.vcprs (f : VFmt) : Fields.Statement (.vcprs f) := by
  refine Fields.word rfl fun _ => (readFields_major (vWord_major ..)).trans ?_
  exact congrArg (fun f => some (Instr.vcprs f)) (vFields_vWord ..)

theorem Fields.kand (f : VFmt) : Fields.Statement (.kand f) := by
  refine Fields.word rfl fun wf => (readFields_major (vWord_major ..)).trans ?_
  show maskOf (vWord 0x7C (f.withVb 0)) (vFields (vWord 0x7C (f.withVb 0))).vb.toNat = _
  rw [vFields_vWord]
  show some (Instr.kand ((vFields (vWord 0x7C (f.withVb 0))).withVb 0)) = _
  rw [vFields_vWord]
  exact congrArg (fun f => some (Instr.kand f)) (vWithVb_back (VFmt.unmaskedUnary_vb wf) _)

theorem Fields.kor (f : VFmt) : Fields.Statement (.kor f) := by
  refine Fields.word rfl fun wf => (readFields_major (vWord_major ..)).trans ?_
  show maskOf (vWord 0x7C (f.withVb 1)) (vFields (vWord 0x7C (f.withVb 1))).vb.toNat = _
  rw [vFields_vWord]
  show some (Instr.kor ((vFields (vWord 0x7C (f.withVb 1))).withVb 0)) = _
  rw [vFields_vWord]
  exact congrArg (fun f => some (Instr.kor f)) (vWithVb_back (VFmt.unmaskedUnary_vb wf) _)

theorem Fields.kxor (f : VFmt) : Fields.Statement (.kxor f) := by
  refine Fields.word rfl fun wf => (readFields_major (vWord_major ..)).trans ?_
  show maskOf (vWord 0x7C (f.withVb 2)) (vFields (vWord 0x7C (f.withVb 2))).vb.toNat = _
  rw [vFields_vWord]
  show some (Instr.kxor ((vFields (vWord 0x7C (f.withVb 2))).withVb 0)) = _
  rw [vFields_vWord]
  exact congrArg (fun f => some (Instr.kxor f)) (vWithVb_back (VFmt.unmaskedUnary_vb wf) _)

theorem Fields.kandn (f : VFmt) : Fields.Statement (.kandn f) := by
  refine Fields.word rfl fun wf => (readFields_major (vWord_major ..)).trans ?_
  show maskOf (vWord 0x7C (f.withVb 3)) (vFields (vWord 0x7C (f.withVb 3))).vb.toNat = _
  rw [vFields_vWord]
  show some (Instr.kandn ((vFields (vWord 0x7C (f.withVb 3))).withVb 0)) = _
  rw [vFields_vWord]
  exact congrArg (fun f => some (Instr.kandn f)) (vWithVb_back (VFmt.unmaskedUnary_vb wf) _)

theorem Fields.knot (f : VFmt) : Fields.Statement (.knot f) := by
  refine Fields.word rfl fun wf => (readFields_major (vWord_major ..)).trans ?_
  show maskOf (vWord 0x7C (f.withVb 4)) (vFields (vWord 0x7C (f.withVb 4))).vb.toNat = _
  rw [vFields_vWord]
  show some (Instr.knot ((vFields (vWord 0x7C (f.withVb 4))).withVb 0)) = _
  rw [vFields_vWord]
  exact congrArg (fun f => some (Instr.knot f)) (vWithVb_back (VFmt.unmaskedUnary_vb wf) _)

theorem Fields.kcnt (f : VFmt) : Fields.Statement (.kcnt f) := by
  refine Fields.word rfl fun _ => (readFields_major (vWord_major ..)).trans ?_
  exact congrArg (fun f => some (Instr.kcnt f)) (vFields_vWord ..)

theorem Fields.kfst (f : VFmt) : Fields.Statement (.kfst f) := by
  refine Fields.word rfl fun _ => (readFields_major (vWord_major ..)).trans ?_
  exact congrArg (fun f => some (Instr.kfst f)) (vFields_vWord ..)

theorem Fields.vdeq (f : VFmt) : Fields.Statement (.vdeq f) := by
  refine Fields.word rfl fun _ => (readFields_major (vWord_major ..)).trans ?_
  exact congrArg (fun f => some (Instr.vdeq f)) (vFields_vWord ..)

theorem Fields.vadd16 (w : Bool) (d a : VReg) : Fields.Statement (.vadd16 w d a) := by
  refine Fields.half rfl ?_
  show readHalf (hWord 0 (BitVec.ofBool w) a d) = _
  unfold readHalf
  simp only [hWord_op, hWord_d, hWord_a, hWord_wide]
  cases w <;> rfl

theorem Fields.vsub16 (w : Bool) (d a : VReg) : Fields.Statement (.vsub16 w d a) := by
  refine Fields.half rfl ?_
  show readHalf (hWord 1 (BitVec.ofBool w) a d) = _
  unfold readHalf
  simp only [hWord_op, hWord_d, hWord_a, hWord_wide]
  cases w <;> rfl

theorem Fields.vmul16 (w : Bool) (d a : VReg) : Fields.Statement (.vmul16 w d a) := by
  refine Fields.half rfl ?_
  show readHalf (hWord 2 (BitVec.ofBool w) a d) = _
  unfold readHalf
  simp only [hWord_op, hWord_d, hWord_a, hWord_wide]
  cases w <;> rfl

theorem Fields.vmin16 (w : Bool) (d a : VReg) : Fields.Statement (.vmin16 w d a) := by
  refine Fields.half rfl ?_
  show readHalf (hWord 3 (BitVec.ofBool w) a d) = _
  unfold readHalf
  simp only [hWord_op, hWord_d, hWord_a, hWord_wide]
  cases w <;> rfl

theorem Fields.vmax16 (w : Bool) (d a : VReg) : Fields.Statement (.vmax16 w d a) := by
  refine Fields.half rfl ?_
  show readHalf (hWord 4 (BitVec.ofBool w) a d) = _
  unfold readHalf
  simp only [hWord_op, hWord_d, hWord_a, hWord_wide]
  cases w <;> rfl

theorem Fields.vand16 (d a : VReg) : Fields.Statement (.vand16 d a) := by
  refine Fields.half rfl ?_
  show readHalf (hWord 5 (0#1) a d) = _
  unfold readHalf
  simp only [hWord_op, hWord_d, hWord_a, hWord_wide]
  rfl

theorem Fields.vor16 (d a : VReg) : Fields.Statement (.vor16 d a) := by
  refine Fields.half rfl ?_
  show readHalf (hWord 6 (0#1) a d) = _
  unfold readHalf
  simp only [hWord_op, hWord_d, hWord_a, hWord_wide]
  rfl

theorem Fields.vxor16 (d a : VReg) : Fields.Statement (.vxor16 d a) := by
  refine Fields.half rfl ?_
  show readHalf (hWord 7 (0#1) a d) = _
  unfold readHalf
  simp only [hWord_op, hWord_d, hWord_a, hWord_wide]
  rfl

theorem Fields.vfadd16 (w : Bool) (d a : VReg) : Fields.Statement (.vfadd16 w d a) := by
  refine Fields.half rfl ?_
  show readHalf (hWord 8 (BitVec.ofBool w) a d) = _
  unfold readHalf
  simp only [hWord_op, hWord_d, hWord_a, hWord_wide]
  cases w <;> rfl

theorem Fields.vfsub16 (w : Bool) (d a : VReg) : Fields.Statement (.vfsub16 w d a) := by
  refine Fields.half rfl ?_
  show readHalf (hWord 9 (BitVec.ofBool w) a d) = _
  unfold readHalf
  simp only [hWord_op, hWord_d, hWord_a, hWord_wide]
  cases w <;> rfl

theorem Fields.vfmul16 (w : Bool) (d a : VReg) : Fields.Statement (.vfmul16 w d a) := by
  refine Fields.half rfl ?_
  show readHalf (hWord 10 (BitVec.ofBool w) a d) = _
  unfold readHalf
  simp only [hWord_op, hWord_d, hWord_a, hWord_wide]
  cases w <;> rfl

theorem Fields.vfmin16 (w : Bool) (d a : VReg) : Fields.Statement (.vfmin16 w d a) := by
  refine Fields.half rfl ?_
  show readHalf (hWord 11 (BitVec.ofBool w) a d) = _
  unfold readHalf
  simp only [hWord_op, hWord_d, hWord_a, hWord_wide]
  cases w <;> rfl

theorem Fields.vfmax16 (w : Bool) (d a : VReg) : Fields.Statement (.vfmax16 w d a) := by
  refine Fields.half rfl ?_
  show readHalf (hWord 12 (BitVec.ofBool w) a d) = _
  unfold readHalf
  simp only [hWord_op, hWord_d, hWord_a, hWord_wide]
  cases w <;> rfl

theorem Fields.vmv (d a : VReg) : Fields.Statement (.vmv d a) := by
  refine Fields.half rfl ?_
  show readHalf (hWord 13 (0#1) a d) = _
  unfold readHalf
  simp only [hWord_op, hWord_d, hWord_a, hWord_wide]
  rfl

theorem Fields.vsadd16 (w : Bool) (d a : VReg) : Fields.Statement (.vsadd16 w d a) := by
  refine Fields.half rfl ?_
  show readHalf (hWord 14 (BitVec.ofBool w) a d) = _
  unfold readHalf
  simp only [hWord_op, hWord_d, hWord_a, hWord_wide]
  cases w <;> rfl

theorem Fields.vfabs16 (w : Bool) (d a : VReg) : Fields.Statement (.vfabs16 w d a) := by
  refine Fields.half rfl ?_
  show readHalf (hWord 15 (BitVec.ofBool w) a d) = _
  unfold readHalf
  simp only [hWord_op, hWord_d, hWord_a, hWord_wide]
  cases w <;> rfl

theorem Fields.memoryResponse (op : Nat) : Fields.Statement (.memoryResponse op) := Fields.event rfl

theorem Fields.homeReplyArrival (op : Nat) : Fields.Statement (.homeReplyArrival op) := Fields.event rfl

theorem Fields.amoHomeExecute (core : Nat) : Fields.Statement (.amoHomeExecute core) := Fields.event rfl

theorem Fields.messageArrival (core : Nat) : Fields.Statement (.messageArrival core) := Fields.event rfl

theorem Fields.handlerBudgetExhausted (core : Nat) : Fields.Statement (.handlerBudgetExhausted core) := Fields.event rfl

theorem Fields.waccHomeExecute (core : Nat) : Fields.Statement (.waccHomeExecute core) := Fields.event rfl

theorem Fields.waccFlipComplete (core : Nat) (header : Nat) : Fields.Statement (.waccFlipComplete core header) := Fields.event rfl

theorem Fields.remoteWriteApply (flight : Nat) : Fields.Statement (.remoteWriteApply flight) := Fields.event rfl

theorem Fields.settleWrite (die : Nat) (key : Nat) : Fields.Statement (.settleWrite die key) := Fields.event rfl

theorem Fields.hartStart (core ctx : Nat) : Fields.Statement (.hartStart core ctx) := Fields.event rfl

theorem Fields.dispatchArbitration (clus : Nat) : Fields.Statement (.dispatchArbitration clus) := Fields.event rfl

theorem Fields.nodeAging (die : Nat) : Fields.Statement (.nodeAging die) := Fields.event rfl

theorem Fields.eventRecordTake (clus : Nat) : Fields.Statement (.eventRecordTake clus) := Fields.event rfl

theorem Fields.launchEndSweep (launch : Nat) : Fields.Statement (.launchEndSweep launch) := Fields.event rfl

theorem Fields.worldRetire (launch : Nat) : Fields.Statement (.worldRetire launch) := Fields.event rfl

theorem Fields.worldRetireScrub (launch : Nat) : Fields.Statement (.worldRetireScrub launch) := Fields.event rfl

theorem Fields.sliceEnd (clus tenant row : Nat) : Fields.Statement (.sliceEnd clus tenant row) := Fields.event rfl

theorem Fields.deadlineExpiry (clus tenant row : Nat) : Fields.Statement (.deadlineExpiry clus tenant row) := Fields.event rfl

theorem Fields.forcedStop (h : Nat) : Fields.Statement (.forcedStop h) := Fields.event rfl

theorem Fields.contextRelease (h : Nat) : Fields.Statement (.contextRelease h) := Fields.event rfl

theorem Fields.hartResume (core ctx : Nat) : Fields.Statement (.hartResume core ctx) := Fields.event rfl

theorem Fields.interruptTake (h : Nat) : Fields.Statement (.interruptTake h) := Fields.event rfl

theorem Fields.engineFaultDelivery (h : Nat) : Fields.Statement (.engineFaultDelivery h) := Fields.event rfl

theorem Fields.engineCommandStart (core tag : Nat) : Fields.Statement (.engineCommandStart core tag) := Fields.event rfl

theorem Fields.enginePiece (core tag : Nat) : Fields.Statement (.enginePiece core tag) := Fields.event rfl

theorem Fields.bulkChunkSelect (die : Nat) : Fields.Statement (.bulkChunkSelect die) := Fields.event rfl

theorem Fields.engineCommandComplete (core tag : Nat) : Fields.Statement (.engineCommandComplete core tag) := Fields.event rfl

theorem Fields.mldwExecute (core : Nat) : Fields.Statement (.mldwExecute core) := Fields.event rfl

theorem Fields.mswapExecute (core : Nat) : Fields.Statement (.mswapExecute core) := Fields.event rfl

theorem Fields.mstrExecute (gang : Nat) : Fields.Statement (.mstrExecute gang) := Fields.event rfl

theorem Fields.mzeroExecute (gang : Nat) : Fields.Statement (.mzeroExecute gang) := Fields.event rfl

theorem Fields.mdrnExecute (gang : Nat) : Fields.Statement (.mdrnExecute gang) := Fields.event rfl

theorem Fields.matrixCommandComplete (core : Nat) : Fields.Statement (.matrixCommandComplete core) := Fields.event rfl

theorem Fields.pageWalkComplete (h : Nat) : Fields.Statement (.pageWalkComplete h) := Fields.event rfl

theorem Fields.plbShootdown (core shoot : Nat) : Fields.Statement (.plbShootdown core shoot) := Fields.event rfl

theorem Fields.plbShootdownAck (core shoot : Nat) : Fields.Statement (.plbShootdownAck core shoot) := Fields.event rfl

theorem Fields.atsTranslationCompletion (die tenant : Nat) (page : Nat) (reply : AtsReply) : Fields.Statement (.atsTranslationCompletion die tenant page reply) := Fields.event rfl

theorem Fields.atsInvalidationRequest (tenant : Nat) (page len : Nat) : Fields.Statement (.atsInvalidationRequest tenant page len) := Fields.event rfl

theorem Fields.atsInvalidationCompletion (inval : Nat) : Fields.Statement (.atsInvalidationCompletion inval) := Fields.event rfl

theorem Fields.pageRequestResponse (h : Nat) (code : BitVec 4) : Fields.Statement (.pageRequestResponse h code) := Fields.event rfl

theorem Fields.pgreqTimeout (h : Nat) : Fields.Statement (.pgreqTimeout h) := Fields.event rfl

theorem Fields.completionTimeout (core tag : Nat) : Fields.Statement (.completionTimeout core tag) := Fields.event rfl

theorem Fields.dramRequestIssue (req : DramRequest) : Fields.Statement (.dramRequestIssue req) := Fields.event rfl

theorem Fields.budgetRefresh : Fields.Statement .budgetRefresh := Fields.event rfl

theorem Fields.krytukFlitReceive (port : Nat) (flit : List Byte) : Fields.Statement (.krytukFlitReceive port flit) := Fields.event rfl

theorem Fields.remoteRequestExecute (req : Nat) : Fields.Statement (.remoteRequestExecute req) := Fields.event rfl

theorem Fields.cxlMemRequest (req : CxlRequest) : Fields.Statement (.cxlMemRequest req) := Fields.event rfl

theorem Fields.hostLaunch (tenant : Nat) : Fields.Statement (.hostLaunch tenant) := Fields.event rfl

theorem Fields.hostSignal (tenant : Nat) : Fields.Statement (.hostSignal tenant) := Fields.event rfl

theorem Fields.hostAbort (tenant : Nat) : Fields.Statement (.hostAbort tenant) := Fields.event rfl

theorem Fields.hostFence (tenant : Nat) : Fields.Statement (.hostFence tenant) := Fields.event rfl

theorem Fields.hostMap (tenant : Nat) : Fields.Statement (.hostMap tenant) := Fields.event rfl

theorem Fields.hostUnmap (tenant : Nat) : Fields.Statement (.hostUnmap tenant) := Fields.event rfl

theorem Fields.proxyReply (tenant : Nat) : Fields.Statement (.proxyReply tenant) := Fields.event rfl

theorem Fields.commandWaitRelease (tenant : Nat) : Fields.Statement (.commandWaitRelease tenant) := Fields.event rfl

theorem Fields.completionRecord (tenant : Nat) : Fields.Statement (.completionRecord tenant) := Fields.event rfl

theorem Fields.proxyTimeout (tenant : Nat) (jseq : Nat) : Fields.Statement (.proxyTimeout tenant jseq) := Fields.event rfl

theorem Fields.svcNop (slot : Nat) : Fields.Statement (.svcNop slot) := Fields.event rfl

theorem Fields.console (slot : Nat) : Fields.Statement (.console slot) := Fields.event rfl

theorem Fields.fileOpen (slot : Nat) : Fields.Statement (.fileOpen slot) := Fields.event rfl

theorem Fields.fileRead (slot : Nat) : Fields.Statement (.fileRead slot) := Fields.event rfl

theorem Fields.fileWrite (slot : Nat) : Fields.Statement (.fileWrite slot) := Fields.event rfl

theorem Fields.fileClose (slot : Nat) : Fields.Statement (.fileClose slot) := Fields.event rfl

theorem Fields.rangeAlloc (slot : Nat) : Fields.Statement (.rangeAlloc slot) := Fields.event rfl

theorem Fields.rangeFree (slot : Nat) : Fields.Statement (.rangeFree slot) := Fields.event rfl

theorem Fields.pageMap (slot : Nat) : Fields.Statement (.pageMap slot) := Fields.event rfl

theorem Fields.pageUnmap (slot : Nat) : Fields.Statement (.pageUnmap slot) := Fields.event rfl

theorem Fields.residency (h : Nat) (status : BitVec 4) : Fields.Statement (.residency h status) := Fields.event rfl

theorem Fields.migrate (slot : Nat) : Fields.Statement (.migrate slot) := Fields.event rfl

theorem Fields.counterAlloc (slot : Nat) : Fields.Statement (.counterAlloc slot) := Fields.event rfl

theorem Fields.counterFree (slot : Nat) : Fields.Statement (.counterFree slot) := Fields.event rfl

theorem Fields.keyDestroy (slot : Nat) : Fields.Statement (.keyDestroy slot) := Fields.event rfl

theorem Fields.connOpen (slot : Nat) : Fields.Statement (.connOpen slot) := Fields.event rfl

theorem Fields.connSend (slot : Nat) : Fields.Statement (.connSend slot) := Fields.event rfl

theorem Fields.connRecv (slot : Nat) : Fields.Statement (.connRecv slot) := Fields.event rfl

theorem Fields.connClose (slot : Nat) : Fields.Statement (.connClose slot) := Fields.event rfl

theorem Fields.launchSubmit (slot : Nat) : Fields.Statement (.launchSubmit slot) := Fields.event rfl

theorem Fields.launchAbort (slot : Nat) : Fields.Statement (.launchAbort slot) := Fields.event rfl

theorem Fields.tenantConfig (tenant : Nat) (cfg : TenantConfig) : Fields.Statement (.tenantConfig tenant cfg) := Fields.event rfl

theorem Fields.groupConfig (cfg : GroupConfig) : Fields.Statement (.groupConfig cfg) := Fields.event rfl

theorem Fields.perfRead (slot : Nat) : Fields.Statement (.perfRead slot) := Fields.event rfl

theorem Fields.timeRead (slot : Nat) : Fields.Statement (.timeRead slot) := Fields.event rfl

theorem Fields.trapReport (slot : Nat) : Fields.Statement (.trapReport slot) := Fields.event rfl

theorem Fields.counterAssign (ctr tenant : Nat) : Fields.Statement (.counterAssign ctr tenant) := Fields.event rfl

theorem Fields.isolationSet (entry : Nat) (cfg : IsolationConfig) : Fields.Statement (.isolationSet entry cfg) := Fields.event rfl

theorem Fields.layoutSet (tenant : Nat) (base size : Nat) (va : Word) : Fields.Statement (.layoutSet tenant base size va) := Fields.event rfl

theorem Fields.handover (step : HandoverStep) : Fields.Statement (.handover step) := Fields.event rfl

theorem Fields.getVersion : Fields.Statement .getVersion := Fields.event rfl

theorem Fields.getCapabilities : Fields.Statement .getCapabilities := Fields.event rfl

theorem Fields.negotiateAlgorithms (asym hash : Bool) : Fields.Statement (.negotiateAlgorithms asym hash) := Fields.event rfl

theorem Fields.getDigests : Fields.Statement .getDigests := Fields.event rfl

theorem Fields.getCertificate (offset len : Nat) : Fields.Statement (.getCertificate offset len) := Fields.event rfl

theorem Fields.challenge (nonce : BitVec 256) : Fields.Statement (.challenge nonce) := Fields.event rfl

theorem Fields.getMeasurements (index : BitVec 8) (tenant : Nat) (jseq : Nat) : Fields.Statement (.getMeasurements index tenant jseq) := Fields.event rfl

theorem Fields.keyExchange (exch : BitVec 768) : Fields.Statement (.keyExchange exch) := Fields.event rfl

theorem Fields.finish (verify : BitVec 384) : Fields.Statement (.finish verify) := Fields.event rfl

theorem Fields.keyRelease (req : List Byte) : Fields.Statement (.keyRelease req) := Fields.event rfl

theorem Fields.firmwareImageReceive (image : FirmwareImage) : Fields.Statement (.firmwareImageReceive image) := Fields.event rfl

theorem Fields.firmwareActivate : Fields.Statement .firmwareActivate := Fields.event rfl

theorem Fields.firmwareSelftestFail : Fields.Statement .firmwareSelftestFail := Fields.event rfl

theorem Fields.sensorRead (id : BitVec 16) (inst : Nat) : Fields.Statement (.sensorRead id inst) := Fields.event rfl

theorem Fields.sensorUpdate (id : BitVec 16) (inst : Nat) : Fields.Statement (.sensorUpdate id inst) := Fields.event rfl

theorem Fields.coldReset : Fields.Statement .coldReset := Fields.event rfl

theorem Fields.warmReset : Fields.Statement .warmReset := Fields.event rfl

theorem Fields.dieReset (die : Nat) : Fields.Statement (.dieReset die) := Fields.event rfl

theorem Fields.clusterReset (clus : Nat) : Fields.Statement (.clusterReset clus) := Fields.event rfl

theorem Fields.coreReset (core : Nat) : Fields.Statement (.coreReset core) := Fields.event rfl

theorem Fields.engineReset (core : Nat) (unit : CoreUnit) : Fields.Statement (.engineReset core unit) := Fields.event rfl

theorem Fields.bulkReset (die unit : Nat) : Fields.Statement (.bulkReset die unit) := Fields.event rfl

theorem Fields.walkerReset (die unit : Nat) : Fields.Statement (.walkerReset die unit) := Fields.event rfl

theorem Fields.linkReset (port : Nat) : Fields.Statement (.linkReset port) := Fields.event rfl

theorem Fields.tenantReset (tenant : Nat) : Fields.Statement (.tenantReset tenant) := Fields.event rfl

theorem Fields.thermalThrottle (steps : Nat) : Fields.Statement (.thermalThrottle steps) := Fields.event rfl

theorem Fields.powerCapSet (watts : Nat) : Fields.Statement (.powerCapSet watts) := Fields.event rfl

theorem Fields.clusterIdleEntry (clus : Nat) : Fields.Statement (.clusterIdleEntry clus) := Fields.event rfl

theorem Fields.clusterWake (clus : Nat) : Fields.Statement (.clusterWake clus) := Fields.event rfl

theorem Fields.rightsRequestArrival (die : Nat) : Fields.Statement (.rightsRequestArrival die) := Fields.event rfl

theorem Fields.tensorTableOperation : Fields.Statement .tensorTableOperation := Fields.event rfl

theorem Fields.serviceTimerExpiry (h : Nat) : Fields.Statement (.serviceTimerExpiry h) := Fields.event rfl

theorem Fields.linkTraining (dev : BitVec 6) (grouped : Bool) : Fields.Statement (.linkTraining dev grouped) := Fields.event rfl

end Sys2Proof.Laws
end

