-- ==== Sys2Proof/Laws/Sched.lean ====
section
/-!
SUPPORT. What the bar of R76 asks, once: nothing of a slice that has not ended, and R76's plain words of the slice that ended last.
-/

namespace Sys2Proof.Machine

/-- A slice that has not ended bars nothing. -/
theorem causeWaits_of_open (s : State) (clus fuel key : Nat) (v : SliceState) (h : v.ended = none) :
    causeWaits s clus fuel key v = false := by
  cases fuel <;> simp [causeWaits, h]

theorem not_barred_of_open (s : State) (core tenant : Nat) (h : (sliceOf s core tenant).ended = none) :
    barred s core tenant = false :=
  causeWaits_of_open _ _ _ _ _ h

/-- Of the slice that ended last on its cluster, a node's work waits exactly while harts of it have still to start there (R76). -/
theorem causeWaits_last_node (s : State) (clus fuel key l n t : Nat) (v : SliceState)
    (last : ∀ core tenant, endedAfter (sliceKey s core tenant) (sliceAt s clus (sliceKey s core tenant)) key v = false)
    (ended : v.ended = some t) (cause : v.cause = some (.node l n)) :
    causeWaits s clus (fuel + 1) key v =
      (getCluster s clus).workQ.any fun w => w.launch = l && w.node = n && w.starts.any (·.2 ≠ 0) := by
  simp [causeWaits, last, ended, cause]

/-- Of the slice that ended last on its cluster, saved harts wait exactly while a record of theirs is there (R76). -/
theorem causeWaits_last_saved (s : State) (clus fuel key t : Nat) (ids : List Nat) (v : SliceState)
    (last : ∀ core tenant, endedAfter (sliceKey s core tenant) (sliceAt s clus (sliceKey s core tenant)) key v = false)
    (ended : v.ended = some t) (cause : v.cause = some (.saved ids)) :
    causeWaits s clus (fuel + 1) key v = s.saves.any fun r => ids.contains r.serial := by
  simp [causeWaits, last, ended, cause]

end Sys2Proof.Machine
end

