-- ==== Sys2Proof/Laws/Traffic.lean ====
section
/-!
SUPPORT. What goes out to the memory controllers and over the Krytuk Link changes the agenda, the channels, their charges, debts and
refresh, the ports and what has left the device, and nothing else.
-/

namespace Sys2Proof.Machine

/-- Only the traffic differs. -/
def OnlyTraffic (s t : State) : Prop :=
  t = { s with
    agenda := t.agenda, channels := t.channels, charges := t.charges, debts := t.debts, budgetAt := t.budgetAt, ports := t.ports
    sentOut := t.sentOut }

theorem OnlyTraffic.refl (s : State) : OnlyTraffic s s := rfl

theorem OnlyTraffic.trans {s t u : State} (a : OnlyTraffic s t) (b : OnlyTraffic t u) : OnlyTraffic s u := by
  unfold OnlyTraffic at *
  rw [b, a]

theorem OnlyTraffic.foldl {α : Type} (f : State → α → State) (hf : ∀ s a, OnlyTraffic s (f s a)) (l : List α) (s : State) :
    OnlyTraffic s (l.foldl f s) := by
  induction l generalizing s with
  | nil => exact .refl s
  | cons a l ih => exact (hf s a).trans (ih _)

theorem OnlyTraffic.harts {s t : State} (h : OnlyTraffic s t) : t.harts = s.harts := by rw [h]
theorem OnlyTraffic.cores {s t : State} (h : OnlyTraffic s t) : t.cores = s.cores := by rw [h]
theorem OnlyTraffic.views {s t : State} (h : OnlyTraffic s t) : t.views = s.views := by rw [h]
theorem OnlyTraffic.outer {s t : State} (h : OnlyTraffic s t) : t.outer = s.outer := by rw [h]
theorem OnlyTraffic.cur {s t : State} (h : OnlyTraffic s t) : t.cur = s.cur := by rw [h]
theorem OnlyTraffic.me {s t : State} (h : OnlyTraffic s t) : Machine.me t = Machine.me s := by
  unfold Machine.me getHart; rw [h.harts, h.cur]
theorem OnlyTraffic.memoryWf {s t : State} (h : OnlyTraffic s t) : Memory.wf t = Memory.wf s := Memory.wf_congr h.views h.outer

theorem post_traffic (s : State) (e : Event) : OnlyTraffic s (post s e) := rfl

theorem refreshBudgets_traffic (s : State) : OnlyTraffic s (refreshBudgets s) := by
  unfold refreshBudgets
  simp only
  split <;> rfl

theorem chargeRequest_traffic (s : State) (r : DramRequest) : OnlyTraffic s (chargeRequest s r) := by
  refine (refreshBudgets_traffic s).trans ?_
  unfold chargeRequest
  generalize refreshBudgets s = q
  simp only
  split
  · rfl
  · split <;> rfl

theorem askLine_traffic (launch waiter : Nat) (write : Bool) (s : State) (key : Nat) :
    OnlyTraffic s (askLine launch waiter write s key) := by
  unfold askLine
  split
  · exact post_traffic s _
  · exact .refl s

theorem askLines_traffic (launch waiter : Nat) (ks : List (Nat × Bool)) (s : State) : OnlyTraffic s (askLines launch waiter ks s) :=
  .foldl (fun (s : State) (k : Nat × Bool) => askLine launch waiter k.2 s k.1) (fun s k => askLine_traffic launch waiter k.2 s k.1) ks s

theorem chargeLine_traffic (launch : Nat) (write : Bool) (s : State) (key : Nat) : OnlyTraffic s (chargeLine launch write s key) := by
  unfold chargeLine
  split
  · exact chargeRequest_traffic s _
  · exact .refl s

theorem sendFlit_traffic (s : State) (port : Nat) (slots : List Byte) : OnlyTraffic s (sendFlit s port slots) := rfl

theorem sendAnswer_traffic (s : State) (port number : Nat) (status : BitVec 8) (data : List Byte) :
    OnlyTraffic s (sendAnswer s port number status data) := rfl

theorem sendPeer_traffic (a : Agent) (q : PeerAsk) (s : State) (t : Target) : OnlyTraffic s (sendPeer a q s t) := by
  unfold sendPeer
  split
  · exact sendFlit_traffic s _ _
  · exact .refl s

theorem sendLine_traffic (a : Agent) (q : PeerAsk) (write : Bool) (s : State) (t : Target) : OnlyTraffic s (sendLine a q write s t) :=
  (chargeLine_traffic a.launch write s t.key).trans (sendPeer_traffic a q _ t)

theorem sendAccess_traffic (waiter : Nat) (a : Agent) (write : Bool) (qs : List (Target × PeerAsk)) (s : State) :
    OnlyTraffic s (sendAccess waiter a write qs s) :=
  (OnlyTraffic.foldl _ (askLine_traffic a.launch waiter write) (lineKeysOf (qs.map (·.1))) s).trans
    (.foldl _ (fun s q => sendPeer_traffic a q.2 s q.1) qs _)

theorem sendReads_traffic (a : Agent) (s : State) (ts : List Target) : OnlyTraffic s (sendReads a s ts) :=
  .foldl _ (fun s t => sendLine_traffic a (.read 64) false s (wholeLine t)) ts s

/-- The charges of a page walk. -/
theorem chargeWalk_traffic (launch die va : Nat) (s : State) : OnlyTraffic s (chargeWalk launch die va s) :=
  .foldl _ (chargeLine_traffic launch false) _ s

theorem chargeMiss_traffic (a : Agent) (p : Word) (s : State) : OnlyTraffic s (chargeMiss a p s) := by
  unfold chargeMiss
  split
  · exact chargeWalk_traffic _ _ _ s
  · exact .refl s

theorem sendUnit_traffic (a : Agent) (q : PeerAsk) (write : Bool) (s : State) (t : Target) : OnlyTraffic s (sendUnit a q write s t) :=
  (chargeMiss_traffic a _ s).trans (sendLine_traffic a q write _ t)

theorem chargeAgent_traffic (a : Agent) (p : Word) (n : Nat) (s : State) : OnlyTraffic s (chargeAgent a p n s) :=
  .foldl _ (fun s e => by
    split
    · exact sendUnit_traffic a _ false s _
    · exact .refl s) _ s

/-- An access to lines that lie neither in DRAM nor on a peer sends nothing out. -/
theorem sendAccess_none (waiter : Nat) (a : Agent) (write : Bool) (qs : List (Target × PeerAsk)) (s : State)
    (hd : ∀ q ∈ qs, isDram q.1.key = false) (hr : ∀ q ∈ qs, q.1.route ≠ 1) : sendAccess waiter a write qs s = s := by
  have hk : ∀ (l : List Target) (acc : List Nat), (∀ k ∈ acc, isDram k = false) → (∀ t ∈ l, isDram t.key = false) →
      ∀ k ∈ l.foldl (fun acc t => if acc.any fun k => k / 64 = t.key / 64 then acc else acc ++ [t.key]) acc, isDram k = false := by
    intro l
    induction l with
    | nil => exact fun acc ha _ => ha
    | cons t l ih =>
      intro acc ha hl
      refine ih _ ?_ fun u hu => hl u (List.mem_cons_of_mem _ hu)
      show ∀ k ∈ (if acc.any fun k => k / 64 = t.key / 64 then acc else acc ++ [t.key]), isDram k = false
      split
      · exact ha
      · intro k hm
        rcases List.mem_append.mp hm with h | h
        · exact ha k h
        · rw [List.mem_singleton.mp h]; exact hl t (List.mem_cons_self ..)
  have h1 : ∀ (l : List Nat) (s : State), (∀ k ∈ l, isDram k = false) → l.foldl (askLine a.launch waiter write) s = s := by
    intro l
    induction l with
    | nil => exact fun _ _ => rfl
    | cons k l ih =>
      intro s h
      have hk0 := h k (List.mem_cons_self ..)
      rw [List.foldl_cons, askLine, hk0]
      exact ih s fun j hj => h j (List.mem_cons_of_mem _ hj)
  have h2 : ∀ (l : List (Target × PeerAsk)) (s : State), (∀ q ∈ l, q.1.route ≠ 1) → l.foldl (fun s q => sendPeer a q.2 s q.1) s = s := by
    intro l
    induction l with
    | nil => exact fun _ _ => rfl
    | cons q l ih =>
      intro s h
      have hq : sendPeer a q.2 s q.1 = s := by rw [sendPeer, if_neg (h q (List.mem_cons_self ..))]
      rw [List.foldl_cons, hq]
      exact ih s fun j hj => h j (List.mem_cons_of_mem _ hj)
  have h3 : ∀ t ∈ qs.map (·.1), isDram t.key = false := by
    intro t ht
    obtain ⟨q, hq, rfl⟩ := List.mem_map.mp ht
    exact hd q hq
  unfold sendAccess
  simp only
  rw [h1 (lineKeysOf (qs.map (·.1))) s (hk _ [] (fun _ h => (List.not_mem_nil h).elim) h3)]
  exact h2 qs s hr

end Sys2Proof.Machine
end

