-- ==== Sys2Proof/Laws/Stretches.lean ====
section
/-!
SUPPORT. The operations that write whole stretches of memory keep its canonical form: writes of device structures, save records, page
moves, and resets.
-/

namespace Sys2Proof.Machine

/-- Any fold of steps that keep the canonical form keeps it. -/
theorem Memory.wf_foldl {α : Type} (f : State → α → State) (hf : ∀ s a, Memory.wf s = true → Memory.wf (f s a) = true)
    (l : List α) {s : State} (w : Memory.wf s = true) : Memory.wf (l.foldl f s) = true := by
  induction l generalizing s with
  | nil => exact w
  | cons a l ih => exact ih (hf s a w)

theorem Memory.wf_plainWrite {s : State} (w : Memory.wf s = true) (key : Nat) (bs : List Byte) :
    Memory.wf (plainWrite s key bs) = true :=
  Memory.wf_foldl _ (fun _ _ h => Memory.wf_applyEverywhere h _ _ _) _ w

theorem Memory.wf_writePart {s : State} (w : Memory.wf s = true) (l : Launch) (core ctx : Nat) (p : Nat × List Byte) :
    Memory.wf (writePart l core ctx s p) = true := by
  unfold writePart
  exact Memory.wf_foldl _ (fun s e h => Memory.wf_applyEverywhere ((chargeLine_traffic l.id true s _).memoryWf.trans h) _ _ _) _ w

theorem Memory.wf_writeSave {s : State} (w : Memory.wf s = true) (r : Save) : Memory.wf (writeSave s r) = true := by
  unfold writeSave
  split
  · exact w
  · exact Memory.wf_foldl _ (fun _ p h => Memory.wf_writePart h _ _ _ p) _ w

theorem clearKeys_views (s : State) (gone : Nat → Bool) :
    (clearKeys s gone).views = mapVals [] (fun _ m => mapDrop gone m) s.views := rfl

theorem Memory.wf_clearKeys {s : State} (w : Memory.wf s = true) (gone : Nat → Bool) : Memory.wf (clearKeys s gone) = true := by
  rw [Memory.wf_iff] at w ⊢
  rw [clearKeys_views]
  refine ⟨mapWf_mapVals _ _ w.1, fun e he => ?_, w.2.2⟩
  obtain ⟨a, ha, h⟩ := mem_mapVals he
  rw [h]
  exact mapWf_mapDrop 0 gone (w.2.1 a ha)

/-- Likewise for a map. -/
theorem mapWf_foldl {α : Type} (f : SMap Byte → α → SMap Byte) (hf : ∀ m a, mapWf 0 m = true → mapWf 0 (f m a) = true)
    (l : List α) {m : SMap Byte} (w : mapWf 0 m = true) : mapWf 0 (l.foldl f m) = true := by
  induction l generalizing m with
  | nil => exact w
  | cons a l ih => exact ih (hf m a w)

/-- The memory contents are a map in canonical form whatever the views hold. -/
theorem mapWf_homeCells (s : State) (keep : Nat → Bool) : mapWf 0 (homeCells s keep) = true :=
  mapWf_foldl _ (fun _ e h => mapWf_foldl _ (fun m c h => by
    show mapWf 0 (if homeDie c.1 = e.1 && keep c.1 then mapPut 0 m c.1 c.2 else m) = true
    split
    · exact mapWf_mapPut 0 _ _ h
    · exact h) e.2 h) s.views rfl

theorem Memory.wf_renewView {s : State} (w : Memory.wf s = true) (die : Nat) : Memory.wf (renewView s die) = true :=
  (Memory.wf_congr (s := setView s die (homeCells s fun _ => true)) (t := renewView s die) rfl rfl).trans
    (Memory.wf_setView w die (mapWf_homeCells s _))

theorem coldState_views (s : State) : (coldState s).views = [] := rfl
theorem coldState_outer (s : State) : (coldState s).outer = s.outer := rfl

theorem Memory.wf_coldState {s : State} (w : Memory.wf s = true) : Memory.wf (coldState s) = true := by
  rw [Memory.wf_iff] at w ⊢
  rw [coldState_views, coldState_outer]
  exact ⟨rfl, fun _ he => (List.not_mem_nil he).elim, w.2.2⟩

@[simp] theorem rehome_views (s : State) (src dst id : Nat) (e : Event) : (rehome s src dst id e).views = s.views := rfl
@[simp] theorem rehome_outer (s : State) (src dst id : Nat) (e : Event) : (rehome s src dst id e).outer = s.outer := rfl

/-- One line copied in the view of a die, with what it is stored under. -/
theorem Memory.wf_copyLine {s : State} (w : Memory.wf s = true) (d dst : Nat) (bs : List Byte) (u : LineKey) :
    Memory.wf (setLineKey (applyView s d dst bs) d dst u) = true :=
  (Memory.wf_congr (setLineKey_views ..) (setLineKey_outer ..)).trans (Memory.wf_applyView w d _ _)

theorem settleUnit_views (s : State) (key : Nat) : (settleUnit s key).views = s.views ∧ (settleUnit s key).outer = s.outer := by
  unfold settleUnit
  generalize List.filter (fun d => !unitSettled s d key) [0, 1, 2, 3] = l
  induction l generalizing s with
  | nil => exact ⟨rfl, rfl⟩
  | cons d l ih => exact ih (post s (.settleWrite d key))

theorem Memory.wf_settleUnit {s : State} (w : Memory.wf s = true) (key : Nat) : Memory.wf (settleUnit s key) = true :=
  (Memory.wf_congr (settleUnit_views s key).1 (settleUnit_views s key).2).trans w

theorem Memory.wf_moveLine {s : State} (w : Memory.wf s = true) (src dst : Nat) : Memory.wf (moveLine s src dst) = true := by
  have h := Memory.wf_foldl (fun s d => setLineKey (applyView s d dst (mapBytes (viewOf s d) src 64)) d dst (lineKeyOf s d src))
    (fun s d h => Memory.wf_copyLine h d dst _ _) [0, 1, 2, 3] w
  unfold moveLine
  generalize List.foldl (fun s d => setLineKey (applyView s d dst (mapBytes (viewOf s d) src 64)) d dst (lineKeyOf s d src)) s
    [0, 1, 2, 3] = q at h ⊢
  exact Memory.wf_foldl _ (fun s o h => (Memory.wf_congr (rehome_views ..) (rehome_outer ..)).trans h) _
    (Memory.wf_foldl settleUnit (fun _ k h => Memory.wf_settleUnit h k) _
      ((Memory.wf_congr (s := q) rfl rfl).trans h))

theorem Memory.wf_landWrite {s : State} (w : Memory.wf s = true) (die key : Nat) (bs : List Byte) (u : LineKey) :
    Memory.wf (landWrite s die key bs u) = true := by
  unfold landWrite
  split
  · exact w
  · exact Memory.wf_applyUnder w die key bs u

/-- What follows an MCA write's becoming visible touches no memory but the L1 of its core (R91). -/
theorem afterMca_frame (s : State) (v : McaWrite) : OnlyCores s (afterMca s v) := by
  unfold afterMca
  split
  · exact onlyCores_modCore s _ _
  · split
    · exact .refl s
    · exact onlyCores_modCore s _ _

theorem modLaunch_memoryWf (s : State) (l : Nat) (f : Launch → Launch) : Memory.wf (modLaunch s l f) = Memory.wf s := by
  unfold modLaunch
  split <;> rfl

/-- The writes of a loader keep the form (R298). -/
theorem Memory.wf_loadLocal {s : State} (w : Memory.wf s = true) (l : Launch) : Memory.wf (loadLocal s l) = true := by
  unfold loadLocal
  simp only
  split
  · exact w
  · rw [modLaunch_memoryWf]
    exact Memory.wf_foldl _ (fun s g h => Memory.wf_applyAll (s := powerUp s g 7) h _ _) _ w

end Sys2Proof.Machine
end

