-- ==== Sys2Proof/Laws/Vector.lean ====
section
/-!
SUPPORT. Lanes of vector registers: what a register put together from lanes reads as, and what the masked operation gives in each lane.
-/

namespace Sys2Proof.Machine

theorem joinLanes_lt (w : Nat) (l : List Nat) : joinLanes w l < 2 ^ (w * l.length) := by
  induction l with
  | nil => simp [joinLanes]
  | cons x xs ih =>
    have hx : x % 2 ^ w < 2 ^ w := Nat.mod_lt _ (Nat.two_pow_pos w)
    have he : 2 ^ (w * (x :: xs).length) = 2 ^ w * 2 ^ (w * xs.length) := by
      rw [List.length_cons, Nat.mul_succ, Nat.add_comm, Nat.pow_add]
    rw [he]
    unfold joinLanes
    calc x % 2 ^ w + 2 ^ w * joinLanes w xs < 2 ^ w + 2 ^ w * joinLanes w xs := by omega
      _ = 2 ^ w * (joinLanes w xs + 1) := by rw [Nat.mul_succ, Nat.add_comm]
      _ ≤ 2 ^ w * 2 ^ (w * xs.length) := Nat.mul_le_mul_left _ ih

theorem joinLanes_lane (w : Nat) (l : List Nat) (i : Nat) : joinLanes w l / 2 ^ (w * i) % 2 ^ w = l.getD i 0 % 2 ^ w := by
  induction l generalizing i with
  | nil => simp [joinLanes]
  | cons x xs ih =>
    have hp : 0 < 2 ^ w := Nat.two_pow_pos w
    cases i with
    | zero =>
      unfold joinLanes
      rw [Nat.mul_zero, Nat.pow_zero, Nat.div_one, Nat.add_mul_mod_self_left, Nat.mod_mod]
      rfl
    | succ i =>
      have hd : (x % 2 ^ w + 2 ^ w * joinLanes w xs) / 2 ^ w = joinLanes w xs := by
        rw [Nat.add_mul_div_left _ _ hp, Nat.div_eq_of_lt (Nat.mod_lt _ hp), Nat.zero_add]
      unfold joinLanes
      rw [Nat.mul_succ, Nat.add_comm (w * i) w, Nat.pow_add, ← Nat.div_div_eq_div_mul, hd, ih]
      rfl

/-- A lane of a register put together from lanes that fit it. -/
theorem lane_ofLanes (w : Nat) (l : List Nat) (i : Nat) (h : w * l.length ≤ 512) : lane (ofLanes w l) w i = l.getD i 0 % 2 ^ w := by
  have hlt : joinLanes w l < 2 ^ 512 := Nat.lt_of_lt_of_le (joinLanes_lt w l) (Nat.pow_le_pow_right (by omega) h)
  have ht : (ofLanes w l).toNat = joinLanes w l := by
    unfold ofLanes
    rw [BitVec.toNat_ofNat, Nat.mod_eq_of_lt hlt]
  unfold lane
  rw [ht]
  exact joinLanes_lane w l i

@[simp] theorem maskedLanes_length (n : Nat) (sel : Nat → Bool) (z : Bool) (old : Nat → Nat) (f : Nat → Nat × FpFlags) :
    (maskedLanes n sel z old f).1.length = n := by
  simp [maskedLanes]

/-- Lane by lane: the operation where the mask selects, otherwise zero or the old lane (R407). -/
theorem maskedLanes_getD (n : Nat) (sel : Nat → Bool) (z : Bool) (old : Nat → Nat) (f : Nat → Nat × FpFlags) {i : Nat} (hi : i < n) :
    (maskedLanes n sel z old f).1.getD i 0 = if sel i then (f i).1 else if z then 0 else old i := by
  unfold maskedLanes
  simp only [List.map_map]
  rw [List.getD_eq_getElem?_getD, List.getElem?_map, List.getElem?_range hi]
  simp only [Option.map_some, Function.comp, Option.getD_some]
  split <;> rfl

/-- A lane that is computed from no dead register has the result of its operation (R408). -/
@[simp] theorem laneResult_closed (s : State) (i : Instr) (w k : Nat) (r : Nat × FpFlags) : laneResult s i w k false r = r := rfl

/-- A lane that is open fits its width, and raises no flag that the instruction cannot raise (R408). -/
theorem laneResult_open (s : State) (i : Instr) (w k : Nat) (r : Nat × FpFlags) :
    (laneResult s i w k true r).1 < 2 ^ w ∧ (laneResult s i w k true r).2 ||| raises i = raises i :=
  ⟨Nat.mod_lt _ (Nat.two_pow_pos w), by simp only [laneResult, if_true]; ext i; simp⟩

/-- With live registers no lane is open. -/
theorem openLane_of_live (h : Hart) (f : VFmt) (regs : List VReg) (hm : f.mask = 0 ∨ h.live.getLsbD (maskReg f.mask).toNat = true)
    (hr : ∀ r ∈ regs, h.live.getLsbD r.toNat = true) : openLane h f regs = false := by
  simp only [openLane, deadMask, isDead, Bool.or_eq_false_iff, Bool.and_eq_false_iff, decide_eq_false_iff_not, not_not, Bool.not_eq_false',
    List.any_eq_false, Bool.not_eq_true', Bool.not_eq_false]
  exact ⟨hm, hr⟩

/-- A vector instruction is illegal in the handler context, traps on a dead source that is checked, and otherwise goes on. -/
theorem withVector_cases (s : State) (i : Instr) (k : Result) :
    (isHandler s.cur = true ∧ withVector s i k = illegal s i) ∨
      (isHandler s.cur = false ∧ (∃ r, deadSource (me s) i = some r ∧ withVector s i k = trapR s ⟨0x03, r.setWidth 64, 0⟩)) ∨
      (isHandler s.cur = false ∧ deadSource (me s) i = none ∧ withVector s i k = k) := by
  unfold withVector
  cases hh : isHandler s.cur
  · cases hd : deadSource (me s) i with
    | none => exact .inr (.inr ⟨rfl, rfl, rfl⟩)
    | some r => exact .inr (.inl ⟨rfl, r, rfl, rfl⟩)
  · exact .inl ⟨rfl, rfl⟩

end Sys2Proof.Machine
end

