-- ==== Sys2Proof/Tests/Slice0.lean ====
section
/-!
SUPPORT. Tests: the spec's encodings decode to their instructions, ill-formed terms are refused, and concrete states meet the
hypotheses of the statements.
-/

-- one theorem after another: many at once would need more stacks than the memory limit of a check allows
set_option Elab.async false

namespace Sys2Proof.Tests

open Sys2Proof.Machine Sys2Proof.Claims

/-! ### Decoding -/

/-- Every word of a list decodes to the instruction beside it. -/
def readsAll (nbits : Nat) (l : List (Nat × Instr)) : Bool := l.all fun e => decide (decodeTableWord nbits e.1 = some e.2)

/-- Encoding examples of the instruction reference, as bxasm writes them. -/
theorem test_decode_examples_1 : readsAll 32
    [(0x0020E703, .add 7 7 8),
     (0x0004A505, .addi 5 5 1),
     (0x0000551F, .addpc 21 2),
     (0x18106035, .amo .add .d 0 3 4),
     (0x14906935, .amo .cas .w 9 3 4),
     (0x011CC503, .andR 5 6 7),
     (0x03FCA607, .andi 6 5 255),
     (0xFF84C521, .bcond .ne 5 6 (-4)),
     (0x0008004F, .bar .clus),
     (0x2A64835F, .bkcmd 5 3 4 (some .die) (some .core)),
     (0x0D80C503, .bswap 5 6),
     (0x0C00C503, .clz 5 6),
     (0x28080361, .colcmd 5 3 .clus),
     (0xEC037C59, .cpcmdResume 29 28 27),
     (0x2A648359, .cpcmd 5 3 4 (some .die) (some .core)),
     (0x4800055B, .cpstat 9 5),
     (0x0008C563, .crot 5 6),
     (0x0C80C503, .ctz 5 6),
     (0x0A1CC503, .div 5 6 7),
     (0x1F033B19, .extu 27 25 0 31),
     (0x02100039, .fence 4 .die),
     (0x00400051, .gang .sixteen),
     (0x0018A053, .grant 5 6),
     (0x0080602F, .haltRetain 3),
     (0x0F82B41D, .ins 20 21 32 15),
     (0xFFFF0023, .jal 0 (-8)),
     (0x00012AFB, .kcnt ⟨false, false, false, 0, 0, 1, 5, 2⟩),
     (0x000230FD, .kfst ⟨false, false, false, 0, 0, 2, 6, 0⟩),
     (0x00129331, .ld .bu 19 20 0),
     (0x00AC7331, .ld .d 19 3 5),
     (0x01E86F31, .ld .w 15 3 15),
     (0x00100517, .lui 5 128),
     (0x059CC503, .maxS 5 6 7),
     (0x0010606B, .mcfg 3 4),
     (0x00240F29, .mfsr 15 0x009)] = true := by decide +kernel

/-- Encoding examples of the instruction reference, as bxasm writes them. -/
theorem test_decode_examples_2 : readsAll 32
    [(0x051CC503, .minS 5 6 7),
     (0x0000A06D, .mldw 5),
     (0x0100053D, .mpoll 5),
     (0x4900873B, .msend 9 7 4 2),
     (0x00000977, .mstat 9),
     (0x0020C071, .mstr 6 8),
     (0x0065002B, .mtsr 0x019 8),
     (0x081CC503, .mul 5 6 7),
     (0x0000053D, .mwait 5),
     (0x019CC503, .orR 5 6 7),
     (0x03FCC509, .ori 5 6 255),
     (0x0018A957, .pgreq 9 5 6),
     (0x0D00C503, .popc 5 6),
     (0x00146041, .qpush 3 5),
     (0x0B1CC503, .rem 5 6 7),
     (0x0018A055, .revoke 5 6),
     (0x0000002D, .safept 0),
     (0x0050C54B, .sigc 0 5 6 .die),
     (0x039CC503, .sra 5 6 7),
     (0x002E4C33, .st .d 12 18 1),
     (0x000C6533, .st .d 5 3 0),
     (0x00090F33, .st .w 15 8 0),
     (0x009CC503, .sub 5 6 7),
     (0x001CB949, .svc 25 5 7),
     (0x0000C565, .tdef 5 6),
     (0x00000A43, .tfetch 10),
     (0x0000C069, .tkill 6),
     (0x0000C545, .tspawn 5 6),
     (0x0000C567, .tver 5 6),
     (0x00000C5D, .twait 12),
     (0x000312B1, .vabs ⟨false, false, false, 0, 0, 3, 2, 2⟩),
     (0x00C52081, .vadd ⟨false, false, false, 0, 6, 5, 4, 0⟩),
     (0x28C52291, .vand ⟨false, false, true, 2, 6, 5, 4, 2⟩),
     (0x00072AED, .vbcast ⟨false, false, false, 0, 0, 7, 5, 2⟩),
     (0x01280AB5, .vcmplt ⟨false, false, false, 0, 9, 8, 1, 2⟩)] = true := by decide +kernel

/-- Encoding examples of the instruction reference, as bxasm writes them. -/
theorem test_decode_examples_3 : readsAll 32
    [(0x014730B1, .vcos ⟨false, false, false, 0, 0, 7, 6, 0⟩),
     (0x240852F7, .vcprs ⟨false, false, true, 1, 0, 8, 10, 2⟩),
     (0x002520C1, .vcvt ⟨false, false, false, 0, 1, 5, 4, 0⟩),
     (0x010732C7, .vcvti ⟨false, false, false, 0, 8, 7, 6, 2⟩),
     (0x000732C7, .vcvti ⟨false, false, false, 0, 0, 7, 6, 2⟩),
     (0x030732C7, .vcvtiu ⟨false, false, false, 0, 8, 7, 6, 2⟩),
     (0x000218FF, .vdeq ⟨false, false, false, 0, 0, 2, 3, 0⟩),
     (0x812A60D5, .vdot ⟨true, false, false, 0, 9, 10, 12, 0⟩),
     (0x00E730B1, .vexp2 ⟨false, false, false, 0, 0, 7, 6, 0⟩),
     (0x00C82AF1, .vext ⟨false, false, false, 0, 6, 8, 5, 2⟩),
     (0x00C522A1, .vfadd ⟨false, false, false, 0, 6, 5, 4, 2⟩),
     (0x012810BB, .vfcmplt ⟨false, false, false, 0, 9, 8, 2, 0⟩),
     (0x016A60A7, .vfma ⟨false, false, false, 0, 11, 10, 12, 0⟩),
     (0x00C522AB, .vfmin ⟨false, false, false, 0, 6, 5, 4, 2⟩),
     (0x006418B1, .vfneg ⟨false, false, false, 0, 0, 4, 3, 0⟩),
     (0x000818D1, .vfredmax ⟨false, false, false, 0, 0, 8, 3, 0⟩),
     (0x000818CF, .vfredsum ⟨false, false, false, 0, 0, 8, 3, 0⟩),
     (0x008313B1, .vfsqrt ⟨false, false, false, 0, 0, 3, 2, 3⟩),
     (0x00C521DD, .vhad ⟨false, false, false, 0, 6, 5, 4, 1⟩),
     (0x00C542EF, .vins ⟨false, false, false, 0, 6, 5, 8, 2⟩),
     (0x010730B1, .vlog2 ⟨false, false, false, 0, 0, 7, 6, 0⟩),
     (0x00C5228B, .vmax ⟨false, false, false, 0, 6, 5, 4, 2⟩),
     (0x00C52285, .vmul ⟨false, false, false, 0, 6, 5, 4, 2⟩),
     (0x00C52287, .vmulh ⟨false, false, false, 0, 6, 5, 4, 2⟩),
     (0x002312B1, .vneg ⟨false, false, false, 0, 0, 3, 2, 2⟩),
     (0x00C52293, .vor ⟨false, false, false, 0, 6, 5, 4, 2⟩),
     (0x000941DB, .vpack3 ⟨false, false, false, 0, 0, 9, 8, 1⟩),
     (0x00C522C3, .vperm ⟨false, false, false, 0, 6, 5, 4, 2⟩),
     (0x00021ADF, .vqnt ⟨false, false, false, 0, 0, 2, 3, 2⟩),
     (0x00A730B1, .vrcp ⟨false, false, false, 0, 0, 7, 6, 0⟩),
     (0x00081AC9, .vredsum ⟨false, false, false, 0, 0, 8, 3, 2⟩),
     (0x00C730B1, .vrsq ⟨false, false, false, 0, 0, 7, 6, 0⟩),
     (0x00C5229D, .vsadd ⟨false, false, false, 0, 6, 5, 4, 2⟩),
     (0x000522D3, .vscan ⟨false, false, false, 0, 0, 5, 4, 2⟩),
     (0x04C522C5, .vsel ⟨false, false, false, 1, 6, 5, 4, 2⟩)] = true := by decide +kernel

/-- Encoding examples of the instruction reference, as bxasm writes them. -/
theorem test_decode_examples_4 : readsAll 32
    [(0x012730B1, .vsin ⟨false, false, false, 0, 0, 7, 6, 0⟩),
     (0x00C522F3, .vslup ⟨false, false, false, 0, 6, 5, 4, 2⟩),
     (0x00C5229B, .vsra ⟨false, false, false, 0, 6, 5, 4, 2⟩),
     (0x00C52283, .vsub ⟨false, false, false, 0, 6, 5, 4, 2⟩),
     (0x812A60D7, .vtdot ⟨true, false, false, 0, 9, 10, 12, 0⟩),
     (0x000848D9, .vunpk3 ⟨false, false, false, 0, 0, 8, 9, 0⟩),
     (0x00C52295, .vxor ⟨false, false, false, 0, 6, 5, 4, 2⟩),
     (0x3811054D, .waitc 7 5 8 .die),
     (0x021CC503, .xorR 5 6 7),
     (0x03FCC50B, .xori 5 6 255)] = true := by decide +kernel

/-! One word of every row of the encoding tables, written out field by field. -/

theorem test_decode_arithmetic : readsAll 32
    [(0b000000000_00110_10011_01011_00000011, .add 11 19 6),
     (0b000000001_00110_10011_01011_00000011, .sub 11 19 6),
     (0b000000010_00110_10011_01011_00000011, .andR 11 19 6),
     (0b000000011_00110_10011_01011_00000011, .orR 11 19 6),
     (0b000000100_00110_10011_01011_00000011, .xorR 11 19 6),
     (0b000000101_00110_10011_01011_00000011, .shl 11 19 6),
     (0b000000110_00110_10011_01011_00000011, .shr 11 19 6),
     (0b000000111_00110_10011_01011_00000011, .sra 11 19 6),
     (0b000001000_00110_10011_01011_00000011, .slt 11 19 6),
     (0b000001001_00110_10011_01011_00000011, .sltu 11 19 6),
     (0b000001010_00110_10011_01011_00000011, .minS 11 19 6),
     (0b000001011_00110_10011_01011_00000011, .maxS 11 19 6),
     (0b000001100_00110_10011_01011_00000011, .minu 11 19 6),
     (0b000001101_00110_10011_01011_00000011, .maxu 11 19 6),
     (0b000010000_00110_10011_01011_00000011, .mul 11 19 6),
     (0b000010001_00110_10011_01011_00000011, .mulh 11 19 6),
     (0b000010010_00110_10011_01011_00000011, .mulhu 11 19 6),
     (0b000010100_00110_10011_01011_00000011, .div 11 19 6),
     (0b000010101_00110_10011_01011_00000011, .divu 11 19 6),
     (0b000010110_00110_10011_01011_00000011, .rem 11 19 6),
     (0b000010111_00110_10011_01011_00000011, .remu 11 19 6),
     (0b00001100000000_10011_01011_00000011, .clz 11 19),
     (0b00001100100000_10011_01011_00000011, .ctz 11 19),
     (0b00001101000000_10011_01011_00000011, .popc 11 19),
     (0b00001101100000_10011_01011_00000011, .bswap 11 19)] = true := by decide +kernel

theorem test_decode_immediate : readsAll 32
    [(0b10101010110101_10011_01011_00000101, .addi 11 19 10933),
     (0b10101010110101_10011_01011_00000111, .andi 11 19 10933),
     (0b10101010110101_10011_01011_00001001, .ori 11 19 10933),
     (0b10101010110101_10011_01011_00001011, .xori 11 19 10933),
     (0b00000000_100101_10011_01011_00001101, .shli 11 19 37),
     (0b00000000_100101_10011_01011_00001111, .shri 11 19 37),
     (0b00000000_100101_10011_01011_00010001, .srai 11 19 37),
     (0b10101010110101_10011_01011_00010011, .slti 11 19 10933),
     (0b10101010110101_10011_01011_00010101, .sltui 11 19 10933),
     (0b1011010010110100101_01011_00010111, .lui 11 370085),
     (0b00_001011_100101_10011_01011_00011001, .extu 11 19 37 11),
     (0b00_001011_100101_10011_01011_00011011, .exts 11 19 37 11),
     (0b00_001011_100101_10011_01011_00011101, .ins 11 19 37 11),
     (0b1011010010110100101_01011_00011111, .addpc 11 370085)] = true := by decide +kernel

theorem test_decode_control : readsAll 32
    [(0b10110100101_011_00110_10011_00100001, .bcond .ge 19 6 1445),
     (0b1011010010110100101_01011_00100011, .jal 11 370085),
     (0b10101010110101_10011_01011_00100101, .jalr 11 19 10933),
     (0b00000000000000000000000000100111, .yield),
     (0b00000000100000000000000000100111, .wfi),
     (0b00000001000000000000000000100111, .eret),
     (0b00000001100000000000000000100111, .ebreak),
     (0b00_000000001010_00000_01011_00101001, .mfsr 11 10),
     (0b00_000000001010_10011_0000000101011, .mtsr 10 19),
     (0b00_101010111100_000000000000101101, .safept 2748),
     (0b00000000000000000000000000101111, .halt),
     (0b00000000100000_10011_0000000101111, .haltRetain 19)] = true := by decide +kernel

theorem test_decode_memory : readsAll 32
    [(0b10110100101_101_10011_01011_00110001, .ld .hu 11 19 1445),
     (0b10110100101_010_10011_01011_00110011, .st .w 11 19 1445),
     (0b00_011_1001_00110_10011_01011_00110101, .amo .cas .d 11 19 6),
     (0b000000000000000000_100_011_00110111, .ord .acqrel .die),
     (0b00000_1001_00_100_000000000000111001, .fence 9 .die)] = true := by decide +kernel

theorem test_decode_messages_queues : readsAll 32
    [(0b01011_1101_00000_00110_10011_00111011, .msend 11 19 6 13),
     (0b0000000000000000000_01011_00111101, .mwait 11),
     (0b00000000100000000000000000111101, .mret),
     (0b0000000100000000000_01011_00111101, .mpoll 11),
     (0b000000000_00110_00011_0000001000001, .qpush 3 6),
     (0b00000000100000_00011_01011_01000001, .qpop 11 3),
     (0b00000001000000_00011_01011_01000001, .qpeek 11 3),
     (0b00000001100000_00011_01011_01000001, .qcnt 11 3)] = true := by decide +kernel

theorem test_decode_work : readsAll 32
    [(0b0000000000000000000_01011_01000011, .tfetch 11),
     (0b00000000000000_10011_01011_01000101, .tspawn 11 19),
     (0b00000000000000000000000001000111, .tdone),
     (0b01001000110100_10011_01011_01001001, .svc 11 19 4660),
     (0b01011_000010_101_00110_10011_01001011, .sigc 11 19 6 .pkg),
     (0b01011_000000_100_00110_10011_01001101, .waitc 11 19 6 .die),
     (0b00000000000_010_000000000001001111, .bar .clus),
     (0b000000000_10_000000000000001010001, .gang .sixteen)] = true := by decide +kernel

theorem test_decode_rights_engines : readsAll 32
    [(0b000000000_00110_10011_0000001010011, .grant 19 6),
     (0b000000000_00110_10011_0000001010101, .revoke 19 6),
     (0b000000000_00110_10011_01011_01010111, .pgreq 11 19 6),
     (0b01011_0_100_1_1_001_00110_10011_01011001, .cpcmd 11 19 6 (some .die) (some .core)),
     (0b01011_100000000_00110_10011_01011001, .cpcmdResume 11 19 6),
     (0b01011_00000000000000_10011_01011011, .cpstat 11 19),
     (0b0000000000000000000_10011_01011101, .twait 19),
     (0b01011_0_010_0_1_000_00110_10011_01011111, .bkcmd 11 19 6 (some .clus) none),
     (0b01011_100000000_00110_10011_01011111, .bkcmdResume 11 19 6),
     (0b01011_000000_010_00000_10011_01100001, .colcmd 11 19 .clus),
     (0b00000000000010_00110_10011_01100011, .crot 19 6)] = true := by decide +kernel

theorem test_decode_tensors_matrix : readsAll 32
    [(0b00000000000000_10011_01011_01100101, .tdef 11 19),
     (0b00000000000000_10011_01011_01100111, .tver 11 19),
     (0b00000000000000_10011_0000001101001, .tkill 19),
     (0b000000000_00110_10011_0000001101011, .mcfg 19 6),
     (0b00000000000000_10011_0000001101101, .mldw 19),
     (0b00000000000000000000000001101111, .mswap),
     (0b000000000_00110_10011_0000001110001, .mstr 19 6),
     (0b0000000_01_00000_10011_0000001110011, .mdrn .bf16 19),
     (0b00000000000000000000000001110101, .mzero),
     (0b0000000000000000000_01011_01110111, .mstat 11)] = true := by decide +kernel

theorem test_decode_windows : readsAll 32
    [(0b000000000_00110_10011_0000001111001, .winit 19 6),
     (0b000000001_00110_10011_01011_01111001, .wpush 11 19 6),
     (0b00000001000000_10011_01011_01111001, .wread 11 19),
     (0b00000001100000_10011_01011_01111001, .wflip 11 19),
     (0b00000010000000_10011_01011_01111001, .wreset 11 19),
     (0b00000010100000_10011_01100_01111001, .wstat 12 19)] = true := by decide +kernel

theorem test_decode_vector_integer : readsAll 32
    [(0b1_1_1_011_00110_10011_01011_010_10000001, .vadd ⟨true, true, true, 3, 6, 19, 11, 2⟩),
     (0b1_1_1_011_00110_10011_01011_010_10000011, .vsub ⟨true, true, true, 3, 6, 19, 11, 2⟩),
     (0b1_1_1_011_00110_10011_01011_010_10000101, .vmul ⟨true, true, true, 3, 6, 19, 11, 2⟩),
     (0b1_1_1_011_00110_10011_01011_010_10000111, .vmulh ⟨true, true, true, 3, 6, 19, 11, 2⟩),
     (0b1_1_1_011_00110_10011_01011_010_10001001, .vmin ⟨true, true, true, 3, 6, 19, 11, 2⟩),
     (0b1_1_1_011_00110_10011_01011_010_10001011, .vmax ⟨true, true, true, 3, 6, 19, 11, 2⟩),
     (0b1_1_1_011_00110_10011_01011_010_10001101, .vminu ⟨true, true, true, 3, 6, 19, 11, 2⟩),
     (0b1_1_1_011_00110_10011_01011_010_10001111, .vmaxu ⟨true, true, true, 3, 6, 19, 11, 2⟩),
     (0b1_1_1_011_00110_10011_01011_010_10010001, .vand ⟨true, true, true, 3, 6, 19, 11, 2⟩),
     (0b1_1_1_011_00110_10011_01011_010_10010011, .vor ⟨true, true, true, 3, 6, 19, 11, 2⟩),
     (0b1_1_1_011_00110_10011_01011_010_10010101, .vxor ⟨true, true, true, 3, 6, 19, 11, 2⟩),
     (0b1_1_1_011_00110_10011_01011_010_10010111, .vshl ⟨true, true, true, 3, 6, 19, 11, 2⟩),
     (0b1_1_1_011_00110_10011_01011_010_10011001, .vshr ⟨true, true, true, 3, 6, 19, 11, 2⟩),
     (0b1_1_1_011_00110_10011_01011_010_10011011, .vsra ⟨true, true, true, 3, 6, 19, 11, 2⟩),
     (0b1_1_1_011_00110_10011_01011_010_10011101, .vsadd ⟨true, true, true, 3, 6, 19, 11, 2⟩),
     (0b1_1_1_011_00110_10011_01011_010_10011111, .vssub ⟨true, true, true, 3, 6, 19, 11, 2⟩)] = true := by decide +kernel

theorem test_decode_vector_float : readsAll 32
    [(0b1_1_1_011_00110_10011_01011_010_10100001, .vfadd ⟨true, true, true, 3, 6, 19, 11, 2⟩),
     (0b1_1_1_011_00110_10011_01011_010_10100011, .vfsub ⟨true, true, true, 3, 6, 19, 11, 2⟩),
     (0b1_1_1_011_00110_10011_01011_010_10100101, .vfmul ⟨true, true, true, 3, 6, 19, 11, 2⟩),
     (0b1_1_1_011_00110_10011_01011_010_10100111, .vfma ⟨true, true, true, 3, 6, 19, 11, 2⟩),
     (0b1_1_1_011_00110_10011_01011_010_10101001, .vfnma ⟨true, true, true, 3, 6, 19, 11, 2⟩),
     (0b1_1_1_011_00110_10011_01011_010_10101011, .vfmin ⟨true, true, true, 3, 6, 19, 11, 2⟩),
     (0b1_1_1_011_00110_10011_01011_010_10101101, .vfmax ⟨true, true, true, 3, 6, 19, 11, 2⟩),
     (0b1_1_1_011_00110_10011_01011_010_10101111, .vfdiv ⟨true, true, true, 3, 6, 19, 11, 2⟩)] = true := by decide +kernel

theorem test_decode_vector_unary : readsAll 32
    [(0b0_1_1_011_00000_10011_01011_010_10110001, .vabs ⟨false, true, true, 3, 0, 19, 11, 2⟩),
     (0b0_1_1_011_00001_10011_01011_010_10110001, .vneg ⟨false, true, true, 3, 0, 19, 11, 2⟩),
     (0b0_1_1_011_00010_10011_01011_010_10110001, .vfabs ⟨false, true, true, 3, 0, 19, 11, 2⟩),
     (0b0_1_1_011_00011_10011_01011_010_10110001, .vfneg ⟨false, true, true, 3, 0, 19, 11, 2⟩),
     (0b0_1_1_011_00100_10011_01011_010_10110001, .vfsqrt ⟨false, true, true, 3, 0, 19, 11, 2⟩),
     (0b0_1_1_011_00101_10011_01011_001_10110001, .vrcp ⟨false, true, true, 3, 0, 19, 11, 1⟩),
     (0b0_1_1_011_00110_10011_01011_001_10110001, .vrsq ⟨false, true, true, 3, 0, 19, 11, 1⟩),
     (0b0_1_1_011_00111_10011_01011_001_10110001, .vexp2 ⟨false, true, true, 3, 0, 19, 11, 1⟩),
     (0b0_1_1_011_01000_10011_01011_001_10110001, .vlog2 ⟨false, true, true, 3, 0, 19, 11, 1⟩),
     (0b0_1_1_011_01001_10011_01011_001_10110001, .vsin ⟨false, true, true, 3, 0, 19, 11, 1⟩),
     (0b0_1_1_011_01010_10011_01011_001_10110001, .vcos ⟨false, true, true, 3, 0, 19, 11, 1⟩)] = true := by decide +kernel

theorem test_decode_vector_compare : readsAll 32
    [(0b1_1_1_011_00110_10011_01011_010_10110011, .vcmpeq ⟨true, true, true, 3, 6, 19, 11, 2⟩),
     (0b1_1_1_011_00110_10011_01011_010_10110101, .vcmplt ⟨true, true, true, 3, 6, 19, 11, 2⟩),
     (0b1_1_1_011_00110_10011_01011_010_10110111, .vcmpltu ⟨true, true, true, 3, 6, 19, 11, 2⟩),
     (0b1_1_1_011_00110_10011_01011_010_10111001, .vfcmpeq ⟨true, true, true, 3, 6, 19, 11, 2⟩),
     (0b1_1_1_011_00110_10011_01011_010_10111011, .vfcmplt ⟨true, true, true, 3, 6, 19, 11, 2⟩),
     (0b1_1_1_011_00110_10011_01011_010_10111101, .vfcmple ⟨true, true, true, 3, 6, 19, 11, 2⟩),
     (0b1_1_1_011_00110_10011_01011_010_10111111, .vfcmpun ⟨true, true, true, 3, 6, 19, 11, 2⟩)] = true := by decide +kernel

theorem test_decode_vector_convert : readsAll 32
    [(0b0_1_1_011_00_000_10011_01011_010_11000001, .vcvt ⟨false, true, true, 3, 0, 19, 11, 2⟩),
     (0b1_1_1_011_00110_10011_01011_010_11000011, .vperm ⟨true, true, true, 3, 6, 19, 11, 2⟩),
     (0b1_1_0_011_00110_10011_01011_010_11000101, .vsel ⟨true, true, false, 3, 6, 19, 11, 2⟩),
     (0b0_1_1_011_0_0_000_10011_01011_010_11000111, .vcvti ⟨false, true, true, 3, 0, 19, 11, 2⟩),
     (0b0_1_1_011_1_0_000_10011_01011_010_11000111, .vcvtiu ⟨false, true, true, 3, 0, 19, 11, 2⟩)] = true := by decide +kernel

theorem test_decode_vector_reduce : readsAll 32
    [(0b0_1_0_011_00000_10011_01011_010_11001001, .vredsum ⟨false, true, false, 3, 0, 19, 11, 2⟩),
     (0b0_1_0_011_00000_10011_01011_010_11001011, .vredmax ⟨false, true, false, 3, 0, 19, 11, 2⟩),
     (0b0_1_0_011_00000_10011_01011_010_11001101, .vredmin ⟨false, true, false, 3, 0, 19, 11, 2⟩),
     (0b0_1_0_011_00000_10011_01011_010_11001111, .vfredsum ⟨false, true, false, 3, 0, 19, 11, 2⟩),
     (0b0_1_0_011_00000_10011_01011_010_11010001, .vfredmax ⟨false, true, false, 3, 0, 19, 11, 2⟩),
     (0b0_1_0_011_0000_1_10011_01011_010_11010011, .vscan ⟨false, true, false, 3, 1, 19, 11, 2⟩),
     (0b1_1_1_011_00110_10011_01011_00011010101, .vdot ⟨true, true, true, 3, 6, 19, 11, 0⟩),
     (0b1_1_1_011_00110_10011_01011_00011010111, .vtdot ⟨true, true, true, 3, 6, 19, 11, 0⟩),
     (0b0_1_1_011_00000_10011_01011_010_11011001, .vunpk3 ⟨false, true, true, 3, 0, 19, 11, 2⟩),
     (0b0_1_000000000_10011_01011_010_11011011, .vpack3 ⟨false, true, false, 0, 0, 19, 11, 2⟩),
     (0b0_1_1_011_00110_10011_01011_00111011101, .vhad ⟨false, true, true, 3, 6, 19, 11, 1⟩),
     (0b0_1_000000000_10011_01011_010_11011111, .vqnt ⟨false, true, false, 0, 0, 19, 11, 2⟩)] = true := by decide +kernel

theorem test_decode_vector_memory : readsAll 32
    [(0b00_1_011_00111_10011_01011_010_11100001, .vld ⟨false, true, 3, 7, 19, 11, 2⟩),
     (0b0_1_0_011_00111_10011_01011_010_11100011, .vst ⟨true, false, 3, 7, 19, 11, 2⟩),
     (0b00_1_011_00111_10011_01011_010_11100101, .vlds ⟨false, true, 3, 7, 19, 11, 2⟩),
     (0b0_1_0_011_00111_10011_01011_010_11100111, .vsts ⟨true, false, 3, 7, 19, 11, 2⟩),
     (0b0_1_1_011_00111_10011_01011_010_11101001, .vgth ⟨true, true, 3, 7, 19, 11, 2⟩),
     (0b0_1_0_011_00111_10011_01011_010_11101011, .vsct ⟨true, false, 3, 7, 19, 11, 2⟩)] = true := by decide +kernel

theorem test_decode_vector_moves : readsAll 32
    [(0b00_1_011_00000_10011_01011_010_11101101, .vbcast ⟨false, false, true, 3, 0, 19, 11, 2⟩),
     (0b000000_00110_10011_01011_010_11101111, .vins ⟨false, false, false, 0, 6, 19, 11, 2⟩),
     (0b0_1_0000_00110_10011_01011_010_11110001, .vext ⟨false, true, false, 0, 6, 19, 11, 2⟩),
     (0b0_1_1_011_00110_10011_01011_010_11110011, .vslup ⟨false, true, true, 3, 6, 19, 11, 2⟩),
     (0b0_1_1_011_00110_10011_01011_010_11110101, .vsldn ⟨false, true, true, 3, 6, 19, 11, 2⟩),
     (0b0_1_1_011_00000_10011_01011_010_11110111, .vcprs ⟨false, true, true, 3, 0, 19, 11, 2⟩)] = true := by decide +kernel

theorem test_decode_masks : readsAll 32
    [(0b0_1_000000000_10011_01011_00011111001, .kand ⟨false, true, false, 0, 0, 19, 11, 0⟩),
     (0b0_1_000000001_10011_01011_00011111001, .kor ⟨false, true, false, 0, 0, 19, 11, 0⟩),
     (0b0_1_000000010_10011_01011_00011111001, .kxor ⟨false, true, false, 0, 0, 19, 11, 0⟩),
     (0b0_1_000000011_10011_01011_00011111001, .kandn ⟨false, true, false, 0, 0, 19, 11, 0⟩),
     (0b0_1_000000100_10011_01011_00011111001, .knot ⟨false, true, false, 0, 0, 19, 11, 0⟩),
     (0b0_1_000000000_10011_01011_010_11111011, .kcnt ⟨false, true, false, 0, 0, 19, 11, 2⟩),
     (0b0_1_000000000_10011_01011_010_11111101, .kfst ⟨false, true, false, 0, 0, 19, 11, 2⟩),
     (0b0_1_1_011_00000_10011_01011_010_11111111, .vdeq ⟨false, true, true, 3, 0, 19, 11, 2⟩)] = true := by decide +kernel

theorem test_decode_halfwords : readsAll 16
    [(0b1_10011_01011_00000, .vadd16 true 11 19),
     (0b1_10011_01011_00010, .vsub16 true 11 19),
     (0b1_10011_01011_00100, .vmul16 true 11 19),
     (0b1_10011_01011_00110, .vmin16 true 11 19),
     (0b1_10011_01011_01000, .vmax16 true 11 19),
     (0b0_10011_01011_01010, .vand16 11 19),
     (0b0_10011_01011_01100, .vor16 11 19),
     (0b0_10011_01011_01110, .vxor16 11 19),
     (0b1_10011_01011_10000, .vfadd16 true 11 19),
     (0b1_10011_01011_10010, .vfsub16 true 11 19),
     (0b1_10011_01011_10100, .vfmul16 true 11 19),
     (0b1_10011_01011_10110, .vfmin16 true 11 19),
     (0b1_10011_01011_11000, .vfmax16 true 11 19),
     (0b0_10011_01011_11010, .vmv 11 19),
     (0b1_10011_01011_11100, .vsadd16 true 11 19),
     (0b1_10011_01011_11110, .vfabs16 true 11 19)] = true := by decide +kernel

/-! ### Ill-formed terms -/

/-- A vector instruction's fields, all zero. -/
def zeroF : VFmt := ⟨false, false, false, 0, 0, 0, 0, 0⟩

def zeroM : VmFmt := ⟨false, false, 0, 0, 0, 0, 0⟩

/-- One ill-formed term for each limit of the encodings. -/
def illFormed : List Instr :=
  [-- fields that reach past bit 63 (R351, R356)
   .extu 5 6 33 31, .exts 5 6 63 1, .ins 5 6 1 63,
   -- special registers that no number names (Table 20.8)
   .mfsr 5 0x005, .mtsr 0x022 5,
   -- CAS needs x[b + 1]; TFETCH and WSTAT write a pair
   .amo .cas .d 5 6 31, .tfetch 0, .tfetch 31, .wstat 5 6,
   -- no kind, a scope that is not one of the instruction's, a queue number or a service that does not exist
   .fence 0 .pkg, .bar .hart, .colcmd 5 6 .sys, .colcmd 0 6 .clus, .cpcmd 5 6 7 (some .hart) none, .cpcmd 5 6 7 none (some .hart),
   .bkcmd 0 6 7 none none, .cpcmdResume 0 6 7, .bkcmdResume 0 6 7, .cpcmd 0 6 7 none none, .bkcmd 5 6 7 (some .hart) none,
   .bkcmd 5 6 7 none (some .hart), .svc 5 6 0x2000,
   -- Z without a mask (R316)
   .vadd { zeroF with z := true }, .vld { zeroM with z := true }, .vcvt { zeroF with z := true }, .vdot { zeroF with z := true },
   -- element codes
   .vadd { zeroF with et := 4 }, .vabs { zeroF with et := 4 }, .vrcp { zeroF with et := 2 }, .vcvt { zeroF with et := 7 },
   .vcvt { zeroF with vb := 7 }, .vcvti { zeroF with et := 4 }, .vcvti { zeroF with vb := 4 }, .vcvtiu { zeroF with vb := 16 },
   .vredsum { zeroF with et := 4 }, .vdot { zeroF with et := 1 }, .vunpk3 { zeroF with et := 5 }, .vpack3 { zeroF with et := 5 },
   .vhad { zeroF with et := 0 }, .vqnt { zeroF with et := 4 }, .vst { zeroM with et := 4 }, .vgth { zeroM with et := 4 },
   .vins { zeroF with et := 4 }, .vext { zeroF with et := 4 }, .vslup { zeroF with et := 4 }, .kand { zeroF with et := 1 },
   -- fields and last-use marks that stand for nothing
   .vabs { zeroF with vb := 1 }, .vabs { zeroF with lub := true }, .vredsum { zeroF with vb := 1 }, .vredsum { zeroF with z := true },
   .vscan { zeroF with vb := 2 }, .vscan { zeroF with lub := true }, .vld { zeroM with lu := true }, .vlds { zeroM with lu := true },
   .vst { zeroM with z := true, mask := 1 }, .vsct { zeroM with z := true, mask := 1 }, .vbcast { zeroF with lua := true },
   .vins { zeroF with mask := 1 }, .vins { zeroF with lub := true }, .vext { zeroF with z := true, mask := 1 },
   .vslup { zeroF with lub := true }, .vsel { zeroF with mask := 0 }, .vsel { zeroF with mask := 1, z := true }, .kcnt { zeroF with mask := 1 },
   .vhad { zeroF with et := 1, lub := true }, .vcvti { zeroF with lub := true },
   -- the halfword of zeros
   .vadd16 false 0 0]

theorem test_illFormed_refused : illFormed.all (fun i => !wellFormed i) = true := by decide +kernel

/-- What an encoder would make of an ill-formed term decodes to nothing, or to another instruction. -/
theorem test_illFormed_words : illFormed.all (fun i => decide ((decode (encode i)).map (·.1) ≠ some i)) = true := by decide +kernel

/-- Words that the encoding tables leave unassigned decode to nothing: a major and a function that no row has, a reserved field. -/
theorem test_unassigned_words :
    [0xFFFFFFFF, 0x0000007F, 0x1FF00003, 0x80000001].all (fun w => decide (decodeTableWord 32 w = none)) = true := by decide +kernel

/-! ### States for the witnesses -/

/-- A running hart with registers set. -/
def hartWith (xs : List (Fin 32 × Word)) : Hart :=
  { Hart.reset with tenure := .running, x := xs.foldl (fun v e => v.set e.1 e.2) Hart.reset.x }

/-- The machine at reset, without the OS cores' harts and with no event pending. -/
def bare : State := { State.reset with harts := [], cores := [], agenda := [], serial := 9 }

/-- Context 0 of core 0 executes. -/
def run (h : Hart) : State := setHart bare 0 h

/-- The handler context of core 0 executes. -/
def runHandler (h : Hart) : State := { setHart bare 8 h with cur := 8 }

/-- A launch with one level at package scope. -/
def launchWith (nodes : SMap (Option Node)) : Launch :=
  ⟨1, 0, 1, 0, 0, 0, [⟨.sys, .sys, 1⟩], 0, 0, 0, 0, 0xFFFF, 0, 0, 0, .running, 0, 0, nodes, nodes.length, none, 0, false⟩

/-- A node of one sub-tile. -/
def nodeWith (n : Nat) : Node :=
  ⟨0, n, 1, 1, 1, 1, 0, false, 0, 0, 0, 0, 0, 0, 0, 16, 0xFFFF, 0, [], true, 0, 0, .handedOut, 0, 0, [0], .zero, .hart⟩

/-- An operation in flight of a hart. -/
def opWith (id hart : Nat) (k : OpKind) : Op :=
  ⟨id, k, hart, 0, 0, 0x100000000, 0, 8, 1, 0, 0, .na, 0, 0, 5, none, none, .zero, none, .zero, 0⟩

def amoOp : OpKind := .amo ⟨.add, .d, 1, 0⟩

/-- Launch 1 with one node of n sub-tiles, and a hart of it with registers set. -/
def onNode (n : Nat) (xs : List (Fin 32 × Word)) : State :=
  { run { hartWith xs with launch := 1 } with launches := [(1, some (launchWith [(0, some (nodeWith n))]))] }

/-- Hart 0 with a vault's first 4 MiB readable, writable and shared under tag 0. -/
def inVault (xs : List (Fin 32 × Word)) : State :=
  { run (hartWith xs) with
    ranges := [⟨0x200000000, 0x400000, 0, 0, 0, false⟩], rights := [(0, [⟨0x200000000, 0, 0x10000, 0x3F, 0, 0xFFFF, 1⟩])] }

/-- An object at the start of the first vault: operator 0, window w, n values, b of them in the back half. -/
def objectState (w n b : Byte) (f : State → State) : State :=
  f { run (hartWith []) with
      views := [(0, [(0x200000001, 2), (0x200000002, w), (0x200000004, n), (0x200000012, b), (0x200000014, 1)])] }

/-- The same, of the pair operator 0xA, empty. -/
def pairState (f : State → State) : State :=
  f { run (hartWith []) with
      views := [(0, [(0x200000000, 0xA), (0x200000001, 3), (0x200000002, 1), (0x200000014, 1)])] }

/-- The header of an empty object of a pair operator stands at the start of the first vault. -/
def onPair (s : State) : State := { s with views := (pairState id).views }

def objectTarget : Target := ⟨0x200000000, 0x200000000, .na, 0, 0, 0, false, false, false, none⟩

/-- A check that admits the access with a target and a state that meet a test. -/
def passes (c : Check) (p : State → Target → Bool) : Bool :=
  match c with
  | .ok u tg => p u tg
  | _ => false

theorem unfenced_iff (s : State) :
    Unfenced s ↔ ∀ n ∈ (me s).beforeLoads ++ (me s).beforeStores, (∀ o ∈ s.ops, o.id ≠ n) ∧ ∀ w ∈ s.mca, w.id ≠ n := by
  simp only [Unfenced, List.mem_append]

theorem ready_iff (s : State) (slots : Nat) :
    Ready s slots ↔ s.cur < 0x40000 ∧ (me s).unit = none ∧ inFlight s (s.cur / 16) + slots ≤ 256 ∧
      ∀ n ∈ (me s).beforeLoads ++ (me s).beforeStores, (∀ o ∈ s.ops, o.id ≠ n) ∧ ∀ w ∈ s.mca, w.id ≠ n := by
  simp only [Ready, Device, unfenced_iff]

/-! ### Witnesses: states and operands that meet the hypotheses of each statement -/

theorem witness_RegisterArithmetic : ∃ fn d a b f, majorOne (.add 5 6 7) = some (fn, d, a, b, f) := ⟨_, _, _, _, _, rfl⟩

theorem witness_ImmediateForms :
    (wellFormed (.addi 5 6 0x1FFF) = true ∧ immediateForm 0 (readX (me (run (hartWith [(6, 1)])))) (.addi 5 6 0x1FFF) = some (5, 0x2000)) ∧
    (wellFormed (.extu 5 6 60 3) = true ∧
      immediateForm 0 (readX (me (run (hartWith [(6, 0xF000000000000000)])))) (.extu 5 6 60 3) = some (5, 15)) := by decide

theorem witness_InsertField : wellFormed (.ins 5 6 0 63) = true ∧ wellFormed (.ins 5 6 63 0) = true := by decide

theorem witness_ExceptionReturn :
    (let s := run { hartWith [] with mode := .S }
     isHandler s.cur = false ∧ (me s).mode ≠ .U) ∧
    (let s := run { hartWith [] with sr := { SpecialRegs.reset with hctl := 8 } }
     isHandler s.cur = false ∧ (me s).mode = .U ∧ (me s).sr.hctl.getLsbD 3 = true) ∧
    (let s := run (hartWith [])
     isHandler s.cur = false ∧ (me s).mode = .U ∧ (me s).sr.hctl.getLsbD 3 = false) ∧
    isHandler (runHandler (hartWith [])).cur = true := by decide

theorem witness_ReadSpecial :
    (let s := run (hartWith [])
     assignedRegister 0x030 = true ∧ isHandler s.cur = false ∧ (me s).mode = .U ∧ ¬supervisorOnly 0x030) ∧
    (let s := run { hartWith [] with mode := .S }
     assignedRegister 0x010 = true ∧ isHandler s.cur = false ∧ (me s).mode ≠ .U) := by
  unfold supervisorOnly; decide

theorem witness_ReadSpecialHandler :
    (let s := runHandler (hartWith [])
     assignedRegister 0x008 = true ∧ isHandler s.cur = true ∧ ¬supervisorOnly 0x008 ∧
       (0x008#12).toNat ∉ [0x000, 0x001, 0x002, 0x004, 0x00A, 0x00B]) ∧
    (let s := runHandler (hartWith [])
     assignedRegister 0x00B = true ∧ isHandler s.cur = true ∧ ¬supervisorOnly 0x00B ∧
       (0x00B#12).toNat ∈ [0x001, 0x002, 0x004, 0x00A, 0x00B]) ∧
    (let s := runHandler (hartWith [])
     assignedRegister 0x000 = true ∧ isHandler s.cur = true ∧ ¬supervisorOnly 0x000) := by
  unfold supervisorOnly; decide

theorem witness_WriteSpecial :
    (let s := run (hartWith [])
     assignedRegister 0x030 = true ∧ isHandler s.cur = false ∧ (0x030#12).toNat ∈ userWrites) ∧
    (let s := run { hartWith [] with mode := .S }
     assignedRegister 0x015 = true ∧ isHandler s.cur = false ∧ (me s).mode ≠ .U ∧ (0x015#12).toNat ∈ supervisorWrites) := by decide

theorem witness_SpecialPrivilege :
    (let s := run (hartWith [])
     assignedRegister 0x015 = true ∧ (me s).mode = .U ∧ supervisorOnly 0x015) ∧
    (let s := run (hartWith [])
     assignedRegister 0x00A = true ∧ isHandler s.cur = false ∧
       ¬((0x00A#12).toNat ∈ userWrites ∨ ((me s).mode ≠ .U ∧ (0x00A#12).toNat ∈ supervisorWrites))) ∧
    isHandler (runHandler (hartWith [])).cur = true := by
  unfold supervisorOnly; decide

/-- A hart in U mode that is asked to stop. -/
def asked : Hart := { hartWith [] with preempt := .overdue 0 }

theorem witness_Ordering :
    isHandler (runHandler (hartWith [])).cur = true ∧
    (let s := run { hartWith [] with ipend := 4 }
     isHandler s.cur = false ∧ (me s).ipend ≠ 0) ∧
    (let s := run { asked with mode := .S }
     isHandler s.cur = false ∧ requested (me s) = true ∧ (me s).mode ≠ .U) ∧
    (let s := run asked
     isHandler s.cur = false ∧ (me s).ipend = 0 ∧ (me s).faults = [] ∧ (me s).mpend = 0 ∧ requested (me s) = true ∧ (me s).mode = .U ∧
       ¬Busy s ∧ NobodyGathers s (s.cur / 16 / 16)) ∧
    (let s := run (hartWith [])
     isHandler s.cur = false ∧ (me s).ipend = 0 ∧ (me s).faults = [] ∧ (me s).mpend = 0 ∧ requested (me s) = false) ∧
    (let s := { run asked with ops := [opWith 1 0 .load] }
     isHandler s.cur = false ∧ (me s).ipend = 0 ∧ (me s).faults = [] ∧ (me s).mpend = 0 ∧ requested (me s) = true ∧ (me s).mode = .U ∧
       Busy s) ∧
    bindsScope (run (hartWith [])) (me (run (hartWith []))) .hart = true := by unfold Busy NobodyGathers; decide +kernel

theorem witness_HartFences :
    let s := { run (hartWith []) with ops := [opWith 1 0 amoOp] }
    wellFormed (.fence 15 .hart) = true ∧ bindsScope s (me s) .hart = true ∧ lateReads s s.cur = [1] := by decide +kernel

theorem witness_Fences :
    (let s := run (hartWith [])
     wellFormed (.fence 1 .clus) = true ∧ bindsScope s (me s) .clus = true ∧ releaseReady s s.cur .clus = true) ∧
    (let s := { run (hartWith []) with ops := [opWith 1 0 amoOp] }
     wellFormed (.fence 15 .core) = true ∧ bindsScope s (me s) .core = true ∧ Scope.core ≠ .hart ∧ unperformed s s.cur = true) := by decide

theorem witness_UnboundScope : bindsScope (onNode 1 []) (me (onNode 1 [])) .die = false := by decide

theorem witness_WriteThenRead : (0 : Nat) < 0x10000000000000000 ∧ 0x1FFFFFFFF < 0x10000000000000000 := by decide +kernel

theorem witness_LoadSelf :
    (let s := run (hartWith [])
     Ready s 1 ∧ SelfAccess s (readX (me s) 0 + BitVec.ofInt 64 ((0 : BitVec 14).toInt * ldBytes .d)) 8) ∧
    (let s := run (hartWith [(6, 0x20000)])
     Ready s 1 ∧ SelfAccess s (readX (me s) 6 + BitVec.ofInt 64 ((-1 : BitVec 14).toInt * ldBytes .b)) 1 ∧
       Clear s (selfKey s (readX (me s) 6 + BitVec.ofInt 64 ((-1 : BitVec 14).toInt * ldBytes .b))) 1) ∧
    (let s := { run (hartWith []) with ops := [opWith 1 1 amoOp] }
     Ready s 1 ∧ SelfAccess s 7 1 ∧ overlapBusy s s.cur (selfKey s 7) 1 = true) := by
  simp only [ready_iff, SelfAccess, Clear]; decide +kernel

theorem witness_StoreSelf :
    let s := run (hartWith [(6, 0x20000)])
    Ready s 1 ∧ SelfAccess s (readX (me s) 6 + BitVec.ofInt 64 ((-1 : BitVec 14).toInt * stBytes .w)) 4 ∧
      Clear s (selfKey s (readX (me s) 6 + BitVec.ofInt 64 ((-1 : BitVec 14).toInt * stBytes .w))) 4 := by
  simp only [ready_iff, SelfAccess, Clear]; decide +kernel

theorem witness_MisalignedAccess :
    let s := run (hartWith [(6, 1)])
    (readX (me s) 6 + BitVec.ofInt 64 ((1 : BitVec 14).toInt * ldBytes .h)).toNat % ldBytes .h ≠ 0 ∧
      (readX (me s) 6 + BitVec.ofInt 64 ((1 : BitVec 14).toInt * stBytes .d)).toNat % stBytes .d ≠ 0 ∧
      isHandler s.cur = false ∧ (readX (me s) 6).toNat % 4 ≠ 0 := by decide +kernel

theorem witness_ControlSpaceIsPrivileged :
    (let s := run (hartWith [(6, 0x600000000)])
     let p := readX (me s) 6 + BitVec.ofInt 64 ((0 : BitVec 14).toInt * ldBytes .d)
     (me s).mode = .U ∧ 0x600000000 ≤ p.toNat ∧ p.toNat < 0x610000000 ∧ p.toNat % ldBytes .d = 0) ∧
    (let s := run (hartWith [(6, 0x610000000)])
     let p := readX (me s) 6 + BitVec.ofInt 64 ((-1 : BitVec 14).toInt * stBytes .d)
     (me s).mode = .U ∧ 0x600000000 ≤ p.toNat ∧ p.toNat < 0x610000000 ∧ p.toNat % stBytes .d = 0) := by decide +kernel

theorem witness_VectorLoads :
    (let s := run { hartWith [(6, 64)] with live := 2 }
     let f : VmFmt := ⟨false, true, 1, 0, 6, 3, 2⟩
     vectorMemory (.vld f) = some (f, false) ∧ wellFormed (.vld f) = true ∧ f.et.toNat < 4 ∧ VectorReady s (.vld f) ∧ Ready s 64 ∧
       VectorInSelf s (.vld f) f) ∧
    (let s := run { hartWith [(6, 64)] with live := 16 }
     let f : VmFmt := ⟨true, false, 0, 4, 6, 3, 3⟩
     vectorMemory (.vgth f) = some (f, false) ∧ wellFormed (.vgth f) = true ∧ f.et.toNat < 4 ∧ VectorReady s (.vgth f) ∧ Ready s 64 ∧
       VectorInSelf s (.vgth f) f) := ⟨⟨rfl, by decide, by decide, by unfold VectorReady; decide +kernel, by simp only [ready_iff]; decide +kernel,
    by unfold VectorInSelf SelfAccess Clear; decide +kernel⟩,
   ⟨rfl, by decide, by decide, by unfold VectorReady; decide +kernel, by simp only [ready_iff]; decide +kernel,
    by unfold VectorInSelf SelfAccess Clear; decide +kernel⟩⟩

theorem witness_VectorStores :
    let s := run (hartWith [(6, 64)])
    let f : VmFmt := ⟨false, false, 0, 0, 6, 3, 0⟩
    vectorMemory (.vst f) = some (f, true) ∧ wellFormed (.vst f) = true ∧ f.et.toNat < 4 ∧ VectorReady s (.vst f) ∧ Ready s 64 ∧
      VectorInSelf s (.vst f) f := ⟨rfl, by decide, by decide, by unfold VectorReady; decide +kernel, by simp only [ready_iff]; decide +kernel,
    by unfold VectorInSelf SelfAccess Clear; decide +kernel⟩

theorem witness_MemoryResponse :
    (let o := opWith 1 0 .load
     let s := { run (hartWith []) with ops := [o] }
     findOp s o.id = some o ∧ o.kind = .load ∧ o.slots ≤ 1 ∧ lineWaits s o.id = false) ∧
    (let o := { opWith 1 0 .store with slots := 2 }
     let s := { run (hartWith []) with ops := [o] }
     findOp s o.id = some o ∧ o.kind = .store ∧ 1 < o.slots ∧ lineWaits s o.id = false ∧ storeUnderWay s o = false) ∧
    (let o := opWith 1 0 .store
     let s := { run (hartWith []) with ops := [o], flights := [⟨0, 0, 0, 1, .zero, 0x100000000, [5], .na, .plain⟩] }
     findOp s o.id = some o ∧ storeUnderWay s o = true) := by decide +kernel

theorem witness_AtomicIssue :
    (let s := run (hartWith [(6, 8)])
     isHandler s.cur = false ∧ Ready s 1 ∧ SelfAccess s (readX (me s) 6) 8) ∧
    (let s := runHandler (hartWith [(6, 8)])
     (0 : Reg) = 0 ∧ Ready s 1 ∧ SelfAccess s (readX (me s) 6) 4) := by
  simp only [ready_iff, SelfAccess]; decide +kernel

theorem witness_AtomicAtHome :
    let o := opWith 1 0 amoOp
    let s := { run (hartWith []) with ops := [o], cores := [(0, { Core.reset with homeQ := [1] })] }
    HomeReady s 0 ∧ Machine.pick s 2 (arrivals s 0 isAmo) = some o ∧ o.kind = .amo ⟨.add, .d, 1, 0⟩ ∧
      o.key < 0x100000000000000 ∧ o.key / 64 ∉ s.badLines ∧ o.prop = .na := by
  refine ⟨by unfold HomeReady; decide, ?_, by decide, by decide, by decide, by decide⟩
  have : arrivals { run (hartWith []) with ops := [opWith 1 0 amoOp], cores := [(0, { Core.reset with homeQ := [1] })] } 0 isAmo =
    [opWith 1 0 amoOp] := by decide +kernel
  simp only [this, Machine.pick, List.length_singleton, Nat.mod_one]
  rfl

theorem witness_HomeReply :
    (let o := { opWith 1 0 amoOp with reply := some (.value 7 false) }
     let s := { run { hartWith [] with wait := some (.reply 1) } with ops := [o] }
     findOp s o.id = some o ∧ o.reply = some (.value 7 false) ∧ o.hart < 0x100000000 ∧
       replyBehind s o = false ∧ lineWaits s o.id = false ∧ (getHart s o.hart).tenure = .running ∧ (getHart s o.hart).gen = o.gen ∧
       (getHart s o.hart).wait = some (.reply o.id)) ∧
    (let o := { opWith 1 0 amoOp with reply := some (.value 7 false) }
     let s := { run { hartWith [] with xpend := [(5, 1)] } with ops := [o] }
     findOp s o.id = some o ∧ o.reply = some (.value 7 false) ∧ o.hart < 0x100000000 ∧
       replyBehind s o = false ∧ lineWaits s o.id = false ∧ (getHart s o.hart).tenure = .running ∧ (getHart s o.hart).gen = o.gen ∧
       (getHart s o.hart).wait ≠ some (.reply o.id) ∧ mapGet 0 (getHart s o.hart).xpend o.dest.toNat = o.id) := by decide +kernel

theorem witness_SendMessage :
    let s := run (hartWith [(6, 16)])
    isHandler s.cur = false ∧ Ready s 1 ∧ hidDev ((readX (me s) 6).setWidth 32) = s.dev := by
  simp only [ready_iff]; decide +kernel

def msgOp (o : Op) : Op := { o with kind := .msg 0 1 9 (1 <<< 17) }

theorem witness_MessageArrival :
    ∃ s o, HomeReady s 0 ∧ Machine.pick s 2 (arrivals s 0 isMessage) = some o ∧ o.kind = .msg 0 1 9 (1 <<< 17) ∧ o.rel = none := by
  refine ⟨{ run (hartWith []) with ops := [msgOp (opWith 1 16 .load)], cores := [(0, { Core.reset with homeQ := [1] })] },
    msgOp (opWith 1 16 .load), by unfold HomeReady; decide, ?_, rfl, rfl⟩
  have : arrivals { run (hartWith []) with ops := [msgOp (opWith 1 16 .load)], cores := [(0, { Core.reset with homeQ := [1] })] } 0
    isMessage = [msgOp (opWith 1 16 .load)] := by decide +kernel
  simp only [this, Machine.pick, List.length_singleton, Nat.mod_one]
  rfl

/-- The three outcomes of an arrival: gone, barred and admitted. -/
theorem witness_MessageArrival_outcomes :
    let o := msgOp (opWith 1 16 .load)
    let at' := fun (h : Hart) =>
      leaveHome { run h with ops := [o], cores := [(0, { Core.reset with homeQ := [1] })] } 0 1
    let gone := fun (u : State) => (getHart u 0).tenure ≠ .running ∨ (getHart u 0).gen ≠ hidGen 0 ∨ retiring u (getHart u 0).launch = true
    let barred := fun (u : State) => (getHart u 0).sr.tenant ≠ senderTenant u o ∨ handlerEntry u 0 1 = 0
    gone (at' .reset) ∧ (¬gone (at' (hartWith [])) ∧ barred (at' (hartWith []))) := by decide +kernel

theorem witness_HandlerReturn :
    (let s := { runHandler { hartWith [] with msg := some ⟨1, 0, 0⟩ } with harts := [(0, hartWith []), (8, { hartWith [] with msg := some ⟨1, 0, 0⟩ })] }
     isHandler s.cur = true ∧ handlerReleased s (s.cur / 16) = true ∧ (me s).msg = some ⟨1, 0, 0⟩ ∧ (0 : Nat) ≠ s.cur ∧
       (getHart s 0).tenure = .running ∧ (getHart s 0).gen = 0) ∧
    (let s := runHandler { hartWith [] with msg := some ⟨1, 0, 0⟩ }
     isHandler s.cur = true ∧ handlerReleased s (s.cur / 16) = true ∧ (me s).msg = some ⟨1, 0, 0⟩ ∧ isHandler 0 = false ∧
       ¬((getHart s 0).tenure = .running ∧ (getHart s 0).gen = 0)) ∧
    (let s := runHandler (hartWith [])
     isHandler s.cur = true ∧ handlerReleased s (s.cur / 16) = true ∧ (me s).msg = none) ∧
    (let s := { runHandler (hartWith []) with ops := [opWith 1 8 amoOp] }
     isHandler s.cur = true ∧ handlerReleased s (s.cur / 16) = false) ∧
    isHandler (run (hartWith [])).cur = false := by decide +kernel

theorem witness_HandlerBudget :
    (let s := runHandler { hartWith [] with budget := 4096 }
     (getHart s 8).tenure = .running ∧ 4096 ≤ (getHart s 8).budget) ∧
    (getHart (runHandler { hartWith [] with budget := 4095 }) 8).budget < 4096 := by decide +kernel

theorem witness_PendingMessages :
    (let s := run { hartWith [] with mpend := 1 }
     isHandler s.cur = false ∧ (me s).mpend ≠ 0) ∧
    (isHandler (run (hartWith [])).cur = false ∧ (me (run (hartWith []))).mpend = 0) ∧
    isHandler (runHandler (hartWith [])).cur = true := by decide +kernel

/-- A core whose queue 3 holds n entries of no launch. -/
def queueWith (n : Nat) : State := { run (hartWith []) with cores := [(0, { Core.reset with queues := [(3, List.replicate n ⟨7, 0⟩)] })] }

theorem witness_QueuePush :
    (let s := queueWith 15
     isHandler s.cur = false ∧ (∀ e ∈ (getCore s (s.cur / 16)).pushers, e.1 ≠ (3 : BitVec 3).toNat) ∧
       (queue s 3).length < 16 ∧ releaseReady s s.cur .core = true) ∧
    (let s := queueWith 16
     isHandler s.cur = false ∧ (∀ e ∈ (getCore s (s.cur / 16)).pushers, e.1 ≠ (3 : BitVec 3).toNat) ∧ 16 ≤ (queue s 3).length) := by decide +kernel

theorem witness_QueueRead :
    (let s := queueWith 2
     isHandler s.cur = false ∧ (∀ e ∈ (getCore s (s.cur / 16)).poppers, e.1 ≠ 3) ∧ queue s 3 = [] ++ ⟨7, 0⟩ :: [⟨7, 0⟩] ∧
       (∀ x ∈ ([] : List QEntry), x.world ≠ (me s).launch) ∧ (⟨7, 0⟩ : QEntry).world = (me s).launch) ∧
    (let s := queueWith 0
     isHandler s.cur = false ∧ (∀ e ∈ (getCore s (s.cur / 16)).poppers, e.1 ≠ 3) ∧ ∀ x ∈ queue s 3, x.world ≠ (me s).launch) := by decide +kernel

theorem witness_WindowIssue :
    (let s := inVault [(6, 0x200000000), (8, 1)]
     windowOp s (.wpush 5 6 8) = some (.push 1 0 8 ((encodeWord (.wpush 5 6 8)).setWidth 64), 5, 6, none) ∧ isHandler s.cur = false ∧
       Ready s 1 ∧ waccEarly s s.cur (readX (me s) 6) none = none ∧
       passes (checkAccess s s.cur (readX (me s) 6) (.amo 64))
         (fun u tg => waccPlaced u s.cur tg (objectBytes none) && decide (tg.key < 0x10000000000000000) && !pairObject u s.cur tg) = true ∧
       s.migrations = []) := by
  simp only [ready_iff]; decide +kernel

theorem witness_WindowIssue_init_and_pair :
    (let s := onPair (inVault [(6, 0x200000000), (8, 1)])
     isHandler s.cur = false ∧ Ready s 1 ∧ waccEarly s s.cur (readX (me s) 6) none = none ∧
       passes (checkAccess s s.cur (readX (me s) 6) (.amo 64))
         (fun u tg => waccPlaced u s.cur tg (objectBytes none) && decide (tg.key < 0x10000000000000000) && pairObject u s.cur tg) = true ∧
       mapGet 0 (me s).xpend 9 = 0 ∧ (me s).poison = [] ∧ s.migrations = []) ∧
    (let s := inVault [(6, 0x200000000), (8, 0x10200)]
     windowOp s (.winit 6 8) = some (.init 0x10200, 0, 6, some 0x10200) ∧ isHandler s.cur = false ∧ Ready s 1 ∧
       waccEarly s s.cur (readX (me s) 6) (some 0x10200) = none ∧
       passes (checkAccess s s.cur (readX (me s) 6) (.amo 64))
         (fun u tg => waccPlaced u s.cur tg (objectBytes (some 0x10200)) && decide (tg.key < 0x10000000000000000)) = true ∧
       s.migrations = []) := by
  simp only [ready_iff]; decide +kernel

/-- The hart that executes stands before a push on the object of a pair operator. -/
def beforePair (f : Hart → Hart) : State := modMe (onPair (inVault [(6, 0x200000000), (8, 1)])) f

theorem witness_WindowIssue_pending :
    (let s := beforePair fun h => { h with xpend := [(9, 1)] }
     isHandler s.cur = false ∧ waccEarly s s.cur (readX (me s) 6) none = none ∧
       passes (checkAccess s s.cur (readX (me s) 6) (.amo 64)) (fun u tg => waccPlaced u s.cur tg 1 && pairObject u s.cur tg) = true ∧
       mapGet 0 (me s).xpend ((8 : Reg) + 1).toNat ≠ 0) ∧
    (let s := beforePair fun h => { h with poison := [(9, some 0x40)] }
     isHandler s.cur = false ∧ waccEarly s s.cur (readX (me s) 6) none = none ∧
       passes (checkAccess s s.cur (readX (me s) 6) (.amo 64)) (fun u tg => waccPlaced u s.cur tg 1 && pairObject u s.cur tg) = true ∧
       mapGet 0 (me s).xpend ((8 : Reg) + 1).toNat = 0 ∧
       (me s).poison.find? (fun x => decide (x.1 = ((8 : Reg) + 1).toNat)) = some (9, some 0x40)) := by decide +kernel

theorem witness_WindowLatch :
    let s := run (hartWith [])
    isHandler s.cur = false ∧ (me s).unit = none ∧ wellFormed (.wstat 30 0) = true := by decide +kernel

theorem witness_WindowSteps :
    let s := objectState 1 0 0 id
    OnChip s objectTarget ∧ (headerAt s 0 objectTarget).sound true = true ∧
      (headerAt s 0 objectTarget).n < (headerAt s 0 objectTarget).w ∧
      ((headerAt s 0 objectTarget).f ≠ 0 ∨ (headerAt s 0 objectTarget).b = 0) := by
  refine ⟨⟨by decide, by decide, rfl, fun i _ => by simp [objectState, run, setHart, bare, State.reset], by decide, by decide⟩, ?_⟩
  decide +kernel

theorem witness_WindowSteps_values :
    (let s := objectState 1 1 1 id
     OnChip s objectTarget ∧ (headerAt s 0 objectTarget).sound true = true ∧ (integerOperator (headerAt s 0 objectTarget).op).isSome = true) ∧
    (let s := pairState id
     OnChip s objectTarget ∧ (headerAt s 0 objectTarget).sound true = true ∧ 0xA ≤ (headerAt s 0 objectTarget).op) ∧
    waccConfigOk (0x10200#64).toNat = true := by
  refine ⟨⟨⟨by decide, by decide, rfl, fun i _ => by simp [objectState, run, setHart, bare, State.reset], by decide, by decide⟩, ?_⟩,
    ⟨⟨by decide, by decide, rfl, fun i _ => by simp [pairState, run, setHart, bare, State.reset], by decide, by decide⟩, ?_⟩, by decide⟩ <;>
  decide +kernel

def windowOpInFlight (w : WaccOp) : Op := { opWith 1 16 (.wacc w) with key := 0x200000000, ptr := 0x200000000 }

/-- An operation has arrived at core 0, whose object at the start of the first vault has n values, all in the back half. -/
def atCore (w : WaccOp) (n : Byte) (f : State → State) : State :=
  objectState 1 n n fun s => f { s with ops := [windowOpInFlight w], cores := [(0, { Core.reset with homeQ := [1] })] }

theorem pick_one (s : State) (o : Op) : Machine.pick s 2 [o] = some o := by simp [Machine.pick, Nat.mod_one]

/-- An operation on an object at the start of a DRAM page. -/
def inDram : Op := { windowOpInFlight (.push 1 0 8 0) with key := dramBase + 0x10000 }

/-- The page of `inDram` at physical 0x1_0000 moves to 0x2_0000. -/
def movingObject : State → State := fun s =>
  let page := fun phys => ⟨0x10000000000, 65536, phys, 0, false, false, true, .na, 0, 0, 0x10000000000, 65536⟩
  { s with ops := [inDram], migrations := [⟨1, page 0x10000, page 0x20000, []⟩] }

def flipsAt (id : Nat) : State → State := fun s => { s with cores := mapMod .reset s.cores 0 fun c => { c with flips := [(0x200000000, id)] } }

theorem witness_WindowAtHome :
    (let s := atCore (.push 1 0 8 0) 0 id
     HomeReady s 0 ∧ Machine.pick s 2 (arrivals s 0 (waccMayArrive s 0)) = some (windowOpInFlight (.push 1 0 8 0)) ∧
       migrating s (windowOpInFlight (.push 1 0 8 0)) = false ∧ flipping s 0 (windowOpInFlight (.push 1 0 8 0)) = false ∧
       flipDue s 0 (windowOpInFlight (.push 1 0 8 0)) (.push 1 0 8 0) = false) ∧
    (let s := atCore (.push 1 0 8 0) 1 id
     HomeReady s 0 ∧ Machine.pick s 2 (arrivals s 0 (waccMayArrive s 0)) = some (windowOpInFlight (.push 1 0 8 0)) ∧
       migrating s (windowOpInFlight (.push 1 0 8 0)) = false ∧ flipping s 0 (windowOpInFlight (.push 1 0 8 0)) = false ∧
       flipDue s 0 (windowOpInFlight (.push 1 0 8 0)) (.push 1 0 8 0) = true) := by
  refine ⟨⟨by unfold HomeReady; decide +kernel, ?_, by decide +kernel⟩, ⟨by unfold HomeReady; decide +kernel, ?_, by decide +kernel⟩⟩
  · rw [show arrivals (atCore (.push 1 0 8 0) 0 id) 0 (waccMayArrive (atCore (.push 1 0 8 0) 0 id) 0) =
      [windowOpInFlight (.push 1 0 8 0)] from by decide +kernel, pick_one]
  · rw [show arrivals (atCore (.push 1 0 8 0) 1 id) 0 (waccMayArrive (atCore (.push 1 0 8 0) 1 id) 0) =
      [windowOpInFlight (.push 1 0 8 0)] from by decide +kernel, pick_one]

theorem witness_WindowAtHome_held :
    (let s := atCore (.push 1 0 8 0) 0 movingObject
     HomeReady s 0 ∧ Machine.pick s 2 (arrivals s 0 (waccMayArrive s 0)) = some inDram ∧ migrating s inDram = true) ∧
    (let s := atCore (.push 1 0 8 0) 0 (flipsAt 7)
     HomeReady s 0 ∧ Machine.pick s 2 (arrivals s 0 (waccMayArrive s 0)) = some (windowOpInFlight (.push 1 0 8 0)) ∧
       migrating s (windowOpInFlight (.push 1 0 8 0)) = false ∧ flipping s 0 (windowOpInFlight (.push 1 0 8 0)) = true) := by
  refine ⟨⟨by unfold HomeReady; decide +kernel, ?_, by decide +kernel⟩, ⟨by unfold HomeReady; decide +kernel, ?_, by decide +kernel⟩⟩
  · rw [show arrivals (atCore (.push 1 0 8 0) 0 movingObject) 0 (waccMayArrive (atCore (.push 1 0 8 0) 0 movingObject) 0) =
      [inDram] from by decide +kernel, pick_one]
  · rw [show arrivals (atCore (.push 1 0 8 0) 0 (flipsAt 7)) 0 (waccMayArrive (atCore (.push 1 0 8 0) 0 (flipsAt 7)) 0) =
      [windowOpInFlight (.push 1 0 8 0)] from by decide +kernel, pick_one]

theorem witness_WindowAtHome_flip :
    let o := windowOpInFlight .flip
    let s := objectState 1 1 1 fun s => { s with ops := [o], cores := [(0, { Core.reset with flips := [(0x200000000, 1)] })] }
    o.kind = .wacc .flip ∧ (getCore s 0).flips.find? (fun e => decide (e.1 = 0x200000000)) = some (0x200000000, o.id) ∧
      findOp s o.id = some o := by decide +kernel

/-- A window operation of hart 0 that has been answered. -/
def answered (r : Reply) : State × Op :=
  let o := { windowOpInFlight .stat with hart := 0, reply := some r }
  ({ run { hartWith [] with wait := some (.reply 1) } with ops := [o] }, o)

theorem witness_WindowReply : ∀ r ∈ [Reply.latched 1 2 true .reset, .ack, .misuse, .memoryError, .illegal 0],
    findOp (answered r).1 (answered r).2.id = some (answered r).2 ∧ (answered r).2.reply = some r ∧ (answered r).2.hart < 0x100000000 ∧
      isHandler (answered r).2.hart = false ∧
      replyBehind (answered r).1 (answered r).2 = false ∧
      lineWaits (answered r).1 (answered r).2.id = false ∧
      (getHart (answered r).1 (answered r).2.hart).tenure = .running ∧
      (getHart (answered r).1 (answered r).2.hart).gen = (answered r).2.gen ∧
      (getHart (answered r).1 (answered r).2.hart).wait = some (.reply (answered r).2.id) ∧ (answered r).2.dest ≠ 31 := by decide +kernel

theorem witness_RoundTrip : wellFormed (.ld .d 19 3 5) = true ∧ instrLength (.ld .d 19 3 5) ≠ 0 := by decide +kernel

theorem witness_DecodeExact : decode [0x03, 0xE7, 0x20, 0x00, 0xFF] = some (.add 7 7 8, [0xFF]) := by decide +kernel

/-- What a hart fetches decodes as a test says. -/
def fetches (s : State) (h : Nat) (p : Nat → Nat → Bool) : Bool :=
  match fetch s h (getHart s h).pc with
  | .word _ w len => p w len
  | _ => false

def decodesTo (w len : Nat) (i : Instr) : Bool := decide (decode (leBytes len w) = some (i, []))

theorem witness_StepRunsInstruction :
    (let s := State.reset.withFetchWord 32 0x0020E703
     nextEvent s = none ∧ Machine.chosen s 2 (readyHarts s) = some 0 ∧ turnOf s 0 = some .instruction ∧
       fetches s 0 (fun w len => decodesTo w len (.add 7 7 8)) = true ∧ pairs (getHart s 0).unit (.add 7 7 8) = true ∧
       pendingSource (getHart s 0) (.add 7 7 8) = none ∧ poisonedSource (getHart s 0) (.add 7 7 8) = none) ∧
    (let s := modHart (State.reset.withFetchWord 32 0x0020E703) 0 fun h => { h with unit := some (.ord 0 .acq .core) }
     nextEvent s = none ∧ Machine.chosen s 2 (readyHarts s) = some 0 ∧ turnOf s 0 = some .instruction ∧
       fetches s 0 (fun w len => decodesTo w len (.add 7 7 8)) = true ∧ pairs (getHart s 0).unit (.add 7 7 8) = false) ∧
    (let s := State.reset.withFetchWord 32 0xFFFFFFFF
     nextEvent s = none ∧ Machine.chosen s 2 (readyHarts s) = some 0 ∧ turnOf s 0 = some .instruction ∧
       fetches s 0 (fun w len => decide (decode (leBytes len w) = none)) = true) := by decide +kernel

/-- A step from a state has a next one. -/
def goesOn (s : State) : Bool :=
  match step s with
  | .next _ => true
  | _ => false

theorem goesOn_step {s : State} (h : goesOn s = true) : ∃ t, step s = .next t := by
  unfold goesOn at h
  split at h
  · exact ⟨_, ‹_›⟩
  · cases h

theorem witness_StepKeepsMemory :
    let s := State.reset.withFetchWord 32 0x0020E703
    Memory.wf s = true ∧ ∃ t, step s = .next t := ⟨by decide +kernel, goesOn_step (by decide +kernel)⟩

theorem witness_VaultRights :
    (let s := run (hartWith [(6, 0x200000000)])
     VaultAccess s (readX (me s) 6) 8 ∧ ∀ g ∈ s.ranges, ¬(g.base ≤ 0x200000000 ∧ 0x200000000 < g.base + g.len)) ∧
    (let s := inVault [(6, 0x01000002003FFFF8)]
     VaultAccess s (readX (me s) 6) 8 ∧ InRange s 0x2003FFFF8 ⟨0x200000000, 0x400000, 0, 0, 0, false⟩ ∧
       (readX (me s) 6).toNat / 2 ^ 56 ≠ (0 : BitVec 8).toNat) ∧
    (let s := { inVault [(6, 0x200000000)] with rights := [] }
     VaultAccess s (readX (me s) 6) 8 ∧ InRange s 0x200000000 ⟨0x200000000, 0x400000, 0, 0, 0, false⟩ ∧
       (readX (me s) 6).toNat / 2 ^ 56 = (0 : BitVec 8).toNat ∧ ¬Admitted s 0x200000000 0 1) ∧
    (let s := inVault [(6, 0x2003FFFF8)]
     VaultAccess s (readX (me s) 6) 8 ∧ VaultPasses s (readX (me s) 6) 8 0 ∧ VaultPasses s (readX (me s) 6) 8 1) := by
  have only : ∀ (s : State) (g : Machine.Range) (va : Nat), s.ranges = [g] → g.base ≤ va ∧ va < g.base + g.len → InRange s va g := by
    intro s g va h hv
    refine ⟨by simp [h], fun r hr => ?_⟩
    rw [h, List.mem_singleton] at hr
    subst hr
    simp [hv]
  refine ⟨⟨by unfold VaultAccess; decide +kernel, by decide +kernel⟩,
    ⟨by unfold VaultAccess; decide +kernel, only _ _ _ rfl (by decide +kernel), by decide +kernel⟩,
    ⟨by unfold VaultAccess; decide +kernel, only _ _ _ rfl (by decide +kernel), by decide +kernel, ?_⟩,
    ⟨by unfold VaultAccess; decide +kernel,
      ⟨by simp only [ready_iff]; decide +kernel, by unfold Clear; decide +kernel, by decide +kernel, rfl, rfl, _, only _ _ _ rfl (by decide +kernel), by decide +kernel,
        ⟨0x200000000, 0, 0x10000, 0x3F, 0, 0xFFFF, 1⟩, by decide +kernel⟩,
      ⟨by simp only [ready_iff]; decide +kernel, by unfold Clear; decide +kernel, by decide +kernel, rfl, rfl, _, only _ _ _ rfl (by decide +kernel), by decide +kernel,
        ⟨0x200000000, 0, 0x10000, 0x3F, 0, 0xFFFF, 1⟩, by decide +kernel⟩⟩⟩
  rintro ⟨e, he, -⟩
  revert he
  simp [mapGet]

/-- Hart 0 with counter 0xFFF of its tenant at 5, and x6 naming it. -/
def withCounter (xs : List (Fin 32 × Word)) : State :=
  { run (hartWith ((6, 0xFFF) :: xs)) with counters := [(0xFFF, 5)], counterOwner := [(0xFFF, 1)] }

theorem witness_SignalCounter :
    (let s := withCounter []
     CounterReady s (readX (me s) 6) .die ∧ releaseReady s s.cur .die = true ∧ NoNodeWaits s (readX (me s) 6).toNat) ∧
    (let s := { withCounter [] with ops := [opWith 1 0 amoOp] }
     CounterReady s (readX (me s) 6) .die ∧ releaseReady s s.cur .die = false) ∧
    (let s := withCounter [(6, 0x4000)]
     bindsScope s (me s) .die = true ∧ (readX (me s) 6).toNat / 4096 % 4 = s.cur / 16 / 4096 ∧ 0x4000 ≤ (readX (me s) 6).toNat) ∧
    (let s := withCounter [(6, 0x3FFF)]
     bindsScope s (me s) .pkg = true ∧ 5 ≤ Scope.pkg.code.toNat ∧
       mapGet 0 s.counterOwner (readX (me s) 6).toNat ≠ (me s).sr.tenant.toNat + 1) := by
  refine ⟨⟨by unfold CounterReady; decide +kernel, by decide +kernel, fun e he => ?_⟩, by unfold CounterReady; decide +kernel,
    by decide +kernel, by decide +kernel⟩
  exact absurd he List.not_mem_nil

/-- Hart 1 of the same tenant waits until counter 0xFFF is at n. -/
def counterWaiter (n : Nat) : State :=
  { withCounter [(7, 3)] with
    harts := [(0, hartWith [(6, 0xFFF), (7, 3)]), (1, { hartWith [] with wait := some (.counter 0xFFF (BitVec.ofNat 64 n)) })] }

theorem witness_SignalCounter_waiter : ∀ n ∈ [8, 9],
    let s := counterWaiter n
    CounterReady s (readX (me s) 6) .die ∧ releaseReady s s.cur .die = true ∧ s.launches = [] ∧ 1 ≠ s.cur ∧
      (getHart s 1).wait = some (.counter (readX (me s) 6).toNat (BitVec.ofNat 64 n)) ∧ (getHart s 1).sr.tenant = (me s).sr.tenant ∧
      ((getHart s 1).met = none ∧ (BitVec.ofNat 64 n).toNat ≤ (mapGet 0 s.counters (readX (me s) 6).toNat + readX (me s) 7).toNat ↔ n = 8) := by
  unfold CounterReady; decide +kernel

theorem witness_WaitCounter :
    (let s := withCounter [(7, 5)]
     isHandler s.cur = false ∧ CounterReady s (readX (me s) 6) .core ∧ (me s).met = none ∧
       (readX (me s) 7).toNat ≤ (mapGet 0 s.counters 0xFFF).toNat ∧
       (mapGet .zero s.counterStamp 0xFFF).le (stampOf s (s.cur / 16 / 4096)) = true) ∧
    (∀ c ∈ [0, 1],
      let st : Stamp := ⟨0, c, 0, 0⟩
      let s := modMe (withCounter [(7, 6)]) fun h => { h with met := some (.counter 0xFFF 7 st) }
      isHandler s.cur = false ∧ CounterReady s (readX (me s) 6) .core ∧ (me s).met = some (.counter (readX (me s) 6).toNat 7 st) ∧
        (st.le (stampOf s (s.cur / 16 / 4096)) = true ↔ c = 0)) ∧
    (let s := withCounter [(7, 6)]
     isHandler s.cur = false ∧ CounterReady s (readX (me s) 6) .clus ∧ (me s).met = none ∧
       (mapGet 0 s.counters 0xFFF).toNat < (readX (me s) 7).toNat) := by
  unfold CounterReady; decide +kernel

/-- Harts 0 and 1 run node 0 of launch 1; hart 1 has arrived or not. -/
def pairOfHarts (bs : List Barrier) : State :=
  { onNode 1 [] with harts := [(0, { hartWith [] with launch := 1 }), (1, { hartWith [] with launch := 1 })], barriers := bs }

theorem witness_BarrierEpisode :
    (let s := pairOfHarts []
     isHandler s.cur = false ∧ bindsScope s (me s) .core = true ∧ releaseReady s s.cur .core = true ∧ (me s).tenure = .running ∧
       mapWf .reset s.harts = true ∧ Episode s .core [] .zero ∧ ([] : List Nat).length + 1 ≠ members s .core) ∧
    (let s := pairOfHarts [⟨1, 0, .core, 0, [1], .zero⟩]
     isHandler s.cur = false ∧ bindsScope s (me s) .core = true ∧ releaseReady s s.cur .core = true ∧ (me s).tenure = .running ∧
       mapWf .reset s.harts = true ∧ Episode s .core [1] .zero ∧ s.cur ∉ [1] ∧ [1].Nodup ∧ [1].length + 1 = members s .core ∧
       viewSettled s (Stamp.zero.join (stampOf s (s.cur / 16 / 4096))) = true) := by
  unfold Episode; decide +kernel

theorem witness_TileFetch :
    (let s := onNode 0 []
     wellFormed (.tfetch 30) = true ∧ OnNode s (launchWith [(0, some (nodeWith 0))]) (nodeWith 0) ∧ (me s).tile = none ∧
       (me s).preempt = .none ∧ (∀ v ∈ s.saves, v.launch ≠ (me s).launch) ∧ (nodeWith 0).sx = 0) ∧
    (let s := onNode 2 []
     wellFormed (.tfetch 4) = true ∧ OnNode s (launchWith [(0, some (nodeWith 2))]) (nodeWith 2) ∧ (me s).tile = none ∧
       (me s).preempt = .none ∧ (∀ v ∈ s.saves, v.launch ≠ (me s).launch) ∧ (nodeWith 2).cursor + 1 < 2 ∧ (nodeWith 2).tw ≠ 0 ∧
       (nodeWith 2).th ≠ 0) := by
  unfold OnNode; decide +kernel

theorem witness_TileDone :
    (me (run (hartWith []))).tile = none ∧
    ∀ n ∈ [1, 2],
      let s := modHart (onNode n []) 0 fun h => { h with tile := some 0 }
      OnNode s (launchWith [(0, some (nodeWith n))]) (nodeWith n) ∧ (me s).tile = some 0 ∧ (nodeWith n).phase ≠ .complete ∧
        releaseReady s s.cur (tileScope s (me s)) = true := by
  unfold OnNode; decide +kernel

/-- Harts 0 and 1 of core 0; x6 of hart 0 names hart 1. -/
def lender (named : Hart) : State := { run (hartWith [(6, 1)]) with harts := [(0, hartWith [(6, 1)]), (1, named)] }

theorem witness_HartEnds :
    (let s := { run (hartWith []) with ops := [opWith 1 0 .load] }
     isHandler s.cur = false ∧ ∃ o ∈ s.ops, o.hart = s.cur) ∧
    (∀ named ∈ [hartWith [], Hart.reset],
      let s := lender named
      isHandler s.cur = false ∧ Device s ∧ s.cur % 16 < 8 ∧ s.ops = [] ∧ (me s).tile = none ∧ (me s).loans = [] ∧ Memory.wf s = true ∧
        s.barriers = [] ∧ (getCluster s (s.cur / 16 / 16)).gatherings = [] ∧ (getCluster s (s.cur / 16 / 16)).rings = []) ∧
    (let s := lender (hartWith [])
     let hid := readX (me s) 6
     hid.toNat / 8 % 16384 = s.cur / 16 ∧ hid.toNat / 2 ^ 17 % 64 = s.dev.toNat ∧ hid.toNat / 2 ^ 23 % 2 = 0 ∧
       s.cur / 16 * 16 + hid.toNat % 8 ≠ s.cur ∧ (getHart s 1).tenure = .running ∧ (getHart s 1).gen.toNat = hid.toNat / 2 ^ 24 % 256 ∧
       (getHart s 1).launch = (me s).launch) ∧
    (getHart (lender Hart.reset) 1).tenure ≠ .running := by
  unfold Device; decide +kernel

/-- A hart of launch 1 with x6 and the bytes of its die's view. -/
def spawner (x6 : Word) (bytes : SMap Byte) : State :=
  { onNode 1 [(6, x6)] with views := [(0, bytes)] }

theorem witness_NodeSpawn :
    (isHandler (spawner 0x40 []).cur = false ∧ (readX (me (spawner 0x40 [])) 6).toNat % 128 ≠ 0) ∧
    (let s := spawner 0x80 []
     let n := parseNode (mapBytes (viewOf s (myDie s)) (selfKey s (readX (me s) 6)) 128)
     isHandler s.cur = false ∧ Device s ∧ (readX (me s) 6).toNat % 128 = 0 ∧ (readX (me s) 6).toNat < 0x20000 ∧ s.badLines = [] ∧
       s.mca = [] ∧ getLaunch s (me s).launch = some (launchWith [(0, some (nodeWith 1))]) ∧
       (launchWith [(0, some (nodeWith 1))]).id = (me s).launch ∧ nodeCheck s (launchWith [(0, some (nodeWith 1))]) n = false) ∧
    (let l := { launchWith [(0, some (nodeWith 1))] with imageLen := 64 }
     let s := { spawner 0x80 [(0x100000088, 1), (0x10000008C, 1), (0x100000090, 1), (0x100000094, 1), (0x100000096, 1), (0x1000000AC, 2),
       (0x1000000B4, 1), (0x1000000B8, 255), (0x1000000B9, 255)] with
       launches := [(1, some l)], ranges := (inVault []).ranges, rights := (inVault []).rights }
     let n := parseNode (mapBytes (viewOf s (myDie s)) (selfKey s (readX (me s) 6)) 128)
     getLaunch s (me s).launch = some l ∧ n.preds = 0 ∧ n.nsucc = 0 ∧ l.nodeCount < 2 ^ 24 ∧ l.phase = .running ∧
       nodeCheck s l n = true ∧ releaseReady s s.cur (nodeScope l n) = true) := by
  unfold Device; decide +kernel

theorem witness_ServiceCall :
    (isHandler (run (hartWith [(6, 1)])).cur = false ∧ (0x1FFF#13).toNat < 0x2000 ∧ (readX (me (run (hartWith [(6, 1)]))) 6).toNat % 8 ≠ 0) ∧
    ((readX (me (run (hartWith [(6, 8)]))) 6).toNat % 8 = 0 ∧ 32 ≤ (0x20#13).toNat) ∧
    (let s := run (hartWith [(6, 0x1FFF8)])
     (readX (me s) 6).toNat % 8 = 0 ∧ (readX (me s) 6).toNat < 0x20000 ∧ (me s).mode = .U ∧ (24#13).toNat ∈ userServices ∧ Device s ∧
       releaseReady s s.cur .pkg = true ∧ ringOpen s = true) ∧
    ringOpen { run (hartWith []) with firmware := { Firmware.reset with quiesced := true } } = false ∧
    (let s := { run (hartWith []) with ops := [opWith 1 0 amoOp] }
     releaseReady s s.cur .pkg = false) := by
  unfold Device; decide +kernel

/-- Hart 0 waits for its call of service n, which stands in the ring of die 0. -/
def called (n : Nat) (req : Word) (st : Option Word) : State :=
  { run { hartWith [] with wait := some .service } with
    dies := [(0, { Die.reset with ring := [⟨5, 0, 0, n, req, 0, 0, 0, false, 7, st, none, 0, false⟩] })] }

def callOf (n : Nat) (req : Word) (st : Option Word) : SvcSlot := ⟨5, 0, 0, n, req, 0, 0, 0, false, 7, st, none, 0, false⟩

theorem witness_ServiceCall_return :
    (let s := called 0 0 (some 3)
     let v := callOf 0 0 (some 3)
     v ∈ allSlots s ∧ (∀ w ∈ allSlots s, w.hart = 0 → w = v) ∧ v.hart = 0 ∧ v.status = some 3 ∧ v.gen = (getHart s 0).gen ∧
       (getHart s 0).wait = some .service ∧ unperformed s (serviceAgent (0 / 16)) = false) ∧
    (let s := { called 0 0 (some 3) with mca := [⟨1, serviceAgent 0, 0, .zero, 0x200000000, [5], .plain⟩] }
     unperformed s (serviceAgent (0 / 16)) = true) := by decide +kernel

/-- Tiles of len bytes in SELF, with the harts of the cores in `there` already in the ring. -/
def ringOf (off len : Word) (there : List Nat) : State :=
  { run (hartWith [(6, off), (7, len)]) with clusters := [(0, { Cluster.reset with rings := there.map fun g => (16 * g, 0, len) })] }

theorem witness_RingRotation :
    (let s := ringOf 0 16448 []
     isHandler s.cur = false ∧ bindsScope s (me s) .clus = true ∧ 16384 < (readX (me s) 7).toNat) ∧
    (let s := ringOf 0x1FFC0 128 []
     (readX (me s) 6).toNat % 64 = 0 ∧ (readX (me s) 7).toNat % 64 = 0 ∧ 0 < (readX (me s) 7).toNat ∧ (readX (me s) 7).toNat ≤ 16384 ∧
       0x20000 < (readX (me s) 6).toNat + (readX (me s) 7).toNat) ∧
    (∀ g, g / 16 = 0 → (getCore (ringOf 0 64 []) g).slice.split = false) ∧
    (∀ there ∈ [(List.range 14).map (· + 1), (List.range 15).map (· + 1)],
      let s := ringOf 0x1C000 16384 there
      let all := (getCluster s 0).rings ++ [(s.cur, readX (me s) 6, readX (me s) 7)]
      (readX (me s) 6).toNat + (readX (me s) 7).toNat ≤ 0x20000 ∧ releaseReady s s.cur .clus = true ∧ Device s ∧ s.cores = [] ∧ s.mca = [] ∧
        (all.length < 16 ∨ all.length = 16 ∧ (all.map fun m => m.1 / 16).Nodup ∧
          ∀ m ∈ all, m.1 / 16 / 16 = 0 ∧ (getHart s m.1).launch = (me s).launch ∧ m.2.2 = readX (me s) 7 ∧
            m.2.1.toNat + 16384 ≤ 0x20000)) := by
  refine ⟨by decide +kernel, by decide +kernel, fun _ _ => rfl, ?_⟩
  unfold Device; decide +kernel

/-- Hart 0 of launch 1 with an atomic that its release waits for. -/
def unreleased (s : State) : State := { s with ops := [opWith 1 0 amoOp] }

/-- What makes the instructions of this section wait, and the handler context, where they are illegal. -/
theorem witness_Work_waits :
    isHandler (runHandler (hartWith [])).cur = true ∧
    (let s := withCounter [(7, 5)]
     let s := { s with counterStamp := [(0xFFF, ⟨0, 1, 0, 0⟩)] }
     CounterReady s (readX (me s) 6) .core ∧ (mapGet .zero s.counterStamp 0xFFF).le (stampOf s (s.cur / 16 / 4096)) = false) ∧
    (let s := unreleased (pairOfHarts [])
     isHandler s.cur = false ∧ bindsScope s (me s) .core = true ∧ releaseReady s s.cur .core = false) ∧
    (∀ late ∈ [true, false],
      let s := modHart (onNode 1 []) 0 fun h => { h with tile := some 0 }
      let s := if late then unreleased s else s
      isHandler s.cur = false ∧ (me s).tile = some 0 ∧ releaseReady s s.cur (tileScope s (me s)) = !late) ∧
    (∀ late ∈ [true, false],
      let s := modHart (onNode 1 []) 0 fun h => { h with preempt := .ended }
      let s := if late then unreleased s else s
      isHandler s.cur = false ∧ (me s).tile = none ∧ (me s).preempt ≠ .none ∧ (me s).mode = .U ∧ (Busy s ↔ late = true) ∧
        NobodyGathers s (s.cur / 16 / 16)) ∧
    (let s := onNode 1 []
     let s := { s with harts := s.harts ++ [(1, { hartWith [] with launch := 1, tile := some 0, sup := some (.stop 1) })] }
     (me s).tile = none ∧ tileStopped s s.cur (me s).launch (me s).sr.node.toNat = true ∧ (nodeWith 1).cursor < 1) ∧
    (let s := { run (hartWith []) with flights := [⟨0, 0, 1, 1, .zero, 0x100000000, [5], .na, .plain⟩] }
     isHandler s.cur = false ∧ Device s ∧ s.cur % 16 < 8 ∧ s.ops = [] ∧ (me s).tile = none ∧ writesPending s (bankKey s) 0x4000 = true) := by
  refine ⟨?_, ?_, ?_, ?_, ?_, ?_, ?_⟩ <;> (try unfold CounterReady) <;> (try unfold Busy NobodyGathers) <;> (try unfold Device) <;>
    decide +kernel

theorem witness_Services_wait :
    (let s := unreleased (run (hartWith [(6, 0x1FFF8)]))
     (readX (me s) 6).toNat % 8 = 0 ∧ (readX (me s) 6).toNat < 0x20000 ∧ (24#13).toNat ∈ userServices ∧ releaseReady s s.cur .pkg = false) ∧
    (let s := { run (hartWith [(6, 0x1FFF8)]) with dies := [(0, { Die.reset with ringWait := [3] })] }
     releaseReady s s.cur .pkg = true ∧ ringOpen s = false) ∧
    ringOpen (run (hartWith [])) = true := by decide +kernel

theorem witness_RingRotation_waits :
    (let s := unreleased (ringOf 0 64 [])
     isHandler s.cur = false ∧ bindsScope s (me s) .clus = true ∧ releaseReady s s.cur .clus = false) ∧
    (let s := { ringOf 0 64 [1, 2, 3, 4, 5, 6, 7] with
       cores := (List.range 16).map fun g => (g, { Core.reset with slice := { MatrixSlice.reset with split := true } }) }
     let all := (getCluster s 0).rings ++ [(s.cur, readX (me s) 6, readX (me s) 7)]
     (∀ g < 16, (getCore s g).slice.split = true) ∧ all.length = 8 ∧ (all.map fun m => m.1 / 16).Nodup ∧ ∀ m ∈ all, m.1 / 16 / 8 = 0) ∧
    (let s := run (hartWith [(6, 0), (7, 64)])
     let s := { s with clusters := [(0, { Cluster.reset with rings := (List.range 15).map fun g => (16 * (g + 1), 0, 128) })] }
     let all := (getCluster s 0).rings ++ [(s.cur, readX (me s) 6, readX (me s) 7)]
     all.length = 16 ∧ (all.map fun m => m.1 / 16).Nodup ∧ (∃ m ∈ all, m.2.2 ≠ readX (me s) 7) ∧
       ∀ m ∈ all, isHandler m.1 = false ∧ m.2.1.toNat + m.2.2.toNat ≤ 0x20000) := by decide +kernel

/-- A vault pointer in x6 and a rights word in x7. -/
def grantWord (who rights units : Nat) : Word := BitVec.ofNat 64 (who * 2 ^ 48 + rights * 2 ^ 40 + units)

theorem onlyRange {s : State} {g : Machine.Range} {va : Nat} (h : s.ranges = [g]) (hv : g.base ≤ va ∧ va < g.base + g.len) : InRange s va g := by
  refine ⟨by simp [h], fun r hr => ?_⟩
  rw [h, List.mem_singleton] at hr
  subst hr
  simp [hv]

theorem witness_RightsIssue :
    (let s := run (hartWith [(6, 0x200000020)])
     isHandler s.cur = false ∧ (readX (me s) 6).toNat % 64 ≠ 0) ∧
    (let s := inVault [(6, 0x0100000200000000)]
     isHandler s.cur = false ∧ VaultAccess s (readX (me s) 6) 64 ∧
       InRange s ((readX (me s) 6).toNat % 2 ^ 56) ⟨0x200000000, 0x400000, 0, 0, 0, false⟩ ∧
       (readX (me s) 6).toNat / 2 ^ 56 ≠ (0 : BitVec 8).toNat) ∧
    (let s := inVault [(6, 0x2003FFFC0), (7, 0)]
     TaggedLine s (readX (me s) 6) ∧ (readX (me s) 7).toNat % 2 ^ 40 = 0) ∧
    (let s := inVault [(6, 0x2003FFFC0), (7, grantWord 1 0x3F 1)]
     TaggedLine s (readX (me s) 6) ∧ ¬((readX (me s) 7).toNat % 2 ^ 40 = 0 ∨ 0x40 ≤ (readX (me s) 7).toNat / 2 ^ 40 % 256) ∧
       releaseReady s s.cur .pkg = true) ∧
    (let s := { inVault [(6, 0x2003FFFC0), (7, grantWord 1 0x3F 1)] with ops := [opWith 1 0 amoOp] }
     TaggedLine s (readX (me s) 6) ∧ releaseReady s s.cur .pkg = false) := by
  refine ⟨by decide +kernel, ⟨by decide +kernel, by unfold VaultAccess; decide +kernel, onlyRange rfl (by decide +kernel), by decide +kernel⟩,
    ⟨⟨by unfold VaultAccess; decide +kernel, _, onlyRange rfl (by decide +kernel), by decide +kernel⟩, by decide +kernel⟩,
    ⟨⟨by unfold VaultAccess; decide +kernel, _, onlyRange rfl (by decide +kernel), by decide +kernel⟩, by decide +kernel, by decide +kernel⟩,
    ⟨by unfold VaultAccess; decide +kernel, _, onlyRange rfl (by decide +kernel), by decide +kernel⟩, by decide +kernel⟩

def requestOf (isGrant : Bool) (who rights units : Nat) : RightsReq := ⟨0, 0, isGrant, 0x200000000, grantWord who rights units, 0, 0, false⟩

/-- A request at the unit of die 0; owner 1 is of tenant `tn - 1` and holds `held`. -/
def atUnit (r : RightsReq) (tn : Nat) (held : List Right) : State :=
  { inVault [] with
    dies := [(0, { Die.reset with rightsQ := [r] })], owners := [(1, tn)]
    rights := [(0, [⟨0x200000000, 0, 0x10000, 0x3F, 0, 0xFFFF, 1⟩]), (1, held)] }

def heldRight (base : Nat) : Right := ⟨base, 0, 2, 1, 1, 0, 1⟩

theorem witness_GrantAtUnit :
    (∀ r ∈ [requestOf true 1 1 0, requestOf true 1 0x40 1, requestOf true 1 3 2],
      let s := atUnit r 1 []
      (getDie s 0).rightsQ = [r] ∧ r.isGrant = true ∧ Present s r.hart r.gen ∧ r.a.toNat % 2 ^ 56 % 64 = 0 ∧
        ∀ e ∈ mapGet [] s.rights r.own.toNat, e.base % 64 = 0) ∧
    ((requestOf true 1 1 0).b.toNat % 2 ^ 40 = 0 ∧ 0x40 ≤ ((requestOf true 1 0x40 1).b.extractLsb' 40 8).toNat ∧
      ¬LinesCovered { atUnit (requestOf true 1 3 2) 1 [] with rights := [] } 0 0 0x23 0x200000000 2) ∧
    LinesCovered (atUnit (requestOf true 1 3 2) 1 []) 0 0 0x23 0x200000000 2 ∧
    (mapGet 0 (atUnit (requestOf true 1 3 2) 2 []).owners 1 ≠ 1 ∧ mapGet 0 (atUnit (requestOf true 1 3 2) 1 []).owners 1 = 1) ∧
    (let old := mapGet [] (atUnit (requestOf true 1 3 2) 1 [heldRight 0]).rights 1
     (∀ e ∈ old, ¬(e.base = 0x200000000 ∧ e.len = 2 ∧ e.tag = 0 ∧ e.grantor = 0)) ∧ old.length < 4096) ∧
    (let old := mapGet [] (atUnit (requestOf true 1 3 2) 1 [heldRight 0x200000000]).rights 1
     ∃ e ∈ old, e.base = 0x200000000 ∧ e.len = 2 ∧ e.tag = 0 ∧ e.grantor = 0) := by
  unfold Present LinesCovered; decide +kernel

theorem atUnit_rights (r : RightsReq) (tn : Nat) (held : List Right) : mapGet [] (atUnit r tn held).rights 1 = held := rfl

theorem witness_GrantAtUnit_full :
    let old := mapGet [] (atUnit (requestOf true 1 3 2) 1 (List.replicate 4096 (heldRight 0))).rights 1
    (∀ e ∈ old, ¬(e.base = 0x200000000 ∧ e.len = 2 ∧ e.tag = 0 ∧ e.grantor = 0)) ∧ 4096 ≤ old.length := by
  rw [atUnit_rights]
  refine ⟨fun e he => ?_, by rw [List.length_replicate]⟩
  rw [List.eq_of_mem_replicate he]
  decide

theorem witness_RevokeAtUnit :
    let r := requestOf false 1 3 2
    let s := modMe (atUnit r 1 [heldRight 0x200000000]) fun h => { h with wait := some .rights }
    (getDie s 0).rightsQ = [r] ∧ r.isGrant = false ∧ Awaits s r.hart r.gen .rights ∧ mapGet 0 s.owners 1 = r.tenant.toNat + 1 ∧
      mapGet 0 (atUnit r 2 []).owners 1 ≠ r.tenant.toNat + 1 ∧ s.cores = [] ∧
      { s with cores := [(0, Core.reset)] }.cores ≠ [] := by
  unfold Awaits Present; decide +kernel

/-- A shootdown of a right that core 0 has to acknowledge before hart 0 goes on, with accesses that the core had admitted. -/
def shooting (unsent : List Nat) (admitted : List (Nat × Nat)) (ops : List Op) : State :=
  { run { hartWith [] with wait := some .rights } with
    shootdowns := [⟨9, [.range 0x200000000 64], unsent, [0], admitted, [], .zero, .hart 0 0 .rights 5 0 (some .pkg)⟩], ops := ops }

theorem witness_Shootdowns :
    (∃ d, (shooting [0] [] []).shootdowns.find? (fun x => x.id = 9) = some d ∧ 0 ∈ d.unsent) ∧
    (let s := shooting [] [(0, 1)] [opWith 1 0 amoOp]
     ∃ d, s.shootdowns.find? (fun x => x.id = 9) = some d ∧ 0 ∉ d.unsent ∧ 0 ∈ d.waiting ∧
      ∃ e ∈ d.admitted, e.1 = 0 ∧ ∃ o ∈ s.ops, o.id = e.2 ∧ opPending o = true) ∧
    (let s := shooting [] [(0, 1)] []
     ∃ d, s.shootdowns.find? (fun x => x.id = 9) = some d ∧ 0 ∉ d.unsent ∧ d.waiting = [0] ∧
      (∀ e ∈ d.admitted, (∀ o ∈ s.ops, o.id ≠ e.2) ∧ ∀ w ∈ s.mca, w.id ≠ e.2) ∧ (∀ e ∈ d.loading, e.2 ∉ loadingOn s 0) ∧
      d.next = .hart 0 0 .rights 5 0 (some .pkg) ∧ Awaits s 0 0 .rights ∧
      inViewOf s (d.stamp.join (performedStamp s 0)) (some 0) = true) :=
  ⟨⟨_, rfl, by decide +kernel⟩, ⟨_, rfl, by decide +kernel, by decide +kernel, (0, 1), by decide +kernel, rfl, opWith 1 0 amoOp, by decide +kernel⟩,
    ⟨_, rfl, by decide +kernel, rfl, by decide +kernel, by decide +kernel, rfl, by unfold Awaits Present; decide +kernel, by decide +kernel⟩⟩

theorem witness_Shootdowns_loading :
    let s : State := { shooting [] [] [] with
      shootdowns := [⟨9, [.tensor 0x200000000 64], [], [0], [], [(0, 4)], .zero, .none⟩]
      cores := [(0, { Core.reset with matrixQ := [⟨.mldw 1, 0, 0, 0, 0, 0, false, true, 4⟩] })] }
    ∃ d, s.shootdowns.find? (fun x => x.id = 9) = some d ∧ 0 ∉ d.unsent ∧ 0 ∈ d.waiting ∧ ∃ e ∈ d.loading, e.1 = 0 ∧ e.2 ∈ loadingOn s 0 :=
  ⟨_, rfl, by decide +kernel, by decide +kernel, (0, 4), by decide +kernel, rfl, by decide +kernel⟩

/-- Hart 0 with a range of the host window, its tenant's state and its wait. -/
def hostWindow (xs : List (Fin 32 × Word)) (failed : Bool) : State :=
  { run (hartWith xs) with
    ranges := [⟨0x80000000000000, 0x1000, 0, 0, 0, true⟩], rights := [(0, [⟨0x80000000000000, 0, 64, 3, 0, 0xFFFF, 1⟩])]
    tenants := [(0, { Tenant.reset with prFailed := failed })] }

theorem witness_PageRequests :
    (let s := run (hartWith [(6, 0x80000000000000), (7, 4)])
     isHandler s.cur = false ∧ 4 ≤ (readX (me s) 7).toNat) ∧
    (∀ failed, let s := hostWindow [(6, 0x80000000000FF8), (7, 3)] failed
     readX (me s) 7 ≠ 0 ∧ (readX (me s) 7).toNat < 4 ∧ 0x80000000000000 ≤ (readX (me s) 6).toNat % 2 ^ 56 ∧ (getCore s (s.cur / 16)).plb = [] ∧
       InRange s 0x80000000000FF8 ⟨0x80000000000000, 0x1000, 0, 0, 0, true⟩ ∧ (readX (me s) 6).toNat / 2 ^ 56 = (0 : BitVec 8).toNat ∧
       PageAdmitted s 0x80000000000FF8 0 3 ∧ (getTenant s 0).prFailed = failed ∧ pageRequests s (me s).sr.tenant < 64) ∧
    (let s := run { hartWith [] with wait := some (.page true 0x80000000000000 0 5) }
     (getHart s 0).wait = some (.page true 0x80000000000000 0 5) ∧ 0 + 20000000 ≤ { s with time := 20000000 }.time) ∧
    ((getHart (run { hartWith [] with wait := some (.page false 0x10000000000 0 5) }) 0).wait = some (.page false 0x10000000000 0 5) ∧ (1 : BitVec 8) ≠ 0) := by
  refine ⟨by decide +kernel, fun failed => ?_, by decide +kernel, by decide +kernel⟩
  cases failed <;>
    exact ⟨by decide +kernel, by decide +kernel, by decide +kernel, rfl, onlyRange rfl (by decide +kernel), by decide +kernel,
      ⟨⟨0x80000000000000, 0, 64, 3, 0, 0xFFFF, 1⟩, by decide +kernel⟩, by decide +kernel, by decide +kernel⟩

/-- Hart 0 may read and write a page of translated space, under a table that lists nothing. -/
def translatedPage (xs : List (Fin 32 × Word)) : State :=
  { run (hartWith xs) with
    ranges := [⟨0x10000000000, 0x10000, 0, 0, 0, false⟩], rights := [(0, [⟨0x10000000000, 0, 1024, 3, 0, 0xFFFF, 1⟩])] }

/-- Tenant 0 has asked the host for some pages, as context 0 at time 5. -/
def hasAsked (s : State) (n : Nat) : State := { s with tenants := [(0, { Tenant.reset with pageReqs := List.replicate n (0, 5) })] }

theorem witness_PageRequests_translated :
    let s := translatedPage [(6, 0x10000000000), (7, 1)]
    readX (me s) 7 ≠ 0 ∧ (readX (me s) 7).toNat < 4 ∧ (getCore s (s.cur / 16)).plb = [] ∧
      InRange s 0x10000000000 ⟨0x10000000000, 0x10000, 0, 0, 0, false⟩ ∧ PageAdmitted s 0x10000000000 0 1 ∧
      (getTenant s 0).prFailed = false :=
  ⟨by decide +kernel, by decide +kernel, rfl, onlyRange rfl (by decide +kernel), ⟨⟨0x10000000000, 0, 1024, 3, 0, 0xFFFF, 1⟩, by decide +kernel⟩,
    by decide +kernel⟩

theorem witness_PageRequests_outstanding :
    64 ≤ pageRequests (hasAsked (hostWindow [] false) 64) 0 ∧
    (let s := hasAsked (run { hartWith [] with wait := some (.page true 0x80000000000000 5 7) }) 1
     askedPages s 0 = [(0, 5)] ∧ mapWf .reset s.tenants = true ∧ (getHart s 0).wait = some (.page true 0x80000000000000 5 7)) ∧
    (let s := hasAsked (run (hartWith [])) 1
     askedPages s 0 = [(0, 5)] ∧ mapWf .reset s.tenants = true ∧ (getHart s 0).wait = none) := by decide +kernel

/-- Hart 0 waits for the walk of 0x100_0000_0000, which `ahead` walks go before; the tables map it to physical 0x1_0000, or list nothing. -/
def walking (ahead : Nat) (mem : SMap Byte) : State :=
  { run { hartWith [] with wait := some (.walk 0x10000000000) } with
    ptroot := [(0, 0x10000)], views := [(0, mem)]
    dies := [(0, { Die.reset with
      walks := (List.range ahead).map (fun i => ⟨i + 1, 0x10000000000, .read, none⟩) ++ [⟨0, 0x10000000000, .read, none⟩] })] }

def tables : SMap Byte :=
  [(dramBase + 0x10010, 0xC1), (dramBase + 0x10012, 2), (dramBase + 0x20000, 0xC1), (dramBase + 0x20002, 3), (dramBase + 0x30000, 0xC1),
    (dramBase + 0x30002, 4), (dramBase + 0x40000, 1), (dramBase + 0x40002, 0x10)]

theorem witness_Walks :
    (let s := walking 16 []
     (getDie s 0).walks.find? (fun x => x.hart = 0) = some ⟨0, 0x10000000000, .read, none⟩ ∧
       ⟨0, 0x10000000000, .read, none⟩ ∉ (getDie s 0).walks.take 16) ∧
    (let s := walking 15 tables
     let va := 0x10000000000
     let word := fun a => physWord s 0 a
     (getDie s 0).walks.find? (fun x => x.hart = 0) = some ⟨0, va, .read, none⟩ ∧ ⟨0, va, .read, none⟩ ∈ (getDie s 0).walks.take 16 ∧
       (getHart s 0).wait = some (.walk va) ∧ word ((ptrootOf s 0).toNat + 8 * (va / 2 ^ 39 % 2 ^ 17)) = 0x200 * 256 + 0xC1 ∧
       word (0x200 * 256 + 8 * (va / 2 ^ 30 % 2 ^ 9)) = 0x300 * 256 + 0xC1 ∧ word (0x300 * 256 + 8 * (va / 2 ^ 21 % 2 ^ 9)) = 0x400 * 256 + 0xC1 ∧
       word (0x400 * 256 + 8 * (va / 2 ^ 16 % 2 ^ 5)) = 1 * 2 ^ 20 + 0 * 2 ^ 8 + 0 * 2 + 1) ∧
    (let s := walking 0 []
     ⟨0, 0x10000000000, .read, none⟩ ∈ (getDie s 0).walks.take 16 ∧ (getHart s 0).wait = some (.walk 0x10000000000) ∧
       physWord s 0 ((ptrootOf s 0).toNat + 8 * (0x10000000000 / 2 ^ 39 % 2 ^ 17)) % 2 = 0) ∧
    (let s := { bare with dies := [(0, { Die.reset with atsPending := [⟨3, 0x1000, true, 0, 0⟩] })] }
     (getDie s 0).atsPending = [⟨3, 0x1000, true, 0, 0⟩] ∧ findCmd s 0 0 = none) ∧
    (∀ e ∈ bare.dies, e.2.bulkRunning = []) ∧
    (let s := { bare with invalidations := [⟨4, 3, 0x1000, 0x1000⟩] }
     s.invalidations.find? (fun x => x.id = 4) = some ⟨4, 3, 0x1000, 0x1000⟩) := by decide +kernel

theorem witness_PageRequests_mapped :
    let s := walking 0 tables
    let t := setHart s 0 { getHart s 0 with wait := some (.page false 0x10000000000 5 7) }
    (getHart t 0).wait = some (.page false 0x10000000000 5 7) ∧ (getHart t 0).tenure = .running ∧ (mappedEntry t 0x10000000000).isSome = true ∧
      t.cores = [] := by decide +kernel

/-- The image of a tensor of 16 by 4 INT8 elements at the start of the first vault. -/
def tensorImage : List Byte :=
  leBytes 8 0x200000000 ++ [0x30, 1, 0, 0, 0, 0, 0, 0] ++ leBytes 4 16 ++ leBytes 4 4 ++ leBytes 8 16 ++ List.replicate 32 0

def tensorOf (flags : BitVec 8) : Tensor := ⟨0x200000000, 0x30, flags, 0, 0, 0, 16, 4, 16, 6, 0⟩

def atTable (q : TensorReq) (ts : SMap (Option Tensor)) : State :=
  { modMe (inVault []) fun h => { h with wait := some .tensor } with tensorQ := [q], tensors := ts }

def okIs (e : Except Trap Nat) (n : Nat) : Bool :=
  match e with
  | .ok k => decide (k = n)
  | .error _ => false

theorem witness_TensorTable :
    (let s := run (hartWith [(6, 0x1FFC0)])
     isHandler s.cur = false ∧ Device s ∧ SelfAccess s (readX (me s) 6) 64) ∧
    (let s := atTable (.tdef 0 0 5 tensorImage 0) []
     s.tensorQ = [.tdef 0 0 5 tensorImage 0] ∧ tableBusy s = false ∧ (getHart s 0).gen = 0 ∧
       okIs (tdefCheck s (getHart s 0) 0 0 tensorImage) 1 = true) ∧
    (∀ q ∈ [TensorReq.tver 0 0 5 0xFFFF, .tkill 0 0 0xFFFF],
      let s := atTable q [(0xFFFF, some (tensorOf 1))]
      s.tensorQ = [q] ∧ tableBusy s = false ∧ Awaits s 0 0 .tensor ∧ s.cores = [] ∧ { s with cores := [(0, Core.reset)] }.cores ≠ [] ∧ getTensor s 0xFFFF = some (tensorOf 1) ∧
        (tensorOf 1).flags.getLsbD 0 = true ∧ (tensorOf 1).tenant = (getHart s 0).sr.tenant ∧
        baseWritable s (getHart s 0).sr.own (tensorOf 1) = true ∧ (tensorOf 1).version ≠ BitVec.allOnes 32) ∧
    (let s := atTable (.tver 0 0 5 0x10000) []
     tableBusy s = false ∧ (getHart s 0).gen = 0 ∧ 0x10000 ≤ (0x10000 : Word).toNat) ∧
    (∀ r, getTensor (atTable (.tkill 0 0 1) [(1, some (tensorOf 0))]) 1 = some r → r.flags.getLsbD 0 = false) := by
  refine ⟨by unfold Device SelfAccess; decide +kernel, by decide +kernel, by unfold Awaits Present; decide +kernel, by decide +kernel, ?_⟩
  intro r h
  cases h
  rfl

def copyState (n : Nat) (xs : List (Fin 32 × Word)) : State :=
  { run (hartWith xs) with cores := [(0, { Core.reset with copyQ := List.replicate n 1 })] }

theorem witness_EngineIssue :
    (let s := copyState 0 [(5, 1 <<< 32)]
     isHandler s.cur = false ∧ (me s).unit = none ∧ EngineScopes s none none ∧ (readX (me s) 5).toNat / 2 ^ 32 % 2 ^ 28 ≠ 0) ∧
    (let s := copyState 2 [(5, 0xFFFFFFFF)]
     (readX (me s) 5).toNat / 2 ^ 32 % 2 ^ 28 = 0 ∧ 2 ≤ (getCore s 0).copyQ.length) ∧
    (let s := copyState 1 [(5, 0xFFFFFFFF)]
     (readX (me s) 5).toNat / 2 ^ 32 % 2 ^ 28 = 0 ∧ (getCore s 0).copyQ.length < 2 ∧ (getCore s 0).cmds.length < 256 ∧ Unfenced s) ∧
    (let s := copyState 0 [(5, 64), (6, 0x200000000), (7, 0x20000003F)]
     let x := (readX (me s) 5).toNat
     x / 2 ^ 40 % 2 ^ 20 = 0 ∧ x % 2 ^ 40 ≠ 0 ∧ (readX (me s) 6).toNat % 2 ^ 56 < (readX (me s) 7).toNat % 2 ^ 56 + x % 2 ^ 40 ∧
       (readX (me s) 7).toNat % 2 ^ 56 < (readX (me s) 6).toNat % 2 ^ 56 + x % 2 ^ 40) ∧
    (let s := copyState 0 [(5, 64), (6, 0x200000000), (7, 0x200000040)]
     let x := (readX (me s) 5).toNat
     x / 2 ^ 40 % 2 ^ 20 = 0 ∧ bulkCount (getCore s 0) < 4 ∧ (getCore s 0).cmds.length < 256 ∧ Unfenced s ∧
       (readX (me s) 6).toNat % 2 ^ 56 + x % 2 ^ 40 ≤ (readX (me s) 7).toNat % 2 ^ 56) ∧
    (let s := run (hartWith [(6, 0x20000)])
     isHandler s.cur = false ∧ (me s).unit = none ∧ bindsScope s (me s) .clus = true ∧ 0x20000 ≤ (readX (me s) 6).toNat) ∧
    (let s := run (hartWith [(6, 0x1FFE0)])
     isHandler s.cur = false ∧ (me s).unit = none ∧ bindsScope s (me s) .pkg = true ∧ (readX (me s) 6).toNat % 32 = 0 ∧
       (readX (me s) 6).toNat < 0x20000 ∧ (getCore s (s.cur / 16)).cmds.length < 256 ∧ Unfenced s) := by
  simp only [unfenced_iff]
  refine ⟨⟨by decide +kernel, by decide +kernel, ?_, by decide +kernel⟩, by decide +kernel, by decide +kernel, by decide +kernel,
    by decide +kernel, by decide +kernel, by decide +kernel⟩
  rintro sc (h | h) <;> cases h

/-- A command of hart 0 with tag 5. -/
def cmdWith (k : EngineKind) (st : CmdState) (post : Option Nat) : Cmd :=
  ⟨k, 5, 0, 0, false, 0, 0, 0, false, 0x100, 0x80, 64, 0, 0, 64, none, .core, post, st, .zero, false, none, 1, 1, false, false⟩

def withCmd (m : Cmd) (xs : List (Fin 32 × Word)) (c : Core → Core) : State :=
  { run (hartWith xs) with cores := [(0, c { Core.reset with cmds := [m] })] }

/-- An engine check ends in a translation that the host has still to give. -/
def asksHost (c : EngineCheck) (page : Nat) : Bool :=
  match c with
  | .needAts p => decide (p = page)
  | _ => false

theorem witness_Walks_denied :
    let m := cmdWith .copy .running none
    let s := { hostWindow [] false with dies := [(0, { Die.reset with atsDenied := [⟨0, 0x1000, false, 0, m.tag⟩] })] }
    asksHost (engineCheck s (cmdAgent 0 m) 0x80000000001FF8 rightR false 8) 0x1000 = true ∧
      ⟨m.tenant.toNat, 0x1000, false, 0, m.tag⟩ ∈ (getDie s 0).atsDenied := by decide +kernel

theorem witness_EngineResume :
    (let s := withCmd (cmdWith .bulk .running none) [(5, 5)] id
     (readX (me s) 5).toNat / 256 % 2 ^ 24 = 0 ∧
       ∀ m, HasCmd s (s.cur / 16) ((readX (me s) 5).toNat % 256) m → m.kind ≠ .copy ∨ ∀ c, m.state ≠ .faulted c) ∧
    (∀ k ∈ [EngineKind.copy, .bulk], ∀ len ∈ [0, 0x20],
      let m := cmdWith k (.faulted 0x26) none
      let s := withCmd m [(5, BitVec.ofNat 64 (len * 2 ^ 32 + 5)), (6, 0x200000000), (7, 0x200000020)] fun c => { c with copyQ := [1] }
      isHandler s.cur = false ∧ (readX (me s) 5).toNat / 256 % 2 ^ 24 = 0 ∧ (readX (me s) 5).toNat / 2 ^ 32 = len ∧
        HasCmd s 0 ((readX (me s) 5).toNat % 256) m ∧ m.kind = k ∧ m.state = .faulted 0x26 ∧ Unfenced s ∧
        (∀ y ∈ (getCore s 0).cmds, y.tag = 5 → y = m) ∧ (getCore s 0).copyQ.length < 2 ∧
        (readX (me s) 6).toNat % 2 ^ 56 + (readX (me s) 5).toNat / 2 ^ 32 ≤ (readX (me s) 7).toNat % 2 ^ 56) ∧
    (let m := cmdWith .copy (.faulted 0x26) none
     let s := withCmd m [(5, 0x2000000005)] fun c => { c with copyQ := [1, 2] }
     isHandler s.cur = false ∧ HasCmd s 0 ((readX (me s) 5).toNat % 256) m ∧ m.state = .faulted 0x26 ∧
       (readX (me s) 5).toNat / 2 ^ 32 ≠ 0 ∧ 2 ≤ (getCore s 0).copyQ.length) := by
  refine ⟨⟨by decide +kernel, fun m h => ?_⟩, by simp only [unfenced_iff]; unfold HasCmd; decide +kernel, by unfold HasCmd; decide +kernel⟩
  have : some (cmdWith .bulk .running none) = some m := h
  cases this
  exact .inl (by decide)

theorem witness_EngineStatus :
    (let s := withCmd (cmdWith .copy .running none) [(6, 255)] id
     isHandler s.cur = false ∧ (readX (me s) 6).toNat < 256 ∧ (∀ m ∈ (getCore s 0).cmds, m.tag ≠ (readX (me s) 6).toNat)) ∧
    (let s := modMe (withCmd (cmdWith .copy .running none) [(6, 255)] id) fun h => { h with met := some (.tag 255 .clus) }
     (∀ m ∈ (getCore s 0).cmds, m.tag ≠ (readX (me s) 6).toNat) ∧ (me s).met = some (.tag (readX (me s) 6).toNat .clus) ∧ 2 ≤ Scope.clus.code.toNat) ∧
    (let m := cmdWith .copy .running none
     let s := withCmd m [(6, 5)] id
     (readX (me s) 6).toNat < 256 ∧ HasCmd s 0 (readX (me s) 6).toNat m) ∧
    256 ≤ (readX (me (run (hartWith [(6, 256)]))) 6).toNat := by
  unfold HasCmd; decide +kernel

theorem witness_EngineRuns :
    (let m := cmdWith .copy .queued none
     let s := withCmd m [] fun c => { c with copyQ := [5] }
     HasCmd s 0 5 m ∧ m.state = .queued ∧ (getCore s 0).copyQ.head? = some 5 ∧ (∀ p ∈ (getCore s 0).posts, p.kind ≠ .copy) ∧ m.acq = none ∧
       ∀ y ∈ (getCore s 0).cmds, y.tag = 5 → y = m) ∧
    (let m := { cmdWith .copy .queued none with acq := some .core, issue := 2 }
     let s := { withCmd m [] fun c => { c with copyQ := [5] } with ops := [opWith 1 0 amoOp] }
     HasCmd s 0 5 m ∧ m.acq = some .core ∧ unperformedBefore s m.hart m.issue = true) ∧
    (let m := cmdWith .copy .running none
     let s := withCmd m [] id
     HasCmd s 0 5 m ∧ m.state = .running ∧ m.kind = .copy ∧ m.abandoned = false ∧ s.mca = [] ∧
       (∀ y ∈ (getCore s 0).cmds, y.tag = 5 → y = m) ∧ 0 < min (m.len - m.moved) (min (64 - m.src.toNat % 64) (64 - m.dst.toNat % 64)) ∧
       m.src.toNat < 0x20000 ∧ m.dst.toNat < 0x20000 ∧ s.badLines = []) ∧
    (let m := { cmdWith .copy .running none with moved := 64 }
     let s := withCmd m [] id
     HasCmd s 0 5 m ∧ m.state = .running ∧ m.kind = .copy ∧ m.moved = m.len ∧ ∀ y ∈ (getCore s 0).cmds, y.tag = 5 → y = m) ∧
    (let m := cmdWith .bulk .running none
     let s := withCmd m [] id
     s.cores.map (·.1) = [0] ∧ (getCore s 0).cmds = [m] ∧ m.kind = .bulk ∧ m.state = .running ∧ (getDie s 0).bulkRunning = [] ∧
       s.charges = []) := by
  unfold HasCmd; decide +kernel

/-- A command of core 0 whose cluster's event queue holds n records. -/
def ending (m : Cmd) (n : Nat) : State :=
  { withCmd m [] id with clusters := [(0, { Cluster.reset with eventQ := List.replicate n ⟨1, 0, 0, 0, 0, 0, 0, 0, .zero⟩ })] }

theorem witness_EngineCompletion :
    (∀ post ∈ [none, some 7],
      let m := cmdWith .bulk .moved post
      let s := ending m 63
      (∀ p ∈ (getCore s 0).posts, p.tag ≠ 5) ∧ HasCmd s 0 5 m ∧ (∀ y ∈ (getCore s 0).cmds, y.tag = 5 → y = m) ∧ m.state = .moved ∧
        cmdReleased s 0 m = true ∧ needsFlush m = false ∧ (getCluster s 0).eventQ.length < 64) ∧
    (let m := cmdWith .copy .moved none
     let s := ending m 64
     HasCmd s 0 5 m ∧ m.state = .moved ∧ needsFlush m = false ∧ 64 ≤ (getCluster s 0).eventQ.length) ∧
    (let m := { cmdWith .copy .moved none with rel := .sys, posted := true }
     let s := ending m 0
     HasCmd s 0 5 m ∧ m.state = .moved ∧ cmdReleased s 0 m = true ∧ needsFlush m = true) ∧
    (let m := cmdWith .copy .flushing none
     HasCmd (ending m 0) 0 5 m ∧ m.state = .flushing) := by
  unfold HasCmd; decide +kernel

/-- The copy engine of core 0 holds a post to q7, which holds n entries. -/
def posting (n : Nat) : State :=
  { run (hartWith []) with cores := [(0, { Core.reset with posts := [⟨.copy, 5, 7, 0, 1⟩], queues := [(7, List.replicate n ⟨1, 0⟩)] })] }

theorem witness_EngineCompletion_post : ∀ n ∈ [15, 16],
    let s := posting n
    (getCore s 0).posts.find? (fun x => x.tag = 5) = some ⟨.copy, 5, 7, 0, 1⟩ ∧ findCmd s 0 5 = none ∧
      (mapGet [] (getCore s 0).queues 7).length = n ∧ ∀ e ∈ (getCore s 0).pushers, e.1 ≠ 7 := by decide +kernel

theorem witness_EngineFaults :
    (let m := cmdWith .coll .running none
     let s := withCmd m [] id
     HasCmd s 0 5 m ∧ m.state = .running ∧ Present s m.hart m.gen ∧ ∀ y ∈ (getCore s 0).cmds, y.tag = 5 → y = m) ∧
    (∀ hctl ∈ [(4 : BitVec 4), 0],
      let r : FaultRec := ⟨0x26, 1, 5, false, 0, 0, 64⟩
      let s := run { hartWith [] with faults := [r], sr := { SpecialRegs.reset with hctl := hctl } }
      (getHart s 0).faults = [r] ∧ (getHart s 0).mode = .U ∧ (getHart s 0).unit = none ∧ (getHart s 0).sup = none ∧
        (getHart s 0).wait = none ∧ r.fromS = false ∧
        ((getHart s 0).sr.hctl.getLsbD 2 = true ∧ (getHart s 0).sr.hctl.getLsbD 3 = false ∨ (getHart s 0).sr.hctl.getLsbD 2 = false)) := by
  unfold HasCmd Present; decide +kernel

/-- Tensors 1 and 2 of tenant 0 with a format and flags. -/
def twoTensors (f2 fl2 : BitVec 8) : SMap (Option Tensor) := [(1, some (tensorOf 1)), (2, some { tensorOf fl2 with format := f2 })]

def configuring (f2 fl2 : BitVec 8) (y : Word) : State := { run (hartWith [(6, 0x20001), (7, y)]) with tensors := twoTensors f2 fl2 }

def configured (s : State) : Prop :=
  isHandler s.cur = false ∧ matrixQ s (s.cur / 16) = [] ∧ (readX (me s) 6).toNat < 2 ^ 32 ∧ (readX (me s) 7).toNat < 8 ∧
    (readX (me s) 7).toNat % 4 ≠ 3

theorem witness_MatrixConfiguration :
    (let s := run (hartWith [(6, 0xFFFFFFFF), (7, 6)])
     configured s ∧ ∀ r, ¬ValidTid s 0 0xFFFF r) ∧
    (let s := configuring 0x10 1 1
     configured s ∧ ValidTid s 0 1 (tensorOf 1) ∧ ValidTid s 0 2 { tensorOf 1 with format := 0x10 } ∧ operandClass 1 0x30 0x10 = 0) ∧
    (let s := configuring 0x30 9 1
     configured s ∧ ValidTid s 0 2 { tensorOf 9 with format := 0x30 } ∧ operandClass 1 0x30 0x30 ≠ 0 ∧
       (tensorOf 9).flags.getLsbD 3 = true ∧ (0x30 : BitVec 8) ≠ 1) ∧
    (let s := configuring 0x30 5 1
     configured s ∧ ValidTid s 0 2 { tensorOf 5 with format := 0x30 } ∧ operandClass 1 0x30 0x30 ≠ 0 ∧
       (tensorOf 5).flags.getLsbD 3 = false ∧ (tensorOf 5).flags.getLsbD 2 = true) ∧
    (∀ y ∈ [1, 5],
      let s := configuring 0x30 1 (BitVec.ofNat 64 y)
      configured s ∧ ValidTid s 0 1 (tensorOf 1) ∧ ValidTid s 0 2 { tensorOf 1 with format := 0x30 } ∧ operandClass 1 0x30 0x30 ≠ 0 ∧
        (tensorOf 1).flags.getLsbD 3 = false ∧ (tensorOf 1).flags.getLsbD 2 = false ∧ otherRowBusy s 0 0 = false) ∧
    (let s := { run (hartWith []) with cores := [(0, { Core.reset with matrixQ := [⟨.mswap, 0, 0, 0, 0, 0, false, false, 1⟩] })] }
     isHandler s.cur = false ∧ (readX (me s) 6).toNat < 2 ^ 32 ∧ (readX (me s) 7).toNat < 8 ∧ (readX (me s) 7).toNat % 4 ≠ 3 ∧
       matrixQ s (s.cur / 16) ≠ [] ∧ (matrixQ s (s.cur / 16)).length < 4) := by
  refine ⟨⟨by unfold configured; decide +kernel, fun r h => ?_⟩, by unfold configured ValidTid; decide +kernel,
    by unfold configured ValidTid; decide +kernel, by unfold configured ValidTid; decide +kernel,
    by unfold configured ValidTid; decide +kernel, by decide +kernel⟩
  cases h.2.1

/-- n commands in the queue of core 0, whose hart 0 stands at `u`, with gatherings. -/
def gathering (n : Nat) (u : Option UnitHead) (gs : List Gathering) : State :=
  { run { hartWith [] with unit := u } with
    cores := [(0, { Core.reset with matrixQ := List.replicate n ⟨.mswap, 0, 0, 0, 0, 0, false, false, 1⟩ })]
    clusters := [(0, { Cluster.reset with gatherings := gs })] }

theorem witness_MatrixIssue :
    (let s := gathering 1 none []
     isHandler s.cur = false ∧ (matrixQ s (s.cur / 16)).length < 2) ∧
    (let s := gathering 2 none []
     isHandler s.cur = false ∧ 2 ≤ (matrixQ s (s.cur / 16)).length) ∧
    (let s := gathering 0 none []
     isHandler s.cur = false ∧ bindsScope s (me s) .clus = true) ∧
    jointForm (gathering 0 none []) .mzero = some (.mzero, 0, 0) ∧
    (∀ pc n, (me (gathering 0 none [])).unit ≠ some (.gang pc n)) ∧
    (let s := gathering 0 (some (.gang 0 .eight)) []
     isHandler s.cur = false ∧ (me s).unit = some (.gang 0 .eight) ∧ retiring s (me s).launch = false ∧ releaseReady s s.cur .clus = true ∧
       ∀ g ∈ (getCluster s 0).gatherings, g.launch ≠ (me s).launch) ∧
    (let s := { modMe (gathering 0 (some (.gang 0 .eight)) []) fun h => { h with launch := 1 } with
       launches := [(1, some { launchWith [] with phase := .ending })] }
     isHandler s.cur = false ∧ (me s).unit = some (.gang 0 .eight) ∧ retiring s (me s).launch = true) ∧
    (let g : Gathering := ⟨3, 0, 0, false, 0, [⟨16, 0, false, .mzero, 0, 0⟩]⟩
     let s := gathering 0 (some (.gang 0 .eight)) [g]
     (me s).unit = some (.gang 0 .eight) ∧ retiring s (me s).launch = false ∧ (getCluster s 0).gatherings = [g] ∧ g.launch = (me s).launch ∧ g.wide = false ∧
       g.row = s.cur / 16 % 16 / 8 ∧ ∀ x ∈ g.members, x.hart / 16 ≠ s.cur / 16) ∧
    (let gs : List Gathering := [⟨3, 0, 0, false, 0, [⟨16, 0, false, .mzero, 0, 0⟩]⟩, ⟨4, 0, 0, false, 1, [⟨128, 0, false, .mzero, 0, 0⟩]⟩]
     let s := gathering 0 (some (.gang 0 .sixteen)) gs
     let ended := gs.filter fun g => decide (g.launch = (me s).launch ∧ g.wide ≠ true)
     let harts := (ended.flatMap fun g => g.members.map fun x => x.hart) ++ [s.cur]
     (me s).unit = some (.gang 0 .sixteen) ∧ retiring s (me s).launch = false ∧ releaseReady s s.cur .clus = true ∧ (getCluster s 0).gatherings = gs ∧
       (∃ g ∈ gs, g.launch = (me s).launch ∧ g.wide ≠ true) ∧ (gs.map fun g => g.id).Nodup ∧ harts = [16, 128, 0] ∧
       ∀ k ∈ harts, isHandler k = false) ∧
    (let s := { gathering 0 (some (.gang 0 .eight)) [] with ops := [opWith 1 0 amoOp] }
     isHandler s.cur = false ∧ (me s).unit = some (.gang 0 .eight) ∧ retiring s (me s).launch = false ∧ releaseReady s s.cur .clus = false) ∧
    isHandler (runHandler (hartWith [])).cur = true := by
  refine ⟨by decide +kernel, by decide +kernel, by decide +kernel, rfl, fun pc n h => ?_, by decide +kernel, by decide +kernel, by decide +kernel, by decide +kernel,
    by decide +kernel, by decide +kernel⟩
  cases h

/-- The eight harts of context 0 of the first row, at a joint instruction. -/
def eight (k : Nat → JointKind) (a b : Word) : List GangMember := (List.range 8).map fun g => ⟨16 * g, 0, false, k g, a, b⟩

def gatheredAll (k : Nat → JointKind) : State × Gathering :=
  let g : Gathering := ⟨3, 0, 0, false, 0, eight k 0 0⟩
  ({ bare with
     harts := (List.range 8).map fun i => (16 * i, hartWith []), clusters := [(0, { Cluster.reset with gatherings := [g] })]
     cores := (List.range 8).map fun i => (i, { Core.reset with slice := { MatrixSlice.reset with split := true } }) }, g)

theorem witness_GangCompletes : ∀ same : Bool,
    let s := (gatheredAll fun i => if same || i = 0 then .mzero else .mstr).1
    let g := (gatheredAll fun i => if same || i = 0 then .mzero else .mstr).2
    ((getCluster s 0).gatherings.find? (fun x => x.id = 3) = some g ∧ g.clus = 0 ∧ g.members.length = (if g.wide then 16 else 8) ∧
      (g.members.map fun m => m.hart / 16).Nodup ∧
      ∀ m ∈ g.members, m.hart / 256 = 0 ∧ m.hart % 16 < 8 ∧ (matrixQ s (m.hart / 16)).length < 2) ∧
    ((∀ m ∈ g.members, ∀ x ∈ g.members, sameKind m.kind x.kind = true ∧
      (matrixSlice s (m.hart / 16)).mode = (matrixSlice s (x.hart / 16)).mode ∧ (matrixSlice s (m.hart / 16)).atid = (matrixSlice s (x.hart / 16)).atid ∧
      (matrixSlice s (m.hart / 16)).split = !g.wide) ↔ same = true) := by decide +kernel

/-- Core 0 with commands in its queue and tensor 1. -/
def withMatrixQ (q : List MatrixCmd) (sl : MatrixSlice) : State :=
  { run (hartWith []) with cores := [(0, { Core.reset with matrixQ := q, slice := sl })], tensors := [(1, some (tensorOf 1))] }

def matrixCmd (op : MatrixOp) (running : Bool) : MatrixCmd := ⟨op, 0, 0, 0, 0, 0, false, running, 2⟩

theorem witness_PlaneCommands :
    (let c := matrixCmd .mswap false
     let s := withMatrixQ [c] .reset
     matrixQ s 0 = [c] ∧ c.running = false ∧ c.op = .mswap ∧ (matrixSlice s 0).owner = c.launch) ∧
    (let c := matrixCmd (.mldw 7) false
     let s := withMatrixQ [c] .reset
     matrixQ s 0 = [c] ∧ c.running = false ∧ (matrixSlice s 0).owner = c.launch ∧ EarlierDone s c ∧ (∀ r, ¬ValidTid s 0 7 r) ∧ Present s c.hart c.gen ∧
       ((getHart s c.hart).faults.filter fun r => r.kind = 4).length < 8) ∧
    (let c := matrixCmd (.mldw 1) false
     let s := withMatrixQ [c] { MatrixSlice.reset with mode := 1, cls := 4 }
     matrixQ s 0 = [c] ∧ c.running = false ∧ (matrixSlice s 0).owner = c.launch ∧ EarlierDone s c ∧ ValidTid s 0 1 (tensorOf 1) ∧ (tensorOf 1).format = 0x30 ∧
       (matrixSlice s 0).mode = 1 ∧ (matrixSlice s 0).cls = 4 ∧ (tensorOf 1).flags.getLsbD 2 = false ∧ s.mca = [] ∧
       ∀ c < 8, ∀ k < 16, 0x200000000 ≤ ((tensorOf 1).base + BitVec.ofNat 64 ((0 + 8 * 0 + c) * (tensorOf 1).stride + 0 + k)).toNat % 2 ^ 56 ∧
         ((tensorOf 1).base + BitVec.ofNat 64 ((0 + 8 * 0 + c) * (tensorOf 1).stride + 0 + k)).toNat % 2 ^ 56 < 0x600000000) ∧
    (let c := matrixCmd (.mldw 7) false
     let s := { withMatrixQ [c] .reset with ops := [opWith 1 0 amoOp] }
     matrixQ s 0 = [c] ∧ ∃ o ∈ s.ops, o.hart = c.hart ∧ o.atHome = true ∧ o.id < c.issue) := by
  refine ⟨by decide +kernel, ⟨by decide +kernel, by decide +kernel, by decide +kernel, by unfold EarlierDone; decide +kernel, fun r h => ?_,
    by unfold Present; decide +kernel, by decide +kernel⟩, by unfold ValidTid EarlierDone; decide +kernel, by decide +kernel⟩
  cases h.2.1

/-- Core 0 has MLDW of tensor 1 at the head of its queue, in a vault whose owner may load weights from it (right M, bit 4). -/
def loading : State :=
  { withMatrixQ [matrixCmd (.mldw 1) false] { MatrixSlice.reset with mode := 1, cls := 4 } with
    ranges := (inVault []).ranges, rights := (inVault []).rights }

theorem witness_PlaneCommands_loaded :
    let s := loading
    let p : Nat → Nat → Word := fun j k => (tensorOf 1).base + BitVec.ofNat 64 ((0 + 8 * 0 + j) * (tensorOf 1).stride + 0 + k)
    let at' := fun j k => (p j k).toNat % 2 ^ 56
    (getCore s 0).plb = [] ∧ ∃ rg, ∀ j < 8, ∀ k < min 256 ((tensorOf 1).dim0 - 0), 0 + 8 * 0 + j < (tensorOf 1).dim1 →
      InRange s (at' j k) rg ∧ (p j k).toNat / 2 ^ 56 = rg.tag.toNat ∧ OwnerMay s (matrixCmd (.mldw 1) false).own (at' j k) rg.tag 4 ∧
        at' j k / 64 ∉ s.badLines := by
  have covers : ∀ j < 8, ∀ k < 16, j < 4 →
      let va := ((tensorOf 1).base + BitVec.ofNat 64 ((0 + 8 * 0 + j) * (tensorOf 1).stride + 0 + k)).toNat % 2 ^ 56
      (0x200000000 ≤ va ∧ va < 0x200000000 + 0x400000) ∧ (0x200000000 ≤ va / 64 * 64 ∧ va / 64 * 64 + 64 ≤ 0x200000000 + 64 * 0x10000) ∧
        ((tensorOf 1).base + BitVec.ofNat 64 ((0 + 8 * 0 + j) * (tensorOf 1).stride + 0 + k)).toNat / 2 ^ 56 = 0 := by decide +kernel
  refine ⟨rfl, _, fun j hj k hk hr => ⟨onlyRange rfl ?_, ?_, ⟨⟨0x200000000, 0, 0x10000, 0x3F, 0, 0xFFFF, 1⟩, ?_, ?_⟩, List.not_mem_nil⟩⟩
  all_goals have c := covers j hj k hk (by simpa [tensorOf] using hr)
  · exact c.1
  · exact c.2.2
  · exact List.mem_singleton.mpr rfl
  · exact ⟨rfl, c.2.1.1, c.2.1.2, by decide⟩

/-- A joint command of the first row, which may start, its slices holding an INT8 plane. -/
def jointState (k : JointKind) (a b : Word) (mode : BitVec 2) (atid : BitVec 16 := 1) : State × Gang :=
  let g : Gang := ⟨3, 0, 0, false, 0, eight (fun _ => k) a b⟩
  ({ bare with
     harts := (List.range 8).map fun i => (16 * i, hartWith []), clusters := [(0, { Cluster.reset with gangs := [g] })]
     tensors := [(1, some (tensorOf 1))]
     cores := (List.range 8).map fun i => (i, { Core.reset with
       matrixQ := [⟨.joint 3, 16 * i, 0, 0, 0, 0, false, false, 1⟩]
       slice := { MatrixSlice.reset with
         split := true, mode := mode, cls := 4, atid := atid, active := { Plane.reset with state := .loaded, format := 0x30 } } }) }, g)

theorem witness_JointCommands :
    (∀ k ∈ [JointKind.mzero, .mstr, .mdrn .i32, .mdrn .f32],
      let s := (jointState k 0x1C000 64 1).1
      let g := (jointState k 0x1C000 64 1).2
      JointReady s 3 g ⟨0, 0, false, k, 0x1C000, 64⟩ ∧ ∀ m ∈ g.members, (matrixSlice s (m.hart / 16)).atid ≠ 0) ∧
    (∀ k ∈ [JointKind.mzero, .mdrn .f32],
      let s := (jointState k 0x1C000 64 1 0).1
      let g := (jointState k 0x1C000 64 1 0).2
      JointReady s 3 g ⟨0, 0, false, k, 0x1C000, 64⟩ ∧ ∃ m ∈ g.members, (matrixSlice s (m.hart / 16)).atid = 0) ∧
    (let s := (jointState .mstr 0x1C000 64 1).1
     let g := (jointState .mstr 0x1C000 64 1).2
     let l : GangMember := ⟨0, 0, false, .mstr, 0x1C000, 64⟩
     (∀ m ∈ g.members, (matrixSlice s (m.hart / 16)).active.state ≠ .empty ∧ (matrixSlice s (m.hart / 16)).active.format = 0x30) ∧
       (matrixSlice s 0).mode = 1 ∧ (matrixSlice s 0).cls = 4 ∧ ValidTid s (jointTenant s g l) (matrixSlice s 0).atid (tensorOf 1) ∧
       (tensorOf 1).format = 0x30 ∧ (tensorOf 1).flags.getLsbD 3 = false ∧ l.b.toNat % 256 = 64 ∧ l.b.toNat / 2 ^ 8 % 2 ^ 8 = 0 ∧
       l.b.toNat / 2 ^ 16 % 32 = 0 ∧ l.a.toNat % 64 = 0 ∧ l.a.toNat + 256 * 64 ≤ 0x20000 ∧ s.mca = [] ∧ s.badLines = []) ∧
    (∀ ty ∈ [DrainType.f32, .i32],
      let s := (jointState (.mdrn ty) 0x1F800 0 (if ty = .f32 then 0 else 1)).1
      let g := (jointState (.mdrn ty) 0x1F800 0 (if ty = .f32 then 0 else 1)).2
      JointReady s 3 g ⟨0, 0, false, .mdrn ty, 0x1F800, 0⟩ ∧ (∀ m ∈ g.members, m.kind = .mdrn ty) ∧
        (ty = .f32 ∧ (matrixSlice s 0).mode = 0 ∨ ty = .i32 ∧ (matrixSlice s 0).mode ≠ 0) ∧
        (∀ m ∈ g.members, (matrixSlice s (m.hart / 16)).atid ≠ 0) ∧ s.badLines = [] ∧
        ∀ m ∈ g.members, m.a.toNat % 64 = 0 ∧ m.a.toNat + 2048 ≤ 0x20000 ∧ m.hart < 0x40000) := by
  refine ⟨?_, ?_, ?_, ?_⟩ <;> (try unfold JointReady) <;> (try unfold ValidTid) <;> decide +kernel

theorem witness_JointCommands_error :
    let s := { (jointState (.mdrn .f32) 0x1F800 0 0).1 with badLines := [(0x100000000 + 0x1F800) / 64 + 31] }
    let g := (jointState (.mdrn .f32) 0x1F800 0 0).2
    JointReady s 3 g ⟨0, 0, false, .mdrn .f32, 0x1F800, 0⟩ ∧
      ∃ m ∈ g.members, ∃ i < 32, (0x100000000 + m.hart / 16 * 0x20000 + m.a.toNat) / 64 + i ∈ s.badLines :=
  ⟨by unfold JointReady; decide +kernel, ⟨0, 0, false, .mdrn .f32, 0x1F800, 0⟩, by decide +kernel, 31, by decide +kernel⟩

theorem witness_MatrixCommandEnds :
    (let c := matrixCmd .mswap true
     let s := withMatrixQ [c, matrixCmd .mswap false] .reset
     matrixQ s 0 = [c, matrixCmd .mswap false] ∧ c.running = true ∧ (∀ x ∈ [matrixCmd .mswap false], x.running = false) ∧
       ∀ id, c.op ≠ .joint id) ∧
    (let c := matrixCmd (.joint 3) true
     let g : Gang := ⟨3, 0, 0, false, 0, [⟨0, 0, false, .mzero, 0, 0⟩]⟩
     let s := { withMatrixQ [c] .reset with clusters := [(0, { Cluster.reset with gangs := [g] })] }
     matrixQ s 0 = [c] ∧ c.running = true ∧ c.op = .joint 3 ∧ findGang s 3 = some g ∧ g.members.head? = some ⟨0, 0, false, .mzero, 0, 0⟩) := by
  refine ⟨⟨rfl, rfl, by decide +kernel, fun id h => ?_⟩, by decide +kernel⟩
  cases h

/-- A float vector instruction's fields: v3 from v1 and v2 under no mask. -/
def plainF (et : BitVec 3) : VFmt := ⟨false, false, false, 0, 2, 1, 3, et⟩

/-- Fields of an instruction whose vb bits stand for nothing. -/
def oneF (et : BitVec 3) : VFmt := ⟨false, false, false, 0, 0, 1, 3, et⟩

/-- Hart 0 with v1, v2 and v3 live under DEADCHK. -/
def lanes : State := run { hartWith [] with live := 14, sr := { SpecialRegs.reset with hctl := 1 } }

theorem witness_LanesDone :
    deadMask (me lanes) (plainF 0) = false ∧ deadMask (me lanes) { plainF 0 with mask := 5 } = true ∧
    openLane (me lanes) (plainF 0) [1, 2] = false ∧ openLane (me lanes) (plainF 0) [1, 4] = true ∧ selects lanes (me lanes) 0 15 = true ∧
    selects (run { hartWith [] with live := 14 }) (me lanes) 1 15 = false := by decide +kernel

theorem witness_IntegerVectors :
    (∃ op, intForm (.vadd (plainF 0)) = some (plainF 0, 4, op)) ∧ wellFormed (.vadd (plainF 0)) = true ∧ VectorReady lanes (.vadd (plainF 0)) ∧
    (∃ op, intForm (.vadd16 true 3 1) = some (shortForm 3 1 1, 2, op)) ∧ wellFormed (.vadd16 true 3 1) = true ∧
      VectorReady lanes (.vadd16 true 3 1) := by
  refine ⟨⟨_, rfl⟩, by decide +kernel, by unfold VectorReady; decide +kernel, ⟨_, rfl⟩, by decide +kernel,
    by unfold VectorReady; decide +kernel⟩

theorem witness_FloatVectors :
    (∃ op, floatForm (.vfma (plainF 3)) = some (plainF 3, 4, op)) ∧ wellFormed (.vfma (plainF 3)) = true ∧ VectorReady lanes (.vfma (plainF 3)) ∧
    (∃ op, floatForm (.vfadd16 false 3 1) = some (shortForm 3 1 0, 2, op)) ∧ wellFormed (.vfadd16 false 3 1) = true ∧
      VectorReady lanes (.vfadd16 false 3 1) := by
  refine ⟨⟨_, rfl⟩, by decide +kernel, by unfold VectorReady; decide +kernel, ⟨_, rfl⟩, by decide +kernel,
    by unfold VectorReady; decide +kernel⟩

theorem witness_VectorCompares :
    (∃ w test, compareForm (flushOn (me lanes)) (.vcmplt (plainF 3)) = some (plainF 3, w, test)) ∧ wellFormed (.vcmplt (plainF 3)) = true ∧
      VectorReady lanes (.vcmplt (plainF 3)) := by
  refine ⟨⟨_, _, rfl⟩, by decide +kernel, by unfold VectorReady; decide +kernel⟩

theorem witness_VectorMoves :
    ((∃ val, moveForm lanes (.vperm (plainF 0)) = some (plainF 0, val)) ∧ wellFormed (.vperm (plainF 0)) = true ∧
      VectorReady lanes (.vperm (plainF 0))) ∧
    (wellFormed (.vsel { plainF 0 with mask := 1 }) = true ∧ VectorReady lanes (.vsel { plainF 0 with mask := 1 })) ∧
    (wellFormed (.vcprs (oneF 0)) = true ∧ VectorReady lanes (.vcprs (oneF 0))) ∧ VectorReady lanes (.vmv 3 1) ∧
    ((∃ op, maskForm (.kand (oneF 0)) = some (oneF 0, op)) ∧ wellFormed (.kand (oneF 0)) = true ∧ VectorReady lanes (.kand (oneF 0))) ∧
    (wellFormed (.vext { plainF 3 with vb := 5 }) = true ∧ VectorReady lanes (.vext { plainF 3 with vb := 5 })) ∧
    (wellFormed (.kcnt (oneF 0)) = true ∧ VectorReady lanes (.kcnt (oneF 0))) ∧
    (wellFormed (.kfst (oneF 3)) = true ∧ VectorReady lanes (.kfst (oneF 3))) := by
  refine ⟨⟨⟨_, rfl⟩, ?_⟩, ?_, ?_, ?_, ⟨⟨_, rfl⟩, ?_⟩, ?_, ?_, ?_⟩ <;> (unfold VectorReady; decide +kernel)

theorem witness_VectorConversions :
    ((∃ w n regs res, convertForm lanes (.vcvt { oneF 0 with vb := 0x19 }) = some ({ oneF 0 with vb := 0x19 }, w, n, regs, res)) ∧
      wellFormed (.vcvt { oneF 0 with vb := 0x19 }) = true ∧ VectorReady lanes (.vcvt { oneF 0 with vb := 0x19 })) ∧
    ((∃ w res, reduceForm lanes (.vredsum (oneF 0)) = some (oneF 0, w, res)) ∧ wellFormed (.vredsum (oneF 0)) = true ∧
      VectorReady lanes (.vredsum (oneF 0))) ∧
    ((oneF 2).vb = 0 ∧ wellFormed (.vscan (oneF 2)) = true ∧ VectorReady lanes (.vscan (oneF 2))) ∧
    (wellFormed (.vqnt (oneF 1)) = true ∧ VectorReady lanes (.vqnt (oneF 1))) := by
  refine ⟨⟨⟨_, _, _, _, rfl⟩, ?_⟩, ⟨⟨_, _, rfl⟩, ?_⟩, ?_, ?_⟩ <;> (unfold VectorReady; decide +kernel)

theorem witness_DeadSources :
    (vectorForm (runHandler (hartWith [])) (.vadd (plainF 0)) ∧ isHandler (runHandler (hartWith [])).cur = true) ∧
    (vectorForm lanes (.vadd { plainF 0 with vb := 4 }) ∧ isHandler lanes.cur = false ∧ deadChk (me lanes) = true ∧
      ∃ r ∈ vectorSources (.vadd { plainF 0 with vb := 4 }), (me lanes).live.getLsbD r.toNat = false) := by
  refine ⟨⟨.inl rfl, by decide +kernel⟩, .inl rfl, by decide +kernel, by decide +kernel, 4, by decide +kernel, by decide +kernel⟩

theorem witness_Propagation :
    (let f : Flight := ⟨7, 0, 1, 1, .zero, 0x200000000, [5], .na, .plain⟩
     let s := { bare with flights := [f] }
     s.flights.find? (fun x => x.id = 7) = some f ∧ f.prop ≠ .repl ∧ f.stamp.le (stampOf s f.dst) = true ∧ f.key ≠ ptrootKey ∧ isDram f.key = false) ∧
    (let f : Flight := ⟨7, 0, 1, 1, .zero, ptrootKey, leBytes 8 0x10000, .na, .plain⟩
     let s := { bare with flights := [f] }
     s.flights.find? (fun x => x.id = 7) = some f ∧ f.prop ≠ .repl ∧ f.stamp.le (stampOf s f.dst) = true ∧ mapWf 0 s.ptroot = true) ∧
    (let f : Flight := ⟨7, 0, 1, 1, .zero, dramBase, [5], .na, .plain⟩
     let s := { bare with flights := [f] }
     f.stamp.le (stampOf s f.dst) = true ∧ lineKeyOf s f.dst f.key = f.under) ∧
    (let f : Flight := ⟨7, 0, 1, 2, ⟨1, 0, 0, 0⟩, 0x200000000, [5], .na, .plain⟩
     let s := { bare with flights := [f] }
     s.flights.find? (fun x => x.id = 7) = some f ∧ f.prop ≠ .repl ∧ f.stamp.le (stampOf s f.dst) = false) ∧
    (∀ settled ∈ [true, false],
      let w : McaWrite := ⟨7, 0, 0, if settled then .zero else ⟨1, 0, 0, 0⟩, 0x200000000, [5], .plain⟩
      let s := { bare with mca := [w] }
      (∀ f ∈ s.flights, f.id ≠ 7) ∧ w.id = 7 ∧ viewSettled s (w.stamp.join (stampOf s w.die)) = settled ∧ isDram w.key = false) ∧
    (let s := { bare with views := [(1, [(0x200000007, 9)])] }
     isOuter 0x200000000 = false ∧ 0x200000000 ≠ ptrootKey ∧ s.flights = [] ∧ (stampOf s (homeDie 0x200000000)).le (stampOf s 1) = true ∧ isDram 0x200000000 = false ∧
       ∃ i < 8, viewByte s 1 (0x200000000 + i) ≠ viewByte s (homeDie 0x200000000) (0x200000000 + i)) ∧
    (let s := { bare with views := [(1, [(0x200000007, 9)])], stamps := [(homeDie 0x200000000, ⟨1, 0, 0, 0⟩)] }
     (stampOf s (homeDie 0x200000000)).le (stampOf s 1) = false) := by decide +kernel

theorem witness_Propagation_repl :
    (∀ n ∈ [4, 9],
      let f : Flight := ⟨7, 0, 1, 1, .zero, 0x200000000, [5], .repl, .plain⟩
      let g : Flight := ⟨n, 0, 1, 1, .zero, 0x200000000, [5], .repl, .plain⟩
      let s := { bare with flights := [f, g] }
      s.flights.find? (fun x => x.id = 7) = some f ∧ f.prop = .repl ∧ f.key ≠ ptrootKey ∧ isDram f.key = false ∧
        (s.flights.any (fun g => decide (g.src = f.src ∧ g.dst = f.dst ∧ g.prop = .repl ∧ g.id < f.id ∧
          g.key < f.key + f.bytes.length ∧ f.key < g.key + g.bytes.length)) = true ↔ n = 4)) ∧
    3 < 4 ∧ 0x200000000 < 0x100000000000000 ∧ dramBase < 0x10000000000000000 ∧ lineKeyOf bare 3 dramBase = .plain := by decide +kernel

/-- Hart 0 of launch 1 of tenant 0, and a node of launch 2 of tenant 1 that waits for a context of core 0. -/
def contended (sl : SliceState) (time : Nat) : State :=
  { onNode 1 [] with
    launches := [(1, some (launchWith [(0, some (nodeWith 1))])), (2, some { launchWith [(0, some (nodeWith 1))] with id := 2, tenant := 1 })]
    clusters := [(0, { Cluster.reset with workQ := [⟨2, 0, false, [(0, 1)]⟩], slices := [(0, sl)] })], time := time }

theorem witness_Slices_end :
    let s := contended ⟨true, 1000000, some 1000000, none, false, none⟩ 2000000
    let v := sliceAt s 0 0
    v.held = true ∧ v.ended = none ∧ sliceHarts s 0 0 ≠ [] ∧ (getTenant s 0).slice ≠ 0 ∧
      (getTenant s 0).slice.toNat * 1000 ≤ v.used + (match v.since with | some b => s.time - b | none => 0) ∧ s.firmware.quiesced = false ∧
      waitingCause s 0 0 (topPrio s (sliceHarts s 0 0)) = some (.node 2 0) := by decide +kernel

theorem witness_Slices_deadline :
    let s := contended ⟨true, 0, none, some 0, false, none⟩ 50000
    let v := sliceAt s 0 0
    v.ended = some 0 ∧ v.overdue = false ∧ sliceHarts s 0 0 ≠ [] ∧ 0 + (getTenant s 0).deadline.toNat * 1000 ≤ s.time := by decide +kernel

theorem witness_Slices_stop :
    (let s := run { hartWith [] with preempt := .overdue 65536, launch := 1 }
     NobodyGathers s (0 / 16 / 16) ∧ (getHart s 0).preempt = .overdue 65536 ∧ (getHart s 0).mode = .U ∧ (getHart s 0).unit = none ∧
       (getHart s 0).wait = none ∧ (∀ o ∈ s.ops, o.hart ≠ 0) ∧ (getHart s 0).launch ≠ 0) ∧
    (let s := run { hartWith [] with sup := some (.stop 2), launch := 1 }
     NobodyGathers s (0 / 16 / 16) ∧ (getHart s 0).sup = some (.stop 2) ∧ (2 : Nat) ≠ 0 ∧ SaveMayRun s 0 ∧ saveTraps s 0 2 = false) ∧
    (let s := run { hartWith [] with sup := some (.stop 0), launch := 1 }
     NobodyGathers s (0 / 16 / 16) ∧ (getHart s 0).sup = some (.stop 0) ∧ SaveMayRun s 0 ∧ saveTraps s 0 0 = false) ∧
    (let s := { onNode 1 [] with
       harts := [(0, { hartWith [] with sup := some (.stop 2), launch := 1, x := Hart.reset.x, live := 2 })]
       badLines := [0x100000000 / 64] }
     NobodyGathers s (0 / 16 / 16) ∧ (getHart s 0).sup = some (.stop 2) ∧ SaveMayRun s 0 ∧ saveTraps s 0 2 = true ∧
       getLaunch s (getHart s 0).launch = some (launchWith [(0, some (nodeWith 1))])) := by
  have quiet : ∀ s : State, s.agenda = [] → (∀ o ∈ s.ops, o.hart ≠ 0) → bankBusy s 0 0 = false → (getCore s 0).matrixQ = [] →
      SaveMayRun s 0 := fun s ha ho hb hq => ⟨ho, hb, hq, fun r h => by rw [ha] at h; cases h⟩
  unfold NobodyGathers
  exact ⟨by decide +kernel, ⟨by decide +kernel, rfl, by decide, quiet _ rfl (by decide +kernel) (by decide +kernel) rfl, by decide +kernel⟩,
    ⟨by decide +kernel, rfl, quiet _ rfl (by decide +kernel) (by decide +kernel) rfl, by decide +kernel⟩,
    ⟨by decide +kernel, rfl, quiet _ rfl (by decide +kernel) (by decide +kernel) rfl, by decide +kernel, rfl⟩⟩

theorem witness_Interrupts :
    let s := run { hartWith [] with ipend := 0x82 }
    (getHart s 0).mode = .U ∧ (getHart s 0).unit = none ∧ (getHart s 0).sup = none ∧ 1 < 8 ∧ (getHart s 0).ipend.getLsbD 1 = true ∧
      ∀ j < 1, (getHart s 0).ipend.getLsbD j = false := by decide +kernel

/-- A launch whose node starts a hart on core 0, beside one that runs there. -/
def starting : State :=
  let l := launchWith [(0, some { nodeWith 1 with args := 0x200000000 })]
  { inVault [] with
    harts := [(1, { hartWith [] with launch := 1 })], launches := [(1, some l)]
    clusters := [(0, { Cluster.reset with workQ := [⟨1, 0, false, [(0, 1)]⟩] })] }

theorem mem_dedup (x : Nat) (l acc : List Nat) (h : x ∈ acc ∨ x ∈ l) :
    x ∈ l.foldl (fun acc c => if acc.contains c then acc else acc ++ [c]) acc := by
  induction l generalizing acc with
  | nil => simpa using h
  | cons a l ih =>
    rw [List.foldl_cons]
    apply ih
    rcases h with h | h
    · left; split <;> simp [h]
    · rcases List.mem_cons.mp h with rfl | h
      · left
        by_cases e : acc.contains x = true
        · rw [if_pos e]; simpa using e
        · rw [if_neg e]; simp
      · exact .inr h

/-- A launch over the whole device binds core 0. -/
theorem binds_core_0 {s : State} {l : Launch} (hl : l.levels = [⟨.sys, .sys, 1⟩]) (ho : allOs s 0 1 = false)
    (hi : levelInstances s l.id l.levels 0 = [(0, 16384)]) : 0 ∈ launchCores s l := by
  have e : l.levels.length - 1 = 0 := by rw [hl]; rfl
  unfold launchCores
  simp only [e, hi]
  refine mem_dedup _ _ _ (.inr ?_)
  simp only [List.flatMap_cons, List.flatMap_nil, List.append_nil, coresBelow, List.take_zero, List.filter_nil, List.reverse_nil,
    List.foldl_nil, instancesIn, domainCores, List.mem_map, List.mem_filter, List.mem_range]
  exact ⟨(0, 1), ⟨⟨0, by decide, rfl⟩, by simp [ho]⟩, rfl⟩

theorem witness_HartsStart :
    let s := starting
    let n := { nodeWith 1 with args := 0x200000000 }
    let l := launchWith [(0, some n)]
    FreeContext s 0 0 ∧ claimant s 0 0 = some (.start ⟨1, 0, false, [(0, 1)]⟩) ∧ getLaunch s 1 = some l ∧ l.id = 1 ∧
      getNode l 0 = some n ∧ n.stamp.le (stampOf s (0 / 4096)) = true ∧ ArgsReadable s l n 0 ∧ l.loaded = false ∧
      0 ∈ launchCores s l := by
  refine ⟨by unfold FreeContext; decide +kernel, by decide +kernel, by decide +kernel, rfl, by decide +kernel, by decide +kernel, ?_,
    rfl, binds_core_0 rfl (by decide +kernel) (by decide +kernel)⟩
  exact ⟨by decide +kernel, by decide +kernel, by decide +kernel, rfl, by decide +kernel, rfl, _, onlyRange rfl (by decide +kernel),
    by decide +kernel, ⟨0x200000000, 0, 0x10000, 0x3F, 0, 0xFFFF, 1⟩, by decide +kernel⟩

/-- A hart of context 7 of core 0 that has been saved. -/
def savedHart : Save :=
  ⟨0, 7, 1, 7, 2, 0, 0x200000000, false, 0x1FFFFFFFE, 0, some 0, 0, .reset, 0, none, Vector.replicate 32 5, Vector.replicate 32 6, none,
    [(0, 1), (0x3FFF, 2)], [], [], 9⟩

theorem witness_HartsStart_saved :
    let s := { onNode 1 [] with saves := [savedHart] }
    FreeContext s 0 7 ∧ claimant s 0 7 = some (.saved savedHart) ∧ savedHart.acc = none ∧
      (getCluster s (0 / 16)).idle = false ∧ NoDramWaits s ∧
      (∀ v ∈ s.saves, v.core = 0 → v.launch = savedHart.launch → v.planes = none) ∧ mapWf 0 savedHart.bank = true :=
  ⟨by unfold FreeContext; decide +kernel, by decide +kernel, rfl, by decide +kernel, fun r h => (by cases h), by decide +kernel,
    by decide +kernel⟩

/-- Two slices that have ended for each other's work (R57, R76, R85): the one that ended last is barred, and its work does not bar the first. -/
theorem test_one_bar_lifts :
    let s := { contended .reset 10 with
      saves := [savedHart]
      clusters := [(0, { Cluster.reset with
        workQ := [⟨2, 0, false, [(0, 1)]⟩]
        slices := [(0, ⟨true, 0, none, some 0, false, some (.node 2 0)⟩), (2, ⟨true, 0, none, some 5, false, some (.saved [9])⟩)] })] }
    barred s 0 0 = false ∧ barred s 0 1 = true := by decide +kernel

theorem witness_Dispatch :
    (let e : PoolEntry := ⟨1, 0, 0, 7, 0, 0, [0], false⟩
     let n := { nodeWith 1 with phase := .ready }
     let l := launchWith [(0, some n)]
     let s := { bare with dies := [(0, { Die.reset with pool := [e] })], launches := [(1, some l)] }
     (getCluster s 0).workQ.length < 4 ∧ isOsCluster s 0 = false ∧ (getCluster s 0).idle = false ∧ (getDie s (0 / 256)).pool = [e] ∧
       e.clusters = [0] ∧ e.level < 8 ∧ e.tenant < 16 ∧ (getTenant s e.tenant).weight ≠ 0 ∧ getLaunch s e.launch = some l ∧ l.id = e.launch ∧
       getNode l e.node = some n) ∧
    (let s := { bare with dies := [(3, { Die.reset with pool := [⟨1, 0, 0, 7, 0, 0, [0], false⟩] })] }
     (getDie s 3).pool ≠ []) ∧
    (let s := { bare with clusters := [(5, { Cluster.reset with eventQ := [⟨1, 0, 0, 0, 0, 0, 0, 0, .zero⟩] })] }
     (getCluster s 5).eventQ = ⟨1, 0, 0, 0, 0, 0, 0, 0, .zero⟩ :: []) := by decide +kernel

/-- Launch 1 with a complete node, in a phase and as the last sweep found it. -/
def endingLaunch (p : LaunchPhase) (sw : Option (Word × Word)) : Launch :=
  { launchWith [(0, some { nodeWith 1 with phase := .complete })] with phase := p, swept := sw, endctr := 0x3FFF, keyh := 5 }

def ending' (p : LaunchPhase) (sw : Option (Word × Word)) : State :=
  { bare with launches := [(1, some (endingLaunch p sw))], keys := [(5, some ⟨0, 3, true, 1, []⟩)] }

theorem witness_LaunchEnds_retired :
    let l := { endingLaunch .ending none with loaded := true }
    let s := { bare with
      launches := [(1, some l)], harts := [(7, { Hart.reset with tenure := .lent, launch := 1 }), (9, { Hart.reset with tenure := .lent, launch := 1 })] }
    getLaunch s 1 = some l ∧ l.id = 1 ∧ l.phase = .ending ∧ worldBusy s 1 = false ∧ worldWrites s l = false ∧ l.loaded = true ∧
      7 ∈ heldContexts s 1 ∧ 0 ∈ launchCores s l ∧ (getHart { s with harts := [] } (0 * 16 + 7)).tenure = .free :=
  ⟨by decide +kernel, rfl, rfl, by decide +kernel, by decide +kernel, rfl, by decide +kernel,
    binds_core_0 rfl (by decide +kernel) (by decide +kernel), by decide +kernel⟩

theorem witness_LaunchEnds :
    (∀ sw ∈ [none, some (0, 0)],
      let s := ending' .running sw
      let l := endingLaunch .running sw
      getLaunch s 1 = some l ∧ l.id = 1 ∧ l.phase = .running ∧ launchIdle s 1 = true ∧ sentTotal s 1 = receivedTotal s 1 ∧
        (l.swept = some (sentTotal s 1, receivedTotal s 1) ↔ sw ≠ none) ∧
        (∀ e ∈ l.nodes, ∀ n, e.2 = some n → n.phase = .complete) ∧ (∀ v ∈ s.saves, v.launch ≠ 1) ∧ l.endctr.toNat < 0x4000 ∧ s.mca = [] ∧
        s.flights = [] ∧ s.ops = []) ∧
    (let s := ending' .ending none
     let l := endingLaunch .ending none
     let k : KeyState := ⟨0, 3, true, 1, []⟩
     getLaunch s 1 = some l ∧ l.id = 1 ∧ l.phase = .ending ∧ worldBusy s 1 = false ∧ worldWrites s l = false ∧ mapGet none s.keys l.keyh.toNat = some k ∧
       l.keyh.toNat < 0x800 ∧ k.launch = l.id) ∧
    (let s := { ending' .ending none with harts := [(0, { hartWith [] with launch := 1 })] }
     getLaunch s 1 = some (endingLaunch .ending none) ∧ worldBusy s 1 = true) := by
  have all : ∀ sw, ∀ e ∈ (endingLaunch .running sw).nodes, ∀ n, e.2 = some n → n.phase = .complete := by
    intro sw e he n hn
    rw [List.mem_singleton.mp he] at hn
    cases hn
    rfl
  refine ⟨?_, by decide +kernel, by decide +kernel⟩
  intro sw hsw
  have : sw = none ∨ sw = some (0, 0) := by simpa using hsw
  rcases this with rfl | rfl <;>
    exact ⟨by decide +kernel, rfl, rfl, by decide +kernel, by decide +kernel, by decide +kernel, all _, by decide +kernel, by decide +kernel⟩

/-- A call of service n whose request at SELF + 0x100 holds bytes. -/
def calls (n : Nat) (bytes : SMap Byte) : State := { called n 0x100 none with views := [(0, bytes)], rights := (inVault []).rights }

def callAt (n : Nat) : SvcSlot := callOf n 0x100 none

/-- The request of a call passes a test. -/
def asks (s : State) (v : SvcSlot) (n : Nat) (p : List Byte → Bool) : Bool :=
  match agentRead s (slotAgent v) v.req n with
  | some b => p b
  | none => false

theorem asks_some {s : State} {v : SvcSlot} {n : Nat} {p : List Byte → Bool} (h : asks s v n p = true) :
    ∃ b, Request s v n b ∧ p b = true := by
  unfold asks at h
  split at h
  · exact ⟨_, ‹_›, h⟩
  · cases h

theorem witness_ReadingServices :
    Called (calls 0 []) 0 5 (callAt 0) ∧
    (Called (calls 24 []) 24 5 (callAt 24) ∧ InSelf (calls 24 []) (callAt 24) 0 16) ∧
    Called (calls 23 []) 23 5 (callAt 23) ∧
    (Called (calls 25 []) 25 5 (callAt 25) ∧ journalFree (calls 25 []) (callAt 25).tenant.toNat = true) := by
  unfold Called InSelf; decide +kernel

theorem witness_ReadingServices_turn :
    let first := callOf 0 0 none
    let v := { callOf 0 0 none with id := 6, hart := 16 }
    let s := { called 0 0 none with dies := [(0, { Die.reset with ring := [first, v] })] }
    findSlot s 6 = some v ∧ v.n = 0 ∧ v.status = none ∧ slotTurn s v = false := by decide +kernel

/-- Base and length of a range request: base byte 4 and length bytes. -/
def rangeReq (base4 len0 len1 : Byte) : SMap Byte :=
  ([(0x100000104, base4), (0x100000108, len0), (0x100000109, len1)] : SMap Byte).filter (·.2 ≠ 0)

theorem witness_RangeServices_alloc :
    (Called (calls 6 (rangeReq 2 32 0)) 6 5 (callAt 6) ∧ asks (calls 6 (rangeReq 2 32 0)) (callAt 6) 16 (fun b => numAt b 8 8 % 64 ≠ 0)) ∧
    (let s := { calls 6 (rangeReq 2 64 0) with withdrawn := [⟨0x200000000, 64, 255, 0, 0, false⟩] }
     Called s 6 5 (callAt 6) ∧ asks s (callAt 6) 16 (fun b => decide (numAt b 0 7 = 0x200000000 ∧ numAt b 8 8 = 64 ∧
       ∃ r ∈ s.withdrawn, r.base < numAt b 0 7 + numAt b 8 8 ∧ numAt b 0 7 < r.base + r.len))) ∧
    (let s := calls 6 (rangeReq 2 64 0)
     Called s 6 5 (callAt 6) ∧ asks s (callAt 6) 16 (fun b => decide (numAt b 0 7 = 0x200000000 ∧ numAt b 8 8 = 64)) ∧
       stretchInRange 0x200000000 64 ∧ s.ranges = [] ∧ s.withdrawn = [] ∧ (mapGet [] s.rights (callAt 6).own.toNat).length < 4096 ∧
       InSelf s (callAt 6) 16 8) ∧
    (let s := calls 6 (rangeReq 0 64 0)
     Called s 6 5 (callAt 6) ∧ asks s (callAt 6) 16 (fun b => decide (numAt b 0 7 = 0 ∧ numAt b 8 8 = 64)) ∧
       (mapGet [] s.rights (callAt 6).own.toNat).length < 4096 ∧ InSelf s (callAt 6) 16 8) := by
  unfold Called InSelf stretchInRange; decide +kernel

theorem witness_RangeServices_capacity : ([] : List Machine.Range).length < Config.rangeCapacity := Nat.succ_pos _

/-- Ranges of one line at the start of the first vault, under a tag. -/
def freeing (tag len0 : Byte) : State :=
  { calls 7 (rangeReq 2 len0 0) with
    ranges := [⟨0x200000000, 64, tag, 0, 0, false⟩], rights := [(0, [⟨0x200000000, tag, 1, 0x20, 0, 0xFFFF, 1⟩])]
    views := [(0, (rangeReq 2 len0 0).filter (fun e => e.1 < 0x100000107) ++ (if tag = 0 then [] else [(0x100000107, tag)]) ++
      (rangeReq 2 len0 0).filter (fun e => decide (0x100000107 < e.1)))] }

theorem witness_RangeServices_free :
    (let s := { freeing 0 64 with ranges := [] }
     Called s 7 5 (callAt 7) ∧ asks s (callAt 7) 16 (fun _ => true) ∧ s.ranges = []) ∧
    (let s := freeing 0 128
     asks s (callAt 7) 16 fun b => decide (s.ranges.find? (fun x => x.base = numAt b 0 7 && decide (x.tag = b.getD 7 0)) =
       some ⟨0x200000000, 64, 0, 0, 0, false⟩ ∧ numAt b 8 8 ≠ 64)) ∧
    (let s := { freeing 0 64 with rights := [] }
     asks s (callAt 7) 16 fun b => decide (s.ranges.find? (fun x => x.base = numAt b 0 7 && decide (x.tag = b.getD 7 0)) =
       some ⟨0x200000000, 64, 0, 0, 0, false⟩ ∧ numAt b 8 8 = 64 ∧ ownerCovers s (callAt 7).own (b.getD 7 0) 0x20 0x200000000 64 = false)) ∧
    (∀ tag ∈ [0, 255],
      let s := freeing (BitVec.ofNat 8 tag) 64
      asks s (callAt 7) 16 fun b => decide (s.ranges.find? (fun x => x.base = numAt b 0 7 && decide (x.tag = b.getD 7 0)) =
        some ⟨0x200000000, 64, BitVec.ofNat 8 tag, 0, 0, false⟩ ∧ numAt b 8 8 = 64 ∧
        ownerCovers s (callAt 7).own (b.getD 7 0) 0x20 0x200000000 64 = true)) ∧
    (freeing 0 64).cores = [] ∧ { freeing 0 64 with cores := [(0, Core.reset)] }.cores ≠ [] := by
  unfold Called; decide +kernel

/-- The page of the tables of `walking` moves to physical 0x50000; the first n lines have been copied. -/
def moving (n : Nat) : State :=
  { calls 11 [] with
    ptroot := [(0, 0x10000)], views := [(0, tables)]
    migrations := [⟨5, ⟨0x10000000000, 65536, 65536, 0, false, false, false, .na, 0, 0, 0x10000000000, 65536⟩,
      ⟨0x10000000000, 65536, 0x50000, 0, false, false, false, .na, 0, 0, 0x10000000000, 65536⟩,
      (List.range n).map fun i => (dramBase + 65536) / 64 + i⟩] }

theorem witness_PageServices :
    Called (calls 8 []) 8 5 (callAt 8) ∧ Called (calls 9 []) 9 5 (callAt 9) ∧
    (Called (calls 11 []) 11 5 (callAt 11) ∧ ∀ m ∈ (calls 11 []).migrations, m.slot ≠ 5) ∧
    (Called (moving 2) 11 5 (callAt 11) ∧ (moving 2).shootdowns = [] ∧ ∃ m, (moving 2).migrations = [m] ∧ m.slot = 5 ∧
      flipsIn (moving 2) m.src = false ∧ 2 < m.src.size / 64 ∧
      (dramBase + m.src.phys) / 64 + 2 ∉ m.copied ∧ ∀ j < 2, (dramBase + m.src.phys) / 64 + j ∈ m.copied) ∧
    (Called (moving 1024) 11 5 (callAt 11) ∧ (moving 1024).shootdowns = [] ∧ ∃ m, (moving 1024).migrations = [m] ∧ m.slot = 5 ∧
      flipsIn (moving 1024) m.src = false ∧ ∃ pa n l, mappedEntry (moving 1024) m.src.base = some (pa, n, l)) := by
  refine ⟨?_, ?_, ?_, ?_, ?_⟩
  · unfold Called; decide +kernel
  · unfold Called; decide +kernel
  · unfold Called; decide +kernel
  · refine ⟨by unfold Called; decide +kernel, rfl, _, rfl, by decide +kernel⟩
  · refine ⟨by unfold Called; decide +kernel, rfl, _, rfl, rfl, rfl, ?_⟩
    have : (mappedEntry (moving 1024) 0x10000000000).isSome = true := by decide +kernel
    obtain ⟨⟨pa, n, l⟩, h⟩ := Option.isSome_iff_exists.mp this
    exact ⟨pa, n, l, h⟩

theorem witness_PageServices_flips :
    let s := { moving 2 with cores := [(0, { Core.reset with flips := [(dramBase + 65536, 1)] })] }
    s.shootdowns = [] ∧ ∃ m, s.migrations = [m] ∧ m.slot = 5 ∧ flipsIn s m.src = true := ⟨rfl, _, rfl, rfl, by decide +kernel⟩

theorem moving_copied (n : Nat) :
    ∀ m ∈ (moving n).migrations, m.src.size = 65536 ∧ ∀ i < n, (dramBase + m.src.phys) / 64 + i ∈ m.copied := by
  intro m hm
  rw [List.mem_singleton.mp hm]
  exact ⟨rfl, fun i hi => List.mem_map.mpr ⟨i, List.mem_range.mpr hi, rfl⟩⟩

theorem witness_PageServices_copied :
    ∀ m ∈ (moving 1024).migrations, ∀ i < m.src.size / 64, (dramBase + m.src.phys) / 64 + i ∈ m.copied := by
  intro m hm i hi
  have h := moving_copied 1024 m hm
  rw [h.1] at hi
  exact h.2 i hi

theorem witness_ResourceServices :
    (Called (calls 12 []) 12 5 (callAt 12) ∧ InSelf (calls 12 []) (callAt 12) 0 8 ∧ mapGet 0 (calls 12 []).counterOwner 0 = 0) ∧
    (Called (calls 13 [(0x100000101, 0x40)]) 13 5 (callAt 13) ∧
      asks (calls 13 [(0x100000101, 0x40)]) (callAt 13) 8 fun b => decide (0x4000 ≤ numAt b 0 8)) ∧
    (asks (calls 13 [(0x100000100, 1)]) (callAt 13) 8 fun b => decide (numAt b 0 8 < 0x4000 ∧
      mapGet 0 (calls 13 []).counterOwner (numAt b 0 8) ≠ (callAt 13).tenant.toNat + 1)) ∧
    (let s := { calls 13 [(0x100000100, 0xFF), (0x100000101, 0x3F)] with counterOwner := [(0x3FFF, 1)] }
     asks s (callAt 13) 8 fun b => decide (numAt b 0 8 < 0x4000 ∧ mapGet 0 s.counterOwner (numAt b 0 8) = (callAt 13).tenant.toNat + 1)) ∧
    Called (calls 14 []) 14 5 (callAt 14) ∧
    (Called (calls 19 []) 19 5 (callAt 19) ∧ journalFree (calls 19 []) (callAt 19).tenant.toNat = true) ∧
    (Called (calls 20 []) 20 5 (callAt 20) ∧ asks (calls 20 []) (callAt 20) 8 fun b =>
      decide (findLaunch (calls 20 []) 0 (leWord (slice b 0 8)) = none)) ∧
    (let s := { calls 20 [(0x100000100, 1)] with launches := [(1, some (launchWith []))] }
     asks s (callAt 20) 8 fun b => decide (findLaunch s 0 (leWord (slice b 0 8)) = some (launchWith []) ∧
       getLaunch s (launchWith []).id = some (launchWith []) ∧ (launchWith []).phase = .running)) := by
  unfold Called InSelf; decide +kernel

/-- The first n counters of die 0 have an owner. -/
def owned (n : Nat) : State := { calls 12 [] with counterOwner := (List.range n).map fun i => (i, 1) }

theorem owned_all (i : Nat) (l : List Nat) (h : i ∈ l) : mapGet 0 (l.map fun i => (i, 1)) i = 1 := by
  induction l with
  | nil => cases h
  | cons a l ih =>
    by_cases e : a = i
    · simp [mapGet, e]
    · have := ih (by simpa [Ne.symm e] using h)
      simpa [mapGet, e] using this

theorem witness_ResourceServices_none : Called (owned 4096) 12 5 (callAt 12) ∧ ∀ i < 4096, mapGet 0 (owned 4096).counterOwner (0 + i) ≠ 0 := by
  have all : ∀ n, ∀ i < n, mapGet 0 (owned n).counterOwner (0 + i) ≠ 0 := by
    intro n i hi
    rw [Nat.zero_add]
    exact (owned_all i _ (List.mem_range.mpr hi)).trans_ne (by decide)
  exact ⟨by unfold Called; decide +kernel, all 4096⟩

/-- A proxied call: handle, buffer at 4-byte granule `buf4` × 2^32 + `buf1` × 2^8, and length. -/
def proxied (n : Nat) (handle buf1 buf4 len0 len2 : Byte) (handles : List Word) : State :=
  { calls n (([(0x100000100, handle), (0x100000109, buf1), (0x10000010C, buf4), (0x100000110, len0), (0x100000112, len2)] : SMap Byte).filter
      (·.2 ≠ 0)) with
    tenants := [(0, { Tenant.reset with handles := handles, partSize := 0x120000, partBase := 0x200000 })] }

theorem witness_ProxiedServices_refused :
    (ProxyCallOf 5 1 (.console 5) ∧ Called (proxied 1 1 2 0 4 0 []) 1 5 (callAt 1) ∧ (callAt 1).proxy = none ∧
      asks (proxied 1 1 2 0 4 0 []) (callAt 1) 48 fun b => decide (BitVec.ofNat 64 (numAt b 0 8) ≠ 0)) ∧
    (asks (proxied 1 0 2 0 1 1 []) (callAt 1) 48 fun b => decide (0x10000 < numAt b 16 8)) ∧
    (ProxyCallOf 5 3 (.fileRead 5) ∧ Called (proxied 3 1 2 0 0 1 []) 3 5 (callAt 3) ∧
      asks (proxied 3 1 2 0 0 1 []) (callAt 3) 48 fun b => decide (numAt b 16 8 ≤ 0x10000 ∧
        BitVec.ofNat 64 (numAt b 0 8) ∉ (getTenant (proxied 3 1 2 0 0 1 []) 0).handles)) ∧
    (asks (proxied 3 1 0 2 4 0 [1]) (callAt 3) 48 fun b => decide (numAt b 16 8 ≤ 0x10000 ∧
      BitVec.ofNat 64 (numAt b 0 8) ∈ (getTenant (proxied 3 1 0 2 4 0 [1]) 0).handles ∧
      agentMay (proxied 3 1 0 2 4 0 [1]) (slotAgent (callAt 3)) (BitVec.ofNat 64 (numAt b 8 8)) (numAt b 16 8) 2 = false)) ∧
    (asks (proxied 1 0 0 2 4 0 []) (callAt 1) 48 fun b => decide (numAt b 16 8 ≤ 0x10000 ∧ BitVec.ofNat 64 (numAt b 0 8) = 0 ∧
      agentRead (proxied 1 0 0 2 4 0 []) (slotAgent (callAt 1)) (BitVec.ofNat 64 (numAt b 8 8)) (numAt b 16 8) = none)) := by
  refine ⟨⟨.inl ⟨rfl, rfl⟩, ?_⟩, ?_, ⟨.inr (.inr (.inl ⟨rfl, rfl⟩)), ?_⟩, ?_, ?_⟩
  all_goals (first | decide +kernel | (unfold Called; decide +kernel))

theorem witness_ProxiedServices_journalled :
    (let s := proxied 1 0 2 0 4 0 []
     asks s (callAt 1) 48 (fun b => decide (numAt b 16 8 ≤ 0x10000 ∧ BitVec.ofNat 64 (numAt b 0 8) = 0 ∧
       (agentRead s (slotAgent (callAt 1)) (BitVec.ofNat 64 (numAt b 8 8)) (numAt b 16 8)).isSome = true)) ∧
     (getTenant s 0).blocks = [] ∧ journalFree s 0 = true ∧ 0x120000 ≤ (getTenant s 0).partSize) ∧
    (let s := proxied 3 1 2 0 4 0 [1]
     asks s (callAt 3) 48 (fun b => decide (numAt b 16 8 ≤ 0x10000 ∧ BitVec.ofNat 64 (numAt b 0 8) ∈ (getTenant s 0).handles ∧
       agentMay s (slotAgent (callAt 3)) (BitVec.ofNat 64 (numAt b 8 8)) (numAt b 16 8) 2 = true)) ∧
     (getTenant s 0).blocks = [] ∧ journalFree s 0 = true ∧ 0x120000 ≤ (getTenant s 0).partSize) := by decide +kernel

/-- A call of service n that waits for the proxy under journal sequence 4, block 0, since time 0; request and time. -/
def awaiting (n time : Nat) (bytes : SMap Byte) : State :=
  { run { hartWith [] with wait := some .service } with
    dies := [(0, { Die.reset with ring := [⟨5, 0, 0, n, 0x100, 0, 0, 0, false, 7, none, some (4, 0, 0), 0, false⟩] })], time := time
    tenants := [(0, { Tenant.reset with
      journal := [⟨4, 0, 0x82, 1, 0, 0, 0, []⟩], blocks := [0], jhead := 4, partSize := 0x120000, partBase := 0x200000 })]
    views := [(0, bytes)] }

def awaitingCall (n : Nat) : SvcSlot := ⟨5, 0, 0, n, 0x100, 0, 0, 0, false, 7, none, some (4, 0, 0), 0, false⟩

theorem witness_ProxyTimeout :
    (waitingProxy (awaiting 3 20000000 []) 0 4 = some (awaitingCall 3) ∧ (getTenant (awaiting 3 20000000 []) 0).closed = [] ∧ 0 + 20000000 ≤ (awaiting 3 20000000 []).time) ∧
    (waitingProxy (awaiting 3 19999999 []) 0 4 = some (awaitingCall 3) ∧ (getTenant (awaiting 3 19999999 []) 0).closed = [] ∧
      (awaiting 3 19999999 []).time < 0 + 20000000) := by decide +kernel

/-- Tenant 0's window: the next command has sequence 1, KIND k, FLAGS f and the other bytes listed, none zero. -/
def window (k f : Byte) (rest : List (Nat × Byte)) : State :=
  let mem : List (Nat × Byte) := ([(0, 1), (8, k), (9, f)] ++ rest).filter (·.2 ≠ 0)
  { bare with
    tenants := [(0, { Tenant.reset with partBase := 0x200000, partSize := 0x120000 })]
    views := (List.range 4).map fun d => (d, mem.map fun e => (dramBase + 0x200000 + 0x1000 + e.1, e.2)) }

/-- The next command of tenant 0, and the test that its entry may be taken. -/
def cmdBytes (s : State) : List Byte := entryBytes s 0

theorem entryAt {s : State} (h : entryReady s 0 = true) (c : (getTenant s 0).closed = []) : EntryAt s 0 (cmdBytes s) := ⟨by decide, h, rfl, c⟩

/-- HOSTMAP of one 64 KiB page at 0 of the host window to owner 1, with rights in the low byte. -/
def mapArgs (rights : Byte) : List (Nat × Byte) := [(34, 1), (40, 1), (42, rights)]

theorem witness_CommandsThatFail :
    (∀ k ∈ [0, 8], entryReady (window (BitVec.ofNat 8 k) 0 []) 0 = true ∧
      ((cmdBytes (window (BitVec.ofNat 8 k) 0 [])).getD 8 0).toNat = k) ∧
    (entryReady (window 4 4 []) 0 = true ∧ ((cmdBytes (window 4 4 [])).getD 8 0).toNat = 4 ∧ 4 ≤ ((cmdBytes (window 4 4 [])).getD 9 0).toNat) ∧
    (let s := window 2 0 [(24, 7)]
     entryReady s 0 = true ∧ Plain (cmdBytes s) ∧ arg (cmdBytes s) 2 = 0 ∧ ¬CounterOf s 0 (arg (cmdBytes s) 0).toNat) ∧
    (let s := window 3 1 [(24, 7)]
     entryReady s 0 = true ∧ Plain (cmdBytes s) ∧ arg (cmdBytes s) 1 = 0 ∧ arg (cmdBytes s) 2 = 0 ∧ findLaunch s 0 (arg (cmdBytes s) 0) = none) ∧
    (let s := window 5 0 (mapArgs 3)
     entryReady s 0 = true ∧ Plain (cmdBytes s) ∧ mapGet 0 s.owners ((arg (cmdBytes s) 2).extractLsb' 0 16).toNat ≠ 1) ∧
    (let s := { window 5 0 (mapArgs 4) with owners := [(1, 1)] }
     entryReady s 0 = true ∧ Plain (cmdBytes s) ∧ mapGet 0 s.owners ((arg (cmdBytes s) 2).extractLsb' 0 16).toNat = 1 ∧
       4 ≤ ((arg (cmdBytes s) 2).extractLsb' 16 8).toNat) ∧
    (let s := window 6 0 []
     entryReady s 0 = true ∧ Plain (cmdBytes s) ∧ arg (cmdBytes s) 2 = 0 ∧ unmapRange s 0 (parseCommand (cmdBytes s) [] 0) = none) ∧
    (let s := window 7 0 [(32, 0xFF)]
     entryReady s 0 = true ∧ Plain (cmdBytes s) ∧ (arg (cmdBytes s) 1).toNat < 0x100 ∧ waitingProxy s 0 (arg (cmdBytes s) 0).toNat = none) := by
  unfold Plain CounterOf; decide +kernel

theorem witness_LaunchCommands :
    (let s := window 1 0 []
     entryReady s 0 = true ∧ Plain (cmdBytes s) ∧ arg (cmdBytes s) 1 = 0 ∧ arg (cmdBytes s) 2 = 0) ∧
    (let s := { window 2 0 [(24, 0xFF), (25, 0x3F)] with counterOwner := [(0x3FFF, 1)] }
     entryReady s 0 = true ∧ Plain (cmdBytes s) ∧ arg (cmdBytes s) 2 = 0 ∧ CounterOf s 0 (arg (cmdBytes s) 0).toNat ∧ s.launches = []) ∧
    (∀ p ∈ [LaunchPhase.running, .ending],
      let l := { launchWith [] with phase := p, seq := 7 }
      let s := { window 3 0 [(24, 7)] with launches := [(1, some l)] }
      entryReady s 0 = true ∧ Plain (cmdBytes s) ∧ arg (cmdBytes s) 1 = 0 ∧ arg (cmdBytes s) 2 = 0 ∧
        (arg (cmdBytes s) 0).toNat ≠ (getTenant s 0).jhead + 1 ∧ findLaunch s 0 (arg (cmdBytes s) 0) = some l ∧ getLaunch s l.id = some l) ∧
    (let s := window 4 1 []
     entryReady s 0 = true ∧ Plain (cmdBytes s) ∧ arg (cmdBytes s) 0 = 0 ∧ arg (cmdBytes s) 1 = 0 ∧ arg (cmdBytes s) 2 = 0) := by
  unfold Plain CounterOf; decide +kernel

theorem witness_HostRanges :
    (let s := { window 5 0 (mapArgs 3) with owners := [(1, 1)] }
     let own := (arg (cmdBytes s) 2).extractLsb' 0 16
     let rights := (arg (cmdBytes s) 2).extractLsb' 16 8
     entryReady s 0 = true ∧ Plain (cmdBytes s) ∧ mapGet 0 s.owners own.toNat = 1 ∧ (arg (cmdBytes s) 0).toNat % 0x10000 = 0 ∧
       (arg (cmdBytes s) 1).toNat % 0x10000 = 0 ∧ (arg (cmdBytes s) 1).toNat ≠ 0 ∧
       (arg (cmdBytes s) 0).toNat + (arg (cmdBytes s) 1).toNat ≤ 0x80000000000000 ∧ (arg (cmdBytes s) 2).toNat < 0x1000000 ∧ rights ≠ 0 ∧
       rights.toNat < 4 ∧ s.ranges = [] ∧ s.withdrawn = [] ∧ (mapGet [] s.rights own.toNat).length < 4096) ∧
    (let r : Machine.Range := ⟨0x80000000000000, 0x10000, 0, 0, 0, true⟩
     let s := { window 6 0 [(30, 0x80), (34, 1)] with ranges := [r] }
     entryReady s 0 = true ∧ Plain (cmdBytes s) ∧ arg (cmdBytes s) 2 = 0 ∧ unmapRange s 0 (parseCommand (cmdBytes s) [] 0) = some r ∧
       (∀ x ∈ s.ranges, x.base = r.base → x = r) ∧ s.cores = [] ∧ { s with cores := [(0, Core.reset)] }.cores ≠ []) := by
  unfold Plain; decide +kernel

/-- PROXY_REPLY to the call of service n under journal sequence 4, with RESULT 8; request bytes. -/
def replying (n : Nat) (req : SMap Byte) : State :=
  { awaiting n 0 [] with
    views := (List.range 4).map fun d =>
      (d, req ++ ([(0, 1), (8, 7), (24, 4), (40, 8)] : List (Nat × Byte)).map fun e => (dramBase + 0x200000 + 0x1000 + e.1, e.2)) }

theorem witness_ProxyReplies :
    ∀ n ∈ [1, 3],
      let s := replying n [(0x100000109, 2), (0x100000110, 64)]
      entryReady s 0 = true ∧ Plain (cmdBytes s) ∧ ((cmdBytes s).getD 8 0).toNat = 7 ∧ (arg (cmdBytes s) 1).toNat < 0x100 ∧
        (arg (cmdBytes s) 0).toNat ≠ (getTenant s 0).jhead + 1 ∧ waitingProxy s 0 (arg (cmdBytes s) 0).toNat = some (awaitingCall n) ∧
        (awaitingCall n).proxy = some ((arg (cmdBytes s) 0).toNat, 0, 0) ∧ InSelf s (awaitingCall n) 0 48 ∧
        asks s (awaitingCall n) 48 (fun c => decide (numAt c 8 8 + min (arg (cmdBytes s) 2).toNat (numAt c 16 8) ≤ 0x20000 ∧
          numAt c 8 8 % 64 + min (arg (cmdBytes s) 2).toNat (numAt c 16 8) ≤ 64 ∧
          (numAt c 8 8 + min (arg (cmdBytes s) 2).toNat (numAt c 16 8) ≤ (awaitingCall n).req.toNat + 40 ∨
            (awaitingCall n).req.toNat + 40 + 8 ≤ numAt c 8 8))) = true := by
  unfold Plain InSelf; decide +kernel

/-- The call that closes handle 9, whose journal's slot for one more entry holds an entry of state st. -/
def closing (st : BitVec 8) : State :=
  let s := replying 5 [(0x100000100, 9)]
  { s with tenants := [(0, { getTenant s 0 with
      handles := [9], jhead := 1026, journal := [⟨4, 0, 0x82, st, 0, 0, 0, []⟩, ⟨1026, 0, 0x82, 1, 0, 0, 0, []⟩] })] }

theorem witness_ProxyReplies_closing : ∀ st ∈ [(1 : BitVec 8), 3],
    let s := closing st
    let x := getTenant s 0
    entryReady s 0 = true ∧ ((awaitingCall 5).n = 5) ∧ arg (cmdBytes s) 1 = 0 ∧ x.closed = [] ∧
      ((∀ e ∈ x.journal, e.jseq ≠ 1026 → e.jseq % 1024 = (x.jhead + 2) % 1024 → 3 ≤ e.state.toNat) ↔ st = 3) := by decide +kernel

theorem witness_CommandWaits :
    (∀ o ∈ [0, 1],
      let s := { window 4 2 [(10, 5), (16, 1)] with counterOwner := if o = 1 then [(5, 1)] else [] }
      entryReady s 0 = true ∧ numAt (cmdBytes s) 12 4 = 0 ∧ numAt (cmdBytes s) 48 16 = 0 ∧ ((cmdBytes s).getD 9 0).toNat = 2 ∧
        ((cmdBytes s).getD 8 0).toNat = 4 ∧ arg (cmdBytes s) 0 = 0 ∧ arg (cmdBytes s) 1 = 0 ∧ arg (cmdBytes s) 2 = 0 ∧
        (CounterOf s 0 (numAt (cmdBytes s) 10 2) ↔ o = 1) ∧ (getTenant s 0).closed = [] ∧ (mapGet 0 s.counters (numAt (cmdBytes s) 10 2)).toNat < numAt (cmdBytes s) 16 8) ∧
    (let s := { window 4 2 [(10, 5), (16, 1)] with counterOwner := [(5, 1)], counters := [(5, 1)] }
     CounterOf s 0 (numAt (cmdBytes s) 10 2) ∧ numAt (cmdBytes s) 16 8 ≤ (mapGet 0 s.counters (numAt (cmdBytes s) 10 2)).toNat ∧
       viewSettled s (mapGet .zero s.counterStamp (numAt (cmdBytes s) 10 2)) = true) ∧
    (viewSettled { bare with counterStamp := [(5, ⟨1, 0, 0, 0⟩)] } (mapGet .zero { bare with counterStamp := [(5, ⟨1, 0, 0, 0⟩)] }.counterStamp 5) =
      false) ∧
    (∀ k ∈ [4, 2], ∀ v ∈ [0, 1],
      let c : HostCmd := ⟨1, BitVec.ofNat 8 k, 2, 5, 1, 6, 3, 0, [], 9⟩
      let s := { bare with
        tenants := [(0, { Tenant.reset with held := [c], running := [(1, 2, 9)] })], counters := if v = 0 then [] else [(5, 1)] }
      (getTenant s 0).held = [c] ∧ c.flags.getLsbD 1 = true ∧
        ((mapGet 0 s.counters c.waitctr.toNat).toNat < c.waitval.toNat ↔ v = 0) ∧ viewSettled s (mapGet .zero s.counterStamp c.waitctr.toNat) = true ∧
        (getTenant s 0).running.find? (fun x => x.2.2 = c.jseq) = some (1, 2, c.jseq) ∧ s.launches = []) := by
  unfold CounterOf; decide +kernel

theorem witness_CompletionRecords :
    ∀ n ∈ [255, 256],
      let s := { bare with
        tenants := [(0, { Tenant.reset with partBase := 0x200000, partSize := 0x20000, cprod := n, completions := [(1, 1, 1, 3, 0)] })] }
      (getTenant s 0).completions = [(1, 1, 1, 3, 0)] ∧ 0x20000 ≤ (getTenant s 0).partSize ∧ (getTenant s 0).closed = [] ∧
        ((getTenant s 0).cprod - numAt (hdmRead s 0 0x10 8) 0 8 = 256 ↔ n = 256) := by decide +kernel

/-- Tenant 1 is over its budget on channel 3, where tenant 2 has a request waiting. -/
def overBudget : State :=
  { bare with
    tenants := [(1, { Tenant.reset with hbmBudget := 1 }), (2, { Tenant.reset with hbmBudget := 9 })], charges := [(16 * 3 + 1, 5)]
    agenda := [.dramRequestIssue ⟨3, 7, true, some 2, false, 6⟩] }

theorem witness_Occupancy :
    putOff bare ⟨3, 7, true, some 15, false, 0⟩ = false ∧ putOff overBudget ⟨3, 7, true, some 1, false, 5⟩ = true ∧
      putOff overBudget ⟨3, 7, true, none, true, 0⟩ = false ∧
      (let s := { overBudget with time := 1000 }
       putOff s ⟨3, 7, true, some 1, false, 5⟩ = false ∧ s.budgetAt < s.time / 1000) := by decide +kernel

theorem witness_Occupancy_refresh :
    bare.charges = [] ∧ bare.debts = [] ∧
    ∀ t ∈ [999, 1000, 2000],
      let s := { overBudget with time := t }
      ¬(s.charges = [] ∧ s.debts = []) ∧ (s.time / 1000 ≤ s.budgetAt ↔ t = 999) ∧ (s.time / 1000 = s.budgetAt + 1 ↔ t = 1000) := by
  decide +kernel

/-- One isolation entry, of agent 9, over 4 KiB of the device's DRAM. -/
def isolated : State := { bare with isolation := [(0, some ⟨9, 0, 0x1000, true, true⟩)] }

/-- The page of `tables` at physical 0x1_0000, with KEYH 5 in its leaf. -/
def keyedTables : State := { bare with ptroot := [(0, 0x10000)], views := [(0, tables.dropLast ++ [(dramBase + 0x40001, 5), (dramBase + 0x40002, 0x10)])] }

theorem witness_CxlMemory :
    (¬Isolated bare ⟨9, 0, none⟩ 64) ∧ OnKeyedPage keyedTables 0x10000 64 ∧
    (¬Unkeyed { bare with lineKeys := [(0, [(dramBase / 64, ⟨1, 0, 0, false⟩)])] } dramBase 64) ∧
    (dramBase / 64 ∈ { isolated with badLines := [dramBase / 64] }.badLines) ∧
    (Isolated isolated ⟨9, 0xFC0, none⟩ 64 ∧ Unkeyed isolated (dramBase + 0xFC0) 64 ∧ ¬OnKeyedPage isolated 0xFC0 64 ∧
      dieOfPhys 0xFC0 ≠ none ∧ (dramBase + 0xFC0) / 64 ∉ isolated.badLines ∧ ∀ e ∈ isolated.tenants, e.2.closed = []) ∧
    (Isolated isolated ⟨9, 0xFFF, some [5]⟩ 1 ∧ Unkeyed isolated (dramBase + 0xFFF) 1 ∧ ¬OnKeyedPage isolated 0xFFF 1 ∧
      dieOfPhys 0xFFF ≠ none ∧ [(5 : Byte)] ≠ []) := by
  have plain : ∀ a n, ¬OnKeyedPage isolated a n := by
    rintro a n ⟨i, -, hk⟩
    exact absurd (hk.symm.trans (show keyedPage isolated _ = false from rfl)) (by decide)
  refine ⟨?_, ⟨0, by decide +kernel, by decide +kernel⟩, ?_, by decide +kernel,
    ⟨?_, fun _ _ _ _ _ => rfl, plain _ _, by decide +kernel, by decide +kernel, by decide +kernel⟩,
    ⟨?_, fun _ _ _ _ _ => rfl, plain _ _, by decide +kernel, by decide +kernel⟩⟩
  · rintro ⟨e, he, -⟩
    cases he
  · intro h
    exact absurd (h 0 (by decide) dramBase (Nat.le_refl _) (by omega)) (by decide +kernel)
  · exact ⟨_, List.mem_singleton.mpr rfl, _, rfl, by decide +kernel⟩
  · exact ⟨_, List.mem_singleton.mpr rfl, _, rfl, by decide +kernel⟩

def engineAdmits (c : EngineCheck) (p : State → Target → Bool) : Bool :=
  match c with
  | .ok u x => p u x
  | _ => false

/-- A request of device 0, group tenant 2, which stands for tenant 0 here, naming owner 0 of that tenant. -/
def linkState (k : LinkKind) : State :=
  { inVault [] with groupTenants := [(2, 1)], owners := [(0, 1)], linkReqs := [⟨4, 1, k, 0, 0, 2, 0x200000000, 0⟩] }

def linkReq (k : LinkKind) : LinkReq := ⟨4, 1, k, 0, 0, 2, 0x200000000, 0⟩

/-- The CRC of zeros is 0. -/
theorem crc64_zeros (n : Nat) : crc64 (List.replicate n 0) = 0 := by
  unfold crc64
  induction n with
  | zero => rfl
  | succ n ih => rw [List.replicate_succ, List.foldl_cons, show crc64Byte 0 0 = 0 by decide]; exact ih

theorem witness_KrytukLink_flits :
    (let f : List Byte := List.replicate 256 0
     f.length = 256 ∧ numAt f 244 4 = 0 ∧ leWord (slice f 248 8) = crc64 (f.take 248) ∧
       numAt f 0 4 % 4096 = (mapGet LinkPort.reset bare.ports 1).expected) ∧
    (let f : List Byte := [1]
     numAt f 0 4 % 4096 ≠ (mapGet LinkPort.reset bare.ports 1).expected) := by
  refine ⟨⟨List.length_replicate, by decide +kernel, ?_, by decide +kernel⟩, by decide +kernel⟩
  rw [List.take_replicate, crc64_zeros]
  decide +kernel

theorem witness_KrytukLink_requests :
    (LinkRequest (linkState .release) 4 (linkReq .release)) ∧
    (LinkRequest (linkState (.read 8)) 4 (linkReq (.read 8)) ∧ mapGet 0 { linkState (.read 8) with groupTenants := [] }.groupTenants 2 = 0) ∧
    (let s := linkState (.read 8)
     let r := linkReq (.read 8)
     PeerOwns s r 0 ∧ ranged r.addr = true ∧ r.addr.toNat % 64 + 8 ≤ 64 ∧
       engineAdmits (engineCheck s ⟨0, noHart, r.own, BitVec.ofNat 4 0, 0⟩ r.addr 1 false 8) (fun u x =>
         decide (x.route = 0) && (readTarget u (homeDie x.key) noHart x 8).isSome) = true) ∧
    (let s := linkState (.write [1, 2])
     let r := linkReq (.write [1, 2])
     LinkRequest s 4 r ∧ PeerOwns s r 0 ∧ regionOf (r.addr.toNat % 2 ^ 56) = .vault ∧ r.addr.toNat % 64 + 2 ≤ 64 ∧
       engineAdmits (engineCheck s ⟨0, noHart, r.own, BitVec.ofNat 4 0, 0⟩ r.addr 2 true 2) (fun _ x => decide (x.key / 64 ∉ s.badLines)) = true) ∧
    (∀ n ∈ [0x100001, 9],
      let o := { opWith 1 0 (.msg 1 2 3 4) with route := 1 }
      let s := { linkState (.response n 7) with ops := [o] }
      LinkRequest s 4 (linkReq (.response n 7)) ∧ awaited s n = if n = 9 then none else some o) ∧
    (let o := { opWith 1 0 (.msg 1 2 3 4) with route := 1 }
     o.route = 1 ∧ o.reply = none ∧ o.kind = .msg 1 2 3 4) ∧
    (∀ a b c d, { opWith 1 0 .load with route := 1 }.kind ≠ .msg a b c d) := by
  refine ⟨?_, ?_, ?_, ?_, ?_, ?_, fun _ _ _ _ h => by cases h⟩ <;> (try unfold LinkRequest) <;> (try unfold PeerOwns) <;> decide +kernel

theorem witness_KrytukLink_asked :
    (63 < 64 ∧ 255 < 256 ∧ 2 ^ 56 - 1 < 2 ^ 56) ∧ (∀ n ∈ [1, 64], AskedAs (.read n) (.read n)) ∧
    (∀ n ∈ [1, 64], AskedAs (.write (List.replicate n 5)) (.write (List.replicate n 5))) ∧
    AskedAs (.amo ⟨.cas, .d, 1, 2⟩) (.amo ⟨.cas, .d, 1, 2⟩) := by
  refine ⟨by decide, fun n h => .inl ⟨n, ?_, ?_, rfl, rfl⟩, fun n h => .inr (.inl ⟨_, ?_, ?_, rfl, rfl⟩), .inr (.inr ⟨_, rfl, rfl⟩)⟩ <;>
    simp at h <;> rcases h with rfl | rfl <;> decide

theorem witness_Settings :
    (15 < 16 ∧ (10000 : BitVec 32) ≠ 0 ∧ (10000 : BitVec 32).toNat ≤ 10000 ∧ 10000 < (10001 : BitVec 32).toNat) ∧
    (255 < 256 ∧ (0x40000000 : Word).toNat % 0x40000000 = 0 ∧ 1 ≤ (3 : BitVec 2).toNat ∧ (3 : BitVec 2).toNat ≤ 3 ∧ (63 : BitVec 6).toNat < 64 ∧
      { bare with cores := [(0, Core.reset)] }.cores ≠ []) ∧
    (63 < 64 ∧ 0x3FFF < 0x4000 ∧ 511 < 512 ∧ 0x20 ≤ 0x20) ∧ bare.launches = [] ∧ (getTenant bare 15).closed = [] := by decide +kernel

/-- A firmware state. -/
def withFirmware (f : Firmware → Firmware) : State := { bare with firmware := f .reset }

def imageFor (mask : List Nat) : FirmwareImage := ⟨0, 0, [], 1, 1, [], 0, 0, [], mask⟩

theorem witness_FirmwareUpdate :
    (∀ k, bare.spdm ≠ .secure k) ∧
    ({ bare with spdm := .secure 5 }.spdm = .secure 5 ∧ (withFirmware fun f => { f with updating := true }).firmware.updating = true ∧
      bare.firmware.updating = false) ∧
    (let s := withFirmware fun f => { f with updating := true }
     s.firmware.updating = true ∧ s.firmware.quiesced = false) ∧
    (let s := withFirmware fun f => { f with updating := true, quiesced := true }
     s.firmware.updating = true ∧ s.firmware.quiesced = true ∧ s.firmware.switched = false ∧ ∀ v ∈ allSlots s, v.status ≠ none ∨ v.proxy ≠ none) ∧
    (let s := { called 0 0 none with firmware := { Firmware.reset with updating := true, quiesced := true } }
     s.firmware.quiesced = true ∧ s.firmware.switched = false ∧ ∃ v ∈ allSlots s, v.status = none ∧ v.proxy = none) ∧
    (let s := withFirmware fun f => { f with updating := true, switched := true, banks := [(1, some (imageFor []))] }
     s.firmware.updating = true ∧ s.firmware.switched = true ∧ mapGet none s.firmware.banks (1 - s.firmware.active) = some (imageFor [])) := by
  refine ⟨fun k h => (by cases h), by decide +kernel⟩

theorem witness_Attestation :
    ({ bare with spdm := .versioned }.spdm = .versioned ∧ bare.spdm ≠ .versioned ∧
      { bare with spdm := .capable }.spdm = .capable ∧ bare.spdm ≠ .capable) ∧
    Agreed { bare with spdm := .negotiated }.spdm ∧ ¬Agreed bare.spdm ∧
    (∀ k, { bare with spdm := .exchanged k }.spdm = .exchanged k ∧ Config.finishTag k + 1 ≠ Config.finishTag k) ∧
    (∀ k, bare.spdm ≠ .exchanged k) ∧
    (some (7 : BitVec 384) = { bare with spdmSigned := some 7 }.spdmSigned) ∧
    findLaunch { bare with launches := [(1, some (launchWith []))] } 0 (BitVec.ofNat 64 1) = some (launchWith []) := by
  refine ⟨by decide +kernel, .inl rfl, ?_, fun k => ⟨rfl, fun h => ?_⟩, fun k h => (by cases h), rfl, by decide +kernel⟩
  · rintro (h | ⟨k, h⟩ | ⟨k, h⟩) <;> cases h
  · simp at h

/-- The bytes of a key-release request for a handle with a count under an epoch (Table 16.6). -/
def keyReq (handle count epoch : Nat) : List Byte := leBytes 2 handle ++ leBytes 2 count ++ leBytes 8 epoch ++ List.replicate 40 0

theorem witness_KeyRelease :
    (∀ k, bare.spdm ≠ .secure k) ∧
    (let s := { bare with spdm := .secure 5 }
     s.spdm = .secure 5 ∧ numAt (keyReq 0x800 0 1) 4 8 ≠ s.layoutEpoch ∧
       (numAt (keyReq 0x7FF 0 0) 4 8 = s.layoutEpoch ∧ numAt (keyReq 0x7FF 0 0) 0 2 < 0x800) ∧ 0xFFF ≤ numAt (keyReq 0xFFF 0 0) 0 2 ∧
       mapGet none { s with keys := [(0x800, some ⟨0, 3, true, 1, []⟩)] }.keys (0x800 % 4096) ≠ none) ∧
    (let s := { bare with spdm := .secure 5 }
     ∀ n ∈ [16, 17], numAt (keyReq 0xFFE n 0) 4 8 = s.layoutEpoch ∧ 0x800 ≤ numAt (keyReq 0xFFE n 0) 0 2 ∧
       numAt (keyReq 0xFFE n 0) 0 2 < 0xFFF ∧ mapGet none s.keys (numAt (keyReq 0xFFE n 0) 0 2 % 4096) = none ∧
       mapGet 0 s.handleTenants (numAt (keyReq 0xFFE n 0) 0 2) = 0 ∧ (16 < numAt (keyReq 0xFFE n 0) 2 2 ↔ n = 17)) := by
  refine ⟨fun k h => (by cases h), by decide +kernel, by decide +kernel⟩

theorem witness_SensorsAndPower :
    ((∀ e ∈ sensorTable, e.1 = (0x02 : BitVec 8).toNat → e.2 ≤ 4) ∧ ((0x41 : BitVec 8).toNat, 4) ∈ sensorTable ∧
      ((0x02 : BitVec 8).toNat, 4) ∈ sensorTable ∧ 3 < 4 ∧ ((0x61 : BitVec 8).toNat, 1) ∈ sensorTable ∧
      ((0x70 : BitVec 8).toNat, 1) ∈ sensorTable) ∧
    (1200 ≤ 1200 ∧ 2400 ≤ 2400) ∧
    (∀ t ∈ [9999, 10000],
      let s := { bare with time := t }
      (getCluster s 5).idle = false ∧ clusterEmpty s 5 = true ∧ isOsCluster s 5 = false ∧ (s.time < (getCluster s 5).emptySince + 10000 ↔ t = 9999)) ∧
    (let h := 255 * 256
     let s := setHart bare h (hartWith [])
     isOsCluster s (h / 16 / 16) = true ∧ (getHart s h).tenure = .running ∧ isHandler h = false) := by decide +kernel

/-- A launch runs on core 0, whose hart 0 has arrived at a barrier. -/
def atBarrier : State := { onNode 1 [] with barriers := [⟨1, 0, .core, 0, [0], .zero⟩] }

theorem witness_CoreResets :
    atBarrier.power.off = false ∧ { bare with power := { bare.power with off := true } }.power.off = true ∧
    BarriersRun atBarrier (· = 0) ∧ BarriersRun atBarrier (fun g => g / 16 = 0) ∧ Running atBarrier 1 ∧
      launchLoses atBarrier (fun x => x = 0) 1 = true ∧ 1023 < 1024 ∧ 16383 < 16384 ∧
      OsCore bare (16 * 255) ∧ ¬OsCore bare (16 * 254) := by
  have all : ∀ p, BarriersRun atBarrier p := by
    intro p b hb h hh _
    rw [List.mem_singleton.mp hb] at hh
    rw [List.mem_singleton.mp hh]
    decide +kernel
  exact ⟨rfl, rfl, all _, all _, ⟨_, rfl, rfl⟩, by decide +kernel, by decide, by decide, by unfold OsCore; decide +kernel,
    by unfold OsCore; decide +kernel⟩

theorem witness_UnitResets :
    (∀ st ∈ [CmdState.queued, .running],
      let m := cmdWith .copy st none
      let s := withCmd m [] id
      (getCore s 0).cmds = [m] ∧ m.kind = .copy ∧ (m.state = .queued ∨ m.state = .running) ∧ Present s m.hart m.gen) ∧
    (let s := withMatrixQ [matrixCmd .mswap true] .reset
     (∀ e ∈ s.clusters, e.2.gangs = []) ∧ (getCore s 0).matrixQ = [matrixCmd .mswap true] ∧ Present s 0 0 ∧
       ((getHart s 0).faults.filter (·.kind = 4)).length < 8) ∧
    ((getHart bare (0 * 16 + 8)).tenure = .free ∧ (getHart (runHandler (hartWith [])) (0 * 16 + 8)).tenure ≠ .free) ∧
    (let m := cmdWith .bulk .running none
     let s := { withCmd m [] id with dies := [(0, { Die.reset with bulkRunning := [m.serial] })] }
     (getDie s 0).bulkRunning[0]? = some m.serial ∧ HasCmd s 0 5 m ∧ m.kind = .bulk ∧ m.state = .running ∧ Present s m.hart m.gen ∧
       (∀ y ∈ (getCore s 0).cmds, y.tag = 5 → y = m) ∧ ∀ e ∈ s.cores, ∀ y ∈ e.2.cmds, y.serial = m.serial → e.1 = 0 ∧ y = m) ∧
    ((getDie (walking 0 []) 0).walks.length ≤ 1 ∧ (getDie (walking 0 []) 0).walks[0]? = some ⟨0, 0x10000000000, .read, none⟩ ∧ 0 < 16) := by
  unfold Present HasCmd; decide +kernel

theorem witness_UnitResets_superseding :
    NoTenantReset bare ∧ NoTenantReset (runHandler (hartWith [])) ∧ NoTenantReset (walking 0 []) ∧
    (getTenant { bare with tenants := [(15, { Tenant.reset with stopped := true })] } 15).stopped = true :=
  ⟨fun e he => (by cases he), fun e he => (by cases he), fun e he => (by cases he), by decide +kernel⟩

theorem witness_DeviceResets :
    (3 < 4 ∧ BarriersRun bare (fun g => g / 4096 = 3) ∧ Memory.wf bare = true ∧ bare.power.off = false) ∧
    ((∀ n, ¬Running bare n) ∧ (∀ e ∈ bare.tenants, e.2.closed = [] ∧ ∀ j ∈ e.2.journal, j.kind ≠ 0x82)) ∧
    (getLaunch atBarrier 1 = some (launchWith [(0, some (nodeWith 1))]) ∧ (launchWith [(0, some (nodeWith 1))]).phase = .running) ∧
    ({ bare with power := { bare.power with off := true } }.power.off = true ∧
      ((withFirmware fun f => { f with switched := true, updating := true }).firmware.switched = true)) ∧
    bankMask Firmware.reset 0 = some Firmware.reset.osMask ∧
    (let f := { Firmware.reset with banks := [(0, some (imageFor [4096]))] }
     bankMask f f.active = none ∧ bankMask f (1 - f.active) = some Firmware.reset.osMask) ∧
    (let f := { Firmware.reset with banks := [(0, some (imageFor [4096])), (1, some (imageFor [4096]))] }
     bankMask f f.active = none ∧ bankMask f (1 - f.active) = none) := by
  have bad : maskOk [4096] = false := by decide +kernel
  refine ⟨⟨by decide, fun b hb => absurd hb List.not_mem_nil, by decide +kernel, rfl⟩, ⟨?_, fun e he => absurd he List.not_mem_nil⟩,
    by decide +kernel, ⟨rfl, rfl⟩, rfl, ⟨?_, rfl⟩, ?_, ?_⟩
  · rintro n ⟨l, h, -⟩
    cases h
  all_goals simp [bankMask, mapGet, Firmware.reset, imageFor, bad]

theorem witness_TenantReset :
    (15 < 16 ∧ (getTenant bare 15).stopped = false ∧ bare.power.off = false) ∧
    (let s := { called 0 0 none with launches := [(1, some (launchWith []))] }
     (getTenant s 0).stopped = false ∧ getLaunch s 1 = some (launchWith []) ∧ (launchWith []).tenant.toNat = 0 ∧ (launchWith []).phase = .running ∧
       callOf 0 0 none ∈ allSlots s ∧ (callOf 0 0 none).tenant.toNat = 0 ∧ (callOf 0 0 none).status = none) ∧
    (let s := { called 0 0 none with tenants := [(0, { Tenant.reset with stopped := true })] }
     (getTenant s 0).stopped = true ∧ (getTenant s 0).closed = [] ∧ ∃ v ∈ allSlots s, v.tenant.toNat = 0) ∧
    (let s := { bare with tenants := [(0, { Tenant.reset with stopped := true })] }
     (getTenant s 0).stopped = true ∧ (getTenant s 0).closed = [] ∧ tenantLaunches s 0 = [] ∧ (∀ v ∈ allSlots s, v.tenant.toNat ≠ 0) ∧
       journalFree s 0 = true) := by
  decide +kernel

/-! ### Single instructions, with results from the spec's tables and worked examples or by hand from its rules -/

/-- The instruction completes and the state after it passes a test. -/
def after (i : Instr) (s : State) (p : State → Bool) : Bool :=
  match exec i s with
  | .next t => p t
  | _ => false

def givesX (i : Instr) (s : State) (d : Reg) (v : Word) : Bool := after i s fun t => decide (readX (me t) d = v ∧ (me t).pc = 4)

theorem test_add_wraps : givesX (.add 5 6 7) (run (hartWith [(6, 0xFFFFFFFFFFFFFFFF), (7, 3)])) 5 2 = true := by decide +kernel

theorem test_x0_stays_zero : givesX (.addi 0 6 1) (run (hartWith [(6, 7)])) 0 0 = true := by decide +kernel

theorem test_div_overflow :
    givesX (.div 5 6 7) (run (hartWith [(6, 0x8000000000000000), (7, 0xFFFFFFFFFFFFFFFF)])) 5 0x8000000000000000 = true := by decide +kernel

theorem test_rem_sign : givesX (.rem 5 6 7) (run (hartWith [(6, 0xFFFFFFFFFFFFFFF9), (7, 2)])) 5 0xFFFFFFFFFFFFFFFF = true := by decide +kernel

theorem test_mulh_signed : givesX (.mulh 5 6 7) (run (hartWith [(6, 0xFFFFFFFFFFFFFFFF), (7, 2)])) 5 0xFFFFFFFFFFFFFFFF = true := by decide +kernel

theorem test_sra_uses_six_bits : givesX (.sra 5 6 7) (run (hartWith [(6, 0x8000000000000000), (7, 65)])) 5 0xC000000000000000 = true := by
  decide +kernel

theorem test_ins_keeps_the_rest :
    givesX (.ins 5 6 8 7) (run (hartWith [(5, 0xFFFFFFFFFFFFFFFF), (6, 0x12)])) 5 0xFFFFFFFFFFFF12FF = true := by decide +kernel

/-- JALR with its link register as the source jumps to the old value, bit 0 cleared (R358). -/
theorem test_jalr_reads_before_writing : after (.jalr 5 5 1) (run (hartWith [(5, 0x100)])) (fun t => decide (readX (me t) 5 = 4 ∧ (me t).pc = 0x100)) =
    true := by decide +kernel

theorem test_ld_sign_extends :
    after (.ld .h 5 6 0) { run (hartWith [(6, 2)]) with views := [(0, [(0x100000002, 0x34), (0x100000003, 0x92)])] }
      (fun t => decide (readX (me t) 5 = 0xFFFFFFFFFFFF9234)) = true := by decide +kernel

theorem test_st_is_little_endian :
    after (.st .h 7 6 0) (run (hartWith [(6, 2), (7, 0xABCDEF)])) (fun t =>
      decide (viewByte t 0 0x100000002 = 0xEF ∧ viewByte t 0 0x100000003 = 0xCD ∧ viewByte t 0 0x100000004 = 0)) = true := by decide +kernel

theorem test_ebreak_enters_s : after .ebreak (run { hartWith [] with pc := 0x40, sr := { SpecialRegs.reset with evec := 0x80 } })
    (fun t => decide ((me t).sr.ecause = 0x0E ∧ (me t).sr.epc = 0x40 ∧ (me t).mode = .S ∧ (me t).pc = 0x80)) = true := by decide +kernel

theorem test_misaligned_load : after (.ld .d 5 6 0) (run (hartWith [(6, 0x1004)]))
    (fun t => decide ((me t).sr.ecause = 0x04 ∧ (me t).sr.eval = 0x1004)) = true := by decide +kernel

/-- AMO.MIN.W compares as signed and returns the old word sign-extended (Table 21.1, R333). -/
theorem test_amo_min_word :
    let s := { run (hartWith []) with views := [(0, [(0x100000000, 0xFE), (0x100000001, 0xFF), (0x100000002, 0xFF), (0x100000003, 0xFF)])] }
    (amoApply s 0 (opWith 1 0 amoOp) ⟨.min, .w, 1, 0⟩).2 = .value 0xFFFFFFFFFFFFFFFE false := by decide +kernel

def laneAfter (i : Instr) (xs : List (Fin 32 × VWord)) (d : Fin 32) (w k : Nat) : Option Nat :=
  match exec i (run { hartWith [] with live := BitVec.allOnes 32, v := xs.foldl (fun v e => v.set e.1 e.2) Hart.reset.v }) with
  | .next t => some (lane (me t).v[d] w k)
  | _ => none

theorem test_vadd_wraps_in_its_lane : laneAfter (.vadd ⟨false, false, false, 0, 2, 1, 3, 0⟩) [(1, 0x01FF), (2, 0x0101)] 3 16 0 = some 0x0200 := by
  decide +kernel

theorem test_vsadd_saturates : laneAfter (.vsadd ⟨false, false, false, 0, 2, 1, 3, 2⟩) [(1, 0x7FFFFFFF), (2, 1)] 3 32 0 = some 0x7FFFFFFF := by
  decide +kernel

/-- The worked example of chapter 8: VRCP.f32 of 3.0. -/
theorem test_vrcp_of_three : laneAfter (.vrcp ⟨false, false, false, 0, 0, 1, 3, 0⟩) [(1, 0x40400000)] 3 32 0 = some 0x3EAAB000 := by decide +kernel

/-- VCVTI.i32.f32 of 16,777,217 (the example of chapter 8). -/
theorem test_vcvti_rounds : laneAfter (.vcvti ⟨false, false, false, 0, 0, 1, 3, 2⟩) [(1, 16777217)] 3 32 0 = some 0x4B800000 := by decide +kernel

/-- VCVTI.f32.i32 of −3.75 truncates (the example of chapter 8). -/
theorem test_vcvti_truncates : laneAfter (.vcvti ⟨false, false, false, 0, 8, 1, 3, 2⟩) [(1, 0xC0700000)] 3 32 0 = some 0xFFFFFFFD := by
  decide +kernel

theorem test_tfetch_row_major :
    after (.tfetch 4) (onNode 2 []) (fun t => decide (readX (me t) 4 = 0 ∧ readX (me t) 5 = 0x100000001 ∧ (me t).tile = some 0)) = true := by
  decide +kernel

theorem test_sigc_returns_the_old_value :
    after (.sigc 5 6 7 .die) (withCounter [(7, 3)]) (fun t => decide (readX (me t) 5 = 5 ∧ mapGet 0 t.counters 0xFFF = 8)) = true := by
  decide +kernel

theorem test_qpop_takes_the_oldest :
    after (.qpop 5 3) (queueWith 2) (fun t => decide (readX (me t) 5 = 7 ∧ (queue t 3).length = 1)) = true := by decide +kernel

theorem test_svc_index_not_open : after (.svc 5 6 32) (run (hartWith [])) (fun t => decide ((me t).sr.ecause = 0x0D ∧ (me t).sr.eval = 32)) = true := by
  decide +kernel

/-- A push into a window of one value, then the values of the header (R198). -/
theorem test_wpush_counts :
    (waccApply (objectState 1 0 0 id) 0 objectTarget (.push 5 0 8 0)).2 = .value 1 false ∧
      (headerAt (waccApply (objectState 1 0 0 id) 0 objectTarget (.push 5 0 8 0)).1 0 objectTarget).bagg = 5 := by decide +kernel

end Sys2Proof.Tests
end

section
/-!
PROOFS. The state after reset (R19, R27, R169): Shaten runs in context 0 of the cores of the default mask, and everything else is as its
reset value has it.
-/

namespace Sys2Proof.Proofs

open Sys2Proof Sys2Proof.Machine

/-! ### What the operating-service mask names -/

/-- A map that lists one value under some keys reads that value there and the default elsewhere. -/
theorem mapGet_map_const {β : Type} (d v : β) (f : Nat → Nat) (l : List Nat) (k : Nat) :
    mapGet d (l.map fun g => (f g, v)) k = if k ∈ l.map f then v else d := by
  induction l with
  | nil => rfl
  | cons g l ih =>
    by_cases hg : f g = k
    · simp [mapGet, hg]
    · simp only [List.map_cons, mapGet, hg, if_false, ih, List.mem_cons, Ne.symm hg, false_or]

theorem mem_osCores {mask : List Nat} {g : Nat} : g ∈ osCores mask ↔ g / 16 ∈ mask := by
  simp only [osCores, List.mem_flatMap, List.mem_map, List.mem_range]
  constructor
  · rintro ⟨c, hc, i, hi, rfl⟩
    rwa [show (c * 16 + i) / 16 = c by omega]
  · exact fun h => ⟨g / 16, h, g % 16, by omega, by omega⟩

theorem mapGet_shatenHarts (mask : List Nat) (h : Nat) :
    mapGet .reset (shatenHarts mask) h = if h % 16 = 0 ∧ h / 256 ∈ mask then .shaten else .reset := by
  have key : h ∈ (osCores mask).map (16 * ·) ↔ h % 16 = 0 ∧ h / 256 ∈ mask := by
    simp only [List.mem_map, mem_osCores]
    constructor
    · rintro ⟨g, hg, rfl⟩
      exact ⟨by omega, by rwa [show 16 * g / 256 = g / 16 by omega]⟩
    · rintro ⟨h0, hm⟩
      exact ⟨h / 16, by rwa [show h / 16 / 16 = h / 256 by omega], by omega⟩
  rw [shatenHarts, mapGet_map_const, if_congr key rfl rfl]

theorem mapGet_shatenCores (mask : List Nat) (g : Nat) :
    mapGet .reset (shatenCores mask) g = if g / 16 ∈ mask then { Core.reset with banks := 1 } else .reset := by
  have key : g ∈ (osCores mask).map id ↔ g / 16 ∈ mask := by rw [List.map_id, mem_osCores]
  rw [shatenCores]
  exact (mapGet_map_const _ _ id _ _).trans (if_congr key rfl rfl)

theorem mem_idleChecks {mask : List Nat} {e : Event} (h : e ∈ idleChecks mask) : ∃ c, e = .clusterIdleEntry c ∧ c < 1024 ∧ c ∉ mask := by
  simp only [idleChecks, List.mem_map, List.mem_filter, List.mem_range, Bool.not_eq_true', List.contains_eq_mem,
    decide_eq_false_iff_not] at h
  obtain ⟨c, ⟨hc, hm⟩, rfl⟩ := h
  exact ⟨c, rfl, hc, hm⟩

/-- The default mask names cluster 255 of each die (R27). -/
theorem mem_defaultMask {c : Nat} : c ∈ Firmware.reset.osMask ↔ c < 1024 ∧ c % 256 = 255 := by
  simp only [Firmware.reset, List.mem_cons, List.not_mem_nil, or_false]
  omega

/-! ### The parts of the reset state -/

theorem getHart_reset (h : Nat) :
    getHart State.reset h = if h % 16 = 0 ∧ h / 256 ∈ Firmware.reset.osMask then .shaten else .reset :=
  mapGet_shatenHarts _ h

theorem getCore_reset_matrix (g : Nat) :
    (getCore State.reset g).slice = .reset ∧ (getCore State.reset g).queues = [] := by
  have e : getCore State.reset g = if g / 16 ∈ Firmware.reset.osMask then { Core.reset with banks := 1 } else .reset :=
    mapGet_shatenCores _ g
  rw [e]
  split <;> exact ⟨rfl, rfl⟩

theorem agenda_reset : State.reset.agenda = idleChecks Firmware.reset.osMask := by simp only [State.reset]

/-- Settles O24: Shaten's contexts, the cores and the idle checks are read off the default mask; the rest lists nothing. -/
theorem resetState : Obligations.ResetState := by
  unfold Obligations.ResetState
  intro os
  have contexts : ∀ h, os h ↔ h % 16 = 0 ∧ h / 256 ∈ Firmware.reset.osMask := by
    intro h
    simp only [os, mem_defaultMask]
    omega
  refine ⟨fun h => ?_, fun g => ?_, fun n => ⟨rfl, rfl, rfl, rfl⟩, rfl, fun _ _ => rfl, fun _ => rfl, rfl, rfl, fun e he => ?_, Memory.wf_reset⟩
  · rw [contexts, getHart_reset]
    split
    · next hos => exact ⟨rfl, fun _ => ⟨rfl, rfl⟩, fun hn => absurd hos hn⟩
    · next hos => exact ⟨rfl, fun hy => absurd hy hos, fun _ => ⟨rfl, rfl⟩⟩
  · obtain ⟨hs, hq⟩ := getCore_reset_matrix g
    rw [hs, hq]
    exact ⟨rfl, rfl, rfl, fun _ => rfl⟩
  · rw [agenda_reset] at he
    obtain ⟨c, rfl, hc, hm⟩ := mem_idleChecks he
    exact ⟨c, rfl, hc, fun h => hm (mem_defaultMask.mpr ⟨hc, h⟩)⟩

end Sys2Proof.Proofs
end

section
/-!
PROOFS. The reset of a copy engine (R291) against what O60 says of it. A command that stops with a fault is asked for again from its start, so
the mark that the DRAM requests of its next piece have been made goes (R98, R278).
-/

namespace Sys2Proof.Proofs

open Sys2Proof Sys2Proof.Machine

/-- A copy command whose next piece has made its DRAM requests and waits for them. -/
def copyAsked : Cmd :=
  { kind := .copy, tag := 5, hart := 0, gen := 0, fromS := false, own := 0, tenant := 0, launch := 0, flush := false, dst := 0x10000000100
    src := 0x10000000080, len := 64, moved := 0, base := 0, total := 64, acq := none, rel := .core, post := none, state := .running
    stamp := .zero, abandoned := false, coll := none, serial := 1, issue := 1, posted := false, asked := true }

/-- Core 0 runs it for its hart 0, and no tenant reset is under way. -/
def copyUnderWay : State :=
  { State.reset with
    harts := [(0, { Hart.reset with tenure := .running })], cores := [(0, { Core.reset with cmds := [copyAsked], copyQ := [5] })], agenda := [] }

/-- The reset of the copy engine is the fault of its one command. -/
theorem engineReset_copyUnderWay :
    exec (.engineReset 0 .copyEngine) copyUnderWay = .next (faultCmd copyUnderWay 0 5 0x26 0x10000000080) := rfl

/-- The fault leaves the command stopped, with nothing asked for. -/
theorem faultCmd_copyUnderWay :
    (getCore (faultCmd copyUnderWay 0 5 0x26 0x10000000080) 0).cmds = [{ copyAsked with state := .faulted 0x26, asked := false }] := rfl

/-- Refutes O60: its clause on the copy engine lets the faulted command keep everything but its state, so also the mark that its DRAM requests
have been made, which the fault of a running command clears. -/
theorem not_resets : ¬ Obligations.Resets := by
  unfold Obligations.Resets
  rintro ⟨-, ⟨copyReset, -⟩, -⟩
  obtain ⟨t, ht, hcmds, -⟩ := copyReset 0 copyUnderWay copyAsked rfl rfl (.inr rfl) ⟨rfl, rfl⟩
  rw [engineReset_copyUnderWay, Host.Outcome.next.injEq] at ht
  subst ht
  have kept : [{ copyAsked with state := .faulted 0x26, asked := false }] = [{ copyAsked with state := .faulted 0x26 }] :=
    faultCmd_copyUnderWay.symm.trans hcmds
  exact absurd kept (by decide)

end Sys2Proof.Proofs
end

section
/-!
PROOFS. Byte lists and the flits of the Krytuk Link (R4, R280): what was put into a list of bytes is read back from its place, a flit holds
what its port put there, and the slots of a request read as that request.
-/

namespace Sys2Proof.Proofs

open Sys2Proof Sys2Proof.Machine Sys2Proof.Claims

/-! ### Bytes -/

@[simp] theorem leBytes_length (n v : Nat) : (leBytes n v).length = n := by
  induction n generalizing v with
  | zero => rfl
  | succ n ih => rw [leBytes, List.length_cons, ih]

theorem leNat_leBytes (n v : Nat) : leNat (leBytes n v) = v % 256 ^ n := by
  induction n generalizing v with
  | zero => rw [leBytes, leNat, pow_zero, Nat.mod_one]
  | succ n ih => rw [leBytes, leNat, ih, BitVec.toNat_ofNat, show (2 : Nat) ^ 8 = 256 from rfl, pow_succ', Nat.mod_mul]

/-- Bytes in the middle of a list. -/
theorem slice_middle (pre mid post : List Byte) {lo n : Nat} (hlo : pre.length = lo) (hn : mid.length = n) :
    slice (pre ++ mid ++ post) lo n = mid := by
  subst hlo hn
  refine List.ext_getElem (by simp [slice]) fun i hi _ => ?_
  have hi : i < mid.length := by simpa [slice] using hi
  simp [slice, List.getD_eq_getElem?_getD, List.append_assoc, List.getElem?_append_right, List.getElem?_append_left hi, hi]

theorem slice_front (mid post : List Byte) {n : Nat} (hn : mid.length = n) : slice (mid ++ post) 0 n = mid :=
  slice_middle [] mid post rfl hn

theorem numAt_leBytes (pre post : List Byte) (v : Nat) {lo : Nat} (n : Nat) (hlo : pre.length = lo) :
    numAt (pre ++ leBytes n v ++ post) lo n = v % 256 ^ n := by
  rw [numAt, slice_middle pre _ post hlo (leBytes_length n v), leNat_leBytes]

theorem numAt_byte (pre post : List Byte) (b : Byte) {lo : Nat} (hlo : pre.length = lo) : numAt (pre ++ [b] ++ post) lo 1 = b.toNat := by
  rw [numAt, slice_middle pre [b] post (n := 1) hlo rfl, leNat, leNat, Nat.mul_zero, Nat.add_zero]

theorem leWord_leBytes (w : Word) : leWord (leBytes 8 w.toNat) = w := by
  rw [leWord, leNat_leBytes, Nat.mod_eq_of_lt (by have := w.isLt; omega), BitVec.ofNat_toNat, BitVec.setWidth_eq]

/-- Slots filled up with empty ones. -/
theorem take_slots (l : List Byte) (h : l.length ≤ 240) :
    (l ++ List.replicate 240 0).take 240 = l ++ List.replicate (240 - l.length) (0 : Byte) := by
  rw [List.take_append, List.take_of_length_le h, List.take_replicate, Nat.min_eq_left (Nat.sub_le _ _)]

theorem padded_length (l : List Byte) : ((l ++ List.replicate 240 0).take 240).length = 240 := by
  rw [List.length_take, List.length_append, List.length_replicate]
  omega

/-! ### The flits of a port -/

/-- A flit up to its CRC: header, slots, zeros. -/
def flitBody (seq acked credits : Nat) (slots : List Byte) : List Byte :=
  leBytes 4 (seq % 4096 + 4096 * (acked % 4096) + 2 ^ 24 * (credits % 256)) ++ (slots ++ List.replicate 240 0).take 240 ++ leBytes 4 0

theorem flitBytes_eq (seq acked credits : Nat) (slots : List Byte) :
    flitBytes seq acked credits slots = flitBody seq acked credits slots ++ leBytes 8 (crc64 (flitBody seq acked credits slots)).toNat := rfl

theorem flitBody_length (seq acked credits : Nat) (slots : List Byte) : (flitBody seq acked credits slots).length = 248 := by
  rw [flitBody, List.length_append, List.length_append, padded_length, leBytes_length, leBytes_length]

theorem flitBytes_header (seq acked credits : Nat) (slots : List Byte) :
    numAt (flitBytes seq acked credits slots) 0 4 = seq % 4096 + 4096 * (acked % 4096) + 2 ^ 24 * (credits % 256) := by
  rw [flitBytes_eq, flitBody, List.append_assoc, List.append_assoc]
  refine (numAt_leBytes [] _ _ 4 rfl).trans (Nat.mod_eq_of_lt ?_)
  omega

theorem flitBytes_zeros (seq acked credits : Nat) (slots : List Byte) : numAt (flitBytes seq acked credits slots) 244 4 = 0 := by
  rw [flitBytes_eq, flitBody]
  exact numAt_leBytes _ _ 0 4 (by rw [List.length_append, padded_length, leBytes_length])

theorem flitBytes_crc (seq acked credits : Nat) (slots : List Byte) :
    leWord (slice (flitBytes seq acked credits slots) 248 8) = crc64 ((flitBytes seq acked credits slots).take 248) := by
  have hl := flitBody_length seq acked credits slots
  rw [flitBytes_eq, List.take_left' hl, ← List.append_nil (_ ++ leBytes 8 _), slice_middle _ _ _ hl (leBytes_length 8 _), leWord_leBytes]

theorem flitBytes_slots (seq acked credits : Nat) (slots : List Byte) :
    slice (flitBytes seq acked credits slots) 4 240 = (slots ++ List.replicate 240 0).take 240 := by
  rw [flitBytes_eq, flitBody, List.append_assoc]
  exact slice_middle _ _ _ (leBytes_length 4 _) (padded_length slots)

/-- A port that sends slots sends them in a flit of its own (R280). -/
theorem sendFlit_spec (s : State) (port : Nat) (slots : List Byte) :
    ∃ f, FlitFrom s (sendFlit s port slots) port f ∧ slice f 4 240 = (slots ++ List.replicate 240 0).take 240 ∧
      sendFlit s port slots = { s with ports := (sendFlit s port slots).ports, sentOut := s.sentOut ++ [.flit port f] } := by
  let p := mapGet .reset s.ports port
  refine ⟨flitBytes p.next (p.expected + 4095) p.owed slots, ⟨?_, flitBytes_header .., flitBytes_zeros .., flitBytes_crc .., ?_⟩,
    flitBytes_slots .., rfl⟩
  · rw [flitBytes_eq, List.length_append, flitBody_length, leBytes_length]
  · exact mapGet_mapPut_same ..

/-! ### The head slot of a request -/

section HeadSlot

variable (hid : BitVec 32) (own : BitVec 16) (group tag kind detail addr : Nat) (rest : List Byte)

@[simp] theorem slotHead_length : (slotHead hid own group tag kind detail addr).length = 16 := by simp [slotHead]

theorem slotHead_hid : numAt (slotHead hid own group tag kind detail addr ++ rest) 0 4 = hid.toNat := by
  rw [slotHead, List.append_assoc, List.append_assoc, List.append_assoc, List.append_assoc]
  refine (numAt_leBytes [] _ _ 4 rfl).trans (Nat.mod_eq_of_lt ?_)
  exact hid.isLt

theorem slotHead_own : numAt (slotHead hid own group tag kind detail addr ++ rest) 4 2 = own.toNat := by
  rw [slotHead, List.append_assoc, List.append_assoc, List.append_assoc]
  refine (numAt_leBytes _ _ _ 2 (leBytes_length 4 _)).trans (Nat.mod_eq_of_lt ?_)
  exact own.isLt

theorem slotHead_group : numAt (slotHead hid own group tag kind detail addr ++ rest) 6 1 = group % 64 + 64 * (detail % 4) := by
  have e : slotHead hid own group tag kind detail addr ++ rest =
      (leBytes 4 hid.toNat ++ leBytes 2 own.toNat) ++ [BitVec.ofNat 8 (group % 64 + 64 * (detail % 4))] ++
        (BitVec.ofNat 8 tag :: (leBytes 7 addr ++ (BitVec.ofNat 8 (kind % 8 + 8 * (detail / 4 % 32)) :: rest))) := by simp [slotHead]
  rw [e, numAt_byte _ _ _ (by simp), BitVec.toNat_ofNat]
  omega

theorem slotHead_tag : numAt (slotHead hid own group tag kind detail addr ++ rest) 7 1 = tag % 256 := by
  have e : slotHead hid own group tag kind detail addr ++ rest =
      (leBytes 4 hid.toNat ++ leBytes 2 own.toNat ++ [BitVec.ofNat 8 (group % 64 + 64 * (detail % 4))]) ++ [BitVec.ofNat 8 tag] ++
        (leBytes 7 addr ++ (BitVec.ofNat 8 (kind % 8 + 8 * (detail / 4 % 32)) :: rest)) := by simp [slotHead]
  rw [e, numAt_byte _ _ _ (by simp), BitVec.toNat_ofNat]

theorem slotHead_addr : numAt (slotHead hid own group tag kind detail addr ++ rest) 8 7 = addr % 2 ^ 56 := by
  rw [slotHead, List.append_assoc]
  exact numAt_leBytes _ _ addr 7 (by simp)

theorem slotHead_kind : numAt (slotHead hid own group tag kind detail addr ++ rest) 15 1 = kind % 8 + 8 * (detail / 4 % 32) := by
  rw [slotHead, numAt_byte _ _ _ (by simp), BitVec.toNat_ofNat]
  omega

/-- What follows the head slot. -/
theorem slotHead_data (pre mid post : List Byte) {n : Nat} (lo : Nat) (hlo : pre.length = lo) (hn : mid.length = n) :
    slice (slotHead hid own group tag kind detail addr ++ (pre ++ mid ++ post)) (16 + lo) n = mid := by
  rw [← List.append_assoc, ← List.append_assoc]
  exact slice_middle _ _ _ (by simp [hlo]) hn

end HeadSlot

/-! ### Requests read from slots -/

theorem parseSlots_empty (port fuel n : Nat) : parseSlots port fuel (List.replicate n 0) = [] := by
  induction fuel generalizing n with
  | zero => rfl
  | succ fuel ih =>
    have zero : numAt (List.replicate n (0 : Byte)) 15 1 = 0 := by
      have byte : (List.replicate n (0 : Byte)).getD 15 0 = 0 := by
        rw [List.getD_eq_getElem?_getD, List.getElem?_getD_replicate_default_eq]
      rw [numAt, show slice (List.replicate n (0 : Byte)) 15 1 = [(List.replicate n (0 : Byte)).getD 15 0] from rfl, byte]
      rfl
    rw [parseSlots, zero]
    split
    · rfl
    · simpa using ih (n - 16)

/-- A head slot of some kind is read, and the slots after its data. -/
theorem parseSlots_slotHead (port fuel : Nat) (hid : BitVec 32) (own : BitVec 16) (group tag kind detail addr : Nat) (rest : List Byte)
    (hk : 1 ≤ kind ∧ kind ≤ 6) (hd : detail < 128) :
    parseSlots port (fuel + 1) (slotHead hid own group tag kind detail addr ++ rest) =
      parseRequest port kind detail (slotHead hid own group tag kind detail addr ++ rest) ::
        parseSlots port fuel (rest.drop (16 * dataCount kind detail)) := by
  have hkind : numAt (slotHead hid own group tag kind detail addr ++ rest) 15 1 % 8 = kind := by
    rw [slotHead_kind]; omega
  have hdetail : numAt (slotHead hid own group tag kind detail addr ++ rest) 6 1 / 64 +
      numAt (slotHead hid own group tag kind detail addr ++ rest) 15 1 / 8 * 4 = detail := by
    rw [slotHead_group, slotHead_kind]; omega
  have hdrop : (slotHead hid own group tag kind detail addr ++ rest).drop (16 * (1 + dataCount kind detail)) =
      rest.drop (16 * dataCount kind detail) := by
    rw [Nat.mul_add, ← List.drop_drop, List.drop_left' (slotHead_length ..)]
  rw [parseSlots, if_neg (by simp), hkind, hdetail]
  simp only [hdrop]
  exact if_neg (by simp; omega)

/-- What every request's head slot says besides its kind. -/
theorem parseRequest_slotHead (port : Nat) (hid : BitVec 32) (own : BitVec 16) (group tag kind detail addr : Nat) (rest : List Byte)
    (hg : group < 64) (ht : tag < 256) (ha : addr < 2 ^ 56) (hk : kind ≠ 4) :
    parseRequest port kind detail (slotHead hid own group tag kind detail addr ++ rest) =
      ⟨0, port, (parseRequest port kind detail (slotHead hid own group tag kind detail addr ++ rest)).kind, hid, own, group,
        BitVec.ofNat 64 (tag * 2 ^ 56 + addr), addr % 2 ^ 48⟩ := by
  have hgroup : (group % 64 + 64 * (detail % 4)) % 64 = group := by omega
  simp only [parseRequest, slotHead_hid, slotHead_own, slotHead_group, slotHead_tag, slotHead_addr, BitVec.ofNat_toNat, BitVec.setWidth_eq,
    hgroup, Nat.mod_eq_of_lt ht, Nat.mod_eq_of_lt ha, if_neg hk]

/-- A request of whole slots, alone in a flit, is the one that is read. -/
theorem flitRequests_alone (port : Nat) (hid : BitVec 32) (own : BitVec 16) (group tag kind detail addr : Nat) (data : List Byte)
    (hg : group < 64) (ht : tag < 256) (ha : addr < 2 ^ 56) (hk : 1 ≤ kind ∧ kind ≤ 6 ∧ kind ≠ 4) (hd : detail < 128)
    (hdata : data.length = 16 * dataCount kind detail) (hlen : data.length ≤ 224) :
    flitRequests port ((slotHead hid own group tag kind detail addr ++ data ++ List.replicate 240 0).take 240) =
      [⟨0, port, (parseRequest port kind detail (slotHead hid own group tag kind detail addr ++
          (data ++ List.replicate (224 - data.length) 0))).kind, hid, own, group, BitVec.ofNat 64 (tag * 2 ^ 56 + addr), addr % 2 ^ 48⟩] := by
  rw [take_slots _ (by simp; omega), flitRequests, List.append_assoc, List.length_append, slotHead_length, ← Nat.sub_sub,
    parseSlots_slotHead (hk := ⟨hk.1, hk.2.1⟩) (hd := hd), List.drop_left' hdata, parseSlots_empty,
    parseRequest_slotHead (hg := hg) (ht := ht) (ha := ha) (hk := hk.2.2)]

/-! ### What a device asks is what its peer reads (R280, R281) -/

theorem parseAmo_amoCode (a : AmoArgs) (slots : List Byte) (hv : leWord (slice slots 16 8) = a.v) (hs : leWord (slice slots 24 8) = a.swap) :
    parseAmo (amoCode a.op + if a.sz = .w then 0 else 16) slots = .amo a := by
  obtain ⟨op, sz, v, swap⟩ := a
  subst hv hs
  cases sz <;> cases op <;> simp [parseAmo, amoCode]

theorem amoDetail_lt (a : AmoArgs) : (amoCode a.op + if a.sz = .w then 0 else 16) < 128 := by
  have : amoCode a.op < 16 := by cases a.op <;> decide
  split <;> omega

theorem dataSlots_length (bs : List Byte) : (dataSlots bs).length = 16 * ((bs.length + 15) / 16) := by
  simp only [dataSlots, List.length_append, List.length_replicate]
  omega

theorem flitRequests_askSlots (port : Nat) (hid : BitVec 32) (own : BitVec 16) (group tag addr : Nat) (q : PeerAsk) (k : LinkKind)
    (hg : group < 64) (ht : tag < 256) (ha : addr < 2 ^ 56) (hq : AskedAs q k) :
    flitRequests port ((askSlots hid own group tag addr q ++ List.replicate 240 0).take 240) =
      [⟨0, port, k, hid, own, group, BitVec.ofNat 64 (tag * 2 ^ 56 + addr), addr % 2 ^ 48⟩] := by
  obtain ⟨n, h1, h64, rfl, rfl⟩ | ⟨bs, h1, h64, rfl, rfl⟩ | ⟨a, rfl, rfl⟩ := hq
  case inl =>
    have alone := flitRequests_alone port hid own group tag 1 (n - 1) addr [] hg ht ha (by omega) (by omega) rfl (by simp)
    rw [List.append_nil] at alone
    rw [askSlots, alone]
    simp only [parseRequest, Nat.mod_eq_of_lt (show n - 1 < 64 by omega), Nat.sub_add_cancel h1]
  case inr.inl =>
    have hl := dataSlots_length bs
    have hcount : dataCount 2 (bs.length - 1) = (bs.length + 15) / 16 := by simp only [dataCount]; omega
    rw [askSlots, flitRequests_alone (hg := hg) (ht := ht) (ha := ha) (hk := by omega) (hd := by omega) (hdata := by rw [hl, hcount])
      (hlen := by omega)]
    simp only [parseRequest, Nat.mod_eq_of_lt (show bs.length - 1 < 64 by omega), Nat.sub_add_cancel h1, dataSlots, List.append_assoc]
    rw [← List.nil_append (bs ++ _), ← List.append_assoc [], slotHead_data (lo := 0) (hlo := rfl) (hn := rfl)]
  case inr.inr =>
    rw [askSlots, List.append_assoc (slotHead ..), flitRequests_alone (hg := hg) (ht := ht) (ha := ha) (hk := by omega) (hd := amoDetail_lt a)
      (hdata := by simp [dataCount]) (hlen := by simp)]
    simp only [parseRequest]
    rw [parseAmo_amoCode a]
    · rw [← List.nil_append (leBytes 8 a.v.toNat), List.append_assoc (_ ++ _), slotHead_data (lo := 0) (hlo := rfl) (hn := leBytes_length 8 _),
        leWord_leBytes]
    · rw [slotHead_data (lo := 8) (hlo := leBytes_length 8 _) (hn := leBytes_length 8 _), leWord_leBytes]

end Sys2Proof.Proofs
end

section
/-!
PROOFS. What the window of a tenant and the Krytuk Link leave alone: frames of the operations that the link's events are built from (R267, R278,
R280, R281).
-/

namespace Sys2Proof.Proofs

open Sys2Proof Sys2Proof.Machine Sys2Proof.Claims

/-! ### Folds -/

/-- What each step of a fold brings about for its element, and no later step undoes, holds of every element after the fold. -/
theorem foldl_each {α σ : Type} {P : α → σ → Prop} (f : σ → α → σ) (made : ∀ s a, P a (f s a)) (kept : ∀ s a b, P a s → P a (f s b))
    (l : List α) (s : σ) : ∀ a ∈ l, P a (l.foldl f s) := by
  have stays : ∀ (l : List α) (s : σ) (a : α), P a s → P a (l.foldl f s) := by
    intro l
    induction l with
    | nil => exact fun _ _ h => h
    | cons b l ih => exact fun s a h => ih _ a (kept s a b h)
  induction l generalizing s with
  | nil => exact fun _ h => absurd h List.not_mem_nil
  | cons b l ih =>
    intro a ha
    rcases List.mem_cons.mp ha with rfl | ha
    · exact stays l _ a (made s a)
    · exact ih _ a ha

/-! ### The state of the link -/

/-- The requests received, the ports and what has left the device are as they were. -/
structure SameLink (s t : State) : Prop where
  linkReqs : t.linkReqs = s.linkReqs
  ports : t.ports = s.ports
  sentOut : t.sentOut = s.sentOut

theorem SameLink.refl (s : State) : SameLink s s := ⟨rfl, rfl, rfl⟩

theorem SameLink.trans {s t u : State} (a : SameLink s t) (b : SameLink t u) : SameLink s u :=
  ⟨b.linkReqs.trans a.linkReqs, b.ports.trans a.ports, b.sentOut.trans a.sentOut⟩

theorem SameLink.foldl {α : Type} (f : State → α → State) (hf : ∀ s a, SameLink s (f s a)) (l : List α) (s : State) :
    SameLink s (l.foldl f s) := by
  induction l generalizing s with
  | nil => exact .refl s
  | cons a l ih => exact (hf s a).trans (ih _)

theorem sameLink_of_onlyCores {s t : State} (h : OnlyCores s t) : SameLink s t := ⟨by rw [h], by rw [h], by rw [h]⟩
theorem badLines_of_onlyCores {s t : State} (h : OnlyCores s t) : t.badLines = s.badLines := by rw [h]

/-! ### DRAM requests that are charged -/

/-- Only the charges of DRAM requests differ (R278, R279). -/
def OnlyCharges (s t : State) : Prop :=
  t = { s with agenda := t.agenda, channels := t.channels, charges := t.charges, debts := t.debts, budgetAt := t.budgetAt }

theorem OnlyCharges.trans {s t u : State} (a : OnlyCharges s t) (b : OnlyCharges t u) : OnlyCharges s u := by
  unfold OnlyCharges at *
  rw [b, a]

theorem refreshBudgets_charges (s : State) : OnlyCharges s (refreshBudgets s) := by
  unfold refreshBudgets
  simp only
  split <;> rfl

theorem chargeRequest_charges (s : State) (r : DramRequest) : OnlyCharges s (chargeRequest s r) := by
  refine (refreshBudgets_charges s).trans ?_
  unfold chargeRequest
  generalize refreshBudgets s = q
  simp only
  split
  · rfl
  · split <;> rfl

theorem chargeLine_charges (launch : Nat) (write : Bool) (s : State) (key : Nat) : OnlyCharges s (chargeLine launch write s key) := by
  unfold chargeLine
  split
  · exact chargeRequest_charges s _
  · rfl

theorem OnlyCharges.sameLink {s t : State} (h : OnlyCharges s t) : SameLink s t := ⟨by rw [h], by rw [h], by rw [h]⟩
theorem OnlyCharges.views {s t : State} (h : OnlyCharges s t) : t.views = s.views := by rw [h]
theorem OnlyCharges.badLines {s t : State} (h : OnlyCharges s t) : t.badLines = s.badLines := by rw [h]

theorem OnlyCharges.readTarget {s t : State} (h : OnlyCharges s t) (die hart : Nat) (x : Target) (n : Nat) :
    Machine.readTarget t die hart x n = Machine.readTarget s die hart x n := by
  unfold OnlyCharges at h
  rw [h]
  rfl

/-! ### The window of a tenant -/

/-- Only a tenant's window and journal, in its table entry and in memory, and what is due or has left the device, differ. -/
def OnlyWindow (s t : State) : Prop :=
  t = { s with agenda := t.agenda, views := t.views, lineKeys := t.lineKeys, tenants := t.tenants, sentOut := t.sentOut }

theorem OnlyWindow.refl (s : State) : OnlyWindow s s := rfl

theorem OnlyWindow.trans {s t u : State} (a : OnlyWindow s t) (b : OnlyWindow t u) : OnlyWindow s u := by
  unfold OnlyWindow at *
  rw [b, a]

theorem OnlyWindow.foldl {α : Type} (f : State → α → State) (hf : ∀ s a, OnlyWindow s (f s a)) (l : List α) (s : State) :
    OnlyWindow s (l.foldl f s) := by
  induction l generalizing s with
  | nil => exact .refl s
  | cons a l ih => exact (hf s a).trans (ih _)

theorem OnlyWindow.ops {s t : State} (h : OnlyWindow s t) : t.ops = s.ops := by rw [h]
theorem OnlyWindow.linkReqs {s t : State} (h : OnlyWindow s t) : t.linkReqs = s.linkReqs := by rw [h]

theorem sendOut_window (s : State) (m : OutMsg) : OnlyWindow s (sendOut s m) := rfl
theorem modTenant_window (s : State) (t : Nat) (f : Tenant → Tenant) : OnlyWindow s (modTenant s t f) := rfl
theorem agenda_window (s : State) (es : List Event) : OnlyWindow s { s with agenda := es } := rfl

theorem applyUnder_window (s : State) (die key : Nat) (bs : List Byte) (u : LineKey) : OnlyWindow s (applyUnder s die key bs u) := by
  unfold applyUnder
  split <;> rfl

theorem applyEverywhere_window (s : State) (key : Nat) (bs : List Byte) (u : LineKey) : OnlyWindow s (applyEverywhere s key bs u) :=
  (((applyUnder_window ..).trans (applyUnder_window ..)).trans (applyUnder_window ..)).trans (applyUnder_window ..)

theorem plainWrite_window (s : State) (key : Nat) (bs : List Byte) : OnlyWindow s (plainWrite s key bs) :=
  .foldl _ (fun _ _ => applyEverywhere_window ..) _ s

theorem hdmWrite_window (s : State) (t off : Nat) (bs : List Byte) : OnlyWindow s (hdmWrite s t off bs) := by
  unfold hdmWrite
  split
  · exact plainWrite_window ..
  · exact .refl s

theorem journalAdd_window (s : State) (t : Nat) (cseq : Word) (kind state reason : BitVec 8) (detail : BitVec 32) (tail : List Byte) :
    OnlyWindow s (journalAdd s t cseq kind state reason detail tail).2 := by
  unfold journalAdd
  simp only
  exact ((modTenant_window ..).trans (hdmWrite_window ..)).trans (hdmWrite_window ..)

theorem noteClosed_window (t : Nat) (s : State) (h : Word) : OnlyWindow s (noteClosed t s h) := by
  unfold noteClosed
  split
  · exact (journalAdd_window ..).trans (sendOut_window ..)
  · exact modTenant_window ..

theorem flushClosed_window (s : State) (t : Nat) : OnlyWindow s (flushClosed s t) :=
  (modTenant_window ..).trans (.foldl _ (noteClosed_window t) _ _)

theorem pollWindow_window (s : State) (t : Nat) : OnlyWindow s (pollWindow s t) := by
  have flushed : OnlyWindow s (if (getTenant s t).closed = [] then s else flushClosed s t) := by
    split
    · exact .refl s
    · exact flushClosed_window s t
  refine flushed.trans ?_
  unfold pollWindow
  generalize (if (getTenant s t).closed = [] then s else flushClosed s t) = q
  simp only
  split <;> rfl

theorem postOnce_window (s : State) (e : Event) : OnlyWindow s (postOnce s e) := by
  unfold postOnce
  split <;> rfl

theorem renewTenant_window (s : State) (t : Nat) : OnlyWindow s (renewTenant s t) := by
  refine (modTenant_window s t fun v => { v with stopped := false }).trans ?_
  unfold renewTenant
  refine .trans ?_ (pollWindow_window _ t)
  split
  · exact .refl _
  · exact postOnce_window ..

/-- Tenant resets under way are superseded in the windows of their tenants alone (R291). -/
theorem supersede_window (s : State) : OnlyWindow s (supersede s) :=
  .foldl _ (fun s t => by
    split
    · exact (agenda_window ..).trans (renewTenant_window ..)
    · exact .refl s) _ s

/-! ### The checks of an engine line -/

/-- An engine line that may go on has changed no more than the lookaside buffer of its core (R219, R220). -/
theorem engineRights_frame {s u : State} {a : Agent} {p : Word} {need : BitVec 8} {write : Bool} {len : Nat} {t x : Target} {keyh : BitVec 12}
    {window : Bool} (e : engineRights s a p need write len t keyh window = .ok u x) : OnlyCores s u := by
  unfold engineRights at e
  have hr := plbRange_frame s a.core a.own t.va
  split at e
  · cases e
  · next q rg hq =>
    rw [hq] at hr
    split at e
    · cases e
    · have hp := plbRight_frame q a.core a.own t.va rg.tag need
      split at e
      · cases e
      · next v hv =>
        rw [hv] at hp
        have hv : OnlyCores s v := hr.trans hp
        simp only at e
        repeat' split at e
        all_goals cases e
        all_goals exact hv

theorem engineCheck_frame {s u : State} {a : Agent} {p : Word} {need : BitVec 8} {write : Bool} {len : Nat} {x : Target}
    (e : engineCheck s a p need write len = .ok u x) : OnlyCores s u := by
  unfold engineCheck at e
  simp only at e
  repeat' split at e
  all_goals first
    | exact engineRights_frame e
    | (cases e <;> exact .refl s)

/-- A line that is neither of a tensor nor sealed is reached as it was named. -/
theorem engineRights_plain {s u : State} {a : Agent} {p : Word} {need : BitVec 8} {write : Bool} {len va key : Nat} {cached : Bool} {x : Target}
    {keyh : BitVec 12} {window : Bool} (e : engineRights s a p need write len (.plain va key cached) keyh window = .ok u x) :
    x = .plain va key cached := by
  unfold engineRights at e
  simp only [Target.plain, Bool.false_and, Bool.false_eq_true, if_false] at e
  repeat' split at e
  all_goals cases e
  all_goals rfl

/-- A line of a vault that an engine may use is reached under its own address (Table 2.6). -/
theorem engineCheck_vault {s u : State} {a : Agent} {p : Word} {need : BitVec 8} {write : Bool} {len : Nat} {x : Target}
    (hv : regionOf (addrOf p) = .vault) (e : engineCheck s a p need write len = .ok u x) : x = .plain (addrOf p) (addrOf p) true := by
  unfold engineCheck at e
  simp only [hv] at e
  exact engineRights_plain e

/-! ### Writes on their way to other dies -/

theorem sendFlight_link (src key : Nat) (bs : List Byte) (p : PageProp) (u : LineKey) (q : Nat) (st : Stamp) (s : State) (d : Nat) :
    SameLink s (sendFlight src key bs p u q st s d) := by
  unfold sendFlight
  split <;> exact ⟨rfl, rfl, rfl⟩

theorem sendFlights_link (s : State) (src key : Nat) (bs : List Byte) (p : PageProp) (u : LineKey) (q : Nat) (st : Stamp) :
    SameLink s (sendFlights s src key bs p u q st) := .foldl _ (sendFlight_link src key bs p u q st) _ s

end Sys2Proof.Proofs
end

section
/-!
PROOFS. The Krytuk Link (R18, R280, R281): flits received, requests of peers, training and reset of a port.
-/

namespace Sys2Proof.Proofs

open Sys2Proof Sys2Proof.Machine Sys2Proof.Claims

/-! ### Flits received -/

/-- One request of a flit is delivered: it takes a number and is due. -/
def deliver (s : State) (r : LinkReq) : State :=
  post { s with serial := s.serial + 1, linkReqs := s.linkReqs ++ [{ r with id := s.serial }] } (.remoteRequestExecute s.serial)

theorem deliverSlots_eq (s : State) (port : Nat) (slots : List Byte) : deliverSlots s port slots = (flitRequests port slots).foldl deliver s := rfl

/-- A request without the number it was delivered under. -/
def unnumbered (r : LinkReq) : LinkReq := { r with id := 0 }

/-- Requests delivered one after another stand behind those that were there, each due under its number. -/
theorem deliver_all (rs : List LinkReq) (s : State) :
    ∃ new, (rs.foldl deliver s).linkReqs = s.linkReqs ++ new ∧ new.map unnumbered = rs.map unnumbered ∧
      (∀ r ∈ new, .remoteRequestExecute r.id ∈ (rs.foldl deliver s).agenda) ∧ (∀ e ∈ s.agenda, e ∈ (rs.foldl deliver s).agenda) ∧
      (rs.foldl deliver s).ports = s.ports ∧ (rs.foldl deliver s).sentOut = s.sentOut := by
  induction rs generalizing s with
  | nil => exact ⟨[], (List.append_nil _).symm, rfl, fun _ h => absurd h List.not_mem_nil, fun _ h => h, rfl, rfl⟩
  | cons r rs ih =>
    obtain ⟨new, hreqs, hmap, hdue, hkept, hports, hsent⟩ := ih (deliver s r)
    refine ⟨{ r with id := s.serial } :: new, ?_, ?_, ?_, fun e he => hkept e (List.mem_append_left _ he), hports, hsent⟩
    · rw [List.foldl_cons, hreqs]
      exact List.append_assoc ..
    · rw [List.map_cons, List.map_cons, hmap]
      rfl
    · intro x hx
      rcases List.mem_cons.mp hx with rfl | hx
      · exact hkept _ (List.mem_append_right _ (List.mem_singleton_self _))
      · exact hdue x hx

theorem parseSlots_unnumbered (port fuel : Nat) (slots : List Byte) : (parseSlots port fuel slots).map unnumbered = parseSlots port fuel slots := by
  induction fuel generalizing slots with
  | zero => rfl
  | succ fuel ih =>
    rw [parseSlots]
    simp only
    split
    · rfl
    · split
      · exact ih _
      · rw [List.map_cons, ih]
        rfl

/-- Whether a port sends its flits again is free (log entry 78); nothing else differs. -/
theorem replayFlits_cases (s : State) (port : Nat) :
    replayFlits s port = s ∨
      replayFlits s port = { s with sentOut := s.sentOut ++ (mapGet .reset s.ports port).buffer.map fun e => .flit port e.2 } := by
  unfold replayFlits
  split
  · exact .inr rfl
  · exact .inl rfl

theorem replayFlits_frame (s : State) (port : Nat) : replayFlits s port = { s with sentOut := (replayFlits s port).sentOut } := by
  rcases replayFlits_cases s port with h | h <;> rw [h]

theorem flitOk_iff (f : List Byte) :
    flitOk f = true ↔ f.length = 256 ∧ numAt f 244 4 = 0 ∧ leWord (slice f 248 8) = crc64 (f.take 248) := by
  simp [flitOk, and_assoc]

theorem field_sequence (h : Nat) : field h 0 12 = h % 4096 := by
  rw [field, pow_zero, Nat.div_one]
  rfl

/-- What a port holds once it has taken a flit. -/
def portAfter (p : LinkPort) (port : Nat) (f : List Byte) : LinkPort :=
  let h := numAt f 0 4
  { p with
    expected := (p.expected + 1) % 4096, acked := h / 4096 % 4096, credits := p.credits + h / 2 ^ 24 % 256
    buffer := dropAcked (h / 4096 % 4096) p.buffer, owed := p.owed + (flitRequests port (slice f 4 240)).length }

/-- The event's meaning, by its row of the table. -/
theorem exec_krytukFlit (port : Nat) (f : List Byte) (s : State) : exec (.krytukFlitReceive port f) s = execKrytukFlitReceive port f s := rfl

/-- A flit that is whole and next in sequence is taken. -/
theorem exec_flit_taken (s : State) (port : Nat) (f : List Byte) (hok : flitOk f = true)
    (hseq : numAt f 0 4 % 4096 = (mapGet .reset s.ports port).expected) :
    exec (.krytukFlitReceive port f) s = .next (deliverSlots
      (replayFlits { s with ports := mapPut .reset s.ports port (portAfter (mapGet .reset s.ports port) port f) } port)
      port (slice f 4 240)) := by
  have hfield : field (numAt f 0 4) 0 12 = (mapGet .reset s.ports port).expected := (field_sequence _).trans hseq
  rw [exec_krytukFlit, execKrytukFlitReceive]
  simp only
  rw [if_neg (by simp [hok, hfield])]
  rfl

/-- Any other flit is asked for again (R280). -/
theorem exec_flit_refused (s : State) (port : Nat) (f : List Byte)
    (h : leWord (slice f 248 8) ≠ crc64 (f.take 248) ∨ numAt f 0 4 % 4096 ≠ (mapGet .reset s.ports port).expected) :
    exec (.krytukFlitReceive port f) s =
      .next { s with sentOut := s.sentOut ++ [.linkReplay port (mapGet .reset s.ports port).expected] } := by
  have bad : (!flitOk f || decide (field (numAt f 0 4) 0 12 ≠ (mapGet .reset s.ports port).expected)) = true := by
    rcases h with h | h
    · have : flitOk f = false := by
        rw [← Bool.not_eq_true, flitOk_iff]
        exact fun e => h e.2.2
      rw [this]
      rfl
    · have : field (numAt f 0 4) 0 12 ≠ (mapGet .reset s.ports port).expected := by rwa [field_sequence]
      rw [decide_eq_true this, Bool.or_true]
  rw [exec_krytukFlit, execKrytukFlitReceive]
  simp only
  rw [if_pos bad]
  rfl

/-! ### Answers to a peer -/

/-- The device answers a request that it has dropped, where what went before has not touched the link. -/
theorem linkAnswered_respond {s u : State} (same : SameLink s u) (r : LinkReq) (status : BitVec 8) (data : List Byte) :
    LinkAnswered s (respond (dropReq u r.id) r status data) r status data := by
  let q : State := { dropReq u r.id with sentOut := u.sentOut ++ [.linkResponse r.port status data] }
  obtain ⟨f, hflit, hslots, hframe⟩ := sendFlit_spec q r.port (answerSlots r.number status data)
  have heq : respond (dropReq u r.id) r status data = sendFlit q r.port (answerSlots r.number status data) := rfl
  rw [heq]
  refine ⟨?_, f, ?_, hslots, ?_⟩
  · rw [hframe, ← same.linkReqs]
    rfl
  · unfold FlitFrom at hflit ⊢
    rw [← same.ports]
    exact hflit
  · rw [hframe, ← same.sentOut]
    exact List.append_assoc ..

/-! ### The line of a peer's request -/

theorem find_id {l : List LinkReq} {id : Nat} {r : LinkReq} (h : l.find? (fun x => x.id = id) = some r) : r.id = id := by
  simpa using List.find?_some h

theorem remoteLine_noTenant {s : State} {r : LinkReq} (h : mapGet 0 s.groupTenants ((r.hid.extractLsb' 17 6).toNat * 64 + r.group) = 0)
    (need : BitVec 8) (write : Bool) (n : Nat) : remoteLine s r need write n = .error 0x21 := by
  have none : localTenant s r = none := if_pos h
  rw [remoteLine, none]

/-- A line of route 0 that the owner of a peer's request may use here (R281). -/
theorem remoteLine_ok {s u : State} {r : LinkReq} {tn n : Nat} {need : BitVec 8} {write : Bool} {x : Target} (howns : PeerOwns s r tn)
    (hranged : ranged r.addr = true) (hline : r.addr.toNat % 64 + n ≤ 64)
    (hcheck : engineCheck s ⟨0, noHart, r.own, BitVec.ofNat 4 tn, 0⟩ r.addr need write n = .ok u x) (hroute : x.route = 0) :
    remoteLine s r need write n = .ok (chargeLine 0 write u x.key, x) := by
  obtain ⟨htenant, howner⟩ := howns
  have hlocal : localTenant s r = some tn := by
    unfold localTenant hidDev
    simp only [htenant, Nat.add_sub_cancel, Nat.add_one_ne_zero, if_false]
  have hown : ownerTenant s r.own = some tn := by
    unfold ownerTenant
    simp only [howner, Nat.add_sub_cancel, Nat.add_one_ne_zero, if_false]
  rw [remoteLine, hlocal]
  simp only
  rw [if_neg (by simp [hranged, hown]; omega), hcheck]
  simp only
  rw [if_pos hroute]

/-! ### Stores of a peer into a vault -/

theorem addrOf_eq (p : Word) : addrOf p = p.toNat % 2 ^ 56 := by
  simp [addrOf, BitVec.extractLsb'_toNat]

theorem region_vault {va : Nat} (h : regionOf va = .vault) : va < controlBase := by
  by_contra hlt
  rw [regionOf, show (decide (vaultBase ≤ va) && decide (va < controlBase)) = false by simp [hlt], if_neg Bool.false_ne_true] at h
  split_ifs at h

theorem ranged_vault {p : Word} (h : regionOf (addrOf p) = .vault) : ranged p = true := by
  rw [ranged, h]

/-- A write to plain memory on the device, of a line without an error: in the view of its die it is there, and the link has no part in it. -/
theorem writeStored_plain (s : State) (d h : Nat) {x : Target} {key : Nat} (bs : List Byte) (hx : x = .plain key key true) (hkey : key < controlBase)
    (hgood : x.key / 64 ∉ s.badLines) :
    let t := writeStored s d h x (applyPad x bs) false
    (∀ i < bs.length, viewByte t d (x.key + i) = bs.getD i 0) ∧ SameLink s t := by
  subst hx
  have hchip : isDram key = false ∧ isOuter key = false := by
    unfold controlBase at hkey
    have hdram : ¬ dramBase ≤ key := by unfold dramBase; omega
    have houter : ¬ outerBase ≤ key := by unfold outerBase; omega
    exact ⟨by simp [isDram, hdram], by simp [isOuter, houter]⟩
  have happly : applyUnder s d key bs .plain = applyView s d key bs := by
    rw [applyUnder, hchip.1]
    rfl
  let n := (stampOf s d).get d + 1
  have heq : writeStored s d h (.plain key key true) (applyPad (.plain key key true) bs) false =
      sendFlights (setStamp (applyView s d key bs) d ((stampOf s d).set d n)) d key bs .na .plain n (stampOf s d) := by
    rw [writeStored, if_neg (by simpa [Target.plain] using hgood), performUnder, ← happly]
    simp only [Target.plain, hchip.2]
    rfl
  rw [heq]
  refine ⟨fun i hi => ?_, ?_⟩
  · rw [viewByte, viewOf, sendFlights_views, ← viewOf, viewOf_setStamp, applyView, viewOf_setView_same]
    exact (mapGet_putBytes_inside _ _ _ _ hi).trans (List.getD_eq_getElem _ _ hi).symm
  · have hview : SameLink s (setStamp (applyView s d key bs) d ((stampOf s d).set d n)) := ⟨rfl, rfl, rfl⟩
    exact hview.trans (sendFlights_link ..)

end Sys2Proof.Proofs
end

section
/-!
PROOFS. The events of the Krytuk Link, and what O56 says of them (R18, R280, R281).
-/

namespace Sys2Proof.Proofs

open Sys2Proof Sys2Proof.Machine Sys2Proof.Claims

/-! ### A flit received -/

/-- A flit that is whole and next in sequence: its port, its requests, and what is sent again. -/
theorem flit_taken (s : State) (port : Nat) (f : List Byte) (hok : flitOk f = true)
    (hseq : numAt f 0 4 % 4096 = (mapGet .reset s.ports port).expected) :
    ∃ t, exec (.krytukFlitReceive port f) s = .next t ∧
      mapGet .reset t.ports port = portAfter (mapGet .reset s.ports port) port f ∧
      t.linkReqs.take s.linkReqs.length = s.linkReqs ∧
      (t.linkReqs.drop s.linkReqs.length).map unnumbered = flitRequests port (slice f 4 240) ∧
      (∀ r ∈ t.linkReqs.drop s.linkReqs.length, .remoteRequestExecute r.id ∈ t.agenda) ∧
      (t.sentOut = s.sentOut ∨
        t.sentOut = s.sentOut ++ (portAfter (mapGet .reset s.ports port) port f).buffer.map fun e => .flit port e.2) := by
  rw [exec_flit_taken s port f hok hseq]
  refine ⟨_, rfl, ?_⟩
  let q : State := { s with ports := mapPut .reset s.ports port (portAfter (mapGet .reset s.ports port) port f) }
  have hport : mapGet .reset q.ports port = portAfter (mapGet .reset s.ports port) port f := mapGet_mapPut_same ..
  have hframe := replayFlits_frame q port
  obtain ⟨new, hreqs, hmap, hdue, -, hports, hsent⟩ := deliver_all (flitRequests port (slice f 4 240)) (replayFlits q port)
  rw [← deliverSlots_eq] at hreqs hdue hports hsent
  have hold : (replayFlits q port).linkReqs = s.linkReqs := by rw [hframe]
  rw [hold] at hreqs
  refine ⟨?_, ?_, ?_, ?_, ?_⟩
  · rw [hports, hframe]
    exact hport
  · rw [hreqs, List.take_left]
  · rw [hreqs, List.drop_left, hmap]
    exact parseSlots_unnumbered ..
  · rw [hreqs, List.drop_left]
    exact hdue
  · rw [hsent]
    rcases replayFlits_cases q port with h | h
    · exact .inl (by rw [h])
    · exact .inr (by rw [h, hport])

/-! ### A request of a peer -/

section Request

variable {s : State} {id : Nat} {r : LinkReq}

/-- The event's meaning, by its row of the table. -/
theorem exec_remoteRequest (id : Nat) (s : State) : exec (.remoteRequestExecute id) s = execRemoteRequestExecute id s := rfl

theorem exec_release (h : LinkRequest s id r) (hk : r.kind = .release) :
    exec (.remoteRequestExecute id) s = .next (respond (dropReq s id) r 0 []) := by
  rw [exec_remoteRequest, execRemoteRequestExecute, h]
  simp only [hk]

theorem exec_read_refused {n : Nat} {c : BitVec 8} (h : LinkRequest s id r) (hk : r.kind = .read n)
    (hline : remoteLine s r 1 false n = .error c) : exec (.remoteRequestExecute id) s = .next (respond (dropReq s id) r c []) := by
  rw [exec_remoteRequest, execRemoteRequestExecute, h]
  simp only [hk, rightR, hline]

theorem exec_read {n : Nat} {u : State} {x : Target} {bs : List Byte} (h : LinkRequest s id r) (hk : r.kind = .read n)
    (hline : remoteLine s r 1 false n = .ok (u, x)) (hread : readTarget u (homeDie x.key) noHart x n = some bs) :
    exec (.remoteRequestExecute id) s = .next (respond (dropReq u id) r 0 bs) := by
  rw [exec_remoteRequest, execRemoteRequestExecute, h]
  simp only [hk, rightR, hline, hread]

theorem exec_write {bs : List Byte} {u : State} {x : Target} (h : LinkRequest s id r) (hk : r.kind = .write bs)
    (hline : remoteLine s r 2 true bs.length = .ok (u, x)) (hprop : x.prop = .na) :
    exec (.remoteRequestExecute id) s =
      .next (respond (dropReq (writeStored (dropL1 u (homeCore x.key) x.key) (homeDie x.key) noHart x (applyPad x bs) false) id) r 0 []) := by
  rw [exec_remoteRequest, execRemoteRequestExecute, h]
  simp only [hk, rightW, hline, hprop]
  rfl

theorem exec_response_awaited {n : Nat} {v : Word} {o : Op} (h : LinkRequest s id r) (hk : r.kind = .response n v) (ho : awaited s n = some o) :
    exec (.remoteRequestExecute id) s = .next (sendReply (dropReq s id) o.id (.value v false) .zero) := by
  have ho' : awaited (dropReq s id) n = some o := ho
  rw [exec_remoteRequest, execRemoteRequestExecute, h]
  simp only [hk, ho']

theorem exec_response_lost {n : Nat} {v : Word} (h : LinkRequest s id r) (hk : r.kind = .response n v) (ho : awaited s n = none) :
    exec (.remoteRequestExecute id) s = .next (dropReq s id) := by
  have ho' : awaited (dropReq s id) n = none := ho
  rw [exec_remoteRequest, execRemoteRequestExecute, h]
  simp only [hk, ho']

theorem release_answered (h : LinkRequest s id r) (hk : r.kind = .release) :
    ∃ t, exec (.remoteRequestExecute id) s = .next t ∧ LinkAnswered s t r 0 [] := by
  obtain rfl := find_id h
  exact ⟨_, exec_release h hk, linkAnswered_respond (.refl s) r 0 []⟩

theorem read_refused {n : Nat} (h : LinkRequest s id r) (hk : r.kind = .read n)
    (hgroup : mapGet 0 s.groupTenants ((r.hid.extractLsb' 17 6).toNat * 64 + r.group) = 0) :
    ∃ t, exec (.remoteRequestExecute id) s = .next t ∧ LinkAnswered s t r 0x21 [] := by
  obtain rfl := find_id h
  exact ⟨_, exec_read_refused h hk (remoteLine_noTenant hgroup 1 false n), linkAnswered_respond (.refl s) r 0x21 []⟩

/-- A peer reads a line as its home holds it, under the rights of this device. -/
theorem read_answered {n tn : Nat} {u : State} {x : Target} {bs : List Byte} (h : LinkRequest s id r) (hk : r.kind = .read n)
    (howns : PeerOwns s r tn) (hranged : ranged r.addr = true) (hline : r.addr.toNat % 64 + n ≤ 64)
    (hcheck : engineCheck s ⟨0, noHart, r.own, BitVec.ofNat 4 tn, 0⟩ r.addr 1 false n = .ok u x) (hroute : x.route = 0)
    (hread : readTarget u (homeDie x.key) noHart x n = some bs) :
    ∃ t, exec (.remoteRequestExecute id) s = .next t ∧ LinkAnswered s t r 0 bs ∧ t.views = s.views := by
  obtain rfl := find_id h
  have hcores : OnlyCores s u := engineCheck_frame hcheck
  have hcharged : OnlyCharges u (chargeLine 0 false u x.key) := chargeLine_charges 0 false u x.key
  exact ⟨_, exec_read h hk (remoteLine_ok howns hranged hline hcheck hroute) ((hcharged.readTarget ..).trans hread),
    linkAnswered_respond ((sameLink_of_onlyCores hcores).trans hcharged.sameLink) r 0 bs, hcharged.views.trans hcores.views⟩

/-- A peer's store into a vault is acknowledged once it is in the view of its home (R281). -/
theorem write_answered {bs : List Byte} {tn : Nat} {u : State} {x : Target} (h : LinkRequest s id r) (hk : r.kind = .write bs)
    (howns : PeerOwns s r tn) (hvault : regionOf (r.addr.toNat % 2 ^ 56) = .vault) (hline : r.addr.toNat % 64 + bs.length ≤ 64)
    (hcheck : engineCheck s ⟨0, noHart, r.own, BitVec.ofNat 4 tn, 0⟩ r.addr 2 true bs.length = .ok u x) (hgood : x.key / 64 ∉ s.badLines) :
    ∃ t, exec (.remoteRequestExecute id) s = .next t ∧ LinkAnswered s t r 0 [] ∧
      ∀ i < bs.length, viewByte t (homeCore x.key / 4096) (x.key + i) = bs.getD i 0 := by
  obtain rfl := find_id h
  rw [← addrOf_eq] at hvault
  have hx : x = .plain (addrOf r.addr) (addrOf r.addr) true := engineCheck_vault hvault hcheck
  have hcores : OnlyCores s u := engineCheck_frame hcheck
  have hcharged : OnlyCharges u (chargeLine 0 true u x.key) := chargeLine_charges 0 true u x.key
  have hexec := exec_write h hk (remoteLine_ok howns (ranged_vault hvault) hline hcheck (by rw [hx]; rfl)) (by rw [hx]; rfl)
  have hdropped : OnlyCores (chargeLine 0 true u x.key) (dropL1 (chargeLine 0 true u x.key) (homeCore x.key) x.key) := onlyCores_modCore ..
  generalize dropL1 (chargeLine 0 true u x.key) (homeCore x.key) x.key = v at hexec hdropped
  have hlink : SameLink s v := ((sameLink_of_onlyCores hcores).trans hcharged.sameLink).trans (sameLink_of_onlyCores hdropped)
  have hbad : v.badLines = s.badLines := ((badLines_of_onlyCores hdropped).trans hcharged.badLines).trans (badLines_of_onlyCores hcores)
  obtain ⟨hbytes, hstored⟩ := writeStored_plain v (homeDie x.key) noHart bs hx (region_vault hvault) (by rwa [hbad])
  exact ⟨_, hexec, linkAnswered_respond (hlink.trans hstored) r 0 [], hbytes⟩

/-- A response answers the message that waits for it. -/
theorem response_taken {n : Nat} {v : Word} {o : Op} (h : LinkRequest s id r) (hk : r.kind = .response n v) (ho : awaited s n = some o) :
    ∃ t, exec (.remoteRequestExecute id) s = .next t ∧ Answered s t o.id (.value v false) .zero ∧ .homeReplyArrival o.id ∈ t.agenda :=
  ⟨_, exec_response_awaited h hk ho, rfl, List.mem_append_right _ (List.mem_singleton_self _)⟩

theorem response_lost {n : Nat} {v : Word} (h : LinkRequest s id r) (hk : r.kind = .response n v) (ho : awaited s n = none) :
    ∃ t, exec (.remoteRequestExecute id) s = .next t ∧ t = { s with linkReqs := s.linkReqs.filter (fun x => x.id ≠ r.id) } := by
  obtain rfl := find_id h
  exact ⟨_, exec_response_lost h hk ho, rfl⟩

end Request

/-! ### Training -/

theorem mapGet_map_range {β : Type} (d : β) (f : Nat → β) (n i : Nat) (hi : i < n) : mapGet d ((List.range n).map fun j => (j, f j)) i = f i := by
  have listed : ∀ l : List Nat, i ∈ l → mapGet d (l.map fun j => (j, f j)) i = f i := by
    intro l
    induction l with
    | nil => exact fun h => absurd h List.not_mem_nil
    | cons j l ih =>
      intro h
      by_cases hj : j = i
      · rw [List.map_cons, mapGet, if_pos hj, hj]
      · rw [List.map_cons, mapGet, if_neg hj]
        exact ih ((List.mem_cons.mp h).resolve_left (Ne.symm hj))
  exact listed _ (List.mem_range.mpr hi)

theorem linkTraining_spec (dev : BitVec 6) (grouped : Bool) (s : State) :
    ∃ t, exec (.linkTraining dev grouped) s = .next t ∧ t.dev = (if grouped then dev else 0) ∧ t.grouped = grouped ∧
      (∀ i < 16, mapGet .reset t.ports i = { mapGet .reset s.ports i with up := true }) ∧
      t = { s with dev := t.dev, grouped := t.grouped, ports := t.ports } :=
  ⟨_, rfl, rfl, rfl, fun i hi => mapGet_map_range _ (fun j => { mapGet .reset s.ports j with up := true }) 16 i hi, rfl⟩

/-! ### A port that is reset -/

theorem isMessage_iff (o : Op) : isMessage o = true ↔ ∃ a b c d, o.kind = .msg a b c d := by
  unfold isMessage
  split
  · next a b c d h => exact ⟨fun _ => ⟨a, b, c, d, h⟩, fun _ => rfl⟩
  · next h => exact ⟨fun e => (by cases e), fun ⟨a, b, c, d, e⟩ => absurd e (h a b c d)⟩

/-- An operation over a port that has been reset: a message is answered with the data of a failed read, any other is gone. -/
def LostOver (o : Op) (s : State) : Prop :=
  (isMessage o = true → .homeReplyArrival o.id ∈ s.agenda ∧ ∀ p ∈ s.ops, p.id = o.id → p.reply = some (.value (BitVec.allOnes 64) true)) ∧
    (isMessage o = false → ∀ p ∈ s.ops, p.id ≠ o.id)

/-- A message that is lost is answered, with nothing else in flight touched. -/
theorem loseOp_message (s : State) (o : Op) (h : isMessage o = true) :
    (loseOp s o).ops = s.ops.map (fun p =>
        if p.id = o.id then { p with reply := some (.value (BitVec.allOnes 64) true), replyStamp := .zero, replySerial := s.serial } else p) ∧
      (loseOp s o).agenda = s.agenda ++ [.homeReplyArrival o.id] := by
  rw [loseOp, if_pos h]
  exact ⟨rfl, rfl⟩

theorem loseOp_other (s : State) (o : Op) (h : isMessage o = false) :
    (loseOp s o).ops = s.ops.filter (·.id ≠ o.id) ∧ (loseOp s o).agenda = s.agenda := by
  rw [loseOp, if_neg (by simp [h])]
  exact ⟨rfl, rfl⟩

theorem loseOp_link (s : State) (o : Op) : (loseOp s o).linkReqs = s.linkReqs ∧ (loseOp s o).ports = s.ports := by
  unfold loseOp
  split <;> exact ⟨rfl, rfl⟩

theorem lostOver_loseOp (s : State) (o : Op) : LostOver o (loseOp s o) := by
  cases h : isMessage o
  case true =>
    obtain ⟨hops, hagenda⟩ := loseOp_message s o h
    refine ⟨fun _ => ⟨?_, ?_⟩, fun hn => absurd (h.symm.trans hn) (by decide)⟩
    · rw [hagenda]
      exact List.mem_append_right _ (List.mem_singleton_self _)
    · rw [hops]
      intro p hp hid
      obtain ⟨x, -, rfl⟩ := List.mem_map.mp hp
      by_cases hx : x.id = o.id
      · rw [if_pos hx]
      · rw [if_neg hx] at hid
        exact absurd hid hx
  case false =>
    obtain ⟨hops, -⟩ := loseOp_other s o h
    refine ⟨fun hy => absurd (h.symm.trans hy) (by decide), fun _ p hp => ?_⟩
    rw [hops] at hp
    simpa using (List.mem_filter.mp hp).2

/-- What another operation's loss leaves in flight under a number is what was there, or such a message answered alike. -/
theorem mem_loseOp {s : State} {o p : Op} (hp : p ∈ (loseOp s o).ops) :
    p ∈ s.ops ∨ ∃ x ∈ s.ops, p.id = x.id ∧ p.reply = some (.value (BitVec.allOnes 64) true) := by
  cases h : isMessage o
  case true =>
    rw [(loseOp_message s o h).1] at hp
    obtain ⟨x, hx, rfl⟩ := List.mem_map.mp hp
    split
    · exact .inr ⟨x, hx, rfl, rfl⟩
    · exact .inl hx
  case false =>
    rw [(loseOp_other s o h).1] at hp
    exact .inl (List.mem_filter.mp hp).1

theorem loseOp_due {s : State} {o : Op} {e : Event} (he : e ∈ s.agenda) : e ∈ (loseOp s o).agenda := by
  cases h : isMessage o
  case true =>
    rw [(loseOp_message s o h).2]
    exact List.mem_append_left _ he
  case false =>
    rw [(loseOp_other s o h).2]
    exact he

theorem lostOver_kept (s : State) (o q : Op) (h : LostOver o s) : LostOver o (loseOp s q) := by
  obtain ⟨message, other⟩ := h
  refine ⟨fun hm => ⟨loseOp_due (message hm).1, fun p hp hid => ?_⟩, fun hm p hp hid => ?_⟩
  · rcases mem_loseOp hp with hp | ⟨x, hx, hpx, hreply⟩
    · exact (message hm).2 p hp hid
    · exact hreply
  · rcases mem_loseOp hp with hp | ⟨x, hx, hpx, -⟩
    · exact other hm p hp hid
    · exact other hm x hx (hpx.symm.trans hid)

/-- The operations of a port's peers that no reply has reached. -/
def outstanding (s : State) (port : Nat) : List Op :=
  s.ops.filter fun o => o.route = 1 && o.reply.isNone && Config.portOf (deviceOf o.key) % 16 = port

/-- A port right after its reset: up, with nothing received. -/
def portCleared (s : State) (port : Nat) : State :=
  { s with ports := mapPut .reset s.ports port { LinkPort.reset with up := true }, linkReqs := s.linkReqs.filter (·.port ≠ port) }

theorem portCleared_port (s : State) (port : Nat) : mapGet .reset (portCleared s port).ports port = { LinkPort.reset with up := true } := by
  simp only [portCleared, mapGet_mapPut_same]

theorem exec_linkReset (port : Nat) (s : State) :
    exec (.linkReset port) s = .next ((outstanding (supersede s) port).foldl loseOp (portCleared (supersede s) port)) := rfl

theorem loseOps_link (l : List Op) (s : State) : (l.foldl loseOp s).linkReqs = s.linkReqs ∧ (l.foldl loseOp s).ports = s.ports := by
  induction l generalizing s with
  | nil => exact ⟨rfl, rfl⟩
  | cons o l ih => exact ⟨(ih _).1.trans (loseOp_link s o).1, (ih _).2.trans (loseOp_link s o).2⟩

/-- A reset of a port leaves what waits for it with the data of a failed read. -/
theorem linkReset_spec (port : Nat) (s : State) :
    ∃ t, exec (.linkReset port) s = .next t ∧ mapGet .reset t.ports port = { LinkPort.reset with up := true } ∧
      t.linkReqs = s.linkReqs.filter (fun r => r.port ≠ port) ∧
      ∀ o ∈ s.ops, o.route = 1 → o.reply = none → Config.portOf (deviceOf o.key) % 16 = port → LostOver o t := by
  have hwindow := supersede_window s
  obtain ⟨hreqs, hports⟩ := loseOps_link (outstanding (supersede s) port) (portCleared (supersede s) port)
  refine ⟨_, exec_linkReset port s, ?_, ?_, fun o ho hroute hreply hport => ?_⟩
  · rw [hports]
    exact portCleared_port ..
  · rw [hreqs, ← hwindow.linkReqs]
    rfl
  · refine foldl_each loseOp lostOver_loseOp lostOver_kept _ _ o (List.mem_filter.mpr ⟨hwindow.ops ▸ ho, ?_⟩)
    simp [hroute, hreply, hport]

/-! ### The obligation -/

/-- Settles O56: a flit is read back slot by slot, a request runs under the rights of the device, and what a port's reset loses is followed
operation by operation. -/
theorem krytukLink : Obligations.KrytukLink := by
  unfold Obligations.KrytukLink
  refine ⟨fun port f s => ⟨fun hlen hzero hcrc hseq => ?_, fun h => ⟨_, exec_flit_refused s port f h, rfl⟩⟩,
    fun port hid own group tag addr q k hg ht ha hq => flitRequests_askSlots port hid own group tag addr q k hg ht ha hq,
    fun id r s h => ⟨release_answered h, fun n hk => ⟨read_refused h hk, ?_⟩, ?_, fun n v hk => ⟨?_, response_lost h hk⟩⟩,
    linkTraining_spec, fun port s => ?_⟩
  · exact flit_taken s port f ((flitOk_iff f).mpr ⟨hlen, hzero, hcrc⟩) hseq
  · exact fun tn u x bs howns hranged hline hcheck hroute hread => read_answered h hk howns hranged hline hcheck hroute hread
  · exact fun bs tn u x hk howns hvault hline hcheck hgood => write_answered h hk howns hvault hline hcheck hgood
  · exact fun o ho => response_taken h hk ho
  · obtain ⟨t, ht, hport, hreqs, hlost⟩ := linkReset_spec port s
    refine ⟨t, ht, hport, hreqs, fun o ho hroute hreply hp => ?_⟩
    obtain ⟨message, other⟩ := hlost o ho hroute hreply hp
    exact ⟨fun hm => message ((isMessage_iff o).mpr hm), fun hn => other (by
      rw [← Bool.not_eq_true, isMessage_iff]
      exact fun ⟨a, b, c, d, e⟩ => hn a b c d e)⟩

end Sys2Proof.Proofs
end

section
/-!
PROOFS. What an instruction answers when it waits, traps or completes, in the words of the statements (R8, R50, R74, R78, R231).
-/

namespace Sys2Proof.Proofs

open Sys2Proof Sys2Proof.Machine Sys2Proof.Claims

/-! ### Waiting and completing -/

theorem onlyMe_modMe (s : State) (f : Hart → Hart) : OnlyMe s (modMe s f) :=
  ⟨rfl, fun _ hk => getHart_modMe_ne s f hk, fun _ _ => rfl⟩

theorem waits_waitFor (s : State) (w : Wait) : ∃ t, waitFor s w = .next t ∧ Waits s t w :=
  ⟨_, rfl, onlyMe_modMe s _, me_modMe s _⟩

/-- A write to x[d] does not touch what is not of the register file. -/
theorem retireHart_writeX (h : Hart) (d : Reg) (v : Word) :
    retireHart 4 (writeX h d v) =
      { h with
        pc := h.pc + 4, unit := none, wait := none, met := none, walk := none, x := (writeX h d v).x, xpend := (writeX h d v).xpend
        poison := (writeX h d v).poison } := by
  unfold writeX
  split <;> rfl

theorem doneWith_modMe (s : State) (d : Reg) (v : Word) : DoneWith s (modMe s fun h => retireHart 4 (writeX h d v)) d v := by
  refine ⟨fun r => ?_, ?_⟩
  · rw [me_modMe, readX_retireHart, readX_writeX]
  · rw [me_modMe]
    exact retireHart_writeX (me s) d v

theorem writesX_modMe (s : State) (d : Reg) (v : Word) :
    WritesX s (modMe s fun h => retireHart 4 (writeX h d v)) d v ((me s).pc + 4) := by
  refine ⟨onlyMe_modMe s _, (doneWith_modMe s d v).1, ?_⟩
  rw [me_modMe]
  unfold writeX
  split <;> rfl

/-! ### Traps -/

/-- The parts of ESTAT at an entry to S mode (Table 13.8). -/
theorem estat_parts (live : BitVec 32) (detail : BitVec 16) (mode : BitVec 2) :
    (live ++ detail ++ 0#14 ++ mode).extractLsb' 32 32 = live ∧ (live ++ detail ++ 0#14 ++ mode).extractLsb' 16 16 = detail ∧
      (live ++ detail ++ 0#14 ++ mode).extractLsb' 2 14 = 0 ∧ (live ++ detail ++ 0#14 ++ mode).extractLsb' 0 2 = mode := by
  refine ⟨?_, ?_, ?_, ?_⟩
  · rw [extract_append_high _ mode 32 32 (by decide), extract_append_high _ 0#14 30 32 (by decide),
      extract_append_high live detail 16 32 (by decide), extract_whole]
  · rw [extract_append_high _ mode 16 16 (by decide), extract_append_high _ 0#14 14 16 (by decide),
      extract_append_low live detail 0 16 (by decide), extract_whole]
  · rw [extract_append_high _ mode 2 14 (by decide), extract_append_low _ 0#14 0 14 (by decide), extract_whole]
    rfl
  · rw [extract_append_low _ mode 0 2 (by decide), extract_whole]

theorem modeCode_eq (m : Mode) : modeCode m = if m = .U then 0 else 1 := by cases m <;> rfl

/-- A trap of a hart context enters S mode (R231). -/
theorem takesTrap_takeTrap {s : State} (x : Trap) (hh : isHandler s.cur = false) :
    TakesTrap s (takeTrap s s.cur x) x.cause x.eval x.detail := by
  obtain ⟨hme, hothers, hrest⟩ := takeTrap_hart s x hh
  have hcur : (takeTrap s s.cur x).cur = s.cur := by rw [hrest]
  have hme : me (takeTrap s s.cur x) = enterS (me s) (trapPc (me s)) x.cause x.eval x.detail .trap := by
    rw [me, hcur]
    exact hme
  obtain ⟨hlive, hdetail, hzero, hmode⟩ := estat_parts (me s).live x.detail (modeCode (me s).mode)
  exact
    { frame := ⟨hrest, hothers, fun _ _ => by rw [hrest]; rfl⟩
      epc := by rw [hme]; rfl
      ecause := by rw [hme]; rfl
      eval := by rw [hme]; rfl
      live := by rw [hme]; exact hlive
      detail := by rw [hme]; exact hdetail
      reserved := by rw [hme]; exact hzero
      pmode := by rw [hme]; exact hmode.trans (modeCode_eq _)
      mode := by rw [hme]; rfl
      pc := by rw [hme]; rfl
      hart := by rw [hme]; rfl }

theorem handler_key {h : Nat} (hh : isHandler h = true) : hartKey (coreOf h) 8 = h := by
  have : h % 16 = 8 := of_decide_eq_true hh
  unfold hartKey coreOf
  omega

/-- A trap in the handler context ends the handler (R50). -/
theorem endsHandler_takeTrap {s : State} (x : Trap) (hh : isHandler s.cur = true) : EndsHandler s (takeTrap s s.cur x) := by
  rw [takeTrap_handler s x hh]
  unfold EndsHandler endHandler freeHandler
  rw [handler_key hh]
  rfl

theorem traps_trapR (s : State) (x : Trap) : Traps s (trapR s x) x.cause x.eval x.detail :=
  ⟨fun hh => ⟨_, rfl, takesTrap_takeTrap x hh⟩, fun hh => ⟨_, rfl, endsHandler_takeTrap x hh⟩⟩

/-- An instruction that answers as ILLEGAL_INSTRUCTION does. -/
theorem illegal_of_eq {s : State} {i : Instr} (h : exec i s = illegal s i) : Illegal s i := by
  unfold Illegal
  rw [h]
  exact traps_trapR s (illegalTrap i)

end Sys2Proof.Proofs
end

section
/-!
PROOFS. Frames of the operations on harts, nodes and work queues: what the completion of a sub-tile, the end of a launch and the release of a
node leave alone (R40, R41, R44, R62, R64, R65).
-/

namespace Sys2Proof.Proofs

open Sys2Proof Sys2Proof.Machine Sys2Proof.Claims

/-! ### Folds and maps -/

/-- A reflexive and transitive relation that every step of a fold keeps holds from its start to its end. -/
theorem foldl_rel {α σ : Type} {R : σ → σ → Prop} (refl : ∀ s, R s s) (trans : ∀ {s t u}, R s t → R t u → R s u) (f : σ → α → σ)
    (hf : ∀ s a, R s (f s a)) (l : List α) (s : σ) : R s (l.foldl f s) := by
  induction l generalizing s with
  | nil => exact refl s
  | cons a l ih => exact trans (hf s a) (ih _)

theorem mem_of_mapGet_ne {β : Type} {d : β} {m : SMap β} {k : Nat} (h : mapGet d m k ≠ d) : (k, mapGet d m k) ∈ m := by
  induction m with
  | nil => exact absurd rfl h
  | cons e m ih =>
    obtain ⟨a, b⟩ := e
    by_cases ha : a = k
    · subst ha; simp [mapGet]
    · rw [mapGet, if_neg ha] at h ⊢
      exact List.mem_cons_of_mem _ (ih h)

theorem mapGet_mapDrop {β : Type} (d : β) (p : Nat → Bool) (m : SMap β) (k : Nat) :
    mapGet d (mapDrop p m) k = if p k then d else mapGet d m k := by
  induction m with
  | nil => simp [mapDrop]
  | cons e m ih =>
    obtain ⟨a, b⟩ := e
    by_cases ha : a = k
    · subst ha
      by_cases hp : p a = true
      · simpa [mapDrop, hp] using ih
      · simp [mapDrop, hp, mapGet]
    · by_cases hp : p a = true
      · simpa [mapDrop, hp, mapGet, ha] using ih
      · simp only [mapDrop, List.filter_cons, hp, Bool.not_false, if_true, mapGet, ha, if_false]
        exact ih

/-! ### Only harts -/

def OnlyHarts (s t : State) : Prop := t = { s with harts := t.harts }

theorem OnlyHarts.trans {s t u : State} (a : OnlyHarts s t) (b : OnlyHarts t u) : OnlyHarts s u := by
  unfold OnlyHarts at *
  rw [b, a]

theorem onlyHarts_foldl {α : Type} (f : State → α → State) (hf : ∀ s a, OnlyHarts s (f s a)) (l : List α) (s : State) :
    OnlyHarts s (l.foldl f s) := foldl_rel (R := OnlyHarts) (fun _ => rfl) OnlyHarts.trans f hf l s

/-! ### What the scheduling of work may touch -/

/-- Only what the dispatcher, the control cores, the end of a launch and the journals keep differs. -/
def OnlyWork (s t : State) : Prop :=
  t = { s with
    agenda := t.agenda, harts := t.harts, clusters := t.clusters, dies := t.dies, views := t.views, lineKeys := t.lineKeys
    launches := t.launches, saves := t.saves, tenants := t.tenants, ports := t.ports, channels := t.channels, charges := t.charges
    debts := t.debts, budgetAt := t.budgetAt, sentOut := t.sentOut }

theorem OnlyWork.refl (s : State) : OnlyWork s s := rfl

theorem OnlyWork.trans {s t u : State} (a : OnlyWork s t) (b : OnlyWork t u) : OnlyWork s u := by
  unfold OnlyWork at *
  rw [b, a]

theorem OnlyWork.foldl {α : Type} (f : State → α → State) (hf : ∀ s a, OnlyWork s (f s a)) (l : List α) (s : State) :
    OnlyWork s (l.foldl f s) := foldl_rel OnlyWork.refl OnlyWork.trans f hf l s

theorem OnlyHarts.work {s t : State} (h : OnlyHarts s t) : OnlyWork s t := by
  unfold OnlyHarts OnlyWork at *
  rw [h]

theorem OnlyWindow.work {s t : State} (h : OnlyWindow s t) : OnlyWork s t := by
  unfold OnlyWindow OnlyWork at *
  rw [h]

theorem OnlyTraffic.work {s t : State} (h : OnlyTraffic s t) : OnlyWork s t := by
  unfold OnlyTraffic OnlyWork at *
  rw [h]

theorem OnlyWork.cur {s t : State} (h : OnlyWork s t) : t.cur = s.cur := by rw [h]
theorem OnlyWork.cores {s t : State} (h : OnlyWork s t) : t.cores = s.cores := by rw [h]
theorem OnlyWork.getCore {s t : State} (h : OnlyWork s t) (g : Nat) : getCore t g = Machine.getCore s g := by rw [h]; rfl
theorem OnlyWork.counters {s t : State} (h : OnlyWork s t) : t.counters = s.counters := by rw [h]
theorem OnlyWork.firmware {s t : State} (h : OnlyWork s t) : t.firmware = s.firmware := by rw [h]
theorem OnlyWork.outer {s t : State} (h : OnlyWork s t) : t.outer = s.outer := by rw [h]

/-! ### Gatherings -/

/-- Only what gathers and rotates in its clusters differs, and what its members wait for. -/
structure Ungathers (s t : State) : Prop where
  rest : t = { s with harts := t.harts, clusters := t.clusters }
  clusters : ∀ c, getCluster t c = { getCluster s c with gatherings := (getCluster t c).gatherings, rings := (getCluster t c).rings }

theorem Ungathers.refl (s : State) : Ungathers s s := ⟨rfl, fun _ => rfl⟩

/-- A member leaves its GANG or CROT, at which it stands again (R82, R103). -/
def goBack (w : Option Wait) (s : State) (m : Nat) : State :=
  modHart s m fun v => { v with wait := w, pc := trapPc v, unit := none }

theorem cancelGatherings_eq (s : State) (h : Nat) (w : Option Wait) :
    ∃ (ms : List Nat) (gs : Cluster → List Gathering) (rs : Cluster → List (Nat × Word × Word)), cancelGatherings s h w =
      ms.foldl (goBack w) (modCluster s (clusOf (coreOf h)) fun c => { c with gatherings := gs c, rings := rs c }) :=
  ⟨_ ++ _, _, _, (List.foldl_append ..).symm⟩

theorem ungathers_cancelGatherings (s : State) (h : Nat) (w : Option Wait) : Ungathers s (cancelGatherings s h w) := by
  obtain ⟨ms, gs, rs, e⟩ := cancelGatherings_eq s h w
  have back := onlyHarts_foldl (goBack w) (fun _ _ => rfl) ms
    (modCluster s (clusOf (coreOf h)) fun c => { c with gatherings := gs c, rings := rs c })
  rw [← e] at back
  have clusters : ∀ c, getCluster (cancelGatherings s h w) c = getCluster (modCluster s (clusOf (coreOf h)) fun c =>
      { c with gatherings := gs c, rings := rs c }) c := fun c => by rw [back]; rfl
  refine ⟨by rw [back]; rfl, fun c => ?_⟩
  rw [clusters]
  by_cases hc : c = clusOf (coreOf h)
  · rw [hc, getCluster_modCluster_same]
  · rw [getCluster_modCluster_ne _ _ hc]

/-- Where nobody gathers or rotates in its cluster, no hart is taken out of anything. -/
theorem cancelGatherings_idle {s : State} {h : Nat} (w : Option Wait) (hg : (getCluster s (clusOf (coreOf h))).gatherings = [])
    (hr : (getCluster s (clusOf (coreOf h))).rings = []) :
    cancelGatherings s h w = { s with clusters := (cancelGatherings s h w).clusters } := by
  unfold cancelGatherings ringMembers
  simp only [hg, hr, List.filter_nil, List.foldl_nil, List.map_nil, List.flatMap_nil, ite_self]
  rfl

/-! ### Launches and nodes changed -/

theorem modLaunch_frame (s : State) (l : Nat) (f : Launch → Launch) : modLaunch s l f = { s with launches := (modLaunch s l f).launches } := by
  unfold modLaunch
  split <;> rfl

theorem getLaunch_modLaunch_same (s : State) (l : Nat) (f : Launch → Launch) : getLaunch (modLaunch s l f) l = (getLaunch s l).map f := by
  unfold modLaunch
  cases h : getLaunch s l with
  | none => simpa using h
  | some v => exact mapGet_mapPut_same none s.launches l (some (f v))

theorem getLaunch_modLaunch_ne (s : State) {l k : Nat} (f : Launch → Launch) (hk : k ≠ l) :
    getLaunch (modLaunch s l f) k = getLaunch s k := by
  unfold modLaunch
  split
  · rfl
  · next v _ => exact mapGet_mapPut_ne none s.launches (some (f v)) hk

theorem modNode_frame (s : State) (l id : Nat) (f : Node → Node) :
    modNode s l id f = { s with launches := (modNode s l id f).launches } := modLaunch_frame ..

/-- The launch that holds a node, with the node changed. -/
def withNode (v : Launch) (id : Nat) (n : Node) : Launch := { v with nodes := mapPut none v.nodes id (some n) }

@[simp] theorem getNode_withNode_same (v : Launch) (id : Nat) (n : Node) : getNode (withNode v id n) id = some n :=
  mapGet_mapPut_same none v.nodes id (some n)

theorem getNode_withNode_ne (v : Launch) {id k : Nat} (n : Node) (hk : k ≠ id) : getNode (withNode v id n) k = getNode v k :=
  mapGet_mapPut_ne none v.nodes (some n) hk

theorem getLaunch_modNode_same {s : State} {l id : Nat} {v : Launch} {n : Node} (f : Node → Node) (hl : getLaunch s l = some v)
    (hn : getNode v id = some n) : getLaunch (modNode s l id f) l = some (withNode v id (f n)) := by
  rw [modNode, getLaunch_modLaunch_same, hl, Option.map_some, hn]
  rfl

theorem nodeAt_of {s : State} {l id : Nat} {v : Launch} {n : Node} (hl : getLaunch s l = some v) (hn : getNode v id = some n) :
    nodeAt s l id = some n := by
  rw [nodeAt, hl]
  exact hn

theorem nodeAt_congr {s t : State} (h : t.launches = s.launches) (l id : Nat) : nodeAt t l id = nodeAt s l id := by
  unfold nodeAt getLaunch
  rw [h]

/-! ### Records in the event queues -/

/-- The event queues of the clusters, and what waits for room in them, are as they were (R65). -/
def KeepsRecords (s t : State) : Prop :=
  ∀ c, (getCluster t c).eventQ = (getCluster s c).eventQ ∧ (getCluster t c).posters = (getCluster s c).posters

theorem KeepsRecords.refl (s : State) : KeepsRecords s s := fun _ => ⟨rfl, rfl⟩

theorem KeepsRecords.trans {s t u : State} (a : KeepsRecords s t) (b : KeepsRecords t u) : KeepsRecords s u := fun c =>
  ⟨(b c).1.trans (a c).1, (b c).2.trans (a c).2⟩

theorem keepsRecords_of_clusters {s t : State} (h : t.clusters = s.clusters) : KeepsRecords s t := fun c => by
  unfold getCluster
  rw [h]
  exact ⟨rfl, rfl⟩

theorem keepsRecords_modCluster (s : State) (c : Nat) (f : Cluster → Cluster)
    (hf : (f (getCluster s c)).eventQ = (getCluster s c).eventQ ∧ (f (getCluster s c)).posters = (getCluster s c).posters) :
    KeepsRecords s (modCluster s c f) := fun k => by
  by_cases hk : k = c
  · rw [hk, getCluster_modCluster_same]
    exact hf
  · rw [getCluster_modCluster_ne s f hk]
    exact ⟨rfl, rfl⟩

theorem keepsRecords_noteEmpty (s : State) (c : Nat) : KeepsRecords s (noteEmpty s c) := by
  rcases noteEmpty_cases s c with ⟨-, h⟩ | ⟨-, h⟩ <;> rw [h]
  · exact keepsRecords_modCluster s c (fun v => { v with emptySince := s.time }) ⟨rfl, rfl⟩
  · exact .refl s

/-! ### Work queues -/

/-- Only the clusters and the agenda differ. -/
def OnlyClusters (s t : State) : Prop := t = { s with clusters := t.clusters, agenda := t.agenda }

theorem OnlyClusters.refl (s : State) : OnlyClusters s s := rfl

theorem OnlyClusters.trans {s t u : State} (a : OnlyClusters s t) (b : OnlyClusters t u) : OnlyClusters s u := by
  unfold OnlyClusters at *
  rw [b, a]

theorem OnlyClusters.work {s t : State} (h : OnlyClusters s t) : OnlyWork s t := by
  unfold OnlyClusters OnlyWork at *
  rw [h]

theorem settleWork_spec (s : State) (c : Nat) : OnlyClusters s (settleWork s c) ∧ KeepsRecords s (settleWork s c) := by
  unfold settleWork
  simp only
  generalize List.map _ _ = q
  have put : KeepsRecords s (modCluster s c fun x => { x with workQ := q }) :=
    keepsRecords_modCluster s c (fun x => { x with workQ := q }) ⟨rfl, rfl⟩
  split
  · exact ⟨by rw [OnlyClusters, noteEmpty_frame]; rfl, put.trans (keepsRecords_noteEmpty _ c)⟩
  · exact ⟨rfl, put⟩

theorem settleNode_spec (s : State) (l id : Nat) : OnlyClusters s (settleNode s l id) ∧ KeepsRecords s (settleNode s l id) := by
  unfold settleNode
  split
  · exact ⟨foldl_rel OnlyClusters.refl OnlyClusters.trans settleWork (fun s c => (settleWork_spec s c).1) _ s,
      foldl_rel KeepsRecords.refl KeepsRecords.trans settleWork (fun s c => (settleWork_spec s c).2) _ s⟩
  · exact ⟨.refl s, .refl s⟩

end Sys2Proof.Proofs
end

section
/-!
PROOFS. TFETCH and TDONE (R43, R44, R57, R76, R401, R402).
-/

namespace Sys2Proof.Proofs

open Sys2Proof Sys2Proof.Machine Sys2Proof.Claims

/-! ### The completion of a sub-tile -/

/-- The hart holds no sub-tile any more. -/
def untile (s : State) (h : Nat) : State := modHart s h fun v => { v with tile := none }

/-- One more sub-tile of a node is complete, and what the hart has written goes before its completion (R44). -/
def tileFinished (s : State) (h : Nat) (n : Node) : Node :=
  { n with finished := n.finished + 1, stamp := n.stamp.join (stampOf s (dieOfHart h)) }

/-- The completion record of a node (Table 5.4). -/
def completionOf (h : Nat) (l : Launch) (id : Nat) (n : Node) : EventRec :=
  ⟨1, 0, l.tenant, 0, BitVec.ofNat 8 (coreOf h % 16 + ctxOf h % 8 * 16), BitVec.ofNat 32 l.seq.toNat ++ BitVec.ofNat 32 id, l.id, id, n.stamp⟩

section Completion

variable {s : State} {h k : Nat} {l : Launch} {n : Node}

/-- Completion of a sub-tile that is not the node's last. -/
theorem completeTile_more (ht : (getHart s h).tile = some k) (hl : getLaunch s (getHart s h).launch = some l)
    (hn : getNode l (getHart s h).sr.node.toNat = some n) (more : n.finished + 1 ≠ n.total) :
    completeTile s h = modNode (untile s h) (getHart s h).launch (getHart s h).sr.node.toNat (tileFinished s h) := by
  have found := getLaunch_modNode_same (s := untile s h) (tileFinished s h) hl hn
  have total : (tileFinished s h n).total = n.total := rfl
  unfold completeTile
  simp only [ht]
  change (match getLaunch (modNode (untile s h) _ _ (tileFinished s h)) _ with | none => _ | some l => _) = _
  rw [found]
  simp only [getNode_withNode_same, total]
  rw [if_neg]
  · rfl
  · simp only [Bool.and_eq_true, decide_eq_true_eq]
    exact fun hf => more hf.1

/-- Completion of the last sub-tile of a node posts the node's record. -/
theorem completeTile_last (ht : (getHart s h).tile = some k) (hl : getLaunch s (getHart s h).launch = some l)
    (hn : getNode l (getHart s h).sr.node.toNat = some n) (last : n.finished + 1 = n.total) (open' : n.phase ≠ .complete) :
    completeTile s h =
      postRecord
        (modNode (modNode (untile s h) (getHart s h).launch (getHart s h).sr.node.toNat (tileFinished s h)) (getHart s h).launch
          (getHart s h).sr.node.toNat fun n => { n with phase := .complete })
        (clusOf (coreOf h)) (completionOf h l (getHart s h).sr.node.toNat (tileFinished s h n)) := by
  have found := getLaunch_modNode_same (s := untile s h) (tileFinished s h) hl hn
  have total : (tileFinished s h n).total = n.total := rfl
  unfold completeTile
  simp only [ht]
  change (match getLaunch (modNode (untile s h) _ _ (tileFinished s h)) _ with | none => _ | some l => _) = _
  rw [found]
  simp only [getNode_withNode_same, total]
  rw [if_pos]
  · rfl
  · simp only [Bool.and_eq_true, decide_eq_true_eq]
    exact ⟨last, open'⟩

end Completion

end Sys2Proof.Proofs
end

section
/-!
PROOFS. TFETCH and TDONE as an instruction answers them (R43, R44, R57, R76, R401, R402).
-/

namespace Sys2Proof.Proofs

open Sys2Proof Sys2Proof.Machine Sys2Proof.Claims

/-! ### What the completion of a sub-tile leaves alone -/

/-- Only launches, clusters, dies and the agenda differ. -/
def OnlyNodes (s t : State) : Prop :=
  t = { s with launches := t.launches, clusters := t.clusters, dies := t.dies, agenda := t.agenda }

theorem OnlyNodes.trans {s t u : State} (a : OnlyNodes s t) (b : OnlyNodes t u) : OnlyNodes s u := by
  unfold OnlyNodes at *
  rw [b, a]

theorem OnlyNodes.me {s t : State} (h : OnlyNodes s t) : Machine.me t = Machine.me s := by rw [h]; rfl

theorem OnlyClusters.nodes {s t : State} (h : OnlyClusters s t) : OnlyNodes s t := by
  unfold OnlyClusters OnlyNodes at *
  rw [h]

theorem onlyNodes_modNode (s : State) (l id : Nat) (f : Node → Node) : OnlyNodes s (modNode s l id f) := by
  unfold OnlyNodes
  rw [modNode_frame]

theorem onlyNodes_postRecord (s : State) (c : Nat) (r : EventRec) : OnlyNodes s (postRecord s c r) := by
  unfold postRecord
  simp only
  split <;> rfl

theorem onlyNodes_completeTile {s : State} {h k : Nat} (ht : (getHart s h).tile = some k) : OnlyNodes (untile s h) (completeTile s h) := by
  have finished := onlyNodes_modNode (untile s h) (getHart s h).launch (getHart s h).sr.node.toNat (tileFinished s h)
  unfold completeTile
  simp only [ht]
  change OnlyNodes (untile s h) (match getLaunch (modNode (untile s h) _ _ (tileFinished s h)) _ with | none => _ | some l => _)
  split
  · exact finished
  · split
    · exact finished
    · split
      · exact (finished.trans (onlyNodes_modNode ..)).trans (onlyNodes_postRecord ..)
      · exact finished

/-- The node leaves the pools of the dies. -/
def leavePools (s : State) (l id : Nat) : State :=
  { s with dies := mapVals .reset (fun _ d => { d with pool := d.pool.filter fun e => !(e.launch = l && e.node = id) }) s.dies }

theorem tileDone_eq (s : State) (h : Nat) :
    tileDone s h =
      if nodeComplete (completeTile s h) (getHart s h).launch (getHart s h).sr.node.toNat then
        settleNode (leavePools (completeTile s h) (getHart s h).launch (getHart s h).sr.node.toNat) (getHart s h).launch
          (getHart s h).sr.node.toNat
      else completeTile s h := rfl

theorem onlyNodes_tileDone {s : State} {h k : Nat} (ht : (getHart s h).tile = some k) : OnlyNodes (untile s h) (tileDone s h) := by
  have complete := onlyNodes_completeTile ht
  rw [tileDone_eq]
  split
  · exact (complete.trans (by rfl)).trans (settleNode_spec ..).1.nodes
  · exact complete

theorem me_tileDone {s : State} {k : Nat} (ht : (me s).tile = some k) : me (tileDone s s.cur) = { me s with tile := none } := by
  have only := onlyNodes_tileDone ht
  rw [me, show (tileDone s s.cur).cur = s.cur from by rw [only]; rfl]
  calc getHart (tileDone s s.cur) s.cur = getHart (untile s s.cur) s.cur := by rw [only]; rfl
    _ = _ := getHart_modHart_same ..

theorem postRecord_launches (s : State) (c : Nat) (r : EventRec) : (postRecord s c r).launches = s.launches := by
  unfold postRecord
  simp only
  split <;> rfl

theorem postRecord_eventQ {s : State} {c : Nat} (r : EventRec) (room : (getCluster s c).eventQ.length < 64) :
    (getCluster (postRecord s c r) c).eventQ = (getCluster s c).eventQ ++ [r] := by
  rw [postRecord]
  simp only [room, if_true, getCluster_post, getCluster_modCluster_same]

/-! ### TDONE -/

/-- With no sub-tile held there is nothing to complete. -/
theorem withTileDone_none {s : State} (ht : (me s).tile = none) (k : State → Result) : withTileDone s k = k s := by
  unfold withTileDone
  rw [ht]
  rfl

theorem withTileDone_ready {s : State} {n : Nat} (ht : (me s).tile = some n) (hr : releaseReady s s.cur (tileScope s (me s)) = true)
    (k : State → Result) : withTileDone s k = k (tileDone s s.cur) := by
  simp [withTileDone, ht, afterRelease, hr]

theorem withTileDone_early {s : State} {n : Nat} (ht : (me s).tile = some n) (hr : releaseReady s s.cur (tileScope s (me s)) = false)
    (k : State → Result) : withTileDone s k = waitFor s (.order (tileScope s (me s))) := by
  simp [withTileDone, ht, afterRelease, hr]

theorem nodeComplete_of {s : State} {l id : Nat} {n : Node} (h : nodeAt s l id = some n) :
    nodeComplete s l id = decide (n.phase = .complete) := by
  rw [nodeComplete, h]

section Completion

variable {s : State} {k : Nat} {l : Launch} {n : Node}

/-- A sub-tile that is not the node's last: the node goes on. -/
theorem tileDone_more (ht : (me s).tile = some k) (hl : getLaunch s (me s).launch = some l) (hn : getNode l (me s).sr.node.toNat = some n)
    (more : n.finished + 1 ≠ n.total) (open' : n.phase ≠ .complete) :
    tileDone s s.cur = modNode (untile s s.cur) (me s).launch (me s).sr.node.toNat (tileFinished s s.cur) ∧
      nodeAt (tileDone s s.cur) (me s).launch (me s).sr.node.toNat = some (tileFinished s s.cur n) := by
  have complete := completeTile_more ht hl hn more
  have found : nodeAt (completeTile s s.cur) (me s).launch (me s).sr.node.toNat = some (tileFinished s s.cur n) := by
    rw [complete]
    exact nodeAt_of (getLaunch_modNode_same (s := untile s s.cur) (tileFinished s s.cur) hl hn) (getNode_withNode_same ..)
  have goesOn : tileDone s s.cur = completeTile s s.cur := by
    rw [tileDone_eq, show getHart s s.cur = me s from rfl, nodeComplete_of found]
    simp [tileFinished, open']
  rw [goesOn]
  exact ⟨complete, found⟩

/-- The last sub-tile of a node: the node completes, and its record stands in the event queue where that has room. -/
theorem tileDone_last (ht : (me s).tile = some k) (hl : getLaunch s (me s).launch = some l) (hn : getNode l (me s).sr.node.toNat = some n)
    (last : n.finished + 1 = n.total) (open' : n.phase ≠ .complete) :
    nodeAt (tileDone s s.cur) (me s).launch (me s).sr.node.toNat = some { tileFinished s s.cur n with phase := .complete } ∧
      ((getCluster s (clusOf (coreOf s.cur))).eventQ.length < 64 →
        (getCluster (tileDone s s.cur) (clusOf (coreOf s.cur))).eventQ =
          (getCluster s (clusOf (coreOf s.cur))).eventQ ++
            [completionOf s.cur l (me s).sr.node.toNat (tileFinished s s.cur n)]) := by
  have complete := completeTile_last ht hl hn last open'
  generalize hu : modNode (modNode (untile s s.cur) (getHart s s.cur).launch (getHart s s.cur).sr.node.toNat (tileFinished s s.cur))
    (getHart s s.cur).launch (getHart s s.cur).sr.node.toNat (fun n => { n with phase := .complete }) = u at complete
  have first := getLaunch_modNode_same (s := untile s s.cur) (tileFinished s s.cur) hl hn
  have found : nodeAt u (me s).launch (me s).sr.node.toNat = some { tileFinished s s.cur n with phase := .complete } := by
    rw [← hu]
    exact nodeAt_of (getLaunch_modNode_same (fun n => { n with phase := .complete }) first (getNode_withNode_same ..)) (getNode_withNode_same ..)
  have clusters : ∀ c, getCluster u c = getCluster s c := fun c => by
    rw [← hu, modNode_frame, modNode_frame (untile s s.cur)]
    rfl
  have posted : nodeAt (completeTile s s.cur) (me s).launch (me s).sr.node.toNat = some { tileFinished s s.cur n with phase := .complete } := by
    rw [complete, nodeAt_congr (postRecord_launches ..), found]
  have leaves : tileDone s s.cur =
      settleNode (leavePools (completeTile s s.cur) (me s).launch (me s).sr.node.toNat) (me s).launch (me s).sr.node.toNat := by
    rw [tileDone_eq, show getHart s s.cur = me s from rfl, nodeComplete_of posted]
    rfl
  obtain ⟨only, keeps⟩ := settleNode_spec (leavePools (completeTile s s.cur) (me s).launch (me s).sr.node.toNat) (me s).launch
    (me s).sr.node.toNat
  rw [← leaves] at only keeps
  refine ⟨?_, fun room => ?_⟩
  · rw [nodeAt_congr (by rw [only]; rfl : (tileDone s s.cur).launches = (completeTile s s.cur).launches), posted]
  · rw [(keeps _).1, ← clusters]
    rw [← clusters] at room
    exact (congrArg (fun t => (getCluster t (clusOf (coreOf s.cur))).eventQ) complete).trans (postRecord_eventQ _ room)

end Completion

theorem tileDone_holds : TileDone := by
  refine ⟨fun s ht => ?_, fun s k ht early => ?_, fun s l n tile on ht open' ready => ?_⟩
  · obtain ⟨t, e, hme, hothers, hrest⟩ := done4_spec s
    refine ⟨t, (withTileDone_none ht done4).trans e, ?_, hrest, hothers⟩
    rw [Done, hme]
    rfl
  · obtain ⟨t, e, w⟩ := waits_waitFor s (.order (tileScope s (me s)))
    exact ⟨t, (withTileDone_early ht early done4).trans e, w⟩
  · obtain ⟨-, hl, hid, hn⟩ := on
    have only := onlyNodes_tileDone (h := s.cur) ht
    have mine := me_tileDone ht
    have answers : exec .tdone s = .next (retire (tileDone s s.cur) 4) := withTileDone_ready ht ready done4
    have views : (tileDone s s.cur).views = s.views := by rw [only]; rfl
    have outer : (tileDone s s.cur).outer = s.outer := by rw [only]; rfl
    have me' : me (retire (tileDone s s.cur) 4) = retireHart 4 { me s with tile := none } := by rw [me_retire, mine]
    by_cases last : n.finished + 1 = n.total
    · obtain ⟨found, record⟩ := tileDone_last ht hl hn last open'
      refine ⟨_, _, answers, found, rfl, by rw [me']; rfl, by rw [me']; rfl, fun r => by rw [me']; rfl, views, outer,
        fun more => absurd last more, fun _ => ⟨rfl, fun room => ⟨_, record room, rfl, rfl, rfl, ?_, rfl⟩⟩⟩
      rfl
    · obtain ⟨same, found⟩ := tileDone_more ht hl hn last open'
      refine ⟨_, _, answers, found, rfl, by rw [me']; rfl, by rw [me']; rfl, fun r => by rw [me']; rfl, views, outer,
        fun _ => ⟨rfl, ?_⟩, fun last' => absurd last' last⟩
      rw [getCluster_retire, same, modNode_frame]
      rfl

end Sys2Proof.Proofs
end

section
/-!
PROOFS. TFETCH: the stop in an ended slice, the wait for stopped harts, and the next sub-tile (R43, R57, R76, R402).
-/

namespace Sys2Proof.Proofs

open Sys2Proof Sys2Proof.Machine Sys2Proof.Claims

/-! ### A stop where nobody gathers -/

/-- Only what no hart and no byte of memory sees differs. -/
def OnlyWaits (s t : State) : Prop := t = { s with clusters := t.clusters, cores := t.cores, barriers := t.barriers, dies := t.dies }

/-- Where there is no barrier, none completes. -/
theorem settleBarriers_none {s : State} (hb : s.barriers = []) : settleBarriers s = s := by
  unfold settleBarriers
  rw [hb]
  exact congrArg (fun b => { s with barriers := b }) hb.symm

/-- A hart leaves everything that it waits in; no barrier, gathering or rotation of its cluster is there to change. -/
theorem leaves_idle {s : State} {h : Nat} (w : Option Wait) (idle : NobodyGathers s (clusOf (coreOf h))) :
    OnlyWaits s (leaveWaits (cancelGatherings s h w) h) ∧ (leaveWaits (cancelGatherings s h w) h).barriers = [] := by
  obtain ⟨hb, hg, hr⟩ := idle
  have cancelled := cancelGatherings_idle w hg hr
  refine ⟨?_, ?_⟩
  · unfold OnlyWaits
    rw [cancelled]
    rfl
  · change (cancelGatherings s h w).barriers.map _ = []
    rw [cancelled, hb]
    rfl

/-- A wait stop (R78). -/
theorem stops_waitStop {s : State} (idle : NobodyGathers s (clusOf (coreOf s.cur))) : Stops s (waitStop s s.cur) 1 0 (unitPc (me s)) := by
  obtain ⟨only, none⟩ := leaves_idle (h := s.cur) (some .gangStop) idle
  have e : waitStop s s.cur = modHart (leaveWaits (cancelGatherings s s.cur (some .gangStop)) s.cur) s.cur fun v =>
      enterS v (trapPc (me s)) 0x84 (BitVec.ofNat 64 (1 * 2 ^ 62 + 0)) 0 (.stop 1) := by
    unfold waitStop stopHart
    simp only
    rw [settleBarriers_none none]
    rfl
  generalize leaveWaits (cancelGatherings s s.cur (some .gangStop)) s.cur = u at e only
  have harts : ∀ k, getHart u k = getHart s k := fun k => by rw [only]; rfl
  have mine : me (waitStop s s.cur) = enterS (me s) (trapPc (me s)) 0x84 (BitVec.ofNat 64 (1 * 2 ^ 62 + 0)) 0 (.stop 1) := by
    rw [e, me, show (modHart u s.cur _).cur = s.cur from by rw [only]; rfl, getHart_modHart_same, harts]
    rfl
  obtain ⟨-, -, -, hmode⟩ := estat_parts (me s).live 0 (modeCode (me s).mode)
  exact
    { hart := by rw [mine]; rfl
      pmode := by rw [mine]; exact hmode.trans (modeCode_eq _)
      others := fun k hk => by rw [e, getHart_modHart_ne _ _ hk, harts]
      memory := fun die key => by rw [e, only]; rfl }

/-! ### TFETCH of a hart that holds no sub-tile -/

theorem busy_iff (s : State) : Busy s ↔ busyHart s s.cur = true := by
  unfold Busy busyHart
  simp

/-- What TFETCH does once no sub-tile is held. -/
theorem execTfetch_none {s : State} (d : Reg) (hh : isHandler s.cur = false) (ht : (me s).tile = none) :
    exec (.tfetch d) s =
      if decide ((me s).preempt ≠ .none) && decide ((me s).mode = .U) then
        (if busyHart s s.cur then waitFor s .drain else .next (waitStop s s.cur))
      else if heldBack s s.cur then waitFor s .cursor
      else handTile s d := by
  change execTfetch d s = _
  unfold execTfetch
  rw [if_neg (by rw [hh]; decide)]
  exact withTileDone_none ht _

theorem execTfetch_goesOn {s : State} (d : Reg) (hh : isHandler s.cur = false) (ht : (me s).tile = none)
    (hp : (me s).preempt = .none ∨ (me s).mode ≠ .U) :
    exec (.tfetch d) s = if heldBack s s.cur then waitFor s .cursor else handTile s d := by
  rw [execTfetch_none d hh ht, if_neg]
  simp only [Bool.and_eq_true, decide_eq_true_eq, not_and]
  exact fun hn hu => hp.elim hn fun h => h hu

theorem heldBack_of {s : State} {l : Launch} {n : Node} (hl : getLaunch s (me s).launch = some l)
    (hn : getNode l (me s).sr.node.toNat = some n) :
    heldBack s s.cur = true ↔
      tileStopped s s.cur (me s).launch (me s).sr.node.toNat = true ∧ ((me s).resumed = true ∨ n.cursor < n.total) := by
  change (tileStopped s s.cur (me s).launch (me s).sr.node.toNat && ((me s).resumed || tilesLeft s (me s).launch (me s).sr.node.toNat)) = true ↔ _
  rw [show tilesLeft s (me s).launch (me s).sr.node.toNat = decide (n.cursor < n.total) by simp [tilesLeft, hl, hn]]
  simp

/-- The node whose next sub-tile is handed out. -/
def advance (m : Node) : Node := { m with cursor := m.cursor + 1 }

section Hand

variable {s : State} {l : Launch} {n : Node}

theorem handTile_none (d : Reg) (hn : nodeAt s (me s).launch (me s).sr.node.toNat = some n) (none : n.total ≤ n.cursor) :
    handTile s d = .next (modMe (modNode s (me s).launch (me s).sr.node.toNat advance) (fetchNone d)) := by
  unfold handTile
  simp only [hn, none, if_true]
  rfl

theorem handTile_some (d : Reg) (hn : nodeAt s (me s).launch (me s).sr.node.toNat = some n) (left : n.cursor < n.total) :
    handTile s d =
      .next (if n.cursor + 1 = n.total then
          dispatchComplete (modMe (modNode s (me s).launch (me s).sr.node.toNat advance) (fetchTile n n.cursor d)) (me s).launch
            (me s).sr.node.toNat (dieOfHart s.cur)
        else modMe (modNode s (me s).launch (me s).sr.node.toNat advance) (fetchTile n n.cursor d)) := by
  have cur : (modNode s (me s).launch (me s).sr.node.toNat advance).cur = s.cur := by rw [modNode_frame]
  unfold handTile
  simp only [hn, if_neg (Nat.not_le.2 left)]
  change Host.Outcome.next (if _ then dispatchComplete (modMe (modNode _ _ _ advance) _) _ _ (dieOfHart (modNode _ _ _ advance).cur) else _) = _
  rw [cur]
  rfl

end Hand

/-- A node without successors has none to make due. -/
theorem dispatchComplete_alone {s : State} {l id : Nat} (die : Nat) {v : Launch} {n : Node} (hl : getLaunch s l = some v)
    (hn : getNode v id = some n) (alone : n.nsucc = 0) : dispatchComplete s l id die = s := by
  have pieces0 : ∀ p : Word, pieces p 0 = [] := fun _ => rfl
  have successors : nodeSuccessors s v n die = [] := by
    unfold nodeSuccessors
    rw [alone]
    split <;> rfl
  unfold dispatchComplete
  simp only [hl, hn, successors, List.foldl_nil]
  unfold chargeSuccessors chargeAgent
  rw [alone, Nat.zero_mul, pieces0]
  rfl

/-! ### The registers that TFETCH writes -/

theorem readX_pair {h : Hart} {d : Reg} (x y : Word) (hd : d ≠ 0) (hd' : d ≠ 31) :
    readX (writeX (writeX h d x) (nextReg d) y) d = x ∧ readX (writeX (writeX h d x) (nextReg d) y) (d + 1) = y ∧
      ∀ r, r ≠ d → r ≠ d + 1 → readX (writeX (writeX h d x) (nextReg d) y) r = readX h r := by
  have next0 : nextReg d ≠ 0 := by unfold nextReg; bv_omega
  have nextd : d ≠ nextReg d := by unfold nextReg; bv_omega
  refine ⟨?_, readX_writeX_same _ _ next0, fun r hr hr' => ?_⟩
  · rw [readX_writeX_ne _ _ nextd, readX_writeX_same _ _ hd]
  · rw [readX_writeX_ne _ _ (show r ≠ nextReg d from hr'), readX_writeX_ne _ _ hr]

theorem tileFetch_holds : TileFetch := by
  refine ⟨fun d s hh => illegal_of_eq ?_, fun d s k hh ht => ⟨fun ready => ?_, fun early => ?_⟩, fun d s hh ht hp hu => ⟨fun busy => ?_, fun idle nobody => ?_⟩,
    fun d s l n hd on ht hp => ?_⟩
  · change execTfetch d s = _
    rw [execTfetch, if_pos hh]
  · have mine := me_tileDone ht
    have cur : (tileDone s s.cur).cur = s.cur := by rw [onlyNodes_tileDone ht]; rfl
    rw [execTfetch_none (s := tileDone s s.cur) d (by rw [cur]; exact hh) (by rw [mine])]
    change execTfetch d s = _
    rw [execTfetch, if_neg (by rw [hh]; decide), withTileDone_ready ht ready]
  · obtain ⟨t, e, w⟩ := waits_waitFor s (.order (tileScope s (me s)))
    refine ⟨t, Eq.trans ?_ e, w⟩
    change execTfetch d s = _
    rw [execTfetch, if_neg (by rw [hh]; decide), withTileDone_early ht early]
  · obtain ⟨t, e, w⟩ := waits_waitFor s .drain
    refine ⟨t, Eq.trans ?_ e, w⟩
    rw [execTfetch_none d hh ht, if_pos (by simp [hp, hu]), if_pos ((busy_iff s).1 busy)]
  · refine ⟨_, ?_, stops_waitStop nobody⟩
    rw [execTfetch_none d hh ht, if_pos (by simp [hp, hu]), if_neg (fun b => idle ((busy_iff s).2 b))]
  · obtain ⟨hh, hl, hid, hn⟩ := on
    have found := nodeAt_of hl hn
    have held := heldBack_of hl hn
    have start := execTfetch_goesOn d hh ht hp
    obtain ⟨hd0, hd31⟩ : d ≠ 0 ∧ d ≠ 31 := by simpa [wellFormed] using hd
    refine ⟨fun h => ?_, fun h none => ?_, fun h left last htw hth => ?_⟩
    · obtain ⟨t, e, w⟩ := waits_waitFor s .cursor
      exact ⟨t, by rw [start, if_pos (held.2 h), e], w⟩
    · obtain ⟨rd, rn, rest⟩ := readX_pair (h := me s) (BitVec.allOnes 64) 0 hd0 hd31
      have mine : me (modMe (modNode s (me s).launch (me s).sr.node.toNat advance) (fetchNone d)) = fetchNone d (me s) := by
        rw [me_modMe, (onlyNodes_modNode ..).me]
      refine ⟨_, by rw [start, if_neg (fun b => h (held.1 b)), handTile_none d found none], ?_⟩
      rw [mine]
      exact ⟨rd, rn, rfl, (writeX_tile ..).trans ((writeX_tile ..).trans ht), by
        change (writeX (writeX (me s) d _) (nextReg d) 0).pc + 4 = _; rw [writeX_pc, writeX_pc], rest⟩
    · obtain ⟨rd, rn, rest⟩ := readX_pair (h := me s) (BitVec.ofNat 64 (n.cursor / n.tilesX % n.tilesY * n.th * 2 ^ 32 + n.cursor % n.tilesX * n.tw))
        (BitVec.ofNat 64 (min n.th (n.sy - n.cursor / n.tilesX % n.tilesY * n.th) * 2 ^ 32 + min n.tw (n.sx - n.cursor % n.tilesX * n.tw))) hd0 hd31
      generalize ht' : modMe (modNode s (me s).launch (me s).sr.node.toNat advance) (fetchTile n n.cursor d) = t
      have mine : me t = fetchTile n n.cursor d (me s) := by
        rw [← ht', me_modMe, (onlyNodes_modNode ..).me]
      have launch := getLaunch_modNode_same advance hl hn
      have launch' : getLaunch t (me s).launch = some (withNode l (me s).sr.node.toNat (advance n)) := by rw [← ht']; exact launch
      have answers : exec (.tfetch d) s = .next t := by
        rw [start, if_neg (fun b => h (held.1 b)), handTile_some d found left, ht']
        split
        · next h' =>
          exact congrArg _ (dispatchComplete_alone _ launch' (getNode_withNode_same ..)
            (last.resolve_left (fun lt => absurd h' (Nat.ne_of_lt lt))))
        · rfl
      refine ⟨t, answers, ?_⟩
      rw [mine]
      refine ⟨rd, rn, rfl, rfl, ?_, rest, nodeAt_of launch' (getNode_withNode_same ..), ?_⟩
      · change (writeX (writeX (me s) d _) (nextReg d) _).pc + 4 = _
        rw [writeX_pc, writeX_pc]
      · rw [← ht', modNode_frame]
        rfl

end Sys2Proof.Proofs
end

section
/-!
PROOFS. HALT and HALT retain (R13, R46, R355).
-/

namespace Sys2Proof.Proofs

open Sys2Proof Sys2Proof.Machine Sys2Proof.Claims

/-! ### Maps changed value by value -/

theorem mapGet_of_rising {β : Type} (d : β) {m : SMap β} {k lo : Nat} (hk : k < lo) (w : risingFrom lo m = true) : mapGet d m k = d := by
  induction m generalizing lo with
  | nil => rfl
  | cons e m ih =>
    obtain ⟨a, b⟩ := e
    simp only [risingFrom, Bool.and_eq_true, decide_eq_true_eq] at w
    rw [mapGet, if_neg (by omega)]
    exact ih (by omega) w.2

theorem mapGet_mapVals_rising {β : Type} [DecidableEq β] (d : β) (f : Nat → β → β) {k lo : Nat} (hf : f k d = d) {m : SMap β}
    (w : risingFrom lo m = true) : mapGet d (mapVals d f m) k = f k (mapGet d m k) := by
  induction m generalizing lo with
  | nil => exact hf.symm
  | cons e m ih =>
    obtain ⟨a, b⟩ := e
    simp only [risingFrom, Bool.and_eq_true, decide_eq_true_eq] at w
    by_cases drop : f a b = d
    · have skip : mapVals d f ((a, b) :: m) = mapVals d f m := by simp [mapVals, drop]
      rw [skip, ih w.2]
      by_cases hk : a = k
      · subst hk
        rw [mapGet_of_rising d (Nat.lt_succ_self a) w.2, hf, mapGet, if_pos rfl, drop]
      · rw [mapGet, if_neg hk]
    · have keep : mapVals d f ((a, b) :: m) = (a, f a b) :: mapVals d f m := by simp [mapVals, drop]
      rw [keep]
      by_cases hk : a = k
      · subst hk; simp [mapGet]
      · simp only [mapGet, if_neg hk]
        exact ih w.2

/-- A map in canonical form whose values are all sent through a function that keeps the default. -/
theorem mapGet_mapVals {β : Type} [DecidableEq β] (d : β) (f : Nat → β → β) (hf : ∀ k, f k d = d) {m : SMap β} (w : mapWf d m = true) (k : Nat) :
    mapGet d (mapVals d f m) k = f k (mapGet d m k) := mapGet_mapVals_rising d f (hf k) ((mapWf_iff d m).1 w).1

/-! ### A bank loses its bytes -/

theorem viewByte_zeroKeys {s : State} (w : Memory.wf s = true) (lo n die key : Nat) :
    viewByte (zeroKeys s lo n) die key = if lo ≤ key ∧ key < lo + n then 0 else viewByte s die key := by
  unfold Memory.wf at w
  simp only [Bool.and_eq_true] at w
  have view : viewOf (zeroKeys s lo n) die = mapDrop (fun k => decide (lo ≤ k) && decide (k < lo + n)) (viewOf s die) := by
    unfold viewOf
    rw [zeroKeys_views, mapGet_mapVals [] _ (fun _ => rfl) w.1.1]
  rw [viewByte, view, mapGet_mapDrop]
  simp [viewByte]

/-! ### A context is given up -/

/-- The slice of a context that a hart leaves stands still once no hart of it runs. -/
theorem onlyClusters_pauseSlice (s : State) (c k : Nat) : OnlyClusters s (pauseSlice s c k) := by
  unfold pauseSlice
  split <;> rfl

theorem onlyClusters_noteEmpty (s : State) (c : Nat) : OnlyClusters s (noteEmpty s c) := by
  rw [OnlyClusters, noteEmpty_frame]

/-- What follows once the context has been given up. -/
def afterFree (s : State) (h : Nat) (v : Hart) : State :=
  noteEmpty (settleBarriers (if v.launch = 0 then s else pauseSlice s (clusOf (coreOf h)) (sliceKey s (coreOf h) v.sr.tenant.toNat)))
    (clusOf (coreOf h))

theorem onlyClusters_afterFree {s : State} (h : Nat) (v : Hart) (hb : s.barriers = []) : OnlyClusters s (afterFree s h v) := by
  unfold afterFree
  generalize hu : (if v.launch = 0 then s else pauseSlice s (clusOf (coreOf h)) (sliceKey s (coreOf h) v.sr.tenant.toNat)) = u
  have only : OnlyClusters s u := by
    rw [← hu]
    split
    · exact .refl s
    · exact onlyClusters_pauseSlice ..
  rw [settleBarriers_none (by rw [only]; exact hb)]
  exact only.trans (onlyClusters_noteEmpty ..)

/-- What a context is once its hart has halted. -/
def haltedHart (v : Hart) : Hart := { Hart.reset with gen := v.gen + 1 }

theorem freeContext_lent (s : State) (h b : Nat) :
    freeContext s h (some b) false =
      afterFree
        (modHart (setHart (leaveWaits (cancelGatherings s h none) h) h { haltedHart (getHart s h) with tenure := .lent, launch := (getHart s h).launch }) b
          fun w => { w with loans := w.loans ++ ctxOf h :: (getHart s h).loans }) h (getHart s h) := rfl

/-- The bank of a context loses its power, and the context is offered. -/
def givenUp (s : State) (h : Nat) (v : Hart) : State :=
  offerContext (setHart (powerDown s (coreOf h) (ctxOf h)) h v) (coreOf h) (ctxOf h)

theorem givenUp_spec (s : State) (h : Nat) (v : Hart) :
    (givenUp s h v).cur = s.cur ∧ (givenUp s h v).barriers = s.barriers ∧ getHart (givenUp s h v) h = v ∧
      (∀ k, k ≠ h → getHart (givenUp s h v) k = getHart s k) ∧ (getCore (givenUp s h v) (coreOf h)).banks.getLsbD (ctxOf h) = false ∧
      (givenUp s h v).views = (zeroKeys s (localOf (coreOf h) + ctxOf h * 0x4000) 0x4000).views := by
  have core : getCore (givenUp s h v) (coreOf h) = getCore (powerDown s (coreOf h) (ctxOf h)) (coreOf h) := rfl
  refine ⟨rfl, rfl, getHart_setHart_same .., fun k hk => getHart_setHart_ne (powerDown s (coreOf h) (ctxOf h)) v hk, ?_, rfl⟩
  rw [core, powerDown, getCore_modCore_same]
  simp

theorem freeContext_down {s : State} {h : Nat} (hl : (getHart s h).loans = []) :
    freeContext s h none false =
      afterFree (givenUp (leaveWaits (cancelGatherings s h none) h) h (haltedHart (getHart s h))) h (getHart s h) := by
  unfold freeContext
  simp only [hl, List.foldl_nil]
  rfl

/-! ### The instruction -/

/-- Where the banks of a halting hart go. -/
def borrowerFor (s : State) : Instr → Option Nat
  | .haltRetain a => borrowerOf s ((readX (me s) a).setWidth 32)
  | _ => none

/-- The faulted commands of a hart end abandoned. -/
def abandonAll (s : State) (h : Nat) : State :=
  (faultedTags (getCore s (coreOf h)) h (getHart s h).gen).foldl (fun s t => abandonCmd s (coreOf h) t) s

/-- Only the cores and the agenda differ. -/
def OnlyCommands (s t : State) : Prop := t = { s with agenda := t.agenda, cores := t.cores }

theorem OnlyCommands.trans {s t u : State} (a : OnlyCommands s t) (b : OnlyCommands t u) : OnlyCommands s u := by
  unfold OnlyCommands at *
  rw [b, a]

theorem onlyCommands_abandonAll (s : State) (h : Nat) : OnlyCommands s (abandonAll s h) :=
  foldl_rel (R := OnlyCommands) (fun _ => rfl) OnlyCommands.trans (fun s t => abandonCmd s (coreOf h) t) (fun _ _ => rfl) _ s

/-- The executing hart and its cluster are as before. -/
structure SameHart (s t : State) : Prop where
  cur : t.cur = s.cur
  me : me t = me s
  nobody : NobodyGathers s (clusOf (coreOf s.cur)) → NobodyGathers t (clusOf (coreOf t.cur))

theorem abandonAll_spec (s : State) : OnlyCommands s (abandonAll s s.cur) ∧ SameHart s (abandonAll s s.cur) := by
  have only := onlyCommands_abandonAll s s.cur
  refine ⟨only, ?_⟩
  rw [only]
  exact ⟨rfl, rfl, id⟩

section Halt

variable {s : State} {i : Instr}

theorem exec_halt (hi : i = .halt ∨ ∃ a, i = .haltRetain a) (hh : isHandler s.cur = false) :
    ∃ b : State → Option Nat, b s = borrowerFor s i ∧ exec i s = haltHart s b := by
  rcases hi with rfl | ⟨a, rfl⟩
  · refine ⟨fun _ => none, rfl, ?_⟩
    change execHalt s = _
    rw [execHalt, if_neg (by rw [hh]; decide)]
  · refine ⟨fun t => borrowerOf t ((readX (me s) a).setWidth 32), rfl, ?_⟩
    change execHaltRetain a s = _
    rw [execHaltRetain, if_neg (by rw [hh]; decide)]

theorem exec_halt_busy (hi : i = .halt ∨ ∃ a, i = .haltRetain a) (hh : isHandler s.cur = false) (busy : Busy s) :
    exec i s = waitFor s .drain := by
  obtain ⟨b, -, e⟩ := exec_halt hi hh
  rw [e, haltHart, if_pos ((busy_iff s).1 busy)]

theorem exec_halt_idle (hi : i = .halt ∨ ∃ a, i = .haltRetain a) (hh : isHandler s.cur = false) (idle : s.ops = [])
    (ht : (me s).tile = none) :
    exec i s =
      if (borrowerFor s i).isNone && banksBusy s s.cur then waitFor s .bank
      else .next (freeContext (abandonAll s s.cur) s.cur (borrowerFor s i) false) := by
  obtain ⟨b, hb, e⟩ := exec_halt hi hh
  have calm : ¬busyHart s s.cur = true := by simp [busyHart, idle]
  rw [e, haltHart, if_neg calm, withTileDone_none ht, ← hb]
  rfl

theorem bankBusy_idle (idle : s.ops = []) (core j : Nat) : bankBusy s core j = writesPending s (localOf core + j * 0x4000) 0x4000 := by
  simp [bankBusy, idle]

end Halt

/-! ### Who may borrow -/

/-- The hart that a HID names in the core of the executing one. -/
def namedHart (s : State) (hid : Word) : Nat := s.cur / 16 * 16 + hid.toNat % 8

/-- What R46 asks of the hart that a HID names. -/
def Borrows (s : State) (hid : Word) : Prop :=
  hid.toNat / 8 % 16384 = s.cur / 16 ∧ hid.toNat / 2 ^ 17 % 64 = s.dev.toNat ∧ hid.toNat / 2 ^ 23 % 2 = 0 ∧ namedHart s hid ≠ s.cur ∧
    (getHart s (namedHart s hid)).tenure = .running ∧ (getHart s (namedHart s hid)).gen.toNat = hid.toNat / 2 ^ 24 % 256 ∧
    (getHart s (namedHart s hid)).launch = (me s).launch

/-- The fields of a HID as R46 reads them (Table 2.5). -/
theorem hid_fields (hid : Word) :
    ((hid.setWidth 32).extractLsb' 0 3).toNat = hid.toNat % 8 ∧ ((hid.setWidth 32).extractLsb' 3 14).toNat = hid.toNat / 8 % 16384 ∧
      ((hid.setWidth 32).extractLsb' 17 6).toNat = hid.toNat / 2 ^ 17 % 64 ∧ ((hid.setWidth 32).getLsbD 23 = false ↔ hid.toNat / 2 ^ 23 % 2 = 0) ∧
      ((hid.setWidth 32).extractLsb' 24 8).toNat = hid.toNat / 2 ^ 24 % 256 := by
  simp only [BitVec.extractLsb'_toNat, BitVec.toNat_setWidth, Nat.shiftRight_eq_div_pow]
  refine ⟨by omega, by omega, by omega, ?_, by omega⟩
  rw [BitVec.getLsbD_setWidth, BitVec.getLsbD, Nat.testBit_eq_decide_div_mod_eq]
  simp

theorem borrowerOf_cases (s : State) (hid : Word) :
    (Borrows s hid → borrowerOf s (hid.setWidth 32) = some (namedHart s hid)) ∧
      (¬Borrows s hid → borrowerOf s (hid.setWidth 32) = none) := by
  obtain ⟨h0, h3, h17, h23, h24⟩ := hid_fields hid
  have key : hartKey (coreOf s.cur) ((hid.setWidth 32).extractLsb' 0 3).toNat = namedHart s hid := by rw [h0]; rfl
  have admits : (decide (((hid.setWidth 32).extractLsb' 3 14).toNat = coreOf s.cur) && decide ((hid.setWidth 32).extractLsb' 17 6 = s.dev) &&
      !(hid.setWidth 32).getLsbD 23 && decide (namedHart s hid ≠ s.cur) && decide ((getHart s (namedHart s hid)).tenure = .running) &&
      decide ((getHart s (namedHart s hid)).gen = (hid.setWidth 32).extractLsb' 24 8) &&
      decide ((getHart s (namedHart s hid)).launch = (me s).launch)) = true ↔ Borrows s hid := by
    simp only [Bool.and_eq_true, Bool.not_eq_true', decide_eq_true_eq, h3, h23, ← BitVec.toNat_inj, h17, h24, Borrows, and_assoc]
    rfl
  unfold borrowerOf
  simp only [key]
  exact ⟨fun b => if_pos (admits.2 b), fun b => if_neg fun h => b (admits.1 h)⟩

theorem borrowerFor_cases (s : State) (i : Instr) (hid : Word) (hi : i = .halt ∨ ∃ a, i = .haltRetain a ∧ hid = readX (me s) a) :
    (((∃ a, i = .haltRetain a) ∧ Borrows s hid) → borrowerFor s i = some (namedHart s hid)) ∧
      (¬((∃ a, i = .haltRetain a) ∧ Borrows s hid) → borrowerFor s i = none) := by
  rcases hi with rfl | ⟨a, rfl, rfl⟩
  · exact ⟨fun ⟨⟨_, h⟩, _⟩ => (nomatch h), fun _ => rfl⟩
  · obtain ⟨yes, no⟩ := borrowerOf_cases s (readX (me s) a)
    exact ⟨fun ⟨_, b⟩ => yes b, fun h => no fun b => h ⟨⟨a, rfl⟩, b⟩⟩

/-! ### The two ends of a hart -/

section Ends

variable {s : State}

/-- The bank goes to the borrower. -/
theorem freeContext_lent_spec {b : Nat} (hb : b ≠ s.cur) (hl : (me s).loans = []) (nobody : NobodyGathers s (clusOf (coreOf s.cur))) :
    ∃ t, freeContext s s.cur (some b) false = t ∧ me t = { haltedHart (me s) with tenure := .lent, launch := (me s).launch } ∧
      getHart t b = { getHart s b with loans := (getHart s b).loans ++ [ctxOf s.cur] } ∧
      (∀ k, k ≠ s.cur → k ≠ b → getHart t k = getHart s k) ∧ t.views = s.views := by
  obtain ⟨only, none⟩ := leaves_idle (h := s.cur) Option.none nobody
  refine ⟨_, rfl, ?_⟩
  rw [freeContext_lent]
  generalize leaveWaits (cancelGatherings s s.cur Option.none) s.cur = u at only none
  have harts : ∀ k, getHart u k = getHart s k := fun k => by rw [only]; rfl
  generalize hw : modHart (setHart u s.cur { haltedHart (getHart s s.cur) with tenure := .lent, launch := (getHart s s.cur).launch }) b _ = w
  have after := onlyClusters_afterFree (s := w) s.cur (getHart s s.cur) (by rw [← hw]; exact none)
  generalize afterFree w s.cur (getHart s s.cur) = t at after
  have kept : ∀ k, getHart t k = getHart w k := fun k => by rw [after]; rfl
  have cur : t.cur = s.cur := by rw [after, ← hw, only]; rfl
  refine ⟨?_, ?_, fun k hk hk' => ?_, ?_⟩
  · rw [me, cur, kept, ← hw, getHart_modHart_ne _ _ hb.symm, getHart_setHart_same]
    rfl
  · rw [kept, ← hw, getHart_modHart_same, getHart_setHart_ne _ _ hb, harts, show (getHart s s.cur).loans = [] from hl]
  · rw [kept, ← hw, getHart_modHart_ne _ _ hk', getHart_setHart_ne _ _ hk, harts]
  · rw [after, ← hw, only]
    rfl

/-- The bank loses its power. -/
theorem freeContext_down_spec (hl : (me s).loans = []) (nobody : NobodyGathers s (clusOf (coreOf s.cur))) (w : Memory.wf s = true) :
    ∃ t, freeContext s s.cur none false = t ∧ me t = haltedHart (me s) ∧ (∀ k, k ≠ s.cur → getHart t k = getHart s k) ∧
      (getCore t (coreOf s.cur)).banks.getLsbD (ctxOf s.cur) = false ∧
      ∀ die key, viewByte t die key =
        if localOf (coreOf s.cur) + ctxOf s.cur * 0x4000 ≤ key ∧ key < localOf (coreOf s.cur) + ctxOf s.cur * 0x4000 + 0x4000 then 0
        else viewByte s die key := by
  obtain ⟨only, none⟩ := leaves_idle (h := s.cur) Option.none nobody
  refine ⟨_, rfl, ?_⟩
  rw [freeContext_down hl]
  generalize leaveWaits (cancelGatherings s s.cur Option.none) s.cur = u at only none
  have harts : ∀ k, getHart u k = getHart s k := fun k => by rw [only]; rfl
  have wf : Memory.wf u = true := by rw [only]; exact w
  obtain ⟨cur, barriers, same, others, bank, views⟩ := givenUp_spec u s.cur (haltedHart (getHart s s.cur))
  generalize givenUp u s.cur (haltedHart (getHart s s.cur)) = g at cur barriers same others bank views
  have after := onlyClusters_afterFree s.cur (getHart s s.cur) (barriers.trans none)
  generalize afterFree g s.cur (getHart s s.cur) = t at after
  have kept : ∀ k, getHart t k = getHart g k := fun k => by rw [after]; rfl
  have cur' : t.cur = s.cur := by rw [after]; exact cur.trans (by rw [only])
  refine ⟨?_, fun k hk => ?_, ?_, fun die key => ?_⟩
  · rw [me, cur', kept, same]
    rfl
  · rw [kept, others k hk, harts]
  · rw [show getCore t (coreOf s.cur) = getCore g (coreOf s.cur) from by rw [after]; rfl, bank]
  · have view : viewByte t die key = viewByte (zeroKeys u (localOf (coreOf s.cur) + ctxOf s.cur * 0x4000) 0x4000) die key := by
      unfold viewByte viewOf
      rw [after, ← views]
    have same : viewByte u die key = viewByte s die key := by rw [only]; rfl
    rw [view, viewByte_zeroKeys wf, same]

end Ends

theorem hartEnds_holds : HartEnds := by
  refine ⟨fun i s hi hh => illegal_of_eq ?_, fun i s hh => ?_⟩
  · rcases hi with rfl | ⟨a, rfl⟩
    · change execHalt s = _
      rw [execHalt, if_pos hh]
    · change execHaltRetain a s = _
      rw [execHaltRetain, if_pos hh]
  · intro hid named lends hi
    have banks := borrowerFor_cases s i hid (hi.imp_right fun ⟨a, e⟩ => ⟨a, e, by subst e; rfl⟩)
    have yes : lends → borrowerFor s i = some named := banks.1
    have no : ¬lends → borrowerFor s i = none := banks.2
    refine ⟨fun busy => ?_, fun dev ctx idle ht away pending => ?_, fun dev ctx idle ht hl wf nobody => ⟨fun lent => ?_, fun away still => ?_⟩⟩
    · obtain ⟨t, e, w⟩ := waits_waitFor s .drain
      exact ⟨t, (exec_halt_busy hi hh busy).trans e, w⟩
    · obtain ⟨t, e, w⟩ := waits_waitFor s .bank
      refine ⟨t, Eq.trans ?_ e, w⟩
      have mine : bankBusy s (coreOf s.cur) (ctxOf s.cur) = true := (bankBusy_idle idle ..).trans pending
      have busy : banksBusy s s.cur = true := by simp [banksBusy, mine]
      rw [exec_halt_idle hi hh idle ht, no away, busy]
      rfl
    · have answers := exec_halt_idle hi hh idle ht
      rw [yes lent, if_neg (by simp)] at answers
      have apart : named ≠ s.cur := lent.2.2.2.2.1
      obtain ⟨only, same⟩ := abandonAll_spec s
      generalize abandonAll s s.cur = u at answers only same
      have harts : ∀ k, getHart u k = getHart s k := fun k => by rw [only]; rfl
      obtain ⟨t, e, mine, borrower, others, views⟩ := freeContext_lent_spec (s := u) (b := named) (by rw [same.cur]; exact apart)
        (by rw [same.me]; exact hl) (same.nobody nobody)
      rw [same.cur] at e borrower others
      refine ⟨t, answers.trans (congrArg _ e), ?_, ?_, fun k hk hk' => ?_, ?_⟩
      · rw [mine, same.me]
        rfl
      · rw [borrower, harts]
        rfl
      · rw [others k hk hk', harts]
      · rw [views, only]
    · have mine : bankBusy s (coreOf s.cur) (ctxOf s.cur) = false := (bankBusy_idle idle ..).trans still
      have calm : banksBusy s s.cur = false := by simp [banksBusy, mine, show (getHart s s.cur).loans = [] from hl]
      have answers := exec_halt_idle hi hh idle ht
      rw [no away, if_neg (by rw [calm]; simp)] at answers
      obtain ⟨only, same⟩ := abandonAll_spec s
      generalize abandonAll s s.cur = u at answers only same
      have harts : ∀ k, getHart u k = getHart s k := fun k => by rw [only]; rfl
      obtain ⟨t, e, mine, others, bank, bytes⟩ := freeContext_down_spec (s := u) (by rw [same.me]; exact hl) (same.nobody nobody)
        (by rw [only]; exact wf)
      rw [same.cur] at e others bank bytes
      refine ⟨t, answers.trans (congrArg _ e), ?_, fun k hk => ?_, bank, fun die key => ?_⟩
      · rw [mine, same.me]
        rfl
      · rw [others k hk, harts]
      · rw [bytes, show viewByte u die key = viewByte s die key from by rw [only]; rfl]
        rfl

/-- Settles O29: TFETCH, TDONE, HALT and HALT retain. -/
theorem tiles : Obligations.Tiles := by
  unfold Obligations.Tiles
  exact ⟨tileFetch_holds, tileDone_holds, hartEnds_holds⟩

end Sys2Proof.Proofs
end

section
/-!
PROOFS. What the readiness of nodes and the end of a launch leave of every launch (R40, R41, R61, R64).
-/

namespace Sys2Proof.Proofs

open Sys2Proof Sys2Proof.Machine Sys2Proof.Claims

/-! ### Journal entries -/

theorem journalSet_window (s : State) (t j : Nat) (state reason : BitVec 8) : OnlyWindow s (journalSet s t j state reason) := by
  unfold journalSet
  split
  · exact .refl s
  · exact (modTenant_window ..).trans (hdmWrite_window ..)

theorem finishEntry_window (s : State) (t j : Nat) (state reason : BitVec 8) : OnlyWindow s (finishEntry s t j state reason) := by
  refine (journalSet_window s t j state reason).trans ?_
  unfold finishEntry
  generalize journalSet s t j state reason = u
  simp only
  split
  · exact pollWindow_window ..
  · exact (modTenant_window ..).trans (by rfl)

theorem OnlyWindow.launches {s t : State} (h : OnlyWindow s t) : t.launches = s.launches := by rw [h]

/-! ### Launches kept -/

/-- What a node's descriptor says is kept; where the node stands may differ. -/
def SameNode (n m : Node) : Prop :=
  m = { n with
    remaining := m.remaining, undispatched := m.undispatched, phase := m.phase, cursor := m.cursor, finished := m.finished
    bound := m.bound, stamp := m.stamp, acqScope := m.acqScope }

/-- A launch is kept with its nodes; where it and they stand may differ. -/
structure SameLaunch (l v : Launch) : Prop where
  rest : v = { l with phase := v.phase, final := v.final, reason := v.reason, nodes := v.nodes }
  nodes : ∀ id n, getNode l id = some n → ∃ m, getNode v id = some m ∧ SameNode n m

/-- Every launch is kept. -/
def KeepsLaunches (s t : State) : Prop := ∀ k l, getLaunch s k = some l → ∃ v, getLaunch t k = some v ∧ SameLaunch l v

theorem SameNode.trans {n m o : Node} (a : SameNode n m) (b : SameNode m o) : SameNode n o := by
  unfold SameNode at *
  rw [b, a]

theorem SameLaunch.refl (l : Launch) : SameLaunch l l := ⟨rfl, fun _ n h => ⟨n, h, rfl⟩⟩

theorem SameLaunch.trans {l v w : Launch} (a : SameLaunch l v) (b : SameLaunch v w) : SameLaunch l w := by
  refine ⟨by rw [b.rest, a.rest], fun id n h => ?_⟩
  obtain ⟨m, hm, hs⟩ := a.nodes id n h
  obtain ⟨o, ho, hs'⟩ := b.nodes id m hm
  exact ⟨o, ho, hs.trans hs'⟩

theorem KeepsLaunches.refl (s : State) : KeepsLaunches s s := fun _ l h => ⟨l, h, .refl l⟩

theorem KeepsLaunches.trans {s t u : State} (a : KeepsLaunches s t) (b : KeepsLaunches t u) : KeepsLaunches s u := fun k l h => by
  obtain ⟨v, hv, hs⟩ := a k l h
  obtain ⟨w, hw, hs'⟩ := b k v hv
  exact ⟨w, hw, hs.trans hs'⟩

theorem getLaunch_congr {s t : State} (h : t.launches = s.launches) (k : Nat) : getLaunch t k = getLaunch s k := by
  unfold getLaunch
  rw [h]

theorem keepsLaunches_of_launches {s t : State} (h : t.launches = s.launches) : KeepsLaunches s t := fun k l hl =>
  ⟨l, (getLaunch_congr h k).trans hl, .refl l⟩

theorem keepsLaunches_modLaunch (s : State) (l : Nat) {f : Launch → Launch} (hf : ∀ v, SameLaunch v (f v)) :
    KeepsLaunches s (modLaunch s l f) := fun k v hv => by
  by_cases hk : k = l
  · subst hk
    exact ⟨f v, by rw [getLaunch_modLaunch_same, hv, Option.map_some], hf v⟩
  · exact ⟨v, by rw [getLaunch_modLaunch_ne s f hk, hv], .refl v⟩

theorem sameLaunch_withNode {v : Launch} {id : Nat} {n m : Node} (hn : getNode v id = some n) (same : SameNode n m) :
    SameLaunch v (withNode v id m) := by
  refine ⟨rfl, fun k o ho => ?_⟩
  by_cases hk : k = id
  · subst hk
    rw [hn] at ho
    cases ho
    exact ⟨m, getNode_withNode_same .., same⟩
  · exact ⟨o, (getNode_withNode_ne v m hk).trans ho, rfl⟩

theorem keepsLaunches_modNode (s : State) (l id : Nat) {f : Node → Node} (hf : ∀ n, SameNode n (f n)) :
    KeepsLaunches s (modNode s l id f) :=
  keepsLaunches_modLaunch s l fun v => by
    split
    · exact .refl v
    · next hn => exact sameLaunch_withNode hn (hf _)

/-! ### The pools -/

/-- Only what is due and the pools of the dies differ. -/
def OnlyPools (s t : State) : Prop := t = { s with agenda := t.agenda, dies := t.dies }

theorem OnlyPools.trans {s t u : State} (a : OnlyPools s t) (b : OnlyPools t u) : OnlyPools s u := by
  unfold OnlyPools at *
  rw [b, a]

theorem OnlyPools.work {s t : State} (h : OnlyPools s t) : OnlyWork s t := by
  unfold OnlyPools OnlyWork at *
  rw [h]

theorem onlyPools_enterPool (s : State) (l : Launch) (id : Nat) (n : Node) (isLocal : Bool) : OnlyPools s (enterPool s l id n isLocal) := by
  unfold enterPool
  refine .trans (foldl_rel (R := OnlyPools) (fun _ => rfl) OnlyPools.trans _ (fun s d => ?_) [0, 1, 2, 3] s) (by rfl)
  simp only
  split <;> rfl

/-! ### The end of a launch -/

/-- A launch that has begun to end. -/
def endingWith (final reason : BitVec 8) (v : Launch) : Launch :=
  { v with phase := .ending, final := final.toNat, reason := reason.toNat }

/-- Only the launches, the saved harts, the pools, and what gathers differs. -/
def OnlyEnds (s t : State) : Prop :=
  t = { s with launches := t.launches, saves := t.saves, dies := t.dies, harts := t.harts, clusters := t.clusters }

theorem OnlyEnds.work {s t : State} (h : OnlyEnds s t) : OnlyWork s t := by
  unfold OnlyEnds OnlyWork at *
  rw [h]

theorem endLaunch_idle {s : State} {l : Nat} (final reason : BitVec 8) (h : ∀ v, getLaunch s l = some v → v.phase ≠ .running) :
    endLaunch s l final reason = s := by
  unfold endLaunch
  split
  · rfl
  · next v hv => exact if_pos (h v hv)

/-- A launch ends, its saved harts are discarded and its nodes leave the pools (R41). -/
def withdrawnFrom (s : State) (l : Nat) (final reason : BitVec 8) : State :=
  let e := modLaunch s l (endingWith final reason)
  { e with
    saves := e.saves.filter (·.launch ≠ l)
    dies := mapVals .reset (fun _ d => { d with pool := d.pool.filter (·.launch ≠ l) }) e.dies }

/-- The gatherings and rotations of some harts are cancelled. -/
def ungatherAll (hs : List Nat) (s : State) : State := hs.foldl (fun s h => cancelGatherings s h none) s

/-- Only harts and clusters differ. -/
def OnlyGathers (s t : State) : Prop := t = { s with harts := t.harts, clusters := t.clusters }

theorem OnlyGathers.trans {s t u : State} (a : OnlyGathers s t) (b : OnlyGathers t u) : OnlyGathers s u := by
  unfold OnlyGathers at *
  rw [b, a]

theorem onlyGathers_ungatherAll (hs : List Nat) (s : State) : OnlyGathers s (ungatherAll hs s) :=
  foldl_rel (R := OnlyGathers) (fun _ => rfl) OnlyGathers.trans _ (fun s h => (ungathers_cancelGatherings s h none).rest) hs s

theorem keepsRecords_ungatherAll (hs : List Nat) (s : State) : KeepsRecords s (ungatherAll hs s) :=
  foldl_rel KeepsRecords.refl KeepsRecords.trans _
    (fun s h c => by rw [(ungathers_cancelGatherings s h none).clusters c]; exact ⟨rfl, rfl⟩) hs s

theorem endLaunch_running {s : State} {l : Nat} (final reason : BitVec 8) {v : Launch} (hl : getLaunch s l = some v)
    (hr : v.phase = .running) :
    ∃ u, endLaunch s l final reason = post (finishEntry u v.tenant.toNat v.seq.toNat final reason) (.worldRetire l) ∧
      u.launches = (modLaunch s l (endingWith final reason)).launches ∧ OnlyEnds s u ∧ KeepsRecords s u := by
  have gathers := onlyGathers_ungatherAll (launchHarts (withdrawnFrom s l final reason) l) (withdrawnFrom s l final reason)
  have frame := modLaunch_frame s l (endingWith final reason)
  refine ⟨ungatherAll (launchHarts (withdrawnFrom s l final reason) l) (withdrawnFrom s l final reason), ?_, by rw [gathers]; rfl, ?_, ?_⟩
  · unfold endLaunch
    simp only [hl, hr, ne_eq, not_true, if_false]
    rfl
  · unfold OnlyEnds
    rw [gathers]
    unfold withdrawnFrom
    rw [frame]
  · have clusters : (withdrawnFrom s l final reason).clusters = s.clusters := by
      change (modLaunch s l (endingWith final reason)).clusters = _
      rw [frame]
    exact (keepsRecords_of_clusters clusters).trans (keepsRecords_ungatherAll _ _)

theorem onlyWork_endLaunch (s : State) (l : Nat) (final reason : BitVec 8) : OnlyWork s (endLaunch s l final reason) := by
  by_cases h : ∃ v, getLaunch s l = some v ∧ v.phase = .running
  · obtain ⟨v, hl, hr⟩ := h
    obtain ⟨u, e, -, ends, -⟩ := endLaunch_running final reason hl hr
    rw [e]
    exact (ends.work.trans (finishEntry_window ..).work).trans (by rfl)
  · rw [endLaunch_idle final reason fun v hl hr => h ⟨v, hl, hr⟩]
    exact .refl s

/-- What the end of a launch makes of the launches: it is ending, and every other one is as before. -/
theorem endLaunch_launches (s : State) (l : Nat) (final reason : BitVec 8) :
    (endLaunch s l final reason).launches = s.launches ∨
      ∃ v, getLaunch s l = some v ∧ v.phase = .running ∧
        (endLaunch s l final reason).launches = (modLaunch s l (endingWith final reason)).launches := by
  by_cases h : ∃ v, getLaunch s l = some v ∧ v.phase = .running
  · obtain ⟨v, hl, hr⟩ := h
    obtain ⟨u, e, launches, -, -⟩ := endLaunch_running final reason hl hr
    refine .inr ⟨v, hl, hr, ?_⟩
    rw [e]
    exact (finishEntry_window ..).launches.trans launches
  · rw [endLaunch_idle final reason fun v hl hr => h ⟨v, hl, hr⟩]
    exact .inl rfl

theorem keepsRecords_endLaunch (s : State) (l : Nat) (final reason : BitVec 8) : KeepsRecords s (endLaunch s l final reason) := by
  by_cases h : ∃ v, getLaunch s l = some v ∧ v.phase = .running
  · obtain ⟨v, hl, hr⟩ := h
    obtain ⟨u, e, -, -, keeps⟩ := endLaunch_running final reason hl hr
    have finished := finishEntry_window u v.tenant.toNat v.seq.toNat final reason
    rw [e]
    exact keeps.trans (keepsRecords_of_clusters (by change (finishEntry ..).clusters = _; rw [finished]))
  · rw [endLaunch_idle final reason fun v hl hr => h ⟨v, hl, hr⟩]
    exact .refl s

theorem keepsLaunches_endLaunch (s : State) (l : Nat) (final reason : BitVec 8) : KeepsLaunches s (endLaunch s l final reason) := by
  rcases endLaunch_launches s l final reason with h | ⟨-, -, -, h⟩
  · exact keepsLaunches_of_launches h
  · have ending : KeepsLaunches s (modLaunch s l (endingWith final reason)) :=
      keepsLaunches_modLaunch s l fun v => ⟨rfl, fun _ n hn => ⟨n, hn, rfl⟩⟩
    exact ending.trans (keepsLaunches_of_launches h)

/-! ### A node becomes ready -/

/-- A node that is due and passes its check. -/
def readied (s : State) (v : Launch) (n : Node) : Node :=
  { n with phase := .ready, bound := nodeClusters s v n, stamp := n.stamp.join (ctrStamp s n) }

/-- A node that is tested stays where it is, or its launch ends, or it enters the pools. -/
theorem readyNode_cases (s : State) (l id : Nat) (isLocal : Bool) :
    readyNode s l id isLocal = s ∨
      (∃ v, getLaunch s l = some v ∧ v.phase = .running ∧
        (readyNode s l id isLocal = endLaunch s l failedState 0x07 ∨
          ∃ n b, readyNode s l id isLocal =
            enterPool (modNode s l id (readied s v)) v id n b)) := by
  unfold readyNode
  split
  · exact .inl rfl
  · next v hv =>
    split
    · exact .inl rfl
    · next n hn =>
      split
      · exact .inl rfl
      · next open' =>
        have running : v.phase = .running := by
          by_contra h
          simp [h] at open'
        refine .inr ⟨v, hv, running, ?_⟩
        split
        · exact .inl rfl
        · exact .inr ⟨n, _, rfl⟩

theorem onlyWork_modNode (s : State) (l id : Nat) (f : Node → Node) : OnlyWork s (modNode s l id f) := by
  rw [modNode_frame]
  rfl

theorem onlyWork_readyNode (s : State) (l id : Nat) (isLocal : Bool) : OnlyWork s (readyNode s l id isLocal) := by
  rcases readyNode_cases s l id isLocal with h | ⟨v, -, -, h | ⟨n, b, h⟩⟩ <;> rw [h]
  · exact .refl s
  · exact onlyWork_endLaunch ..
  · exact (onlyWork_modNode ..).trans (onlyPools_enterPool ..).work

theorem enterPool_launches (s : State) (l : Launch) (id : Nat) (n : Node) (isLocal : Bool) : (enterPool s l id n isLocal).launches = s.launches := by
  rw [onlyPools_enterPool]

theorem keepsLaunches_readyNode (s : State) (l id : Nat) (isLocal : Bool) : KeepsLaunches s (readyNode s l id isLocal) := by
  rcases readyNode_cases s l id isLocal with h | ⟨v, -, -, h | ⟨n, b, h⟩⟩ <;> rw [h]
  · exact .refl s
  · exact keepsLaunches_endLaunch s l failedState 0x07
  · have ready : KeepsLaunches s (modNode s l id (readied s v)) := keepsLaunches_modNode s l id fun _ => rfl
    exact ready.trans (keepsLaunches_of_launches (enterPool_launches ..))

theorem keepsRecords_readyNode (s : State) (l id : Nat) (isLocal : Bool) : KeepsRecords s (readyNode s l id isLocal) := by
  rcases readyNode_cases s l id isLocal with h | ⟨v, -, -, h | ⟨n, b, h⟩⟩ <;> rw [h]
  · exact .refl s
  · exact keepsRecords_endLaunch s l failedState 0x07
  · exact keepsRecords_of_clusters (by rw [onlyPools_enterPool, modNode_frame])

/-! ### A node enters a work queue -/

/-- Only what is due differs. -/
def OnlyAgenda (s t : State) : Prop := t = { s with agenda := t.agenda }

theorem OnlyAgenda.trans {s t u : State} (a : OnlyAgenda s t) (b : OnlyAgenda t u) : OnlyAgenda s u := by
  unfold OnlyAgenda at *
  rw [b, a]

theorem OnlyAgenda.work {s t : State} (h : OnlyAgenda s t) : OnlyWork s t := by
  unfold OnlyAgenda OnlyWork at *
  rw [h]

theorem OnlyAgenda.launches {s t : State} (h : OnlyAgenda s t) : t.launches = s.launches := by rw [h]

theorem OnlyAgenda.foldl {α : Type} (f : State → α → State) (hf : ∀ s a, OnlyAgenda s (f s a)) (l : List α) (s : State) :
    OnlyAgenda s (l.foldl f s) := foldl_rel (R := OnlyAgenda) (fun _ => rfl) OnlyAgenda.trans f hf l s

theorem onlyAgenda_offerCluster (s : State) (c : Nat) : OnlyAgenda s (offerCluster s c) := by
  unfold offerCluster
  refine .foldl _ (fun s i => ?_) _ s
  simp only
  split <;> rfl

/-- The end of a slice that is held may have fallen due. -/
def mayEnd (c : Nat) (s : State) (e : Nat × SliceState) : State := if e.2.held then post s (.sliceEnd c (e.1 / 2) (e.1 % 2)) else s

theorem onlyAgenda_mayEnd (c : Nat) (s : State) (e : Nat × SliceState) : OnlyAgenda s (mayEnd c s e) := by
  unfold mayEnd
  split <;> rfl

/-- The entry of a node in the work queue of a cluster. -/
def workEntry (s : State) (c : Nat) (l : Launch) (id : Nat) (n : Node) (isLocal : Bool) : WorkItem :=
  ⟨l.id, id, isLocal, (nodeStarts s l n).filter fun e => clusOf e.1 = c⟩

/-- A node has been handed out to a cluster. -/
def handOut (m : Node) : Node := { m with phase := .handedOut }

/-- A node enters a work queue, and is handed out; all else is what is due. -/
theorem placeNode_agenda (s : State) (c : Nat) (l : Launch) (id : Nat) (n : Node) (isLocal : Bool) :
    OnlyAgenda (modNode (modCluster s c fun v => { v with workQ := v.workQ ++ [workEntry s c l id n isLocal] }) l.id id handOut)
      (placeNode s c l id n isLocal) := by
  change OnlyAgenda _ (offerCluster (List.foldl (mayEnd c)
    (modNode (modCluster s c fun v => { v with workQ := v.workQ ++ [workEntry s c l id n isLocal] }) l.id id handOut) _) c)
  generalize modNode (modCluster s c fun v => { v with workQ := v.workQ ++ [workEntry s c l id n isLocal] }) l.id id handOut = u
  exact (OnlyAgenda.foldl (mayEnd c) (onlyAgenda_mayEnd c) _ u).trans (onlyAgenda_offerCluster ..)

theorem onlyWork_placeNode (s : State) (c : Nat) (l : Launch) (id : Nat) (n : Node) (isLocal : Bool) :
    OnlyWork s (placeNode s c l id n isLocal) :=
  ((show OnlyWork s (modCluster s c _) from rfl).trans (onlyWork_modNode ..)).trans (placeNode_agenda ..).work

theorem keepsLaunches_placeNode (s : State) (c : Nat) (l : Launch) (id : Nat) (n : Node) (isLocal : Bool) :
    KeepsLaunches s (placeNode s c l id n isLocal) := by
  have entered : KeepsLaunches s (modCluster s c fun v => { v with workQ := v.workQ ++ [workEntry s c l id n isLocal] }) :=
    keepsLaunches_of_launches rfl
  exact (entered.trans (keepsLaunches_modNode _ l.id id (f := handOut) fun _ => rfl)).trans (keepsLaunches_of_launches (placeNode_agenda ..).launches)

end Sys2Proof.Proofs
end

section
/-!
PROOFS. TSPAWN (R47, R53, R404).
-/

namespace Sys2Proof.Proofs

open Sys2Proof Sys2Proof.Machine Sys2Proof.Claims

/-! ### The core's own local SRAM -/

theorem mapBytes_append (m : SMap Byte) (key a b : Nat) : mapBytes m key (a + b) = mapBytes m key a ++ mapBytes m (key + a) b := by
  induction a generalizing key with
  | zero => simp [mapBytes]
  | succ a ih =>
    rw [Nat.succ_add, mapBytes, mapBytes, ih, List.cons_append, Nat.add_assoc key 1 a, Nat.add_comm 1 a]

/-- The target of an access to SELF (R24). -/
def selfTarget (core : Nat) (p : Word) : Target := .plain p.toNat (localOf core + p.toNat) false

/-- An aligned access to SELF that fetches nothing passes its checks (Table 13.6). -/
theorem checkAccess_self {s : State} {h : Nat} {p : Word} {w : Want} (aligned : p.toNat % w.align = 0) (data : w.fetch = false)
    (hp : p.toNat < 0x20000) : checkAccess s h p w = .ok s (selfTarget (coreOf h) p) := by
  have addr : addrOf p = p.toNat := by rw [addrOf_eq]; omega
  have tag : tagOf p = 0 := by
    apply BitVec.eq_of_toNat_eq
    rw [tagOf, BitVec.extractLsb'_toNat, Nat.shiftRight_eq_div_pow]
    change p.toNat / 2 ^ 56 % 2 ^ 8 = 0
    omega
  have region : regionOf p.toNat = .self := if_pos hp
  unfold checkAccess
  simp only [addr, region, aligned, tag, data, ne_eq, not_true, if_false, Bool.false_eq_true]
  rfl

/-- What a line that is neither DRAM nor on another device reads as. -/
theorem readTarget_plain {s : State} {va key : Nat} {cached : Bool} (below : key < dramBase) (mca : s.mca = []) (good : key / 64 ∉ s.badLines)
    (die h n : Nat) : readTarget s die h (.plain va key cached) n = some (mapBytes (viewOf s die) key n) := by
  have inside : isOuter key = false := by
    unfold dramBase at below
    unfold isOuter outerBase
    simp only [decide_eq_false_iff_not]
    omega
  have dram : isDram key = false := by simp [isDram, below]
  have stored : readStored s die h (.plain va key cached) n = some (rawBytes s die h key n) := by
    unfold readStored
    change (if s.badLines.contains (key / 64) then none else if !isDram key then some (rawBytes s die h key n) else _) = _
    rw [dram, if_neg (fun h => good (by simpa using h))]
    rfl
  have raw : rawBytes s die h key n = mapBytes (viewOf s die) key n := by simp [rawBytes, inside, overlayMca, mca]
  rw [readTarget, stored, raw]
  rfl

section Self

variable {s : State} {core : Nat} (hc : core < 0x4000)

include hc

theorem self_belowDram {p : Word} (hp : p.toNat < 0x20000) : (selfTarget core p).key < dramBase := by
  change localOf core + p.toNat < dramBase
  unfold localOf localBase dramBase
  omega

theorem self_notDram {p : Word} (hp : p.toNat < 0x20000) : isDram (selfTarget core p).key = false := by
  have below := self_belowDram (core := core) hc hp
  simp [isDram, below]

/-- No request goes out for a line of SELF. -/
theorem sendLine_self {p : Word} (hp : p.toNat < 0x20000) (a : Agent) (q : PeerAsk) (write : Bool) :
    sendLine a q write s (wholeLine (selfTarget core p)) = s := by
  have below := self_belowDram (core := core) hc hp
  have down : (wholeLine (selfTarget core p)).key < dramBase := by
    change (selfTarget core p).key / 64 * 64 < dramBase
    omega
  have quiet : isDram (wholeLine (selfTarget core p)).key = false := by simp [isDram, down]
  unfold sendLine chargeLine
  rw [quiet]
  rfl

/-- What a line of SELF reads as. -/
theorem readTarget_self {p : Word} (hp : p.toNat < 0x20000) (mca : s.mca = []) (good : (localOf core + p.toNat) / 64 ∉ s.badLines)
    (die h n : Nat) : readTarget s die h (selfTarget core p) n = some (mapBytes (viewOf s die) (localOf core + p.toNat) n) :=
  readTarget_plain (self_belowDram hc hp) mca good die h n

/-- Lines of SELF come from the core itself: nothing is sent out for them. -/
theorem withServed_self {p q : Word} (hp : p.toNat < 0x20000) (hq : q.toNat < 0x20000) (k : State → Result) :
    withServed s [selfTarget core p, selfTarget core q] k = k s := by
  have held : linesHeld s (me s).launch ([selfTarget core p, selfTarget core q].map (·.key)) = none := by
    simp [linesHeld, heldFor, self_notDram hc hp, self_notDram hc hq]
  have sent : sendReads (hartAgent s s.cur) s [selfTarget core p, selfTarget core q] = s := by
    simp only [sendReads, List.foldl_cons, List.foldl_nil, sendLine_self hc hp, sendLine_self hc hq]
  have all : missing s [selfTarget core p, selfTarget core q] = [selfTarget core p, selfTarget core q] := rfl
  unfold withServed
  simp only [all, held, sent]

end Self

/-! ### What TSPAWN does with its descriptor -/

/-- The node that a TSPAWN names. -/
def spawned (s : State) (p : Word) : Node := parseNode (mapBytes (viewOf s (myDie s)) (selfKey s p) 128)

/-- Whether a descriptor is refused (R47). -/
def refuses (s : State) (l : Launch) (n : Node) : Bool :=
  n.preds ≠ 0 || n.nsucc ≠ 0 || 0x1000000 ≤ l.nodeCount || l.phase ≠ .running || !nodeCheck s l n

/-- The spawn of a node by the hart at hand. -/
def spawn (s : State) (d : Reg) (n : Node) : Result :=
  match getLaunch s (me s).launch with
  | none => done4With s d noNode
  | some l =>
    if refuses s l n then done4With (countSpawn s l.id) d noNode
    else afterRelease s (nodeScope l n) (done4With (addNode s l n) d (BitVec.ofNat 64 l.nodeCount))

/-- The two lines of a descriptor in SELF. -/
theorem withLines_self {s : State} {p : Word} (aligned : p.toNat % 128 = 0) (hp : p.toNat < 0x20000) :
    (p + 64).toNat = p.toNat + 64 ∧ ∀ k, withLines p (.read 64) 2 p s [] k =
      k s [selfTarget (coreOf s.cur) p, selfTarget (coreOf s.cur) (p + 64)] := by
  have next : (p + 64).toNat = p.toNat + 64 := by bv_omega
  have first := checkAccess_self (s := s) (h := s.cur) (w := .read 64) (by change p.toNat % 64 = 0; omega) rfl hp
  have second := checkAccess_self (s := s) (h := s.cur) (p := p + 64) (w := .read 64) (by rw [next]; change (p.toNat + 64) % 64 = 0; omega) rfl
    (by rw [next]; omega)
  refine ⟨next, fun k => ?_⟩
  simp only [withLines, first, second]
  rfl

theorem exec_tspawn {s : State} (d a : Reg) (hh : isHandler s.cur = false) (dev : Device s) (aligned : (readX (me s) a).toNat % 128 = 0)
    (hp : (readX (me s) a).toNat < 0x20000) (good : selfKey s (readX (me s) a) / 64 ∉ s.badLines)
    (good' : selfKey s (readX (me s) a) / 64 + 1 ∉ s.badLines) (mca : s.mca = []) :
    exec (.tspawn d a) s = spawn s d (spawned s (readX (me s) a)) := by
  have hc : coreOf s.cur < 0x4000 := by unfold Device at dev; unfold coreOf; omega
  change execTspawn d a s = _
  unfold execTspawn
  simp only [hh, aligned, Bool.false_eq_true, if_false, ne_eq, not_true]
  generalize readX (me s) a = p at aligned hp good good' ⊢
  obtain ⟨next, lines⟩ := withLines_self (s := s) aligned hp
  have hq : (p + 64).toNat < 0x20000 := by rw [next]; omega
  have key : localOf (coreOf s.cur) + (p + 64).toNat = selfKey s p + 64 := by rw [next]; exact (Nat.add_assoc ..).symm
  have first := readTarget_self (s := s) hc hp mca good (dieOf (coreOf s.cur)) s.cur 64
  have second := readTarget_self (s := s) hc hq mca (by rw [key]; simpa using good') (dieOf (coreOf s.cur)) s.cur 64
  have load : ∀ q, loadBytes s s.cur (selfTarget (coreOf s.cur) q) 64 =
      (s, readTarget s (dieOf (coreOf s.cur)) s.cur (selfTarget (coreOf s.cur) q) 64) := fun _ => rfl
  have bytes : mapBytes (viewOf s (dieOf (coreOf s.cur))) (localOf (coreOf s.cur) + p.toNat) 64 ++
      mapBytes (viewOf s (dieOf (coreOf s.cur))) (localOf (coreOf s.cur) + (p + 64).toNat) 64 =
        mapBytes (viewOf s (myDie s)) (selfKey s p) 128 := by
    rw [key]
    exact (mapBytes_append _ (selfKey s p) 64 64).symm
  rw [lines, withServed_self hc hp hq]
  simp only [List.foldl_cons, List.foldl_nil, load, first, second, Option.map_some, List.nil_append, bytes]
  rfl

/-! ### A spawn counted, and the node added -/

theorem countUp_same (m : SMap Word) (l : Nat) : mapGet 0 (countUp m l) l = mapGet 0 m l + 1 := mapGet_mapPut_same (0 : Word) m l _

theorem countSpawn_core (s : State) (l : Nat) :
    mapGet 0 (getCore (countSpawn s l) (coreOf s.cur)).sent l = mapGet 0 (getCore s (coreOf s.cur)).sent l + 1 ∧
      mapGet 0 (getCore (countSpawn s l) (coreOf s.cur)).received l = mapGet 0 (getCore s (coreOf s.cur)).received l + 1 := by
  unfold countSpawn
  rw [getCore_modCore_same]
  exact ⟨countUp_same .., countUp_same ..⟩

/-- A node as it enters its launch. -/
def entrant (s : State) (l : Launch) (n : Node) : Node :=
  { n with bound := nodeClusters s l n, stamp := stampOf s (dieOf (coreOf s.cur)) }

/-- The launch with one more node. -/
def joined (l : Launch) (n : Node) (v : Launch) : Launch :=
  { v with nodeCount := v.nodeCount + 1, nodes := mapPut none v.nodes l.nodeCount (some n) }

/-- The state in which the node has been added and the spawn counted. -/
def entering (s : State) (l : Launch) (n : Node) : State := countSpawn (modLaunch s l.id (joined l (entrant s l n))) l.id

/-- What its counter covers goes before the node that it lets start. -/
def covered (s : State) (m : Node) : Node := { m with stamp := m.stamp.join (ctrStamp s m) }

theorem addNode_cases (s : State) (l : Launch) (n : Node) :
    addNode s l n = placeNode (modNode (entering s l n) l.id l.nodeCount (covered (entering s l n))) (clusOf (coreOf s.cur)) l l.nodeCount
        (entrant s l n) true ∨
      addNode s l n = readyNode (entering s l n) l.id l.nodeCount false := by
  unfold addNode
  simp only
  split
  · exact .inl rfl
  · exact .inr rfl

theorem addNode_kept (s : State) (l : Launch) (n : Node) :
    OnlyWork (entering s l n) (addNode s l n) ∧ KeepsLaunches (entering s l n) (addNode s l n) := by
  rcases addNode_cases s l n with e | e <;> rw [e]
  · exact ⟨(onlyWork_modNode ..).trans (onlyWork_placeNode ..),
      (keepsLaunches_modNode _ _ _ (f := covered (entering s l n)) fun _ => rfl).trans (keepsLaunches_placeNode _ _ _ _ _ _)⟩
  · exact ⟨onlyWork_readyNode .., keepsLaunches_readyNode _ _ _ _⟩

theorem getLaunch_entering {s : State} {l : Launch} (n : Node) (hl : getLaunch s l.id = some l) :
    getLaunch (entering s l n) l.id = some (joined l (entrant s l n) l) := by
  change getLaunch (modLaunch s l.id (joined l (entrant s l n))) l.id = _
  rw [getLaunch_modLaunch_same, hl, Option.map_some]

/-! ### The obligation -/

theorem refuses_iff (s : State) (l : Launch) (n : Node) :
    refuses s l n = true ↔ n.preds ≠ 0 ∨ n.nsucc ≠ 0 ∨ 2 ^ 24 ≤ l.nodeCount ∨ l.phase ≠ .running ∨ nodeCheck s l n = false := by
  unfold refuses
  simp only [Bool.or_eq_true, Bool.not_eq_true', decide_eq_true_eq, or_assoc]
  exact Iff.rfl

/-- What an accepted spawn leaves: the launch with the node, and the counts. -/
theorem addNode_spec {s : State} {l : Launch} (n : Node) (hl : getLaunch s l.id = some l) :
    ∃ v m, getLaunch (addNode s l n) l.id = some v ∧ v.nodeCount = l.nodeCount + 1 ∧ getNode v l.nodeCount = some m ∧ SameNode n m ∧
      getCore (addNode s l n) (coreOf s.cur) = getCore (countSpawn s l.id) (coreOf s.cur) := by
  obtain ⟨only, keeps⟩ := addNode_kept s l n
  obtain ⟨v, hv, same⟩ := keeps _ _ (getLaunch_entering n hl)
  obtain ⟨m, hm, node⟩ := same.nodes l.nodeCount (entrant s l n) (mapGet_mapPut_same none l.nodes l.nodeCount (some (entrant s l n)))
  have core : getCore (entering s l n) (coreOf s.cur) = getCore (countSpawn s l.id) (coreOf s.cur) := by
    unfold entering
    rw [modLaunch_frame]
    rfl
  have entered : SameNode n (entrant s l n) := rfl
  exact ⟨v, m, hv, by rw [same.rest]; rfl, hm, entered.trans node, by rw [only.getCore, core]⟩

/-- Settles O30: a TSPAWN is refused, waits for its release, or adds its node. -/
theorem nodeSpawn : Obligations.NodeSpawn := by
  unfold Obligations.NodeSpawn
  intro d a s p n counted
  refine ⟨fun hh => illegal_of_eq ?_, fun hh odd => ?_, fun hh dev aligned hp good good' mca => ⟨fun hl => ?_, fun l hl hid => ?_⟩⟩
  · change execTspawn d a s = _
    rw [execTspawn, if_pos hh]
  · have answers : exec (.tspawn d a) s = trapR s ⟨0x04, p, 0⟩ := by
      change execTspawn d a s = _
      rw [execTspawn, if_neg (by rw [hh]; decide), if_pos odd]
    rw [answers]
    exact traps_trapR s ⟨0x04, p, 0⟩
  · refine ⟨_, ?_, writesX_modMe s d noNode⟩
    rw [exec_tspawn d a hh dev aligned hp good good' mca, spawn, hl]
    rfl
  · have answers : exec (.tspawn d a) s =
        if refuses s l n then done4With (countSpawn s l.id) d noNode
        else afterRelease s (nodeScope l n) (done4With (addNode s l n) d (BitVec.ofNat 64 l.nodeCount)) := by
      rw [exec_tspawn d a hh dev aligned hp good good' mca, spawn, hl]
      rfl
    intro refused
    have accepted : ¬refused → ¬refuses s l n = true := fun ok h => ok ((refuses_iff s l n).1 h)
    refine ⟨fun h => ?_, fun ok early => ?_, fun ok ready => ?_⟩
    · rw [if_pos ((refuses_iff s l n).2 h)] at answers
      exact ⟨_, answers, doneWith_modMe (countSpawn s l.id) d noNode, countSpawn_core s l.id, rfl⟩
    · obtain ⟨t, e, w⟩ := waits_waitFor s (.order (nodeScope l n))
      refine ⟨t, ?_, w⟩
      rw [answers, if_neg (accepted ok), afterRelease, early]
      exact e
    · rw [if_neg (accepted ok), afterRelease, if_pos ready] at answers
      obtain ⟨v, m, hv, count, hm, same, core⟩ := addNode_spec n (hid ▸ hl)
      refine ⟨_, v, m, answers, fun hd => ?_, hv, count, hm, by rw [same], by rw [same], by rw [same], ?_⟩
      · rw [me_modMe, readX_retireHart, readX_writeX_same _ _ hd]
      · have counts := countSpawn_core s l.id
        rw [← core] at counts
        exact counts

end Sys2Proof.Proofs
end

section
/-!
PROOFS. The dispatcher and the control core (R62, R63, R65, R66).
-/

namespace Sys2Proof.Proofs

open Sys2Proof Sys2Proof.Machine Sys2Proof.Claims

/-! ### Searches -/

theorem findSome?_of_only {α β : Type} {f : α → Option β} {a : α} {b : β} (hit : f a = some b) {l : List α} (mem : a ∈ l)
    (miss : ∀ x ∈ l, x ≠ a → f x = none) : l.findSome? f = some b := by
  induction l with
  | nil => cases mem
  | cons x l ih =>
    by_cases hx : x = a
    · rw [List.findSome?_cons, hx, hit]
    · rw [List.findSome?_cons, miss x List.mem_cons_self hx]
      exact ih ((List.mem_cons.1 mem).resolve_left fun h => hx h.symm) fun y hy => miss y (List.mem_cons_of_mem _ hy)

/-- A list all of whose members are one value finds it. -/
theorem find?_of_all {α : Type} {p : α → Bool} {a : α} (hp : p a = true) {l : List α} (some' : l ≠ []) (all : ∀ x ∈ l, x = a) :
    l.find? p = some a := by
  cases l with
  | nil => exact absurd rfl some'
  | cons x l => rw [all x List.mem_cons_self, List.find?_cons_of_pos hp]

theorem mapGet_foldl_mapPut {β : Type} [DecidableEq β] (d : β) (w : Nat → β) (l : List Nat) (m : SMap β) (k : Nat) :
    mapGet d (l.foldl (fun m t => mapPut d m t (w t)) m) k = if k ∈ l then w k else mapGet d m k := by
  induction l generalizing m with
  | nil => rfl
  | cons t l ih =>
    rw [List.foldl_cons, ih]
    by_cases hk : k ∈ l
    · rw [if_pos hk, if_pos (List.mem_cons_of_mem _ hk)]
    · rw [if_neg hk]
      by_cases ht : k = t
      · rw [ht, mapGet_mapPut_same, if_pos List.mem_cons_self]
      · rw [mapGet_mapPut_ne d m (w t) ht, if_neg (by simp [ht, hk])]

/-! ### The choice of a node where one is offered -/

/-- The credits of a die, refilled by weight where none of some tenants has any left (R63). -/
def credits (s : State) (die : Nat) (ts : List Nat) : SMap Nat :=
  if ts.any fun t => mapGet 0 (getDie s die).credit t ≠ 0 then (getDie s die).credit
  else (List.range 16).foldl (fun m t => mapPut 0 m t (weightOf s t)) (getDie s die).credit

theorem credits_ne {s : State} {die t : Nat} {ts : List Nat} (all : ∀ x ∈ ts, x = t) (ht : t < 16)
    (weighs : weightOf s t ≠ 0) : mapGet 0 (credits s die ts) t ≠ 0 := by
  unfold credits
  split
  · next some' =>
    obtain ⟨x, hx, hc⟩ := List.any_eq_true.1 some'
    rw [all x hx] at hc
    simpa using hc
  · rw [mapGet_foldl_mapPut, if_pos (List.mem_range.2 ht)]
    exact weighs

theorem mem_afterTenant (last : Nat) (ts : List Nat) (t : Nat) : t ∈ afterTenant last ts ↔ t ∈ ts := by
  unfold afterTenant
  simp only [List.mem_append, List.mem_filter, decide_eq_true_eq]
  constructor
  · rintro (h | h) <;> exact h.1
  · intro h
    exact (Nat.lt_or_ge last t).imp (⟨h, ·⟩) (⟨h, ·⟩)

/-- The dies differ alone, and the pool of one is as it was. -/
def SamePool (s t : State) (die : Nat) : Prop := t = { s with dies := t.dies } ∧ (getDie t die).pool = (getDie s die).pool

section Choice

variable {s : State} {die : Nat} {e : PoolEntry}

theorem selectAt_other {level : Nat} (h : e.level ≠ level) : selectAt s die [e] level = none := by
  have none' : oldestEntry ([e].filter fun e => e.isLocal && e.level = level) = none := by simp [h, oldestEntry, sortBy]
  have nobody : tenantsAt s [e] level = [] := by
    unfold tenantsAt
    simp [h]
  unfold selectAt
  rw [none', nobody]

theorem selectAt_local (h : e.isLocal = true) : selectAt s die [e] e.level = some (s, e) := by
  have first : oldestEntry ([e].filter fun x => x.isLocal && x.level = e.level) = some e := by simp [h, oldestEntry, sortBy, insertBy]
  unfold selectAt
  rw [first]

theorem mem_tenantsAt (h : e.isLocal = false) (t : Nat) : t ∈ tenantsAt s [e] e.level ↔ t < 16 ∧ weightOf s t ≠ 0 ∧ e.tenant = t := by
  unfold tenantsAt
  simp [h]

theorem selectAt_weighed (h : e.isLocal = false) (ht : e.tenant < 16) (weighs : weightOf s e.tenant ≠ 0) :
    ∃ t, selectAt s die [e] e.level = some (t, e) ∧ SamePool s t die := by
  have none' : oldestEntry ([e].filter fun x => x.isLocal && x.level = e.level) = none := by simp [h, oldestEntry, sortBy]
  have first : oldestEntry ([e].filter fun x => !x.isLocal && x.level = e.level && x.tenant = e.tenant) = some e := by
    simp [h, oldestEntry, sortBy, insertBy]
  have mine : e.tenant ∈ tenantsAt s [e] e.level := (mem_tenantsAt h _).2 ⟨ht, weighs, rfl⟩
  have all : ∀ t ∈ tenantsAt s [e] e.level, t = e.tenant := fun t h' => ((mem_tenantsAt h t).1 h').2.2.symm
  unfold selectAt
  rw [none']
  simp only
  generalize tenantsAt s [e] e.level = ts at mine all
  cases ts with
  | nil => cases mine
  | cons t ts =>
    have some' : mapGet 0 (credits s die (t :: ts)) e.tenant ≠ 0 := credits_ne all ht weighs
    have chosen : (afterTenant (mapGet 15 (getDie s die).lastServed e.level) (t :: ts)).find?
        (fun t' => mapGet 0 (credits s die (t :: ts)) t' ≠ 0) = some e.tenant :=
      find?_of_all (by simpa using some') (List.ne_nil_of_mem ((mem_afterTenant ..).2 mine)) fun x hx => all x ((mem_afterTenant ..).1 hx)
    change ∃ u, (match (afterTenant (mapGet 15 (getDie s die).lastServed e.level) (t :: ts)).find?
        (fun t' => mapGet 0 (credits s die (t :: ts)) t' ≠ 0) with
      | none => none
      | some x => _) = some (u, e) ∧ SamePool s u die
    rw [chosen]
    simp only [first, Option.map_some]
    refine ⟨_, rfl, rfl, ?_⟩
    rw [getDie_modDie_same]

/-- A node that alone is offered is chosen. -/
theorem selectNode_only (hl : e.level < 8) (ht : e.tenant < 16) (may : e.isLocal = true ∨ weightOf s e.tenant ≠ 0) :
    ∃ t, selectNode s die [e] = some (t, e) ∧ SamePool s t die := by
  have at' : ∃ t, selectAt s die [e] e.level = some (t, e) ∧ SamePool s t die := by
    cases h : e.isLocal with
    | true => exact ⟨s, selectAt_local h, rfl, rfl⟩
    | false => exact selectAt_weighed h ht (may.resolve_left (by simp [h]))
  obtain ⟨t, hit, same⟩ := at'
  refine ⟨t, findSome?_of_only hit (by simp; omega) fun x _ hx => selectAt_other (Ne.symm hx), same⟩

end Choice

/-! ### The records of a cluster -/

theorem keepsRecords_takeRecord (s : State) (c : Nat) (r : EventRec) : KeepsRecords s (takeRecord s c r) := by
  unfold takeRecord
  split
  · exact .refl s
  · split
    · exact .refl s
    · next l _ =>
      split
      · exact .refl s
      · next n _ =>
        have charged : KeepsRecords s (chargeSuccessors s l n (c / 256)) := keepsRecords_of_clusters (by
          rw [show OnlyTraffic s (chargeSuccessors s l n (c / 256)) from chargeAgent_traffic ..])
        refine charged.trans (foldl_rel KeepsRecords.refl KeepsRecords.trans _ (fun u id => ?_) _ _)
        refine .trans (keepsRecords_of_clusters ?_) (keepsRecords_readyNode _ l.id id true)
        rw [modNode_frame]

/-- A record less in the event queue, and one poster more. -/
def recordTaken (s : State) (c : Nat) (rest : List EventRec) : State :=
  let u := modCluster s c fun v => { v with eventQ := rest }
  match (getCluster u c).posters with
  | [] => u
  | p :: ps => post (modCluster u c fun v => { v with eventQ := v.eventQ ++ [p], posters := ps }) (.eventRecordTake c)

theorem recordTaken_queues (s : State) (c : Nat) (rest : List EventRec) :
    (getCluster (recordTaken s c rest) c).eventQ = rest ++ (getCluster s c).posters.take 1 ∧
      (getCluster (recordTaken s c rest) c).posters = (getCluster s c).posters.drop 1 := by
  unfold recordTaken
  simp only [getCluster_modCluster_same]
  split
  · next none' => simp [none']
  · next p ps more => simp [more]

theorem eventRecordTake_queues {s : State} {c : Nat} {r : EventRec} {rest : List EventRec} (h : (getCluster s c).eventQ = r :: rest) :
    ∃ t, exec (.eventRecordTake c) s = .next t ∧ (getCluster t c).eventQ = rest ++ (getCluster s c).posters.take 1 ∧
      (getCluster t c).posters = (getCluster s c).posters.drop 1 := by
  have answers : exec (.eventRecordTake c) s = .next (noteEmpty (takeRecord (recordTaken s c rest) c r) c) := by
    change execEventRecordTake c s = _
    unfold execEventRecordTake
    rw [h]
    rfl
  obtain ⟨queue, posters⟩ := recordTaken_queues s c rest
  obtain ⟨queue', posters'⟩ := ((keepsRecords_takeRecord (recordTaken s c rest) c r).trans (keepsRecords_noteEmpty _ c)) c
  exact ⟨_, answers, queue'.trans queue, posters'.trans posters⟩

/-! ### A slot of a work queue filled -/

theorem receiveEntry_pool {s : State} {c : Nat} {e : PoolEntry} (pool : (getDie s (c / 256)).pool = [e]) (mine : e.clusters = [c]) :
    (getDie (receiveEntry s c e) (c / 256)).pool = [] := by
  unfold receiveEntry
  rw [getDie_modDie_same]
  simp [pool, mine]

theorem dispatchArbitration_fills {s : State} {c : Nat} {e : PoolEntry} {l : Launch} {n : Node} (room : (getCluster s c).workQ.length < 4)
    (os : isOsCluster s c = false) (awake : (getCluster s c).idle = false) (pool : (getDie s (c / 256)).pool = [e]) (mine : e.clusters = [c])
    (hl8 : e.level < 8) (ht : e.tenant < 16) (may : e.isLocal = true ∨ (getTenant s e.tenant).weight ≠ 0)
    (hl : getLaunch s e.launch = some l) (hid : l.id = e.launch) (hn : getNode l e.node = some n) :
    ∃ t m, exec (.dispatchArbitration c) s = .next t ∧ (getDie t (c / 256)).pool = [] ∧
      (getCluster t c).workQ = (getCluster s c).workQ ++ [⟨l.id, e.node, e.isLocal, (nodeStarts s l n).filter fun x => x.1 / 16 = c⟩] ∧
      nodeAt t e.launch e.node = some m ∧ m.phase = .handedOut ∧ t.harts = s.harts ∧ t.views = s.views := by
  have cands : candidates s c = [e] := by simp [candidates, pool, mine]
  have weighs : e.isLocal = true ∨ weightOf s e.tenant ≠ 0 :=
    may.imp_right fun h h' => h (BitVec.eq_of_toNat_eq (by simpa [weightOf] using h'))
  obtain ⟨u, chosen, same, pool'⟩ := selectNode_only (s := s) (die := c / 256) hl8 ht weighs
  rw [pool] at pool'
  have empty := receiveEntry_pool pool' mine
  have received : receiveEntry u c e = { s with dies := (receiveEntry u c e).dies } := by
    rw [show receiveEntry u c e = { u with dies := (receiveEntry u c e).dies } from rfl, same]
  generalize hw : receiveEntry u c e = w at empty received
  have hl' : getLaunch w e.launch = some l := by rw [received]; exact hl
  have answers : exec (.dispatchArbitration c) s = .next (post (placeNode w c l e.node n e.isLocal) (.dispatchArbitration c)) := by
    change execDispatchArbitration c s = _
    unfold execDispatchArbitration
    rw [if_neg (by simp [os, room]), cands, chosen]
    simp only [awake, Bool.false_eq_true, if_false, hw, hl', hn]
  have placed := placeNode_agenda w c l e.node n e.isLocal
  generalize placeNode w c l e.node n e.isLocal = t at answers placed
  rw [modNode_frame] at placed
  have node : nodeAt t e.launch e.node = some (handOut n) := by
    rw [nodeAt_congr (by rw [placed] : t.launches = (modNode (modCluster w c _) l.id e.node handOut).launches), hid]
    exact nodeAt_of (getLaunch_modNode_same (s := modCluster w c _) handOut hl' hn) (getNode_withNode_same ..)
  refine ⟨_, handOut n, answers, ?_, ?_, node, rfl, ?_, ?_⟩
  · rw [getDie_post, placed]
    exact empty
  · have clusters : getCluster t c = getCluster (modCluster w c fun v => { v with workQ := v.workQ ++ [workEntry w c l e.node n e.isLocal] }) c := by
      rw [placed]
      rfl
    rw [getCluster_post, clusters, getCluster_modCluster_same, received]
    rfl
  · change t.harts = _
    rw [placed, received]
    rfl
  · change t.views = _
    rw [placed, received]
    rfl

theorem dispatch_holds : Dispatch := by
  refine ⟨fun c s e l n room os awake pool mine hl8 ht may hl hid hn =>
    dispatchArbitration_fills room os awake pool mine hl8 ht may hl hid hn, fun die s some' => ?_, fun c s r rest h => eventRecordTake_queues h⟩
  have answers : exec (.nodeAging die) s =
      .next (post (modDie s die fun d => { d with pool := (getDie s die).pool.map (agedEntry s.time) }) (.nodeAging die)) := by
    change execNodeAging die s = _
    unfold execNodeAging
    split
    · next none' => exact absurd none' some'
    · rfl
  refine ⟨_, answers, ?_⟩
  rw [getDie_post, getDie_modDie_same]
  rfl

end Sys2Proof.Proofs
end

section
/-!
PROOFS. A free context and its claimants, slices taken, and writes to every view (R75, R85, R109).
-/

namespace Sys2Proof.Proofs

open Sys2Proof Sys2Proof.Machine Sys2Proof.Claims

/-! ### Claimants -/

theorem mem_insertBy {α : Type} (le : α → α → Bool) (x y : α) (l : List α) : y ∈ insertBy le x l ↔ y = x ∨ y ∈ l := by
  induction l with
  | nil => simp [insertBy]
  | cons z l ih =>
    rw [insertBy]
    split
    · simp
    · simp only [List.mem_cons, ih]
      tauto

theorem mem_sortBy {α : Type} (le : α → α → Bool) (y : α) (l : List α) : y ∈ sortBy le l ↔ y ∈ l := by
  induction l with
  | nil => simp [sortBy]
  | cons x l ih => rw [sortBy, mem_insertBy, ih, List.mem_cons]

/-- A saved hart that claims a context was saved from it. -/
theorem claimant_saved {s : State} {core ctx : Nat} {r : Save} (h : claimant s core ctx = some (.saved r)) :
    r ∈ s.saves ∧ r.core = core ∧ r.ctx = ctx := by
  obtain ⟨c, hc, who⟩ := Option.map_eq_some_iff.1 h
  have mem : c ∈ claimsOn s core ctx := (mem_sortBy ..).1 (List.mem_of_mem_head? hc)
  have here : r ∈ savedHere s core ctx := by
    rcases List.mem_append.1 mem with saved | start
    · obtain ⟨q, hq, e⟩ := List.mem_map.1 saved
      have : c.who = .saved q := by rw [← e]; split <;> rfl
      rw [this] at who
      cases who
      exact (List.mem_filter.1 hq).1
    · obtain ⟨i, hi, e⟩ := List.mem_mapIdx.1 start
      rw [← e] at who
      cases who
  have facts := List.mem_filter.1 here
  simp only [Bool.and_eq_true, decide_eq_true_eq] at facts
  exact ⟨facts.1, facts.2.1.1, facts.2.1.2⟩

theorem contextFree_of {s : State} {core ctx : Nat} (h : FreeContext s core ctx) : contextFree s core ctx = true := by
  obtain ⟨hctx, free, boot⟩ := h
  unfold contextFree hartKey
  simp only [hctx, free, decide_true, Bool.true_and, decide_eq_true_eq]
  exact boot

/-! ### A slice taken -/

/-- Only slices, what is due and the requests to drain differ. -/
structure TakesSlice (s t : State) : Prop where
  rest : t = { s with harts := t.harts, clusters := t.clusters, agenda := t.agenda }
  harts : ∀ k, getHart t k = { getHart s k with preempt := (getHart t k).preempt }

theorem TakesSlice.trans {s t u : State} (a : TakesSlice s t) (b : TakesSlice t u) : TakesSlice s u :=
  ⟨by rw [b.rest, a.rest], fun k => by rw [b.harts, a.harts]⟩

theorem takesSlice_setPreempt (p : Preempt) (s : State) (h : Nat) : TakesSlice s (setPreempt p s h) := by
  refine ⟨rfl, fun k => ?_⟩
  by_cases hk : k = h
  · rw [hk, setPreempt, getHart_modHart_same]
  · rw [setPreempt, getHart_modHart_ne _ _ hk]

theorem takesSlice_refl (s : State) : TakesSlice s s := ⟨rfl, fun _ => rfl⟩

theorem takesSlice_post {s t : State} (h : t = { s with clusters := t.clusters, agenda := t.agenda }) : TakesSlice s t := by
  have harts : ∀ k, getHart t k = getHart s k := fun k => by rw [h]; rfl
  exact ⟨by rw [h], fun k => by rw [harts]⟩

/-- The request to drain is withdrawn from the harts of a slice that begins. -/
def undrain (s : State) (core tenant : Nat) (begins : Bool) : State :=
  if begins then (sliceHarts s (clusOf core) (sliceKey s core tenant)).foldl (setPreempt .none) s else s

theorem takesSlice_undrain (s : State) (core tenant : Nat) (begins : Bool) : TakesSlice s (undrain s core tenant begins) := by
  unfold undrain
  split
  · exact foldl_rel takesSlice_refl TakesSlice.trans _ (takesSlice_setPreempt .none) _ s
  · exact takesSlice_refl s

theorem onlyAgenda_postOnce (s : State) (e : Event) : OnlyAgenda s (postOnce s e) := by
  unfold postOnce
  split <;> rfl

theorem takesSlice_postOnce (s : State) (e : Event) : TakesSlice s (postOnce s e) :=
  takesSlice_post (by rw [onlyAgenda_postOnce s e])

theorem takesSlice_setSlice (s : State) (c k : Nat) (v : SliceState) : TakesSlice s (setSlice s c k v) := takesSlice_post rfl

theorem takesSlice_takeSlice (s : State) (core tenant : Nat) : TakesSlice s (takeSlice s core tenant) := by
  unfold takeSlice
  exact ((takesSlice_undrain s core tenant _).trans (takesSlice_setSlice ..)).trans (takesSlice_postOnce ..)

/-! ### Writes to every view -/

theorem viewOf_applyAll {d : Nat} (hd : d < 4) (s : State) (key : Nat) (bs : List Byte) :
    viewOf (applyAll s key bs) d = putBytes (viewOf s d) key bs := by
  unfold applyAll applyView
  have cases : d = 0 ∨ d = 1 ∨ d = 2 ∨ d = 3 := by omega
  rcases cases with rfl | rfl | rfl | rfl <;> simp [viewOf_setView_ne]

theorem viewByte_applyAll_inside {d : Nat} (hd : d < 4) (s : State) (key : Nat) (bs : List Byte) (i : Nat) (hi : i < bs.length) :
    viewByte (applyAll s key bs) d (key + i) = bs[i] := by
  rw [viewByte, viewOf_applyAll hd, mapGet_putBytes_inside _ _ _ _ hi]

theorem viewByte_applyAll_outside {d : Nat} (hd : d < 4) (s : State) (key : Nat) (bs : List Byte) {k : Nat}
    (h : k < key ∨ key + bs.length ≤ k) : viewByte (applyAll s key bs) d k = viewByte s d k := by
  rw [viewByte, viewOf_applyAll hd, mapGet_putBytes_outside _ _ _ _ h, viewByte]

/-- Only the views differ. -/
def OnlyViews (s t : State) : Prop := t = { s with views := t.views }

theorem OnlyViews.trans {s t u : State} (a : OnlyViews s t) (b : OnlyViews t u) : OnlyViews s u := by
  unfold OnlyViews at *
  rw [b, a]

theorem onlyViews_applyAll (s : State) (key : Nat) (bs : List Byte) : OnlyViews s (applyAll s key bs) := rfl

end Sys2Proof.Proofs
end

section
/-!
PROOFS. A saved hart goes on in its own context (R84, R86).
-/

namespace Sys2Proof.Proofs

open Sys2Proof Sys2Proof.Machine Sys2Proof.Claims

/-! ### A bank written back -/

/-- The bytes of a bank, each written to every view. -/
def restoreBank (base : Nat) (bank : SMap Byte) (s : State) : State := bank.foldl (fun s e => applyAll s (base + e.1) [e.2]) s

theorem onlyViews_restoreBank (base : Nat) (bank : SMap Byte) (s : State) : OnlyViews s (restoreBank base bank s) := by
  induction bank generalizing s with
  | nil => rfl
  | cons e bank ih => exact (onlyViews_applyAll s (base + e.1) [e.2]).trans (ih (applyAll s (base + e.1) [e.2]))

theorem viewByte_restoreBank_below {d : Nat} (hd : d < 4) (base : Nat) {lo k : Nat} (hk : k < base + lo) {bank : SMap Byte} (s : State)
    (w : risingFrom lo bank = true) : viewByte (restoreBank base bank s) d k = viewByte s d k := by
  induction bank generalizing s lo with
  | nil => rfl
  | cons e bank ih =>
    obtain ⟨a, b⟩ := e
    simp only [risingFrom, Bool.and_eq_true, decide_eq_true_eq] at w
    change viewByte (restoreBank base bank (applyAll s (base + a) [b])) d k = _
    rw [ih (by omega) _ w.2, viewByte_applyAll_outside hd _ _ _ (by left; omega)]

theorem viewByte_restoreBank {d : Nat} (hd : d < 4) (base : Nat) {lo : Nat} {bank : SMap Byte} (s : State) (w : risingFrom lo bank = true)
    {e : Nat × Byte} (he : e ∈ bank) : viewByte (restoreBank base bank s) d (base + e.1) = e.2 := by
  induction bank generalizing s lo with
  | nil => cases he
  | cons x bank ih =>
    obtain ⟨a, b⟩ := x
    simp only [risingFrom, Bool.and_eq_true, decide_eq_true_eq] at w
    change viewByte (restoreBank base bank (applyAll s (base + a) [b])) d _ = _
    rcases List.mem_cons.1 he with rfl | he
    · rw [viewByte_restoreBank_below hd base (by omega) _ w.2]
      exact viewByte_applyAll_inside hd s (base + a) [b] 0 (by simp)
    · exact ih _ w.2 he

/-! ### Lines that no budget puts off -/

theorem refreshBudgets_requests (s : State) (r : DramRequest) : .dramRequestIssue r ∈ (refreshBudgets s).agenda ↔ .dramRequestIssue r ∈ s.agenda := by
  unfold refreshBudgets
  simp only
  split
  · exact Iff.rfl
  · simp [postAll]

theorem budgetHolds_quiet {s : State} (quiet : NoDramWaits s) (ch tenant : Nat) : budgetHolds s ch tenant = false := by
  have nobody : betterWaits (refreshBudgets s) ch = false := by
    rw [betterWaits, List.any_eq_false]
    intro e he
    split
    · next r => exact absurd ((refreshBudgets_requests s r).1 he) (quiet r)
    · decide
  simp [budgetHolds, nobody]

theorem saveServed_quiet {s : State} (quiet : NoDramWaits s) (r : Save) : saveServed s r = true := by
  have free : ∀ k, heldFor s r.launch k = none := fun k => by
    unfold heldFor
    split
    · rfl
    · simp only
      split
      · rw [budgetHolds_quiet quiet]
        rfl
      · rfl
  have none' : linesHeld s r.launch (saveKeys r) = none := List.findSome?_eq_none_iff.2 fun k _ => free k
  simp [saveServed, none']

/-! ### The resume -/

section Resume

variable (s : State) (core ctx : Nat) (r : Save)

/-- A record leaves the saved harts; its context is powered and its slice goes on. -/
def resumeSlice : State :=
  takeSlice (powerUp { s with saves := s.saves.filter (· ≠ r) } core ctx) core (launchTenant { s with saves := s.saves.filter (· ≠ r) } r.launch)

/-- Its bank is written back. -/
def resumeBank : State := restoreBank (localOf core + ctx * 0x4000) r.bank (resumeSlice s core ctx r)

/-- The hart stands in its context again. -/
def resumeHart : State := setHart (resumeBank s core ctx r) (hartKey core ctx) (resumedHart (resumeBank s core ctx r) r)

/-- Its commands are its own, and its launch's record of planes of no more use. -/
def resumeCmds : State :=
  forgetPlanes
    (adoptCmds (resumeHart s core ctx r) (hartKey core ctx) (r.hidOld.extractLsb' 24 8) (getHart (resumeHart s core ctx r) (hartKey core ctx)).gen)
    core r.launch

/-- The lines of its record have been read, and what claims the cluster's other contexts is offered them. -/
def resumeDone : State :=
  offerCluster (settleNode ((saveKeys r).foldl (chargeLine r.launch false) (resumeCmds s core ctx r)) r.launch r.sr.node.toNat) (clusOf core)

variable {s core ctx r}

theorem exec_hartResume (free : FreeContext s core ctx) (best : claimant s core ctx = some (.saved r))
    (awake : (getCluster s (core / 16)).idle = false) (quiet : NoDramWaits s) (acc : r.acc = none)
    (planes : ∀ v ∈ s.saves, v.core = core → v.launch = r.launch → v.planes = none) :
    exec (.hartResume core ctx) s = .next (resumeDone s core ctx r) := by
  have none' : (s.saves.filter fun v => v.core = core && v.launch = r.launch).findSome? (·.planes) = none := by
    rw [List.findSome?_eq_none_iff]
    intro v hv
    have facts := List.mem_filter.1 hv
    simp only [Bool.and_eq_true, decide_eq_true_eq] at facts
    exact planes v facts.1 facts.2.1 facts.2.2
  have served : saveServed (post s (.hartResume core ctx)) r = true := saveServed_quiet (fun q h => by
    simp only [post, List.mem_append, List.mem_singleton] at h
    exact h.elim (quiet q) (fun h => by cases h)) r
  change execHartResume core ctx s = _
  unfold execHartResume
  rw [contextFree_of free, best]
  simp only [Bool.not_true, Bool.false_eq_true, if_false, clusOf, awake, none', served, acc]
  rfl

/-- What the last steps of a resume leave alone. -/
theorem resumeDone_frame (s : State) (core ctx : Nat) (r : Save) :
    (resumeDone s core ctx r).harts = (resumeHart s core ctx r).harts ∧ (resumeDone s core ctx r).views = (resumeBank s core ctx r).views ∧
      (resumeDone s core ctx r).saves = (resumeCmds s core ctx r).saves := by
  have charged : OnlyTraffic (resumeCmds s core ctx r) ((saveKeys r).foldl (chargeLine r.launch false) (resumeCmds s core ctx r)) :=
    .foldl _ (chargeLine_traffic r.launch false) _ _
  have settled := (settleNode_spec ((saveKeys r).foldl (chargeLine r.launch false) (resumeCmds s core ctx r)) r.launch r.sr.node.toNat).1
  have offered := onlyAgenda_offerCluster
    (settleNode ((saveKeys r).foldl (chargeLine r.launch false) (resumeCmds s core ctx r)) r.launch r.sr.node.toNat) (clusOf core)
  unfold resumeDone
  rw [offered, settled, charged]
  exact ⟨rfl, rfl, rfl⟩

/-- What the first steps of a resume leave: the generation of the context and, but for one record, the saved harts. -/
theorem resumeBank_frame (s : State) (core ctx : Nat) (r : Save) :
    (∀ k, (getHart (resumeBank s core ctx r) k).gen = (getHart s k).gen) ∧ (resumeBank s core ctx r).saves = s.saves.filter (· ≠ r) ∧
      (resumeBank s core ctx r).tick = s.tick := by
  have taken := takesSlice_takeSlice (powerUp { s with saves := s.saves.filter (· ≠ r) } core ctx) core
    (launchTenant { s with saves := s.saves.filter (· ≠ r) } r.launch)
  have bank := onlyViews_restoreBank (localOf core + ctx * 0x4000) r.bank (resumeSlice s core ctx r)
  refine ⟨fun k => ?_, ?_, ?_⟩
  · have same : getHart (resumeBank s core ctx r) k = getHart (resumeSlice s core ctx r) k := by
      unfold resumeBank
      rw [bank]
      rfl
    rw [same, resumeSlice, taken.harts]
    rfl
  all_goals
    unfold resumeBank
    rw [bank]
    unfold resumeSlice
    rw [taken.rest]
    rfl

/-- The record is no longer among the saved harts. -/
theorem resumeDone_saves (mem : r ∈ s.saves) : (resumeDone s core ctx r).saves.length < s.saves.length := by
  obtain ⟨-, saves, -⟩ := resumeBank_frame s core ctx r
  have mapped : (resumeDone s core ctx r).saves.length = (resumeBank s core ctx r).saves.length := by
    rw [(resumeDone_frame s core ctx r).2.2]
    exact List.length_map ..
  rw [mapped, saves]
  exact List.length_filter_lt_length_iff_exists.2 ⟨r, mem, by simp⟩

theorem getHart_resumeDone :
    getHart (resumeDone s core ctx r) (hartKey core ctx) = resumedHart s r := by
  obtain ⟨gens, -, tick⟩ := resumeBank_frame s core ctx r
  have stands : getHart (resumeDone s core ctx r) (hartKey core ctx) = resumedHart (resumeBank s core ctx r) r := by
    have := (resumeDone_frame s core ctx r).1
    unfold getHart
    rw [this]
    exact getHart_setHart_same ..
  rw [stands]
  unfold resumedHart
  rw [gens, tick]

end Resume

theorem hartResume_holds {s : State} {core ctx : Nat} {r : Save} (free : FreeContext s core ctx)
    (best : claimant s core ctx = some (.saved r)) (awake : (getCluster s (core / 16)).idle = false) (quiet : NoDramWaits s)
    (acc : r.acc = none) (planes : ∀ v ∈ s.saves, v.core = core → v.launch = r.launch → v.planes = none) (wf : mapWf 0 r.bank = true) :
    let h := core * 16 + ctx
    ∃ t, exec (.hartResume core ctx) s = .next t ∧ t.saves.length < s.saves.length ∧
      (getHart t h).tenure = .running ∧ (getHart t h).mode = (if r.inS then .S else .U) ∧ (getHart t h).pc = r.pc &&& ~~~1 ∧
      (getHart t h).gen = (getHart s h).gen ∧ (getHart t h).launch = r.launch ∧ (getHart t h).tile = r.tile ∧
      (getHart t h).sr = { r.sr with subt := r.subt } ∧ (getHart t h).mpend = r.mpend ∧ (getHart t h).faults = r.faults ∧
      (∀ i : Fin 32, i ≠ 0 → r.mask.getLsbD i = true → (getHart t h).x[i] = r.x[i]) ∧
      (∀ i : Fin 32, (getHart t h).live.getLsbD i = r.mask.getLsbD (32 + i) ∧
        (r.mask.getLsbD (32 + i) = true → (getHart t h).v[i] = r.v[i])) ∧
      ∀ e ∈ r.bank, ∀ d < 4, viewByte t d (0x100000000 + core * 0x20000 + ctx * 0x4000 + e.1) = e.2 := by
  obtain ⟨mem, hc, hx⟩ := claimant_saved best
  intro h
  refine ⟨_, exec_hartResume free best awake quiet acc planes, resumeDone_saves mem, ?_⟩
  have stands : getHart (resumeDone s core ctx r) h = resumedHart s r := getHart_resumeDone
  rw [stands]
  refine ⟨rfl, rfl, rfl, ?_, rfl, rfl, rfl, rfl, rfl, fun i hi hm => ?_, fun i => ⟨?_, fun hm => ?_⟩, fun e he d hd => ?_⟩
  · change (getHart s (hartKey r.core r.ctx)).gen = _
    rw [hc, hx]
    rfl
  · change (resumedX s.tick r)[i] = _
    simp [resumedX, hi, hm]
  · change (r.mask.extractLsb' 32 32).getLsbD i = _
    rw [BitVec.getLsbD_extractLsb']
    simp
  · change (Vector.ofFn fun i : Fin 32 => if r.mask.getLsbD (32 + i.val) then r.v[i] else 0)[i] = _
    simp only [Fin.getElem_fin, Vector.getElem_ofFn, hm, if_true]
  · have views := (resumeDone_frame s core ctx r).2.1
    have byte := viewByte_restoreBank hd (localOf core + ctx * 0x4000) (resumeSlice s core ctx r) ((mapWf_iff ..).1 wf).1 he
    unfold viewByte viewOf at byte ⊢
    rw [views]
    exact byte

end Sys2Proof.Proofs
end

section
/-!
PROOFS. What a starting hart reads and what its launch's loader writes (R36, R41, R42, R298).
-/

namespace Sys2Proof.Proofs

open Sys2Proof Sys2Proof.Machine Sys2Proof.Claims

/-! ### The cores that a launch binds -/

/-- Some stretches of cores lie on the device. -/
def OnDevice (l : List Inst) : Prop := ∀ p ∈ l, p.1 + p.2 ≤ 0x4000

theorem onDevice_instancesIn {s : State} {d : Scope} {p : Inst} (h : p.1 + p.2 ≤ 0x4000) : OnDevice (instancesIn s d p) := by
  intro e he
  obtain ⟨i, hi, rfl⟩ := List.mem_map.1 (List.mem_filter.1 he).1
  have below := List.mem_range.1 hi
  have fits : (i + 1) * domainCores d ≤ p.2 := (Nat.mul_le_mul_right _ below).trans (Nat.div_mul_le_self ..)
  rw [Nat.succ_mul] at fits
  change p.1 + i * domainCores d + domainCores d ≤ _
  omega

theorem onDevice_takeInstances {launch n : Nat} {l : List Inst} (h : OnDevice l) : OnDevice (takeInstances launch n l) := by
  unfold takeInstances
  split
  · exact h
  · exact fun p hp => h p (List.mem_filter.1 hp).1

theorem onDevice_bindLevel {s : State} {launch : Nat} {ps : List Inst} {l : Level} (h : OnDevice ps) : OnDevice (bindLevel s launch ps l) := by
  unfold bindLevel
  split
  · intro e he
    obtain ⟨p, hp, he⟩ := List.mem_flatMap.1 he
    obtain ⟨c, hc, he⟩ := List.mem_flatMap.1 he
    rw [(List.mem_replicate.1 he).2]
    exact onDevice_instancesIn (h p hp) c hc
  · intro e he
    obtain ⟨p, hp, he⟩ := List.mem_flatMap.1 he
    exact onDevice_takeInstances (onDevice_instancesIn (h p hp)) e he

theorem onDevice_foldl {s : State} {launch : Nat} (ls : List Level) {ps : List Inst} (h : OnDevice ps) :
    OnDevice (ls.foldl (bindLevel s launch) ps) := by
  induction ls generalizing ps with
  | nil => exact h
  | cons l ls ih => exact ih (onDevice_bindLevel h)

theorem onDevice_topInst (s : State) (launch : Nat) (levels : List Level) : OnDevice (topInst s launch levels) := by
  have whole : OnDevice [(0, 16384)] := by simp [OnDevice]
  unfold topInst
  split
  · split
    · exact onDevice_takeInstances (onDevice_instancesIn (by decide))
    · exact whole
  · exact whole

theorem mem_dedup_foldl {l acc : List Nat} {c : Nat} (h : c ∈ l.foldl (fun acc c => if acc.contains c then acc else acc ++ [c]) acc) :
    c ∈ acc ∨ c ∈ l := by
  induction l generalizing acc with
  | nil => exact .inl h
  | cons x l ih =>
    rcases ih h with h | h
    · change c ∈ (if acc.contains x = true then acc else acc ++ [x]) at h
      split at h
      · exact .inl h
      · exact (List.mem_append.1 h).imp_right fun h => by rw [List.mem_singleton.1 h]; exact List.mem_cons_self
    · exact .inr (List.mem_cons_of_mem _ h)

/-- Every core that a launch binds is one of the device. -/
theorem launchCores_lt {s : State} {l : Launch} {g : Nat} (h : g ∈ launchCores s l) : g < 0x4000 := by
  unfold launchCores at h
  obtain ⟨p, hp, hg⟩ := List.mem_flatMap.1 ((mem_dedup_foldl h).resolve_left (by simp))
  have onDevice : p.1 + p.2 ≤ 0x4000 := onDevice_foldl _ (onDevice_topInst s l.id l.levels) p hp
  obtain ⟨q, hq, hg⟩ := List.mem_flatMap.1 hg
  obtain ⟨c, hc, rfl⟩ := List.mem_map.1 hg
  have within : q.1 + q.2 ≤ 0x4000 := onDevice_foldl _ (ps := [p]) (by simpa [OnDevice] using onDevice) q hq
  obtain ⟨i, hi, rfl⟩ := List.mem_map.1 (List.mem_filter.1 hc).1
  have below := List.mem_range.1 hi
  simp only [domainCores] at below ⊢
  omega

/-! ### The argument block -/

theorem pieces_line {p : Word} (h : p.toNat % 64 = 0) : pieces p 64 = [(p, 64)] := by
  unfold pieces
  simp [lineRuns, h]

theorem rightAdmits_of {va : Nat} {tag : BitVec 8} {e : Right} (he : e.tag = tag) (aligned : va % 64 = 0) (lo : e.base ≤ va)
    (hi : va + 64 ≤ e.base + 64 * e.len) (reads : e.rights.getLsbD 0 = true) : rightAdmits va tag rightR e = true := by
  have line : va / 64 * 64 = va := by omega
  have right : e.rights &&& rightR = rightR := by
    apply BitVec.eq_of_getLsbD_eq
    intro i _
    rw [BitVec.getLsbD_and]
    by_cases hi : i = 0
    · subst hi
      simp [reads]
    · have : rightR.getLsbD i = false := by simp [rightR, hi]
      simp [this]
  unfold rightAdmits
  simp only [line, he, right, decide_true, Bool.true_and, Bool.and_true, Bool.and_eq_true, decide_eq_true_eq]
  omega

/-- The one range of an address is found, whether the lookaside buffer is filled from it or not. -/
theorem plbRange_empty {s : State} {core : Nat} {own : BitVec 16} {va : Nat} {g : Range} (plb : (getCore s core).plb = [])
    (inRange : InRange s va g) : plbRange s core own va = (fillPlb s core (.range own g), some g) := by
  obtain ⟨mem, only⟩ := inRange
  have covers : ∀ r, rangeCovers va r = true ↔ r.base ≤ va ∧ va < r.base + r.len := fun r => by simp [rangeCovers]
  have found : rangeAt s va = some g := by
    cases h : rangeAt s va with
    | none =>
      have nobody := List.find?_eq_none.1 h g mem
      exact absurd ((covers g).2 ((only g mem).2 rfl)) nobody
    | some r =>
      have hit := List.find?_some h
      rw [(only r (List.mem_of_find?_eq_some h)).1 ((covers r).1 hit)]
  unfold plbRange
  simp only [plb, List.findSome?_nil, found]

theorem plbRight_filled {s : State} {core : Nat} {own : BitVec 16} {va : Nat} {tag need : BitVec 8} {g : Range}
    (plb : (getCore s core).plb = []) (admits : ∃ e ∈ mapGet [] s.rights own.toNat, rightAdmits va tag need e = true) :
    ∃ u, plbRight (fillPlb s core (.range own g)) core own va tag need = (u, true) := by
  obtain ⟨e, mem, allows⟩ := admits
  have filled : (getCore (fillPlb s core (.range own g)) core).plb = [.range own g] := by
    rw [fillPlb, getCore_modCore_same]
    simp [plb]
  unfold plbRight
  simp only [filled, List.any_cons, List.any_nil, Bool.or_false, Bool.false_eq_true, if_false]
  split
  · exact ⟨_, rfl⟩
  · next nobody => exact absurd allows (List.find?_eq_none.1 nobody e mem)

theorem engineCheck_args {s : State} {l : Launch} {n : Node} {die : Nat} (h : ArgsReadable s l n die) :
    ∃ u, engineCheck s (launchAgent l die) n.args rightR false 64 =
      .ok u (.plain (n.args.toNat % 2 ^ 56) (n.args.toNat % 2 ^ 56) true) := by
  obtain ⟨aligned, lo, hi, plb, -, -, g, inRange, tag, e, mem, etag, ebase, eend, reads⟩ := h
  have addr : addrOf n.args = n.args.toNat % 2 ^ 56 := addrOf_eq n.args
  have line : n.args.toNat % 2 ^ 56 % 64 = 0 := by omega
  have stamp : tagOf n.args = g.tag := by
    apply BitVec.eq_of_toNat_eq
    rw [← tag]
    change (n.args.extractLsb' 56 8).toNat = _
    rw [BitVec.extractLsb'_toNat, Nat.shiftRight_eq_div_pow]
    omega
  generalize n.args.toNat % 2 ^ 56 = va at *
  have region : regionOf va = .vault := by
    unfold regionOf localBase vaultBase controlBase
    rw [if_neg (by omega), if_neg (by simp; omega), if_pos (by simp; omega)]
  obtain ⟨u, right⟩ := plbRight_filled (own := l.owner) (g := g) plb ⟨e, mem, rightAdmits_of etag line ebase eend reads⟩
  refine ⟨u, ?_⟩
  unfold engineCheck
  simp only [addr, region]
  unfold engineRights
  have range := plbRange_empty (own := l.owner) plb inRange
  simp only [Target.plain, launchAgent, range, stamp, right, ne_eq, not_true, if_false]
  rfl

/-- What the dispatcher reads of an argument block. -/
theorem agentRead_args {s : State} {l : Launch} {n : Node} {die : Nat} (h : ArgsReadable s l n die) :
    agentRead s (launchAgent l die) n.args 64 = some (mapBytes (viewOf s die) (n.args.toNat % 2 ^ 56) 64) := by
  obtain ⟨u, check⟩ := engineCheck_args h
  obtain ⟨aligned, lo, hi, -, good, mca, -⟩ := h
  have line := pieces_line aligned
  have read := readTarget_plain (va := n.args.toNat % 2 ^ 56) (cached := true)
    (by unfold dramBase; omega : n.args.toNat % 2 ^ 56 < dramBase) mca good die noHart 64
  have home : dieOf (launchAgent l die).core = die := Nat.mul_div_cancel _ (by decide)
  unfold agentRead agentReadFor
  simp only [line, List.foldl_cons, List.foldl_nil, check, home]
  change (readTarget s die noHart _ 64).map _ = _
  rw [read]
  rfl

end Sys2Proof.Proofs
end

section
/-!
PROOFS. The loader's writes and the start of a hart (R42, R44, R298, Table 3.6).
-/

namespace Sys2Proof.Proofs

open Sys2Proof Sys2Proof.Machine Sys2Proof.Claims

/-! ### The cores of a launch hang on the firmware alone -/

theorem instancesIn_congr {s t : State} (h : t.firmware = s.firmware) : instancesIn t = instancesIn s := by
  have os : isOsCluster t = isOsCluster s := by unfold isOsCluster; rw [h]
  have all : allOs t = allOs s := by unfold allOs; rw [os]
  unfold instancesIn
  rw [all]

theorem bindLevel_congr {s t : State} (h : t.firmware = s.firmware) : bindLevel t = bindLevel s := by
  funext launch ps l
  unfold bindLevel
  rw [instancesIn_congr h]

theorem levelInstances_congr {s t : State} (h : t.firmware = s.firmware) : levelInstances t = levelInstances s := by
  have top : topInst t = topInst s := by
    funext launch levels
    unfold topInst
    rw [instancesIn_congr h]
  funext launch levels i
  unfold levelInstances
  rw [bindLevel_congr h, top]

theorem launchCores_congr {s t : State} (h : t.firmware = s.firmware) (l : Launch) : launchCores t l = launchCores s l := by
  have below : coresBelow t = coresBelow s := by
    funext launch levels i p
    unfold coresBelow
    rw [bindLevel_congr h, instancesIn_congr h]
  unfold launchCores
  rw [levelInstances_congr h, below]

/-! ### Local sections -/

/-- The local sections of an image written into a core (R298). -/
def loadCore (b : List Byte) (s : State) (g : Nat) : State := applyAll (powerUp s g 7) (localOf g + 0x1E000) b

/-- Only the views and the power of banks differ. -/
structure OnlyLoads (s t : State) : Prop where
  rest : t = { s with views := t.views, cores := t.cores }
  cores : ∀ g, getCore t g = { getCore s g with banks := (getCore t g).banks }

theorem OnlyLoads.refl (s : State) : OnlyLoads s s := ⟨rfl, fun _ => rfl⟩

theorem OnlyLoads.trans {s t u : State} (a : OnlyLoads s t) (b : OnlyLoads t u) : OnlyLoads s u :=
  ⟨by rw [b.rest, a.rest], fun g => by rw [b.cores, a.cores]⟩

theorem onlyLoads_powerUp (s : State) (g ctx : Nat) : OnlyLoads s (powerUp s g ctx) := by
  refine ⟨rfl, fun k => ?_⟩
  by_cases hk : k = g
  · rw [hk, powerUp, getCore_modCore_same]
  · rw [powerUp, getCore_modCore_ne _ _ hk]

theorem onlyLoads_loadCore (b : List Byte) (s : State) (g : Nat) : OnlyLoads s (loadCore b s g) :=
  (onlyLoads_powerUp s g 7).trans ⟨rfl, fun _ => rfl⟩

/-- They are written into several cores. -/
def loadCores (b : List Byte) (gs : List Nat) (s : State) : State := gs.foldl (loadCore b) s

theorem loadCores_cons (b : List Byte) (g : Nat) (gs : List Nat) (s : State) : loadCores b (g :: gs) s = loadCores b gs (loadCore b s g) := by
  unfold loadCores
  exact List.foldl_cons ..

theorem onlyLoads_loadCores (b : List Byte) (gs : List Nat) (s : State) : OnlyLoads s (loadCores b gs s) :=
  foldl_rel OnlyLoads.refl OnlyLoads.trans (loadCore b) (onlyLoads_loadCore b) gs s

theorem viewByte_loadCores_outside {d : Nat} (hd : d < 4) (b : List Byte) (gs : List Nat) {k : Nat}
    (h : ∀ g ∈ gs, k < localOf g + 0x1E000 ∨ localOf g + 0x1E000 + b.length ≤ k) (s : State) :
    viewByte (loadCores b gs s) d k = viewByte s d k := by
  induction gs generalizing s with
  | nil => rfl
  | cons g gs ih =>
    rw [loadCores_cons, ih (fun x hx => h x (List.mem_cons_of_mem _ hx)), loadCore, viewByte_applyAll_outside hd _ _ _ (h g List.mem_cons_self)]
    rfl

theorem viewByte_loadCores_inside {d : Nat} (hd : d < 4) {b : List Byte} (hb : b.length ≤ 0x2000) (gs : List Nat) {g i : Nat} (hg : g ∈ gs)
    (hi : i < b.length) (s : State) : viewByte (loadCores b gs s) d (localOf g + 0x1E000 + i) = b[i] := by
  induction gs generalizing s with
  | nil => cases hg
  | cons x gs ih =>
    rw [loadCores_cons]
    by_cases later : g ∈ gs
    · exact ih later _
    · have hx : g = x := (List.mem_cons.1 hg).resolve_right later
      rw [← hx, viewByte_loadCores_outside hd b gs, loadCore, viewByte_applyAll_inside hd _ _ _ _ hi]
      intro y hy
      have apart : y ≠ g := fun h => later (h ▸ hy)
      unfold localOf
      omega

/-- The loader's work (R298). -/
theorem loadLocal_cases (s : State) (l : Launch) :
    loadLocal s l = s ∧ (localSections l = [] ∨ l.loaded = true) ∨
      loadLocal s l = modLaunch (loadCores (localSections l) (launchCores s l) s) l.id (fun v => { v with loaded := true }) ∧ l.loaded = false := by
  unfold loadLocal
  simp only
  split
  · next h => exact .inl ⟨rfl, by simpa using h⟩
  · next h => exact .inr ⟨rfl, by simp at h; exact h.2⟩

theorem localSections_length (l : Launch) : (localSections l).length ≤ 0x2000 := List.length_take_le ..

/-- What the loader leaves. -/
structure Loads (s t : State) (l : Launch) : Prop where
  rest : t = { s with views := t.views, cores := t.cores, launches := t.launches }
  cores : ∀ g, getCore t g = { getCore s g with banks := (getCore t g).banks }
  vaults : ∀ d < 4, ∀ k, 0x200000000 ≤ k → viewByte t d k = viewByte s d k
  loaded : localSections l ≠ [] → getLaunch s l.id = some l → ∃ v, getLaunch t l.id = some v ∧ v.loaded = true
  bytes : l.loaded = false → ∀ g ∈ launchCores s l, ∀ d < 4, ∀ i < (localSections l).length,
    viewByte t d (localOf g + 0x1E000 + i) = (localSections l).getD i 0

theorem loads_loadLocal (s : State) (l : Launch) : Loads s (loadLocal s l) l := by
  rcases loadLocal_cases s l with ⟨e, h⟩ | ⟨e, h⟩ <;> rw [e]
  · exact
      { rest := rfl
        cores := fun _ => rfl
        vaults := fun _ _ _ _ => rfl
        loaded := fun some' hl => ⟨l, hl, h.resolve_left some'⟩
        bytes := fun no g _ d _ i hi => by
          rcases h with h | h
          · rw [h] at hi; cases hi
          · rw [h] at no; cases no }
  · have loads := onlyLoads_loadCores (localSections l) (launchCores s l) s
    have inside := @viewByte_loadCores_inside
    have outside := @viewByte_loadCores_outside
    rw [modLaunch_frame]
    exact
      { rest := by rw [loads.rest]
        cores := loads.cores
        vaults := fun d hd k hk => by
          refine outside hd _ _ (fun g hg => .inr ?_) s
          have := launchCores_lt hg
          have := localSections_length l
          unfold localOf localBase
          omega
        loaded := fun _ hl => by
          have found := getLaunch_modLaunch_same (loadCores (localSections l) (launchCores s l) s) l.id fun v => { v with loaded := true }
          have kept : getLaunch (loadCores (localSections l) (launchCores s l) s) l.id = some l := by
            rw [loads.rest]
            exact hl
          rw [kept] at found
          exact ⟨_, found, rfl⟩
        bytes := fun _ g hg d hd i hi => by
          rw [List.getD_eq_getElem _ _ hi]
          exact inside hd (localSections_length l) _ hg hi s }

end Sys2Proof.Proofs
end

section
/-!
PROOFS. The start of a hart (R42, R44, Table 3.6).
-/

namespace Sys2Proof.Proofs

open Sys2Proof Sys2Proof.Machine Sys2Proof.Claims

section Start

variable (s : State) (core ctx : Nat) (l : Launch) (id : Nat) (n : Node)

/-- The start is counted, the core acquires, and the argument block is asked for. -/
def startAsked : State :=
  chargeAgent (launchAgent l (dieOf core)) n.args 64 (acquireAt (countStart s (clusOf core) l.id id core) core (startScope l n))

/-- The loader has written, the context is powered and its slice goes on. -/
def startPowered : State := takeSlice (powerUp (loadLocal (startAsked s core l id n) l) core ctx) core l.tenant.toNat

/-- The hart stands in its context. -/
def startStands : State :=
  forgetPlanes
    (setHart (startPowered s core ctx l id n) (hartKey core ctx) (startedHart (startPowered s core ctx l id n) l id n core ctx)) core l.id

/-- After the last start of a node others may claim. -/
def startDone : State :=
  if startsLeft (startStands s core ctx l id n) (clusOf core) l.id id then startStands s core ctx l id n
  else offerCluster (startStands s core ctx l id n) (clusOf core)

variable {s core ctx l id n}

theorem exec_hartStart {w : WorkItem} (free : FreeContext s core ctx) (best : claimant s core ctx = some (.start w))
    (hl : getLaunch s w.launch = some l) (hn : getNode l w.node = some n) (ready : n.stamp.le (stampOf s (core / 4096)) = true) :
    exec (.hartStart core ctx) s = .next (startDone s core ctx l w.node n) := by
  change execHartStart core ctx s = _
  unfold execHartStart
  rw [contextFree_of free, best]
  simp only [Bool.not_true, Bool.false_eq_true, if_false, hl, hn, dieOf, ready]
  rfl

/-- What the first steps of a start leave alone. -/
theorem startAsked_frame (s : State) (core : Nat) (l : Launch) (id : Nat) (n : Node) :
    OnlyTraffic (acquireAt (countStart s (clusOf core) l.id id core) core (startScope l n)) (startAsked s core l id n) ∧
      acquireAt (countStart s (clusOf core) l.id id core) core (startScope l n) =
        { s with
          clusters := (countStart s (clusOf core) l.id id core).clusters
          cores := (acquireAt (countStart s (clusOf core) l.id id core) core (startScope l n)).cores } := by
  refine ⟨chargeAgent_traffic .., ?_⟩
  rw [acquireAt_frame]
  rfl

/-- The cores differ in their L1 alone, and that of the starting hart is empty where its scope is wide enough. -/
theorem startAsked_cores (s : State) (core : Nat) (l : Launch) (id : Nat) (n : Node) :
    (∀ g, getCore (startAsked s core l id n) g = { getCore s g with l1 := (getCore (startAsked s core l id n) g).l1 }) ∧
      (scopeAtLeast (startScope l n) .clus = true → (getCore (startAsked s core l id n) core).l1 = []) := by
  obtain ⟨traffic, -⟩ := startAsked_frame s core l id n
  have same : ∀ g, getCore (startAsked s core l id n) g =
      getCore (acquireAt (countStart s (clusOf core) l.id id core) core (startScope l n)) g := fun g => by rw [traffic]; rfl
  simp only [same]
  unfold acquireAt
  split
  · refine ⟨fun g => ?_, fun _ => by rw [getCore_modCore_same]⟩
    by_cases hg : g = core
    · rw [hg, getCore_modCore_same]
      rfl
    · rw [getCore_modCore_ne _ _ hg]
      rfl
  · next narrow => exact ⟨fun _ => rfl, fun wide => absurd wide narrow⟩

/-- What a start may change before the hart stands. -/
def OnlyStarts (s t : State) : Prop :=
  t = { s with
    agenda := t.agenda, harts := t.harts, cores := t.cores, clusters := t.clusters, views := t.views, launches := t.launches
    channels := t.channels, charges := t.charges, debts := t.debts, budgetAt := t.budgetAt, ports := t.ports, sentOut := t.sentOut }

/-- What stands when the hart takes its context. -/
structure Starts (s t : State) (core ctx : Nat) (l : Launch) (n : Node) : Prop where
  rest : OnlyStarts s t
  gens : ∀ k, (getHart t k).gen = (getHart s k).gen
  cores : ∀ g, getCore t g = { getCore s g with l1 := (getCore t g).l1, banks := (getCore t g).banks }
  power : ctx < 8 → (getCore t core).banks.getLsbD ctx = true
  acquired : scopeAtLeast (startScope l n) .clus = true → (getCore t core).l1 = []
  vaults : ∀ d < 4, ∀ k, 0x200000000 ≤ k → viewByte t d k = viewByte s d k
  loaded : localSections l ≠ [] → getLaunch s l.id = some l → ∃ v, getLaunch t l.id = some v ∧ v.loaded = true
  bytes : l.loaded = false → ∀ g ∈ launchCores s l, ∀ d < 4, ∀ i < (localSections l).length,
    viewByte t d (localOf g + 0x1E000 + i) = (localSections l).getD i 0

theorem starts_startPowered (s : State) (core ctx : Nat) (l : Launch) (id : Nat) (n : Node) :
    Starts s (startPowered s core ctx l id n) core ctx l n := by
  obtain ⟨traffic, asked⟩ := startAsked_frame s core l id n
  obtain ⟨l1, empty⟩ := startAsked_cores s core l id n
  have askedFrame : startAsked s core l id n = { s with
      agenda := (startAsked s core l id n).agenda, clusters := (startAsked s core l id n).clusters, cores := (startAsked s core l id n).cores
      channels := (startAsked s core l id n).channels, charges := (startAsked s core l id n).charges, debts := (startAsked s core l id n).debts
      budgetAt := (startAsked s core l id n).budgetAt, ports := (startAsked s core l id n).ports
      sentOut := (startAsked s core l id n).sentOut } := by
    rw [traffic, asked]
  unfold startPowered
  generalize startAsked s core l id n = a at *
  have loads := loads_loadLocal a l
  have powered := onlyLoads_powerUp (loadLocal a l) core ctx
  have power : ctx < 8 → (getCore (powerUp (loadLocal a l) core ctx) core).banks.getLsbD ctx = true := fun h => by
    rw [powerUp, getCore_modCore_same]
    simp [h]
  have unwritten : (powerUp (loadLocal a l) core ctx).views = (loadLocal a l).views := rfl
  generalize loadLocal a l = b at *
  generalize powerUp b core ctx = c at *
  have taken := takesSlice_takeSlice c core l.tenant.toNat
  generalize takeSlice c core l.tenant.toNat = t at *
  have core' : ∀ g, getCore t g = getCore c g := fun g => by rw [taken.rest]; rfl
  have views : ∀ d k, viewByte t d k = viewByte b d k := fun d k => by
    unfold viewByte viewOf
    rw [taken.rest, unwritten]
  exact
    { rest := by
        unfold OnlyStarts
        rw [taken.rest, powered.rest, loads.rest, askedFrame]
      gens := fun k => by
        rw [taken.harts, show getHart c k = getHart s k from by rw [powered.rest, loads.rest, askedFrame]; rfl]
      cores := fun g => by rw [core', powered.cores, loads.cores, l1]
      power := fun h => by rw [core', power h]
      acquired := fun wide => by rw [core', powered.cores, loads.cores]; exact empty wide
      vaults := fun d hd k hk => by
        rw [views, loads.vaults d hd k hk, askedFrame]
        rfl
      loaded := fun some' hl => by
        have kept : getLaunch a l.id = some l := by rw [askedFrame]; exact hl
        obtain ⟨v, hv, yes⟩ := loads.loaded some' kept
        exact ⟨v, by rw [taken.rest, powered.rest]; exact hv, yes⟩
      bytes := fun no g hg d hd i hi => by
        have same : launchCores a l = launchCores s l := launchCores_congr (by rw [askedFrame]) l
        rw [views, loads.bytes no g (same ▸ hg) d hd i hi] }

theorem getD_mapBytes (m : SMap Byte) (key : Nat) {i n : Nat} (h : i < n) : (mapBytes m key n).getD i 0 = mapGet 0 m (key + i) := by
  induction n generalizing key i with
  | zero => omega
  | succ n ih =>
    cases i with
    | zero => rfl
    | succ i =>
      rw [mapBytes, List.getD_cons_succ, ih (key + 1) (by omega), Nat.add_assoc, Nat.add_comm 1]

/-- The argument block is still readable, and reads as it did. -/
theorem startArgs_eq {t : State} (starts : Starts s t core ctx l n) (args : ArgsReadable s l n (core / 4096)) (hc : core < 0x4000) (i : Nat)
    (hi : i < 8) :
    startArgs t l n (dieOf core) i =
      BitVec.ofNat 64 (leNat ((List.range 8).map fun j => viewByte s (core / 4096) (n.args.toNat % 2 ^ 56 + 8 * i + j))) := by
  have args' : ArgsReadable t l n (core / 4096) := by
    obtain ⟨aligned, lo, hi, plb, good, mca, entry⟩ := args
    have plb' : (getCore t (core / 4096 * 4096)).plb = [] := by rw [starts.cores]; exact plb
    have rest := starts.rest
    unfold OnlyStarts at rest
    exact ⟨aligned, lo, hi, plb', by rw [rest]; exact good, by rw [rest]; exact mca, by rw [rest]; exact entry⟩
  have read := agentRead_args args'
  unfold startArgs
  change (match agentRead t (launchAgent l (core / 4096)) n.args 64 with
    | some b => fun i => leWord (slice b (8 * i) 8)
    | none => fun i => Config.freeWord t.tick (100 + i)) i = _
  rw [read]
  simp only [leWord, slice]
  congr 2
  apply List.map_congr_left
  intro j hj
  have hj := List.mem_range.1 hj
  rw [getD_mapBytes _ _ (by omega)]
  change viewByte t (core / 4096) _ = _
  rw [starts.vaults _ (by omega) _ (by obtain ⟨-, lo, -⟩ := args; omega), Nat.add_assoc]

theorem startDone_frame (s : State) (core ctx : Nat) (l : Launch) (id : Nat) (n : Node) :
    getHart (startDone s core ctx l id n) (hartKey core ctx) = startedHart (startPowered s core ctx l id n) l id n core ctx ∧
      (startDone s core ctx l id n).cores = (startPowered s core ctx l id n).cores ∧
      (startDone s core ctx l id n).views = (startPowered s core ctx l id n).views ∧
      (startDone s core ctx l id n).launches = (startPowered s core ctx l id n).launches := by
  have done : OnlyAgenda (startStands s core ctx l id n) (startDone s core ctx l id n) := by
    unfold startDone
    split
    · rfl
    · exact onlyAgenda_offerCluster ..
  have harts : (startDone s core ctx l id n).harts = (startStands s core ctx l id n).harts := by rw [done]
  have cores : (startDone s core ctx l id n).cores = (startStands s core ctx l id n).cores := by rw [done]
  have views : (startDone s core ctx l id n).views = (startStands s core ctx l id n).views := by rw [done]
  have launches : (startDone s core ctx l id n).launches = (startStands s core ctx l id n).launches := by rw [done]
  unfold startStands at harts cores views launches
  generalize startPowered s core ctx l id n = u at *
  refine ⟨?_, cores, views, launches⟩
  unfold getHart
  rw [harts]
  exact getHart_setHart_same u (hartKey core ctx) (startedHart u l id n core ctx)

end Start

/-- The widest of two scopes is as wide as either. -/
theorem widerOf_wide {a b : Scope} (h : 2 ≤ a.code.toNat ∨ 2 ≤ b.code.toNat) : scopeAtLeast (widerOf a b) .clus = true := by
  cases a <;> cases b <;> revert h <;> decide

/-- A scalar register of a starting hart. -/
theorem startX_get (ctx : Nat) (hasLocal : Bool) (args : Nat → Word) (i : Fin 32) :
    (startX ctx hasLocal args)[i] =
      if i.val = 2 then BitVec.ofNat 64 (if ctx = 7 && hasLocal then 0x1E000 else (ctx + 1) * 0x4000)
      else if 3 ≤ i.val && i.val ≤ 10 then args (i.val - 3)
      else 0 := by
  unfold startX
  rw [Fin.getElem_fin, Vector.getElem_ofFn]

theorem hartStart_holds {s : State} {core ctx : Nat} {w : WorkItem} {l : Launch} {n : Node} (free : FreeContext s core ctx)
    (best : claimant s core ctx = some (.start w)) (hl : getLaunch s w.launch = some l) (hid : l.id = w.launch)
    (hn : getNode l w.node = some n) (ready : n.stamp.le (stampOf s (core / 4096)) = true) (args : ArgsReadable s l n (core / 4096))
    (hc : core < 0x4000) :
    let h := core * 16 + ctx
    let sections := (Config.imageLocal l.measure).take 0x2000
    ∃ t, exec (.hartStart core ctx) s = .next t ∧
      (getHart t h).tenure = .running ∧ (getHart t h).mode = .U ∧ (getHart t h).pc = n.entry &&& ~~~1 ∧
      (getHart t h).gen = (getHart s h).gen ∧ (getHart t h).launch = l.id ∧ (getHart t h).tile = none ∧
      (getHart t h).live = 0 ∧ (getHart t h).mpend = 0 ∧ (getHart t h).sr.own = l.owner ∧ (getHart t h).sr.tenant = l.tenant ∧
      (getHart t h).sr.launch = l.seq ∧ (getHart t h).sr.hctl = l.hctl ∧ (getHart t h).sr.vstat = 0 ∧
      (getHart t h).sr.efr = BitVec.ofNat 64 (ctx * 0x4000) ∧ (getHart t h).sr.node = BitVec.ofNat 64 w.node ∧
      (getHart t h).sr.subt = BitVec.allOnes 64 ∧
      (∀ i : Fin 32, (getHart t h).x[i] =
        if i = 2 then BitVec.ofNat 64 (if ctx = 7 ∧ sections ≠ [] then 0x1E000 else (ctx + 1) * 0x4000)
        else if 3 ≤ i.val ∧ i.val ≤ 10 then
          BitVec.ofNat 64 (leNat ((List.range 8).map fun j => viewByte s (core / 4096) (n.args.toNat % 2 ^ 56 + 8 * (i.val - 3) + j)))
        else 0) ∧
      (getCore t core).banks.getLsbD ctx = true ∧
      ((2 ≤ (nodeScope l n).code.toNat ∨ 2 ≤ n.acqScope.code.toNat) → (getCore t core).l1 = []) ∧
      (sections ≠ [] → ∃ v, getLaunch t l.id = some v ∧ v.loaded = true) ∧
      (l.loaded = false → ∀ g ∈ launchCores s l, ∀ d < 4, ∀ i < sections.length,
        viewByte t d (0x100000000 + g * 0x20000 + 0x1E000 + i) = sections.getD i 0) := by
  intro h sections
  have starts := starts_startPowered s core ctx l w.node n
  obtain ⟨stands, cores, views, launches⟩ := startDone_frame s core ctx l w.node n
  have stands : getHart (startDone s core ctx l w.node n) h = startedHart (startPowered s core ctx l w.node n) l w.node n core ctx := stands
  have core' : getCore (startDone s core ctx l w.node n) core = getCore (startPowered s core ctx l w.node n) core := by
    unfold getCore
    rw [cores]
  refine ⟨_, exec_hartStart free best hl hn ready, ?_⟩
  rw [stands, core']
  generalize startPowered s core ctx l w.node n = u at starts views launches
  refine ⟨rfl, rfl, rfl, starts.gens h, rfl, rfl, rfl, rfl, rfl, rfl, rfl, rfl, rfl, rfl, rfl, rfl, fun i => ?_, starts.power free.1,
    fun wide => starts.acquired (widerOf_wide wide), fun some' => ?_, fun no g hg d hd i hi => ?_⟩
  · change (startX ctx (decide (localSections l ≠ [])) (startArgs u l n (dieOf core)))[i] = _
    rw [startX_get]
    by_cases h2 : i = 2
    · subst h2
      simp only [Bool.and_eq_true, decide_eq_true_eq]
      rfl
    · have h2' : i.val ≠ 2 := fun e => h2 (Fin.ext e)
      rw [if_neg h2', if_neg h2]
      by_cases arg : 3 ≤ i.val ∧ i.val ≤ 10
      · rw [if_pos (by simp [arg]), if_pos arg, startArgs_eq starts args hc (i.val - 3) (by omega)]
      · rw [if_neg (by simpa using arg), if_neg arg]
  · obtain ⟨v, hv, yes⟩ := starts.loaded some' (hid ▸ hl)
    exact ⟨v, (getLaunch_congr launches l.id).trans hv, yes⟩
  · have byte := starts.bytes no g hg d hd i hi
    unfold viewByte viewOf at byte ⊢
    rw [views]
    exact byte

theorem hartsStart_holds : HartsStart :=
  ⟨fun _ _ _ _ _ _ free best hl hid hn ready args hc => hartStart_holds free best hl hid hn ready args hc,
    fun _ _ _ _ free best awake quiet acc planes wf => hartResume_holds free best awake quiet acc planes wf⟩

/-- Settles O45: dispatch of nodes, start and resume of harts. -/
theorem hartsStart : Obligations.HartsStart := by
  unfold Obligations.HartsStart
  exact ⟨hartsStart_holds, dispatch_holds⟩

end Sys2Proof.Proofs
end

section
/-!
PROOFS. The last sweep of a launch, and the stop of what its world has commanded (R53, R54, R259).
-/

namespace Sys2Proof.Proofs

open Sys2Proof Sys2Proof.Machine Sys2Proof.Claims

/-! ### Launches that have ended -/

/-- A launch that is no longer running is as it was. -/
def KeepsStopped (s t : State) : Prop := ∀ k l, getLaunch s k = some l → l.phase ≠ .running → getLaunch t k = some l

theorem KeepsStopped.trans {s t u : State} (a : KeepsStopped s t) (b : KeepsStopped t u) : KeepsStopped s u :=
  fun k l h stopped => b k l (a k l h stopped) stopped

theorem keepsStopped_of_launches {s t : State} (h : t.launches = s.launches) : KeepsStopped s t :=
  fun k _ hl _ => (getLaunch_congr h k).trans hl

/-- A change to a running launch leaves those that have ended alone. -/
theorem keepsStopped_modLaunch {s : State} {l : Nat} {v : Launch} (f : Launch → Launch) (hl : getLaunch s l = some v)
    (running : v.phase = .running) : KeepsStopped s (modLaunch s l f) := fun k u hu stopped => by
  have other : k ≠ l := fun h => by
    rw [h, hl] at hu
    cases hu
    exact stopped running
  rw [getLaunch_modLaunch_ne s f other, hu]

theorem keepsStopped_readyNode (s : State) (l id : Nat) (isLocal : Bool) : KeepsStopped s (readyNode s l id isLocal) := by
  rcases readyNode_cases s l id isLocal with h | ⟨v, hv, running, h | ⟨n, b, h⟩⟩ <;> rw [h]
  · exact keepsStopped_of_launches rfl
  · rcases endLaunch_launches s l failedState 0x07 with h | ⟨-, -, -, h⟩
    · exact keepsStopped_of_launches h
    · exact (keepsStopped_modLaunch (endingWith failedState 0x07) hv running).trans (keepsStopped_of_launches h)
  · exact (keepsStopped_modLaunch _ hv running).trans (keepsStopped_of_launches (enterPool_launches ..))

/-! ### A counter and what waits for it -/

/-- The waiting nodes of a launch that wait for a counter. -/
def counterNodes (id : Nat) (v : Launch) : SMap (Option Node) :=
  v.nodes.filter fun x =>
    match x.2 with
    | some n => decide (n.waitctr.toNat = id) && decide (n.phase = .waiting)
    | none => false

/-- The waiting nodes of a launch are tested after a change of a counter. -/
def retestNodes (id : Nat) (s : State) (e : Nat × Option Launch) : State :=
  match e.2 with
  | none => s
  | some v => (counterNodes id v).foldl (fun s x => readyNode s e.1 x.1 false) s

/-- A command held by its WAIT is looked at again. -/
def retestHeld (s : State) (e : Nat × Tenant) : State := if e.2.held = [] then s else post s (.commandWaitRelease e.1)

/-- The harts that wait for a counter are tested. -/
def retestHarts (s : State) (id : Nat) : State := { s with harts := mapVals .reset (fun _ v => testWaiter s id v) s.harts }

theorem retestCounter_eq (s : State) (id : Nat) :
    retestCounter s id =
      ((s.launches.foldl (retestNodes id) (retestHarts s id)).tenants).foldl retestHeld
        (s.launches.foldl (retestNodes id) (retestHarts s id)) := rfl

/-- Only what the scheduling of work may touch differs, and no launch that has ended does. -/
structure WorksOn (s t : State) : Prop where
  work : OnlyWork s t
  stopped : KeepsStopped s t

theorem WorksOn.refl (s : State) : WorksOn s s := ⟨.refl s, keepsStopped_of_launches rfl⟩

theorem WorksOn.trans {s t u : State} (a : WorksOn s t) (b : WorksOn t u) : WorksOn s u := ⟨a.work.trans b.work, a.stopped.trans b.stopped⟩

theorem worksOn_retestNodes (id : Nat) (s : State) (e : Nat × Option Launch) : WorksOn s (retestNodes id s e) := by
  unfold retestNodes
  split
  · exact .refl s
  · exact foldl_rel WorksOn.refl WorksOn.trans _ (fun s x => ⟨onlyWork_readyNode .., keepsStopped_readyNode _ _ _ _⟩) _ s

theorem worksOn_retestHeld (s : State) (e : Nat × Tenant) : WorksOn s (retestHeld s e) := by
  unfold retestHeld
  split
  · exact .refl s
  · exact ⟨rfl, keepsStopped_of_launches rfl⟩

/-- What the test of a counter's waiters leaves alone. -/
theorem worksOn_retestCounter (s : State) (id : Nat) : WorksOn s (retestCounter s id) := by
  have harts : WorksOn s (retestHarts s id) := ⟨rfl, keepsStopped_of_launches rfl⟩
  rw [retestCounter_eq]
  exact (harts.trans (foldl_rel WorksOn.refl WorksOn.trans _ (worksOn_retestNodes id) _ _)).trans
    (foldl_rel WorksOn.refl WorksOn.trans _ worksOn_retestHeld _ _)

/-- The sum stands in the counter, and its waiters are still to be tested. -/
def summed (s : State) (id : Nat) (v : Word) (stamp : Stamp) : State :=
  { s with
    counterStamp := mapMod .zero s.counterStamp id (Stamp.join stamp), counters := mapPut 0 s.counters id (mapGet 0 s.counters id + v) }

/-- An addend reaches its counter, and no launch that has ended changes. -/
theorem addCounter_spec (s : State) (id : Nat) (v : Word) (stamp : Stamp) :
    mapGet 0 (addCounter s id v stamp).counters id = mapGet 0 s.counters id + v ∧ KeepsStopped s (addCounter s id v stamp) := by
  have tested : WorksOn (summed s id v stamp) (addCounter s id v stamp) := worksOn_retestCounter (summed s id v stamp) id
  have kept : KeepsStopped s (summed s id v stamp) := keepsStopped_of_launches rfl
  refine ⟨?_, kept.trans tested.stopped⟩
  rw [tested.work.counters]
  exact mapGet_mapPut_same (0 : Word) s.counters id _

/-! ### The last sweep -/

section Sweep

variable {launch : Nat} {s : State} {l : Launch} (hl : getLaunch s launch = some l) (hr : l.phase = .running)
  (idle : launchIdle s launch = true) (equal : sentTotal s launch = receivedTotal s launch)

include hl hr idle equal

/-- A sweep that finds a launch idle with equal counts. -/
theorem exec_launchEndSweep :
    exec (.launchEndSweep launch) s =
      if l.swept = some (sentTotal s launch, receivedTotal s launch) && allComplete l && s.saves.all (·.launch ≠ launch) &&
          endReleased s launch then
        .next (launchDone s l)
      else
        .next (post (modLaunch s launch fun v => { v with swept := some (sentTotal s launch, receivedTotal s launch) })
          (.launchEndSweep launch)) := by
  change execLaunchEndSweep launch s = _
  unfold execLaunchEndSweep
  simp only [hl]
  rw [if_neg (by simp [hr]), if_neg (by simp [idle, equal])]

theorem launchEndSweep_again (more : l.swept ≠ some (sentTotal s launch, receivedTotal s launch) ∨ s.mca ≠ []) :
    ∃ t v, exec (.launchEndSweep launch) s = .next t ∧ getLaunch t launch = some v ∧
      v = { l with swept := some (sentTotal s launch, receivedTotal s launch) } ∧ .launchEndSweep launch ∈ t.agenda := by
  have answers := exec_launchEndSweep hl hr idle equal
  rw [if_neg (by
    rcases more with h | h
    · simp [h]
    · simp [endReleased, h])] at answers
  refine ⟨_, _, answers, ?_, rfl, by simp [post]⟩
  change getLaunch (modLaunch s launch _) launch = _
  rw [getLaunch_modLaunch_same, hl, Option.map_some]

theorem launchEndSweep_done (again : l.swept = some (sentTotal s launch, receivedTotal s launch))
    (complete : ∀ e ∈ l.nodes, ∀ n, e.2 = some n → n.phase = .complete) (saves : ∀ v ∈ s.saves, v.launch ≠ launch) (mca : s.mca = [])
    (flights : ∀ f ∈ s.flights, f.prop ≠ .repl) (ops : ∀ o ∈ s.ops, o.launch ≠ launch) :
    exec (.launchEndSweep launch) s = .next (launchDone s l) := by
  have all : allComplete l = true := List.all_eq_true.2 fun e he => by
    split
    · next n hn => exact decide_eq_true (complete e he n hn)
    · rfl
  have saves' : s.saves.all (·.launch ≠ launch) = true := by simpa using saves
  have released : endReleased s launch = true := by
    unfold endReleased
    simpa [mca] using ⟨flights, ops⟩
  rw [exec_launchEndSweep hl hr idle equal, if_pos (by simp [again, all, released]; simpa using saves)]

end Sweep

/-- A launch that is DONE. -/
def doneLaunch (v : Launch) : Launch := { v with phase := .ending, final := doneState.toNat, reason := 0 }

/-- What a launch that is DONE leaves: it is ending, its world retires, and its addend stands in its counter. -/
theorem launchDone_spec {s : State} {l : Launch} (hl : getLaunch s l.id = some l) :
    getLaunch (launchDone s l) l.id = some (doneLaunch l) ∧ .worldRetire l.id ∈ (launchDone s l).agenda ∧
      (l.endctr.toNat < 0x4000 →
        mapGet 0 (launchDone s l).counters l.endctr.toNat = mapGet 0 s.counters l.endctr.toNat + l.endadd) := by
  have ended : getLaunch (modLaunch s l.id doneLaunch) l.id = some (doneLaunch l) := by
    rw [getLaunch_modLaunch_same, hl, Option.map_some]
  have window := finishEntry_window (modLaunch s l.id doneLaunch) l.tenant.toNat l.seq.toNat doneState 0
  have counters : (finishEntry (modLaunch s l.id doneLaunch) l.tenant.toNat l.seq.toNat doneState 0).counters = s.counters := by
    rw [window, modLaunch_frame]
  have shape : launchDone s l = post (if counterId l.endctr then
      addCounter (finishEntry (modLaunch s l.id doneLaunch) l.tenant.toNat l.seq.toNat doneState 0) l.endctr.toNat l.endadd
        (packageStamp (finishEntry (modLaunch s l.id doneLaunch) l.tenant.toNat l.seq.toNat doneState 0))
      else finishEntry (modLaunch s l.id doneLaunch) l.tenant.toNat l.seq.toNat doneState 0) (.worldRetire l.id) := rfl
  have found : getLaunch (finishEntry (modLaunch s l.id doneLaunch) l.tenant.toNat l.seq.toNat doneState 0) l.id = some (doneLaunch l) :=
    (getLaunch_congr window.launches l.id).trans ended
  generalize finishEntry (modLaunch s l.id doneLaunch) l.tenant.toNat l.seq.toNat doneState 0 = u at *
  obtain ⟨sum, kept⟩ := addCounter_spec u l.endctr.toNat l.endadd (packageStamp u)
  rw [shape]
  refine ⟨?_, by simp [post], fun small => ?_⟩
  · change getLaunch (if counterId l.endctr then _ else u) l.id = _
    split
    · exact kept l.id (doneLaunch l) found (by simp [doneLaunch])
    · exact found
  · have counter : counterId l.endctr = true := decide_eq_true small
    rw [if_pos counter, ← counters]
    exact sum

/-! ### The commands of a world stop -/

/-- Every command is one of before, and abandoned no less. -/
def StopsMore (s t : State) : Prop :=
  ∀ g, ∀ m ∈ (getCore t g).cmds, ∃ o ∈ (getCore s g).cmds, o.launch = m.launch ∧ o.tag = m.tag ∧ (o.abandoned = true → m.abandoned = true)

/-- The commands of a core under a tag are abandoned. -/
def TagStopped (s : State) (g tag : Nat) : Prop := ∀ m ∈ (getCore s g).cmds, m.tag = tag → m.abandoned = true

theorem StopsMore.refl (s : State) : StopsMore s s := fun _ m hm => ⟨m, hm, rfl, rfl, id⟩

theorem StopsMore.trans {s t u : State} (a : StopsMore s t) (b : StopsMore t u) : StopsMore s u := fun g m hm => by
  obtain ⟨o, ho, hl, ht, hs⟩ := b g m hm
  obtain ⟨p, hp, hl', ht', hs'⟩ := a g o ho
  exact ⟨p, hp, hl'.trans hl, ht'.trans ht, fun h => hs (hs' h)⟩

theorem StopsMore.tag {s t : State} (h : StopsMore s t) {g tag : Nat} (stopped : TagStopped s g tag) : TagStopped t g tag :=
  fun m hm ht => by
    obtain ⟨o, ho, -, ht', hs⟩ := h g m hm
    exact hs (stopped o ho (ht'.trans ht))

/-- One command of a world stops (R259). -/
def stopCmd (g : Nat) (s : State) (m : Cmd) : State :=
  if atRest s g m then abandonCmd s g m.tag else modCmd s g m.tag fun m => { m with abandoned := true }

/-- A change to the commands of a core under a tag that abandons them. -/
theorem stops_of_cmds {s t : State} {g tag : Nat} (f : Cmd → Cmd) (hf : ∀ m, (f m).launch = m.launch ∧ (f m).tag = m.tag ∧ (f m).abandoned = true)
    (mine : (getCore t g).cmds = (getCore s g).cmds.map fun m => if m.tag = tag then f m else m)
    (others : ∀ k, k ≠ g → getCore t k = getCore s k) : StopsMore s t ∧ TagStopped t g tag := by
  refine ⟨fun k m hm => ?_, fun m hm ht => ?_⟩
  · by_cases hk : k = g
    · subst hk
      rw [mine] at hm
      obtain ⟨o, ho, rfl⟩ := List.mem_map.1 hm
      obtain ⟨hl, ht, hs⟩ := hf o
      refine ⟨o, ho, ?_⟩
      split
      · exact ⟨hl.symm, ht.symm, fun _ => hs⟩
      · exact ⟨rfl, rfl, id⟩
    · rw [others k hk] at hm
      exact ⟨m, hm, rfl, rfl, id⟩
  · rw [mine] at hm
    obtain ⟨o, -, rfl⟩ := List.mem_map.1 hm
    by_cases h : o.tag = tag
    · rw [if_pos h]
      exact (hf o).2.2
    · rw [if_neg h] at ht
      exact absurd ht h

theorem stopCmd_spec (g : Nat) (s : State) (m : Cmd) :
    StopsMore s (stopCmd g s m) ∧ TagStopped (stopCmd g s m) g m.tag ∧ OnlyCommands s (stopCmd g s m) := by
  unfold stopCmd
  split
  · have stops := stops_of_cmds (s := s) (t := abandonCmd s g m.tag) (g := g) (tag := m.tag)
      (fun m => { m with state := .moved, abandoned := true }) (fun _ => ⟨rfl, rfl, rfl⟩)
      (by rw [abandonCmd, getCore_post, getCore_modCore_same])
      (fun k hk => by rw [abandonCmd, getCore_post, getCore_modCore_ne _ _ hk])
    exact ⟨stops.1, stops.2, rfl⟩
  · have stops := stops_of_cmds (s := s) (t := modCmd s g m.tag fun m => { m with abandoned := true }) (g := g) (tag := m.tag)
      (fun m => { m with abandoned := true }) (fun _ => ⟨rfl, rfl, rfl⟩)
      (by rw [modCmd, getCore_modCore_same])
      (fun k hk => by rw [modCmd, getCore_modCore_ne _ _ hk])
    exact ⟨stops.1, stops.2, rfl⟩

/-- The commands of a world on one core stop. -/
def stopCore (l : Nat) (s : State) (e : Nat × Core) : State := (e.2.cmds.filter (·.launch = l)).foldl (stopCmd e.1) s

theorem stopCmds_eq (s : State) (l : Nat) : stopCmds s l = s.cores.foldl (stopCore l) s := rfl

/-- In a fold of a reflexive and transitive relation every element has its step, from a state after the start to one before the end. -/
theorem foldl_step {α σ : Type} {R : σ → σ → Prop} (refl : ∀ s, R s s) (trans : ∀ {s t u}, R s t → R t u → R s u) (f : σ → α → σ)
    (hf : ∀ s a, R s (f s a)) {l : List α} {a : α} (ha : a ∈ l) (s : σ) : ∃ u, R s u ∧ R (f u a) (l.foldl f s) := by
  induction l generalizing s with
  | nil => cases ha
  | cons x l ih =>
    rcases List.mem_cons.1 ha with rfl | ha
    · exact ⟨s, refl s, foldl_rel refl trans f hf l (f s a)⟩
    · obtain ⟨u, hu, hl⟩ := ih ha (f s x)
      exact ⟨u, trans (hf s x) hu, hl⟩

theorem stopsMore_stopCore (l : Nat) (s : State) (e : Nat × Core) : StopsMore s (stopCore l s e) :=
  foldl_rel StopsMore.refl StopsMore.trans (stopCmd e.1) (fun s m => (stopCmd_spec e.1 s m).1) _ s

/-- Once the commands of a world have stopped, each of them is abandoned. -/
theorem stopCmds_abandons {s : State} {l g : Nat} {m : Cmd} (hm : m ∈ (getCore (stopCmds s l) g).cmds) (hl : m.launch = l) :
    m.abandoned = true := by
  rw [stopCmds_eq] at hm
  have all : StopsMore s (s.cores.foldl (stopCore l) s) := foldl_rel StopsMore.refl StopsMore.trans (stopCore l) (stopsMore_stopCore l) _ s
  obtain ⟨o, ho, hol, hot, -⟩ := all g m hm
  have listed : (g, getCore s g) ∈ s.cores := mem_of_mapGet_ne fun none' => by
    rw [show getCore s g = .reset from none'] at ho
    cases ho
  obtain ⟨u, -, after⟩ := foldl_step StopsMore.refl StopsMore.trans (stopCore l) (stopsMore_stopCore l) listed s
  have mine : o ∈ (getCore s g).cmds.filter (·.launch = l) := List.mem_filter.2 ⟨ho, by simp [hol, hl]⟩
  obtain ⟨w, -, after'⟩ := foldl_step StopsMore.refl StopsMore.trans (stopCmd g) (fun s m => (stopCmd_spec g s m).1) mine u
  have stopped := after.tag (after'.tag (stopCmd_spec g w o).2.1)
  exact stopped m hm hot.symm

theorem onlyCommands_stopCmds (s : State) (l : Nat) : OnlyCommands s (stopCmds s l) := by
  rw [stopCmds_eq]
  refine foldl_rel (R := OnlyCommands) (fun _ => rfl) OnlyCommands.trans (stopCore l) (fun s e => ?_) _ s
  exact foldl_rel (R := OnlyCommands) (fun _ => rfl) OnlyCommands.trans (stopCmd e.1) (fun s m => (stopCmd_spec e.1 s m).2.2) _ s

theorem refuseHandle_spec (s : State) (l : Launch) :
    refuseHandle s l = { s with keys := (refuseHandle s l).keys } ∧
      ∀ k, mapGet none s.keys l.keyh.toNat = some k → l.keyh.toNat < 0x800 → k.launch = l.id →
        mapGet none (refuseHandle s l).keys l.keyh.toNat = some { k with live := false } := by
  refine ⟨?_, fun k hk small mine => ?_⟩
  · unfold refuseHandle
    split
    · split <;> rfl
    · rfl
  · have found : getKey s l.keyh = some k := hk
    unfold refuseHandle
    rw [found]
    simp only [small, mine, decide_true, Bool.and_self, if_true]
    exact mapGet_mapPut_same none s.keys l.keyh.toNat _

/-- The retirement of a world begins (R259). -/
theorem worldRetire_stops {launch : Nat} {s : State} {l : Launch} (hl : getLaunch s launch = some l) (ending : l.phase = .ending) :
    ∃ t, exec (.worldRetire launch) s = .next t ∧ .worldRetireScrub launch ∈ t.agenda ∧
      (∀ g, ∀ m ∈ (getCore t g).cmds, m.launch = launch → m.abandoned = true) ∧
      ∀ k, mapGet none s.keys l.keyh.toNat = some k → l.keyh.toNat < 0x800 → k.launch = l.id →
        mapGet none t.keys l.keyh.toNat = some { k with live := false } := by
  have answers : exec (.worldRetire launch) s = .next (post (stopCmds (refuseHandle s l) launch) (.worldRetireScrub launch)) := by
    change execWorldRetire launch s = _
    unfold execWorldRetire
    simp only [hl]
    rw [if_neg (by simp [ending])]
  refine ⟨_, answers, by simp [post], fun g m hm => stopCmds_abandons hm, fun k hk small mine => ?_⟩
  have keys : (stopCmds (refuseHandle s l) launch).keys = (refuseHandle s l).keys := by rw [onlyCommands_stopCmds]
  change mapGet none (stopCmds (refuseHandle s l) launch).keys _ = _
  rw [keys]
  exact (refuseHandle_spec s l).2 k hk small mine

end Sys2Proof.Proofs
end

section
/-!
PROOFS. The scrub of a world that retires (R226, R259, Table 16.4).
-/

namespace Sys2Proof.Proofs

open Sys2Proof Sys2Proof.Machine Sys2Proof.Claims

/-! ### Its vault ranges -/

/-- Only memory, ranges, rights, cores and shootdowns differ. -/
def OnlyVaults (s t : State) : Prop :=
  t = { s with
    agenda := t.agenda, serial := t.serial, cores := t.cores, views := t.views, lineKeys := t.lineKeys, flights := t.flights, mca := t.mca
    ranges := t.ranges, freed := t.freed, withdrawn := t.withdrawn, rights := t.rights, shootdowns := t.shootdowns }

theorem OnlyVaults.refl (s : State) : OnlyVaults s s := rfl

theorem OnlyVaults.trans {s t u : State} (a : OnlyVaults s t) (b : OnlyVaults t u) : OnlyVaults s u := by
  unfold OnlyVaults at *
  rw [b, a]

theorem onlyVaults_dropRange (s : State) (r : Range) : OnlyVaults s (dropRange s r) := by
  unfold dropRange
  simp only
  split
  · rfl
  · split <;> rfl

theorem onlyVaults_endFree (s : State) (w : ShootWhat) : OnlyVaults s (endFree s w) := by
  unfold endFree
  split
  · split
    · exact onlyVaults_dropRange ..
    · exact .refl s
  · exact .refl s

theorem onlyVaults_startShoot (s : State) (what : List ShootWhat) : OnlyVaults s (startShoot s what .none) := by
  unfold startShoot
  simp only
  split
  · exact foldl_rel OnlyVaults.refl OnlyVaults.trans endFree onlyVaults_endFree what s
  · rfl

/-- The vault ranges of a world among some. -/
def vaultsOf (l : Nat) (rs : List Range) : List Range := rs.filter fun r => r.launch = l && decide (regionOf r.base = .vault)

/-- A withdrawn range is zeroed. -/
def zeroRange (s : State) (r : Range) : State := zeroKeys s r.base r.len

/-- A range is zeroed and its grants go. -/
def wipeRange (s : State) (r : Range) : State := stripGrants (zeroKeys s r.base r.len) r.base r.len

/-- The vault ranges of a world are zeroed. -/
def wipeVaults (s : State) (l : Nat) : State := (vaultsOf l s.ranges).foldl wipeRange ((vaultsOf l s.withdrawn).foldl zeroRange s)

theorem scrubVault_eq (s : State) (l : Nat) :
    scrubVault s l =
      returnWithdrawn (if vaultsOf l s.ranges = [] then wipeVaults s l
        else startShoot (wipeVaults s l) ((vaultsOf l s.ranges).map fun r => .range r.base r.len) .none) l := rfl

theorem onlyVaults_scrubVault (s : State) (l : Nat) : OnlyVaults s (scrubVault s l) := by
  have wiped : OnlyVaults s (wipeVaults s l) :=
    (foldl_rel OnlyVaults.refl OnlyVaults.trans zeroRange (fun _ _ => rfl) _ s).trans
      (foldl_rel OnlyVaults.refl OnlyVaults.trans wipeRange (fun _ _ => rfl) _ _)
  have shot : OnlyVaults s (if vaultsOf l s.ranges = [] then wipeVaults s l
      else startShoot (wipeVaults s l) ((vaultsOf l s.ranges).map fun r => .range r.base r.len) .none) := by
    split
    · exact wiped
    · exact wiped.trans (onlyVaults_startShoot ..)
  rw [scrubVault_eq]
  exact shot.trans (show OnlyVaults _ (returnWithdrawn _ l) from rfl)

/-! ### Bytes that read zero -/

/-- A byte reads zero in every view that is listed. -/
def ZeroAt (s : State) (k : Nat) : Prop := ∀ e ∈ s.views, mapGet 0 e.2 k = 0

theorem ZeroAt.byte {s : State} {k : Nat} (h : ZeroAt s k) (d : Nat) : viewByte s d k = 0 :=
  mapGet_of_forall (p := fun m => mapGet 0 m k = 0) [] s.views d rfl h

theorem mem_zeroKeys_views {s : State} {lo n : Nat} {e : Nat × SMap Byte} (he : e ∈ (zeroKeys s lo n).views) (k : Nat) :
    ∃ a ∈ s.views, mapGet 0 e.2 k = if lo ≤ k ∧ k < lo + n then 0 else mapGet 0 a.2 k := by
  rw [zeroKeys_views] at he
  obtain ⟨a, ha, rfl⟩ := mem_mapVals he
  refine ⟨a, ha, ?_⟩
  rw [mapGet_mapDrop]
  simp

theorem zeroAt_zeroKeys_inside {s : State} {lo n k : Nat} (h : lo ≤ k ∧ k < lo + n) : ZeroAt (zeroKeys s lo n) k := fun e he => by
  obtain ⟨a, -, byte⟩ := mem_zeroKeys_views he k
  rw [byte, if_pos h]

theorem zeroAt_zeroKeys {s : State} {k : Nat} (h : ZeroAt s k) (lo n : Nat) : ZeroAt (zeroKeys s lo n) k := fun e he => by
  obtain ⟨a, ha, byte⟩ := mem_zeroKeys_views he k
  rw [byte, h a ha, ite_self]

/-! ### Its contexts and local sections -/

/-- Only memory, cores and contexts differ; bytes that read zero still do, and free contexts are free. -/
structure Frees (s t : State) : Prop where
  rest : t = { s with
    agenda := t.agenda, harts := t.harts, cores := t.cores, views := t.views, lineKeys := t.lineKeys, flights := t.flights, mca := t.mca }
  zero : ∀ k, ZeroAt s k → ZeroAt t k
  free : ∀ k, (getHart s k).tenure = .free → (getHart t k).tenure = .free

theorem Frees.refl (s : State) : Frees s s := ⟨rfl, fun _ => id, fun _ => id⟩

theorem Frees.trans {s t u : State} (a : Frees s t) (b : Frees t u) : Frees s u :=
  ⟨by rw [b.rest, a.rest], fun k h => b.zero k (a.zero k h), fun k h => b.free k (a.free k h)⟩

theorem frees_powerDown (s : State) (core j : Nat) : Frees s (powerDown s core j) :=
  ⟨rfl, fun _ h => zeroAt_zeroKeys h _ _, fun _ => id⟩

/-- A bank that has lost its power reads zero. -/
theorem zeroAt_powerDown (s : State) (core j : Nat) {i : Nat} (hi : i < 0x4000) :
    ZeroAt (powerDown s core j) (localOf core + j * 0x4000 + i) :=
  zeroAt_zeroKeys_inside (s := s) (lo := localOf core + j * 0x4000) (n := 0x4000) (by omega)

theorem frees_setHart (s : State) (h : Nat) {v : Hart} (free : v.tenure = .free) : Frees s (setHart s h v) := by
  refine ⟨rfl, fun _ h => h, fun k hk => ?_⟩
  by_cases same : k = h
  · rw [same, getHart_setHart_same, free]
  · rw [getHart_setHart_ne _ _ same, hk]

theorem frees_offerContext (s : State) (core ctx : Nat) : Frees s (offerContext s core ctx) := ⟨rfl, fun _ h => h, fun _ h => h⟩

theorem frees_endLoan (s : State) (core j : Nat) : Frees s (endLoan s core j) := by
  unfold endLoan
  exact ((frees_powerDown s core j).trans (frees_setHart _ _ rfl)).trans (frees_offerContext ..)

/-- The context of a loan that ends is free, and its bank reads zero. -/
theorem endLoan_spec (s : State) (core j : Nat) :
    (getHart (endLoan s core j) (hartKey core j)).tenure = .free ∧
      ∀ i < 0x4000, ZeroAt (endLoan s core j) (localOf core + j * 0x4000 + i) := by
  unfold endLoan
  refine ⟨?_, fun i hi => (frees_offerContext ..).zero _ ((frees_setHart _ _ rfl).zero _ (zeroAt_powerDown s core j hi))⟩
  rw [offerContext, getHart_postAll, getHart_setHart_same]
  rfl

/-- The loan of a context ends. -/
def freeHeld (s : State) (h : Nat) : State := endLoan s (coreOf h) (ctxOf h)

/-- The loans of some contexts end: each is free, and its bank reads zero. -/
theorem freeHeld_spec (held : List Nat) (s : State) :
    Frees s (held.foldl freeHeld s) ∧ ∀ h ∈ held, (getHart (held.foldl freeHeld s) h).tenure = .free ∧
      ∀ i < 0x4000, ZeroAt (held.foldl freeHeld s) (localOf (coreOf h) + ctxOf h * 0x4000 + i) := by
  have step : ∀ s h, Frees s (freeHeld s h) := fun s h => frees_endLoan s (coreOf h) (ctxOf h)
  refine ⟨foldl_rel Frees.refl Frees.trans freeHeld step held s, fun h hh => ?_⟩
  obtain ⟨u, -, after⟩ := foldl_step Frees.refl Frees.trans freeHeld step hh s
  have key : hartKey (coreOf h) (ctxOf h) = h := by
    unfold hartKey coreOf ctxOf
    omega
  obtain ⟨free, zero⟩ := endLoan_spec u (coreOf h) (ctxOf h)
  rw [key] at free
  exact ⟨after.free h free, fun i hi => after.zero _ (zero i hi)⟩

/-- Bank 7 of a core loses its power. -/
def unload (s : State) (g : Nat) : State := powerDown s g 7

/-- The local sections of a world go: its free banks 7 read zero. -/
theorem unloadLocal_spec (s : State) (l : Launch) :
    Frees s (unloadLocal s l) ∧ (l.loaded = true → ∀ g ∈ launchCores s l, (getHart s (hartKey g 7)).tenure = .free →
      ∀ i < 0x4000, ZeroAt (unloadLocal s l) (localOf g + 7 * 0x4000 + i)) := by
  have step : ∀ s g, Frees s (unload s g) := fun s g => frees_powerDown s g 7
  cases h : l.loaded with
  | false =>
    have same : unloadLocal s l = s := by simp [unloadLocal, h]
    rw [same]
    exact ⟨.refl s, fun no => by cases no⟩
  | true =>
    have shape : unloadLocal s l =
        ((launchCores s l).filter fun g => decide ((getHart s (hartKey g 7)).tenure = .free)).foldl unload s := by
      unfold unloadLocal
      rw [h]
      rfl
    rw [shape]
    refine ⟨foldl_rel Frees.refl Frees.trans unload step _ s, fun _ g hg free i hi => ?_⟩
    have mine : g ∈ (launchCores s l).filter fun g => decide ((getHart s (hartKey g 7)).tenure = .free) :=
      List.mem_filter.2 ⟨hg, decide_eq_true free⟩
    obtain ⟨u, -, after⟩ := foldl_step Frees.refl Frees.trans unload step mine s
    exact after.zero _ (zeroAt_powerDown u g 7 hi)

end Sys2Proof.Proofs
end

section
/-!
PROOFS. What the scrub of a world leaves (R259, Table 16.4).
-/

namespace Sys2Proof.Proofs

open Sys2Proof Sys2Proof.Machine Sys2Proof.Claims

/-! ### The steps of a scrub -/

/-- Contexts, banks and vaults of a world have been freed and zeroed. -/
def scrubFreed (s : State) (l : Launch) (launch : Nat) : State :=
  unloadLocal ((heldContexts (scrubVault s launch) launch).foldl freeHeld (scrubVault s launch)) l

/-- Every core has been scrubbed. -/
def scrubCores (s : State) (l : Launch) : State := { s with cores := mapVals .reset (fun _ c => scrubCore l c) s.cores }

/-- A cluster without the nodes of a launch. -/
def withoutWork (launch : Nat) (c : Cluster) : Cluster := { c with workQ := c.workQ.filter (·.launch ≠ launch) }

/-- The work queues and pools have been scrubbed. -/
def scrubWork (s : State) (launch : Nat) : State :=
  { s with
    clusters := mapVals .reset (fun _ c => withoutWork launch c) s.clusters
    dies := mapVals .reset (fun _ d => { d with pool := d.pool.filter (·.launch ≠ launch) }) s.dies }

/-- A launch whose world has retired. -/
def retired (v : Launch) : Launch := { v with phase := .retired, nodes := [] }

/-- The key has gone, and the launch is retired. -/
def scrubKey (s : State) (l : Launch) (launch : Nat) : State := modLaunch (dropHandle s l) launch retired

/-- Clusters that have become empty note it. -/
def noteHeld (s : State) (h : Nat) : State := noteEmpty s (clusOf (coreOf h))
def noteFreed (s : State) (c : Nat) : State := post (noteEmpty s c) (.dispatchArbitration c)

/-- What a cluster that is empty notes. -/
structure Notes (s t : State) : Prop where
  rest : OnlyClusters s t
  work : ∀ c, (getCluster t c).workQ = (getCluster s c).workQ

theorem Notes.refl (s : State) : Notes s s := ⟨.refl s, fun _ => rfl⟩

theorem Notes.trans {s t u : State} (a : Notes s t) (b : Notes t u) : Notes s u :=
  ⟨a.rest.trans b.rest, fun c => (b.work c).trans (a.work c)⟩

theorem notes_noteEmpty (s : State) (c : Nat) : Notes s (noteEmpty s c) := by
  refine ⟨onlyClusters_noteEmpty s c, fun k => ?_⟩
  rcases noteEmpty_cases s c with ⟨-, h⟩ | ⟨-, h⟩ <;> rw [h]
  rw [getCluster_post]
  by_cases hk : k = c
  · rw [hk, getCluster_modCluster_same]
  · rw [getCluster_modCluster_ne _ _ hk]

theorem notes_noteFreed (s : State) (c : Nat) : Notes s (noteFreed s c) := (notes_noteEmpty s c).trans ⟨rfl, fun _ => rfl⟩

section Scrub

variable {launch : Nat} {s : State} {l : Launch} (hl : getLaunch s launch = some l) (ending : l.phase = .ending)

include hl ending

theorem exec_worldRetireScrub_busy (busy : worldBusy s launch = true ∨ worldWrites s l = true) :
    exec (.worldRetireScrub launch) s = .next (post s (.worldRetireScrub launch)) := by
  change execWorldRetireScrub launch s = _
  unfold execWorldRetireScrub
  simp only [hl]
  rw [if_neg (by simp [ending]), if_pos (by simpa using busy)]

theorem exec_worldRetireScrub (idle : worldBusy s launch = false) (written : worldWrites s l = false) :
    ∃ freed : List Nat, exec (.worldRetireScrub launch) s =
      .next (freed.foldl noteFreed ((heldContexts (scrubVault s launch) launch).foldl noteHeld
        (scrubKey (scrubWork (scrubCores (scrubFreed s l launch) l) launch) l launch))) := by
  refine ⟨mapKeys (s.clusters.filter fun e => e.2.workQ.any (·.launch = launch)), ?_⟩
  change execWorldRetireScrub launch s = _
  unfold execWorldRetireScrub
  simp only [hl]
  rw [if_neg (by simp [ending]), if_neg (by simp [idle, written])]
  rfl

end Scrub

/-! ### What has been freed -/

/-- What the freeing of a world's memory and contexts leaves. -/
structure FreedWorld (s t : State) (l : Launch) (launch : Nat) : Prop where
  launches : t.launches = s.launches
  keys : t.keys = s.keys
  held : ∀ h ∈ heldContexts s launch, (getHart t h).tenure = .free ∧ ∀ i < 0x4000, ZeroAt t (localOf (coreOf h) + ctxOf h * 0x4000 + i)
  sections : l.loaded = true → ∀ g ∈ launchCores s l, (getHart s (hartKey g 7)).tenure = .free →
    ∀ i < 0x4000, ZeroAt t (localOf g + 7 * 0x4000 + i)

theorem freedWorld_scrubFreed (s : State) (l : Launch) (launch : Nat) : FreedWorld s (scrubFreed s l launch) l launch := by
  have vaults := onlyVaults_scrubVault s launch
  unfold scrubFreed
  generalize scrubVault s launch = v at *
  have sameHeld : heldContexts v launch = heldContexts s launch := by rw [vaults]; rfl
  rw [sameHeld]
  obtain ⟨frees, held⟩ := freeHeld_spec (heldContexts s launch) v
  generalize (heldContexts s launch).foldl freeHeld v = f at *
  obtain ⟨frees', sections⟩ := unloadLocal_spec f l
  generalize unloadLocal f l = t at *
  have cores : launchCores f l = launchCores s l := launchCores_congr (by rw [frees.rest, vaults]) l
  exact
    { launches := by rw [frees'.rest, frees.rest, vaults]
      keys := by rw [frees'.rest, frees.rest, vaults]
      held := fun h hh => ⟨frees'.free h (held h hh).1, fun i hi => frees'.zero _ ((held h hh).2 i hi)⟩
      sections := fun loaded g hg free i hi => by
        have still : (getHart v (hartKey g 7)).tenure = .free := by
          rw [show getHart v (hartKey g 7) = getHart s (hartKey g 7) from by rw [vaults]; rfl]
          exact free
        exact sections loaded g (cores ▸ hg) (frees.free _ still) i hi }

/-! ### What has been scrubbed -/

/-- A core on which nothing of a launch is left (Table 16.4). -/
structure Scrubbed (launch : Nat) (c : Core) : Prop where
  l1 : c.l1 = []
  icache : c.icache = []
  slice : c.slice.owner = launch → c.slice = .reset
  queues : ∀ q, ∀ e ∈ mapGet [] c.queues q, e.world ≠ launch

theorem scrubbed_scrubCore (l : Launch) (c : Core) : Scrubbed l.id (scrubCore l c) := by
  refine ⟨rfl, rfl, fun owner => ?_, fun q => ?_⟩
  · change (if c.slice.owner = l.id then MatrixSlice.reset else c.slice) = .reset
    change (if c.slice.owner = l.id then MatrixSlice.reset else c.slice).owner = l.id at owner
    split
    · rfl
    · next other =>
      rw [if_neg other] at owner
      exact absurd owner other
  · refine mapGet_of_forall (p := fun x : List QEntry => ∀ e ∈ x, e.world ≠ l.id) [] _ q (by simp) fun e he => ?_
    have he : e ∈ mapVals [] (fun _ q => q.filter (·.world ≠ l.id)) c.queues := he
    obtain ⟨a, -, rfl⟩ := mem_mapVals he
    intro x hx
    simpa using (List.mem_filter.1 hx).2

theorem scrubbed_scrubCores (s : State) (l : Launch) (g : Nat) : Scrubbed l.id (getCore (scrubCores s l) g) := by
  refine mapGet_of_forall (p := Scrubbed l.id) .reset _ g ⟨rfl, rfl, fun _ => rfl, fun _ _ h => by cases h⟩ fun e he => ?_
  have he : e ∈ mapVals Core.reset (fun _ c => scrubCore l c) s.cores := he
  obtain ⟨a, -, rfl⟩ := mem_mapVals he
  exact scrubbed_scrubCore l a.2

theorem scrubWork_workQ (s : State) (launch c : Nat) : ∀ w ∈ (getCluster (scrubWork s launch) c).workQ, w.launch ≠ launch := by
  refine mapGet_of_forall (p := fun x => ∀ w ∈ x.workQ, w.launch ≠ launch) Cluster.reset _ c (fun _ h => by cases h) fun e he => ?_
  have he : e ∈ mapVals Cluster.reset (fun _ c => withoutWork launch c) s.clusters := he
  obtain ⟨a, -, rfl⟩ := mem_mapVals he
  intro w hw
  simpa using (List.mem_filter.1 hw).2

theorem dropHandle_spec (s : State) (l : Launch) :
    dropHandle s l = { s with keys := (dropHandle s l).keys } ∧
      ∀ k, mapGet none s.keys l.keyh.toNat = some k → l.keyh.toNat < 0x800 → k.launch = l.id →
        mapGet none (dropHandle s l).keys l.keyh.toNat = none := by
  refine ⟨?_, fun k hk small mine => ?_⟩
  · unfold dropHandle
    split
    · split <;> rfl
    · rfl
  · have found : getKey s l.keyh = some k := hk
    unfold dropHandle
    rw [found]
    simp only [small, mine, decide_true, Bool.and_self, if_true]
    exact mapGet_mapErase_same none s.keys l.keyh.toNat

/-- What the last steps of a scrub leave: all but keys, launches, and what empty clusters note. -/
theorem scrubKey_frame (s : State) (l : Launch) (launch : Nat) :
    scrubKey s l launch = { s with keys := (dropHandle s l).keys, launches := (scrubKey s l launch).launches } := by
  have frame := (dropHandle_spec s l).1
  unfold scrubKey
  generalize dropHandle s l = u at frame
  rw [modLaunch_frame u]
  rw [frame]

theorem bankZero_of {s : State} {core ctx : Nat} (h : ∀ i < 0x4000, ZeroAt s (localOf core + ctx * 0x4000 + i)) : BankZero s core ctx :=
  fun d k hk => (h k hk).byte d

/-- The world of a launch is scrubbed (R259). -/
theorem worldRetireScrub_scrubs {launch : Nat} {s : State} {l : Launch} (hl : getLaunch s launch = some l) (hid : l.id = launch)
    (ending : l.phase = .ending) (idle : worldBusy s launch = false) (written : worldWrites s l = false) :
    ∃ t v, exec (.worldRetireScrub launch) s = .next t ∧ getLaunch t launch = some v ∧ v.phase = .retired ∧
      (∀ h ∈ heldContexts s launch, (getHart t h).tenure = .free ∧ BankZero t (h / 16) (h % 16)) ∧
      (l.loaded = true → ∀ g ∈ launchCores s l, (getHart s (g * 16 + 7)).tenure = .free → BankZero t g 7) ∧
      (∀ g, (getCore t g).l1 = [] ∧ (getCore t g).icache = [] ∧ ((getCore t g).slice.owner = launch → (getCore t g).slice = .reset) ∧
        ∀ q, ∀ e ∈ mapGet [] (getCore t g).queues q, e.world ≠ launch) ∧
      (∀ c, ∀ w ∈ (getCluster t c).workQ, w.launch ≠ launch) ∧
      ∀ k, mapGet none s.keys l.keyh.toNat = some k → l.keyh.toNat < 0x800 → k.launch = l.id →
        mapGet none t.keys l.keyh.toNat = none := by
  obtain ⟨freed, answers⟩ := exec_worldRetireScrub hl ending idle written
  have world := freedWorld_scrubFreed s l launch
  generalize scrubFreed s l launch = f at *
  have key := scrubKey_frame (scrubWork (scrubCores f l) launch) l launch
  have found : getLaunch (scrubKey (scrubWork (scrubCores f l) launch) l launch) launch = some (retired l) := by
    have same : getLaunch (dropHandle (scrubWork (scrubCores f l) launch) l) launch = some l := by
      rw [(dropHandle_spec ..).1]
      exact (getLaunch_congr world.launches launch).trans hl
    rw [scrubKey, getLaunch_modLaunch_same, same, Option.map_some]
  generalize scrubKey (scrubWork (scrubCores f l) launch) l launch = k at *
  have notes : Notes k (freed.foldl noteFreed ((heldContexts (scrubVault s launch) launch).foldl noteHeld k)) :=
    (foldl_rel Notes.refl Notes.trans noteHeld (fun s h => notes_noteEmpty s (clusOf (coreOf h))) _ k).trans
      (foldl_rel Notes.refl Notes.trans noteFreed notes_noteFreed freed _)
  generalize freed.foldl noteFreed ((heldContexts (scrubVault s launch) launch).foldl noteHeld k) = t at *
  have harts : ∀ h, getHart t h = getHart f h := fun h => by rw [notes.rest, key]; rfl
  have zero : ∀ i, ZeroAt f i → ZeroAt t i := fun i h => by rw [notes.rest, key]; exact h
  have cores : ∀ g, getCore t g = getCore (scrubCores f l) g := fun g => by rw [notes.rest, key]; rfl
  refine ⟨t, retired l, answers, ?_, rfl, fun h hh => ?_, fun loaded g hg free => ?_, fun g => ?_, fun c w hw => ?_, fun e he small mine => ?_⟩
  · rw [notes.rest]
    exact found
  · obtain ⟨free, bank⟩ := world.held h hh
    exact ⟨by rw [harts, free], bankZero_of fun i hi => zero _ (bank i hi)⟩
  · exact bankZero_of fun i hi => zero _ (world.sections loaded g hg free i hi)
  · obtain ⟨l1, icache, slice, queues⟩ := scrubbed_scrubCores f l g
    rw [cores]
    rw [hid] at slice queues
    exact ⟨l1, icache, slice, queues⟩
  · rw [notes.work, key] at hw
    exact scrubWork_workQ (scrubCores f l) launch c w hw
  · have keys : t.keys = (dropHandle (scrubWork (scrubCores f l) launch) l).keys := by rw [notes.rest, key]
    rw [keys]
    refine (dropHandle_spec (scrubWork (scrubCores f l) launch) l).2 e ?_ small mine
    change mapGet none f.keys l.keyh.toNat = _
    rw [world.keys, he]

/-! ### The obligation -/

/-- Settles O46: the last sweep of a launch, and the retirement and the scrub of its world. -/
theorem launchEnds : Obligations.LaunchEnds := by
  unfold Obligations.LaunchEnds
  refine ⟨fun launch s l hl hid hr idle equal => ⟨fun more => launchEndSweep_again hl hr idle equal more,
      fun again complete saves mca flights ops => ?_⟩,
    fun launch s l hl ending => worldRetire_stops hl ending,
    fun launch s l hl _ ending busy => ⟨_, exec_worldRetireScrub_busy hl ending busy, rfl⟩,
    fun launch s l hl hid ending idle written => worldRetireScrub_scrubs hl hid ending idle written⟩
  obtain ⟨found, retires, sum⟩ := launchDone_spec (hid.symm ▸ hl : getLaunch s l.id = some l)
  rw [hid] at found retires
  exact ⟨_, doneLaunch l, launchEndSweep_done hl hr idle equal again complete saves mca flights ops, found, rfl, rfl, rfl, retires, sum⟩

end Sys2Proof.Proofs
end

section
/-!
PROOFS. An entry of a command window from its taking to its end: what the journal holds of it, and that a completion record is owed (R267 to
R270).
-/

namespace Sys2Proof.Proofs

open Sys2Proof Sys2Proof.Machine Sys2Proof.Claims

/-! ### Writes to a logical device -/

/-- Only memory differs. -/
def OnlyMemory (s t : State) : Prop := t = { s with views := t.views, lineKeys := t.lineKeys }

theorem OnlyMemory.trans {s t u : State} (a : OnlyMemory s t) (b : OnlyMemory t u) : OnlyMemory s u := by
  unfold OnlyMemory at *
  rw [b, a]

theorem OnlyMemory.getTenant {s t : State} (h : OnlyMemory s t) (k : Nat) : getTenant t k = Machine.getTenant s k := by rw [h]; rfl

theorem onlyMemory_applyUnder (s : State) (die key : Nat) (bs : List Byte) (u : LineKey) : OnlyMemory s (applyUnder s die key bs u) := by
  unfold applyUnder
  split <;> rfl

theorem onlyMemory_hdmWrite (s : State) (t off : Nat) (bs : List Byte) : OnlyMemory s (hdmWrite s t off bs) := by
  unfold hdmWrite
  split
  · exact foldl_rel (R := OnlyMemory) (fun _ => rfl) OnlyMemory.trans _ (fun s e =>
      (((onlyMemory_applyUnder ..).trans (onlyMemory_applyUnder ..)).trans (onlyMemory_applyUnder ..)).trans (onlyMemory_applyUnder ..)) _ s
  · rfl

/-! ### The journal -/

/-- The entry of a command in its tenant's journal. -/
theorem findEntry_some {s : State} {t j : Nat} {e : JEntry} (h : findEntry s t j = some e) : e ∈ (getTenant s t).journal ∧ e.jseq = j :=
  ⟨List.mem_of_find?_eq_some h, by simpa using List.find?_some h⟩

theorem journalled_of_findEntry {s : State} {t j : Nat} {e : JEntry} (h : findEntry s t j = some e) :
    Journalled s t j e.kind e.state e.reason := ⟨e, (findEntry_some h).1, (findEntry_some h).2, rfl, rfl, rfl⟩

theorem findEntry_congr {s u : State} {t : Nat} (h : (getTenant u t).journal = (getTenant s t).journal) (j : Nat) :
    findEntry u t j = findEntry s t j := by
  unfold findEntry
  rw [h]

/-- An entry with another state and reason, at the time of the change. -/
def restated (s : State) (e : JEntry) (state reason : BitVec 8) : JEntry := { e with state := state, reason := reason, time := s.time / 1000 }

/-- A journal in which the entries under a sequence are another's. -/
def journalWith (j : Nat) (e : JEntry) (l : List JEntry) : List JEntry := l.map fun x => if x.jseq = j then e else x

theorem find?_journalWith_same {j : Nat} {e o : JEntry} (he : e.jseq = j) {l : List JEntry} (h : l.find? (·.jseq = j) = some o) :
    (journalWith j e l).find? (·.jseq = j) = some e := by
  induction l with
  | nil => cases h
  | cons x l ih =>
    by_cases hx : x.jseq = j
    · simp [journalWith, hx, he]
    · simp only [List.find?_cons, hx, decide_false] at h
      have rest := ih h
      simp only [journalWith] at rest
      simp [journalWith, hx, rest]

theorem find?_journalWith_ne {j k : Nat} {e : JEntry} (he : e.jseq = j) (hk : k ≠ j) (l : List JEntry) :
    (journalWith j e l).find? (·.jseq = k) = l.find? (·.jseq = k) := by
  induction l with
  | nil => rfl
  | cons x l ih =>
    simp only [journalWith] at ih
    by_cases hx : x.jseq = j
    · have other : j ≠ k := fun h => hk h.symm
      simp [journalWith, hx, he, other, ih]
    · simp [journalWith, hx, List.find?_cons, ih]

/-- What the change of an entry's state makes of its tenant. -/
theorem journalSet_cases (s : State) (t j : Nat) (state reason : BitVec 8) :
    (findEntry s t j = none ∧ journalSet s t j state reason = s) ∨
      ∃ e, findEntry s t j = some e ∧ getTenant (journalSet s t j state reason) t =
        { getTenant s t with journal := journalWith j (restated s e state reason) (getTenant s t).journal } := by
  unfold journalSet
  split
  · next h => exact .inl ⟨h, rfl⟩
  · next e h =>
    refine .inr ⟨e, h, ?_⟩
    rw [writeEntry, (onlyMemory_hdmWrite ..).getTenant, getTenant_modTenant_same]
    rfl

/-! ### An entry that has been taken -/

/-- An entry that a tenant's window has just given is under way: the journal has it, and it is listed among the running commands. -/
structure UnderWay (s u : State) (t : Nat) (b : List Byte) : Prop where
  consumed : (getTenant u t).consumed = (getTenant s t).consumed + 1
  jhead : (getTenant u t).jhead = (getTenant s t).jhead + 1
  closed : (getTenant u t).closed = []
  entry : ∃ e, findEntry u t ((getTenant s t).jhead + 1) = some e ∧ e.kind = b.getD 8 0
  listed : ∃ q, (getTenant u t).running.find? (·.2.2 = (getTenant s t).jhead + 1) = some q ∧
    ((∀ e ∈ (getTenant s t).running, e.2.2 ≠ (getTenant s t).jhead + 1) → q.1 = leWord (slice b 0 8) ∧ q.2.1 = b.getD 9 0)

theorem UnderWay.of_tenant {s u v : State} {t : Nat} {b : List Byte} (w : UnderWay s u t b) (h : getTenant v t = getTenant u t) :
    UnderWay s v t b := by
  obtain ⟨consumed, jhead, closed, entry, listed⟩ := w
  rw [← findEntry_congr (congrArg Tenant.journal h)] at entry
  rw [← h] at consumed jhead closed listed
  exact ⟨consumed, jhead, closed, entry, listed⟩

/-- A new state of the entry stands in the journal, and the entry is still under way. -/
theorem UnderWay.restate {s u : State} {t : Nat} {b : List Byte} (w : UnderWay s u t b) (state reason : BitVec 8) :
    UnderWay s (journalSet u t ((getTenant s t).jhead + 1) state reason) t b ∧
      Taken s (journalSet u t ((getTenant s t).jhead + 1) state reason) t b state reason := by
  obtain ⟨consumed, jhead, closed, ⟨e, he, kind⟩, listed⟩ := w
  rcases journalSet_cases u t ((getTenant s t).jhead + 1) state reason with ⟨none', -⟩ | ⟨o, ho, tenant⟩
  · rw [he] at none'
    cases none'
  rw [he] at ho
  cases ho
  generalize journalSet u t ((getTenant s t).jhead + 1) state reason = v at tenant
  have found : findEntry v t ((getTenant s t).jhead + 1) = some (restated u e state reason) := by
    rw [findEntry, tenant]
    exact find?_journalWith_same (e := restated u e state reason) (findEntry_some he).2 he
  have journalled := journalled_of_findEntry found
  rw [show (restated u e state reason).kind = b.getD 8 0 from kind] at journalled
  refine ⟨⟨?_, ?_, ?_, ⟨_, found, kind⟩, ?_⟩, ?_, ?_, journalled⟩ <;> rw [tenant] <;> assumption

/-- A new state of another entry leaves this one under way. -/
theorem UnderWay.restate_ne {s u : State} {t j : Nat} {b : List Byte} (w : UnderWay s u t b) (hj : (getTenant s t).jhead + 1 ≠ j)
    (state reason : BitVec 8) : UnderWay s (journalSet u t j state reason) t b := by
  rcases journalSet_cases u t j state reason with ⟨-, same⟩ | ⟨o, ho, tenant⟩
  · rw [same]
    exact w
  obtain ⟨consumed, jhead, closed, ⟨e, he, kind⟩, listed⟩ := w
  generalize journalSet u t j state reason = v at tenant
  have found : findEntry v t ((getTenant s t).jhead + 1) = some e := by
    rw [findEntry, tenant]
    exact (find?_journalWith_ne (e := restated u o state reason) (findEntry_some ho).2 hj _).trans he
  refine ⟨?_, ?_, ?_, ⟨e, found, kind⟩, ?_⟩ <;> rw [tenant] <;> assumption

/-- A window that no PROXY_CLOSED entry waits for is read, and no more. -/
theorem pollWindow_cases {s : State} {t : Nat} (h : (getTenant s t).closed = []) :
    pollWindow s t = s ∨ ∃ e, pollWindow s t = post s e := by
  unfold pollWindow
  simp only [h, if_true]
  split
  · exact .inr ⟨_, rfl⟩
  · exact .inl rfl

theorem onlyAgenda_pollWindow {s : State} {t : Nat} (h : (getTenant s t).closed = []) : OnlyAgenda s (pollWindow s t) := by
  rcases pollWindow_cases h with e | ⟨e, h⟩
  · rw [e]
    rfl
  · rw [h]
    rfl

theorem OnlyAgenda.getTenant {s u : State} (h : OnlyAgenda s u) (t : Nat) : getTenant u t = Machine.getTenant s t := by rw [h]; rfl

/-- What is final is no longer running, and its completion record is owed. -/
def owing (q : Word × BitVec 8 × Nat) (j : Nat) (state reason : BitVec 8) (v : Tenant) : Tenant :=
  { v with running := v.running.filter (·.2.2 ≠ j), completions := v.completions ++ [(q.1, q.2.1, j, state, reason)] }

theorem finishEntry_cases (s : State) (t j : Nat) (state reason : BitVec 8) :
    ((getTenant (journalSet s t j state reason) t).running.find? (·.2.2 = j) = none ∧
        finishEntry s t j state reason = pollWindow (journalSet s t j state reason) t) ∨
      ∃ q, (getTenant (journalSet s t j state reason) t).running.find? (·.2.2 = j) = some q ∧
        finishEntry s t j state reason =
          post (modTenant (journalSet s t j state reason) t (owing q j state reason)) (.completionRecord t) := by
  unfold finishEntry
  simp only
  split
  · next h => exact .inl ⟨h, rfl⟩
  · next h => exact .inr ⟨_, h, rfl⟩

/-- The end of an entry: it stands so in the journal, and its completion record is owed. -/
theorem UnderWay.finish {s u : State} {t : Nat} {b : List Byte} (w : UnderWay s u t b) (state reason : BitVec 8) :
    Ended s (finishEntry u t ((getTenant s t).jhead + 1) state reason) t b state reason ∧
      (getTenant (finishEntry u t ((getTenant s t).jhead + 1) state reason) t).closed = [] := by
  obtain ⟨⟨-, -, closed, -, q, hq, mine⟩, ⟨consumed, jhead, journalled⟩⟩ := w.restate state reason
  rcases finishEntry_cases u t ((getTenant s t).jhead + 1) state reason with ⟨none', -⟩ | ⟨o, ho, ends⟩
  · rw [hq] at none'
    cases none'
  rw [hq] at ho
  cases ho
  generalize journalSet u t ((getTenant s t).jhead + 1) state reason = v at *
  have tenant : getTenant (finishEntry u t ((getTenant s t).jhead + 1) state reason) t =
      owing q ((getTenant s t).jhead + 1) state reason (getTenant v t) := by
    rw [ends, getTenant_post, getTenant_modTenant_same]
  have owed : RecordOwed (finishEntry u t ((getTenant s t).jhead + 1) state reason) t
      (q.1, q.2.1, (getTenant s t).jhead + 1, state, reason) := by
    refine ⟨?_, ?_⟩
    · rw [tenant]
      exact List.mem_append_right _ (List.mem_singleton_self _)
    · rw [ends]
      exact List.mem_append_right _ (List.mem_singleton_self _)
  refine ⟨⟨⟨?_, ?_, ?_⟩, _, owed, rfl, mine⟩, ?_⟩
  · rw [tenant]; exact consumed
  · rw [tenant]; exact jhead
  · unfold Journalled
    rw [tenant]
    exact journalled
  · rw [tenant]
    exact closed

/-- The end of another entry leaves this one under way. -/
theorem UnderWay.finish_ne {s u : State} {t j : Nat} {b : List Byte} (w : UnderWay s u t b) (hj : (getTenant s t).jhead + 1 ≠ j)
    (state reason : BitVec 8) : UnderWay s (finishEntry u t j state reason) t b := by
  have after := w.restate_ne hj state reason
  rcases finishEntry_cases u t j state reason with ⟨-, ends⟩ | ⟨o, -, ends⟩ <;> rw [ends]
  · exact after.of_tenant ((onlyAgenda_pollWindow after.closed).getTenant t)
  · generalize journalSet u t j state reason = v at after
    obtain ⟨consumed, jhead, closed, entry, q, hq, mine⟩ := after
    have tenant : getTenant (post (modTenant v t (owing o j state reason)) (.completionRecord t)) t = owing o j state reason (getTenant v t) := by
      rw [getTenant_post, getTenant_modTenant_same]
    refine ⟨?_, ?_, ?_, ?_, q, ?_, mine⟩
    · rw [tenant]; exact consumed
    · rw [tenant]; exact jhead
    · rw [tenant]; exact closed
    · rw [findEntry, tenant]; exact entry
    · rw [tenant]
      refine Eq.trans ?_ hq
      change List.find? _ (List.filter _ _) = _
      rw [List.find?_filter]
      refine congrArg (fun p => List.find? p _) (funext fun e => ?_)
      by_cases he : e.2.2 = (getTenant s t).jhead + 1 <;> simp [he, hj]

end Sys2Proof.Proofs
end

section
/-!
PROOFS. The taking of an entry from a command window (R267, R268, R270).
-/

namespace Sys2Proof.Proofs

open Sys2Proof Sys2Proof.Machine Sys2Proof.Claims

/-! ### What an entry says -/

theorem numAt_one (b : List Byte) (i : Nat) : numAt b i 1 = (b.getD i 0).toNat := by
  simp [numAt, slice, leNat]

/-- A plain command asks for no WAIT. -/
theorem waits_of_plain {b : List Byte} (h : Plain b) (record : List Byte) (j : Nat) : waits (parseCommand b record j) = false := by
  obtain ⟨-, -, flags⟩ := h
  change (b.getD 9 0).getLsbD 1 = false
  rw [BitVec.getLsbD, Nat.testBit_lt_two_pow (by omega)]

theorem waitPassed_of_no_wait {c : HostCmd} (h : waits c = false) (s : State) : waitPassed s c = true := by
  simp [waitPassed, waitReached, h]

/-! ### The state after the taking -/

/-- CONSUMED has moved on, and MESSAGE is pending in the contexts of the operating-service cores. -/
def consumedNext (s : State) (t : Nat) : State :=
  raiseOs 0x08 (fun _ => true)
    (setControl (modTenant s t fun v => { v with consumed := (getTenant s t).consumed + 1 }) t 0 ((getTenant s t).consumed + 1))

/-- The entry has been journalled. -/
def journalledNext (s : State) (t : Nat) (b record : List Byte) : State :=
  (journalAdd (consumedNext s t) t (BitVec.ofNat 64 ((getTenant s t).consumed + 1)) (b.getD 8 0) accepted 0 0 (journalDigest (b ++ record))).2

/-- The entry has been taken: it is journalled and listed among the running commands. -/
def taken (s : State) (t : Nat) (b record : List Byte) : State :=
  modTenant (journalledNext s t b record) t fun v =>
    { v with running := v.running ++ [(leWord (slice b 0 8), b.getD 9 0, (getTenant s t).jhead + 1)] }

theorem getTenant_consumedNext (s : State) (t : Nat) :
    getTenant (consumedNext s t) t = { getTenant s t with consumed := (getTenant s t).consumed + 1 } := by
  change getTenant (setControl _ _ _ _) t = _
  rw [setControl, (onlyMemory_hdmWrite ..).getTenant, getTenant_modTenant_same]

/-- The entry of a command as it is journalled. -/
def newEntry (s : State) (t : Nat) (b record : List Byte) : JEntry :=
  ⟨(getTenant s t).jhead + 1, BitVec.ofNat 64 ((getTenant s t).consumed + 1), b.getD 8 0, accepted, 0, 0, s.time / 1000,
    journalDigest (b ++ record)⟩

theorem consumedNext_frame (s : State) (t : Nat) :
    consumedNext s t =
      { s with
        tenants := (consumedNext s t).tenants, views := (consumedNext s t).views, lineKeys := (consumedNext s t).lineKeys
        harts := (consumedNext s t).harts } := by
  have memory : OnlyMemory (modTenant s t fun v => { v with consumed := (getTenant s t).consumed + 1 })
      (setControl (modTenant s t fun v => { v with consumed := (getTenant s t).consumed + 1 }) t 0 ((getTenant s t).consumed + 1)) :=
    onlyMemory_hdmWrite ..
  unfold consumedNext raiseOs
  rw [memory]
  rfl

theorem getTenant_taken (s : State) (t : Nat) (b record : List Byte) :
    getTenant (taken s t b record) t =
      { getTenant s t with
        consumed := (getTenant s t).consumed + 1, jhead := (getTenant s t).jhead + 1
        journal := (getTenant s t).journal.filter (·.jseq % 1024 ≠ ((getTenant s t).jhead + 1) % 1024) ++ [newEntry s t b record]
        running := (getTenant s t).running ++ [(leWord (slice b 0 8), b.getD 9 0, (getTenant s t).jhead + 1)] } := by
  have time : (consumedNext s t).time = s.time := by rw [consumedNext_frame]
  rw [taken, getTenant_modTenant_same, journalledNext, journalAdd]
  simp only
  rw [setControl, (onlyMemory_hdmWrite ..).getTenant, writeEntry, (onlyMemory_hdmWrite ..).getTenant, getTenant_modTenant_same,
    getTenant_consumedNext, time]
  rfl

/-- What the taking of an entry leaves alone. -/
theorem taken_frame (s : State) (t : Nat) (b record : List Byte) :
    taken s t b record =
      { s with
        tenants := (taken s t b record).tenants, views := (taken s t b record).views, lineKeys := (taken s t b record).lineKeys
        harts := (taken s t b record).harts } := by
  have written : ∀ u : State, ∀ e : JEntry, ∀ j, OnlyMemory u (setControl (writeEntry u t e) t 0x20 j) := fun u e j =>
    (onlyMemory_hdmWrite ..).trans (onlyMemory_hdmWrite ..)
  unfold taken journalledNext journalAdd modTenant
  simp only
  rw [written]
  have before := consumedNext_frame s t
  generalize consumedNext s t = u at *
  rw [before]

theorem findEntry_taken (s : State) (t : Nat) (b record : List Byte) :
    findEntry (taken s t b record) t ((getTenant s t).jhead + 1) = some (newEntry s t b record) := by
  rw [findEntry, getTenant_taken]
  simp only [List.find?_append, List.find?_filter]
  rw [List.find?_eq_none.2 fun e _ => by
    by_cases he : e.jseq = (getTenant s t).jhead + 1 <;> simp [he]]
  simp [newEntry]

/-- An entry that has been taken is under way. -/
theorem underWay_taken {s : State} {t : Nat} {b : List Byte} (at' : EntryAt s t b) (record : List Byte) :
    UnderWay s (taken s t b record) t b := by
  obtain ⟨-, -, -, closed⟩ := at'
  refine ⟨?_, ?_, ?_, ⟨_, findEntry_taken s t b record, rfl⟩, ?_⟩
  · rw [getTenant_taken]
  · rw [getTenant_taken]
  · rw [getTenant_taken]; exact closed
  · rw [getTenant_taken]
    cases before : (getTenant s t).running.find? (·.2.2 = (getTenant s t).jhead + 1) with
    | some q =>
      refine ⟨q, ?_, fun apart => absurd (by simpa using List.find?_some before) (apart q (List.mem_of_find?_eq_some before))⟩
      simp [List.find?_append, before]
    | none =>
      refine ⟨(leWord (slice b 0 8), b.getD 9 0, (getTenant s t).jhead + 1), ?_, fun _ => ⟨rfl, rfl⟩⟩
      simp [List.find?_append, before]

/-- What stands in the journal after the taking (R270). -/
theorem taken_taken (s : State) (t : Nat) (b record : List Byte) : Taken s (taken s t b record) t b 1 0 :=
  ⟨by rw [getTenant_taken], by rw [getTenant_taken], journalled_of_findEntry (findEntry_taken s t b record)⟩

/-! ### The event -/

/-- The command that an entry is. -/
def commandAt (s : State) (t : Nat) (b : List Byte) : HostCmd := parseCommand b (recordOf s t b) ((getTenant s t).jhead + 1)

/-- How the taking goes on once the entry is journalled under its sequence. -/
def goOn (t : Nat) (b record : List Byte) (p : Nat × State) : State :=
  let c := parseCommand b record p.1
  let u := modTenant p.2 t fun v => { v with running := v.running ++ [(c.seq, c.flags, p.1)] }
  if failReason u t b c ≠ 0 then pollWindow (commandFailed u t c (failReason u t b c)) t
  else if waitPassed u c then pollWindow (startCommand u t c) t
  else post (modTenant u t fun v => { v with held := v.held ++ [c] }) (.commandWaitRelease t)

theorem takeEntry_eq {s : State} {t : Nat} {b : List Byte} (bytes : entryBytes s t = b) :
    takeEntry s t = goOn t b (recordOf s t b) ((getTenant s t).jhead + 1, journalledNext s t b (recordOf s t b)) := by
  have pair : ((getTenant s t).jhead + 1, journalledNext s t b (recordOf s t b)) =
      journalAdd (consumedNext s t) t (BitVec.ofNat 64 ((getTenant s t).consumed + 1)) (b.getD 8 0) accepted 0 0
        (journalDigest (b ++ recordOf s t b)) := by
    refine Prod.ext ?_ (by rw [journalledNext])
    rw [journalAdd, getTenant_consumedNext]
  rw [pair, ← bytes]
  unfold takeEntry goOn consumedNext
  simp only

/-- What a command that is taken does: it fails or it starts. -/
def served (u : State) (t : Nat) (b : List Byte) (c : HostCmd) : State :=
  if failReason u t b c ≠ 0 then commandFailed u t c (failReason u t b c) else startCommand u t c

theorem served_of_no_wait {c : HostCmd} (h : waits c = false) (u : State) (t : Nat) (b : List Byte) (held : State) :
    (if failReason u t b c ≠ 0 then pollWindow (commandFailed u t c (failReason u t b c)) t
      else if waitPassed u c then pollWindow (startCommand u t c) t else held) = pollWindow (served u t b c) t := by
  rw [waitPassed_of_no_wait h, served, apply_ite (pollWindow · t), if_pos rfl]

theorem goOn_plain {b : List Byte} (plain : Plain b) (s : State) (t : Nat) (record : List Byte) :
    goOn t b record ((getTenant s t).jhead + 1, journalledNext s t b record) =
      pollWindow (served (taken s t b record) t b (parseCommand b record ((getTenant s t).jhead + 1))) t := by
  have no_wait := waits_of_plain plain record ((getTenant s t).jhead + 1)
  unfold goOn taken
  generalize getTenant s t = x at *
  generalize journalledNext s t b record = u
  exact served_of_no_wait no_wait _ t b _

/-- A plain entry that is taken fails or starts; then the window is read again. -/
theorem takeKind_plain {t : Nat} {b : List Byte} {s : State} (at' : EntryAt s t b) (plain : Plain b) {mine : Nat → Bool}
    (kind : mine (b.getD 8 0).toNat = true) :
    takeKind t mine s = .next (pollWindow (served (taken s t b (recordOf s t b)) t b (commandAt s t b)) t) := by
  obtain ⟨-, ready, bytes, -⟩ := at'
  unfold takeKind
  rw [if_pos ready, bytes, numAt_one, if_pos kind, takeEntry_eq bytes, goOn_plain plain]
  rfl

end Sys2Proof.Proofs
end

section
/-!
PROOFS. What the commands SIGNAL, ABORT and FENCE do, and which commands do not fail (R268, Table 17.3).
-/

namespace Sys2Proof.Proofs

open Sys2Proof Sys2Proof.Machine Sys2Proof.Claims

/-! ### The end of a command -/

/-- Only a tenant's table, memory, and what is due differ; what was due still is. -/
structure OnlyDevice (s t : State) : Prop where
  rest : t = { s with agenda := t.agenda, tenants := t.tenants, views := t.views, lineKeys := t.lineKeys }
  due : ∀ e ∈ s.agenda, e ∈ t.agenda

theorem OnlyDevice.trans {s t u : State} (a : OnlyDevice s t) (b : OnlyDevice t u) : OnlyDevice s u :=
  ⟨by rw [b.rest, a.rest], fun e h => b.due e (a.due e h)⟩

theorem onlyDevice_post (s : State) (e : Event) : OnlyDevice s (post s e) := ⟨rfl, fun _ => List.mem_append_left _⟩

theorem onlyDevice_modTenant (s : State) (t : Nat) (f : Tenant → Tenant) : OnlyDevice s (modTenant s t f) := ⟨rfl, fun _ => id⟩

theorem OnlyMemory.device {s t : State} (h : OnlyMemory s t) : OnlyDevice s t := by
  unfold OnlyMemory at h
  exact ⟨by rw [h], fun e he => by rwa [h]⟩

theorem onlyDevice_journalSet (s : State) (t j : Nat) (state reason : BitVec 8) : OnlyDevice s (journalSet s t j state reason) := by
  unfold journalSet
  split
  · exact ⟨rfl, fun _ => id⟩
  · exact (onlyDevice_modTenant ..).trans (onlyMemory_hdmWrite ..).device

theorem onlyDevice_pollWindow {s : State} {t : Nat} (h : (getTenant s t).closed = []) : OnlyDevice s (pollWindow s t) := by
  rcases pollWindow_cases h with e | ⟨e, h⟩
  · rw [e]
    exact ⟨rfl, fun _ => id⟩
  · rw [h]
    exact onlyDevice_post s e

theorem ended_pollWindow {s u : State} {t : Nat} {b : List Byte} {state reason : BitVec 8} (ended : Ended s u t b state reason)
    (closed : (getTenant u t).closed = []) : Ended s (pollWindow u t) t b state reason := by
  rcases pollWindow_cases closed with e | ⟨e, h⟩
  · rw [e]
    exact ended
  · rw [h]
    obtain ⟨taken', q, ⟨record, due⟩, rest⟩ := ended
    exact ⟨taken', q, ⟨record, List.mem_append_left _ due⟩, rest⟩

/-- The end of an entry that is under way, after which its window is read again. -/
theorem UnderWay.ends {s u : State} {t : Nat} {b : List Byte} (w : UnderWay s u t b) (state reason : BitVec 8) :
    Ended s (pollWindow (finishEntry u t ((getTenant s t).jhead + 1) state reason) t) t b state reason ∧
      OnlyDevice u (pollWindow (finishEntry u t ((getTenant s t).jhead + 1) state reason) t) := by
  obtain ⟨ended, closed⟩ := w.finish state reason
  refine ⟨ended_pollWindow ended closed, .trans ?_ (onlyDevice_pollWindow closed)⟩
  have journalled := onlyDevice_journalSet u t ((getTenant s t).jhead + 1) state reason
  rcases finishEntry_cases u t ((getTenant s t).jhead + 1) state reason with ⟨-, h⟩ | ⟨q, -, h⟩ <;> rw [h]
  · exact journalled.trans (onlyDevice_pollWindow (w.restate state reason).1.closed)
  · exact (journalled.trans (onlyDevice_modTenant ..)).trans (onlyDevice_post ..)

/-! ### Commands that do not fail -/

/-- A command of a kind without WAIT, whose entry has zeros where it must (Table 17.2). -/
structure PlainCommand (b : List Byte) (c : HostCmd) (k : Nat) : Prop where
  reserved : numAt b 12 4 = 0
  tail : numAt b 48 16 = 0
  flags : c.flags.toNat < 4
  noWait : waits c = false
  kind : c.kind.toNat = k

theorem plainCommand_parseCommand {b : List Byte} {k : Nat} (plain : Plain b) (kind : (b.getD 8 0).toNat = k) (record : List Byte) (j : Nat) :
    PlainCommand b (parseCommand b record j) k := by
  have noWait := waits_of_plain plain record j
  obtain ⟨reserved, tail, flags⟩ := plain
  exact ⟨reserved, tail, Nat.lt_trans flags (by decide), noWait, kind⟩

theorem PlainCommand.kind_ne {b : List Byte} {c : HostCmd} {k : Nat} (h : PlainCommand b c k) {x : BitVec 8} (hx : x.toNat ≠ k) : c.kind ≠ x :=
  fun e => hx (by rw [← e, h.kind])

/-- A command other than LAUNCH and PROXY_REPLY that is not refused (R268). -/
theorem PlainCommand.failReason_zero {b : List Byte} {c : HostCmd} {k : Nat} (h : PlainCommand b c k) (known : 2 ≤ k ∧ k ≤ 6) {s : State} {t : Nat}
    (reserved : commandReserved b c = true) (owned : commandOwned s t c = true) (arguments : mapArgsOk s t c = true)
    (room : mapRoom s c = true) : failReason s t b c = 0 := by
  have zero : c.kind ≠ 0#8 := h.kind_ne (by change 0 ≠ k; omega)
  have one : c.kind ≠ 1#8 := h.kind_ne (by change 1 ≠ k; omega)
  have seven : c.kind ≠ 7#8 := h.kind_ne (by change 7 ≠ k; omega)
  have small : ¬ 8 ≤ c.kind.toNat := by rw [h.kind]; omega
  unfold failReason
  simp [zero, one, seven, small, reserved, owned, arguments, room]

/-- Only HOSTMAP and HOSTUNMAP have a range among their arguments. -/
theorem PlainCommand.no_range {b : List Byte} {c : HostCmd} {k : Nat} (h : PlainCommand b c k) (small : k ≤ 4) (s : State) (t : Nat) :
    mapArgsOk s t c = true ∧ mapRoom s c = true := by
  have five : c.kind ≠ 5#8 := h.kind_ne (by change 5 ≠ k; omega)
  refine ⟨?_, by simp [mapRoom, five]⟩
  unfold mapArgsOk
  rw [h.kind]
  split
  · omega
  · omega
  · rfl

/-- A command that is not refused starts, and its window is read again. -/
theorem takeKind_starts {t : Nat} {b : List Byte} {s : State} (at' : EntryAt s t b) (plain : Plain b) {k : Nat} (kind : (b.getD 8 0).toNat = k)
    (accepted' : failReason (taken s t b (recordOf s t b)) t b (commandAt s t b) = 0) :
    takeKind t (fun x => decide (x = k)) s =
      .next (pollWindow (startCommand (taken s t b (recordOf s t b)) t (commandAt s t b)) t) := by
  rw [takeKind_plain at' plain (decide_eq_true kind), served, accepted', if_neg (by decide)]

/-- What the taking of an entry leaves alone of a state, and the end of the command too. -/
theorem taken_ends {s u : State} (t : Nat) (b record : List Byte) (h : OnlyDevice (taken s t b record) u) :
    u = { s with tenants := u.tenants, views := u.views, lineKeys := u.lineKeys, harts := u.harts, agenda := u.agenda } := by
  rw [h.rest, taken_frame]

theorem taken_launches (s : State) (t : Nat) (b record : List Byte) : (taken s t b record).launches = s.launches := by rw [taken_frame]

theorem findLaunch_congr {s u : State} (h : u.launches = s.launches) (t : Nat) (q : Word) : findLaunch u t q = findLaunch s t q := by
  unfold findLaunch
  rw [h]

/-- The launch that is found is the tenant's, under the sequence. -/
theorem findLaunch_some {s : State} {t : Nat} {q : Word} {l : Launch} (h : findLaunch s t q = some l) : l.tenant.toNat = t ∧ l.seq = q := by
  obtain ⟨e, -, he⟩ := List.exists_of_findSome?_eq_some h
  split at he
  · split at he
    · next mine =>
      cases he
      simpa using mine
    · cases he
  · cases he

/-! ### Counters that no node waits on -/

theorem foldl_fixed {α σ : Type} {f : σ → α → σ} {s : σ} {l : List α} (h : ∀ a ∈ l, f s a = s) : l.foldl f s = s := by
  induction l with
  | nil => rfl
  | cons a l ih =>
    rw [List.foldl_cons, h a List.mem_cons_self]
    exact ih fun a ha => h a (List.mem_cons_of_mem _ ha)

/-- Only harts differ, and what is due. -/
def OnlyWaiters (s t : State) : Prop := t = { s with agenda := t.agenda, harts := t.harts }

theorem OnlyWaiters.trans {s t u : State} (a : OnlyWaiters s t) (b : OnlyWaiters t u) : OnlyWaiters s u := by
  unfold OnlyWaiters at *
  rw [b, a]

/-- Where no node waits on a counter, only harts and held commands are tested. -/
theorem onlyWaiters_retestCounter {s : State} {id : Nat} (quiet : NoNodeWaits s id) : OnlyWaiters s (retestCounter s id) := by
  have nodes : s.launches.foldl (retestNodes id) (retestHarts s id) = retestHarts s id := foldl_fixed fun e he => by
    unfold retestNodes
    split
    · rfl
    · next v hv =>
      have none' : counterNodes id v = [] := List.filter_eq_nil_iff.2 fun x hx => by
        split
        · next n hn => simp [quiet e he v hv x hx n hn]
        · decide
      rw [none']
      rfl
  rw [retestCounter_eq, nodes]
  refine .trans (t := retestHarts s id) (by rfl) (foldl_rel (R := OnlyWaiters) (fun _ => rfl) OnlyWaiters.trans _ (fun u e => ?_) _ _)
  unfold retestHeld
  split <;> rfl

/-! ### The commands in a state where their entry is under way -/

theorem commandAt_jseq (s : State) (t : Nat) (b : List Byte) : (commandAt s t b).jseq = (getTenant s t).jhead + 1 := rfl

/-- A running launch that ends is ending. -/
theorem getLaunch_endLaunch {s : State} {l : Nat} {v : Launch} (hl : getLaunch s l = some v) (running : v.phase = .running)
    (final reason : BitVec 8) : getLaunch (endLaunch s l final reason) l = some (endingWith final reason v) := by
  obtain ⟨u, ends, launches, -, -⟩ := endLaunch_running final reason hl running
  have after : (endLaunch s l final reason).launches = (modLaunch s l (endingWith final reason)).launches := by
    rw [ends]
    exact (finishEntry_window ..).launches.trans launches
  rw [getLaunch_congr after, getLaunch_modLaunch_same, hl, Option.map_some]

section Starts

variable {s u : State} {t : Nat} {b : List Byte} {c : HostCmd} (w : UnderWay s u t b) (mine : c.jseq = (getTenant s t).jhead + 1)

include w mine

theorem commandDone_ends : Ended s (pollWindow (commandDone u t c) t) t b 3 0 ∧ OnlyDevice u (pollWindow (commandDone u t c) t) := by
  rw [commandDone, mine]
  exact w.ends doneState 0

theorem startSignal_ends (quiet : NoNodeWaits u c.arg0.toNat) :
    Ended s (pollWindow (startSignal u t c) t) t b 3 0 ∧
      (pollWindow (startSignal u t c) t).counters = mapPut 0 u.counters c.arg0.toNat (mapGet 0 u.counters c.arg0.toNat + c.arg1) := by
  have tested : OnlyWaiters (summed u c.arg0.toNat c.arg1 .zero) (addCounter u c.arg0.toNat c.arg1 .zero) :=
    onlyWaiters_retestCounter (s := summed u c.arg0.toNat c.arg1 .zero) quiet
  have tenant : getTenant (addCounter u c.arg0.toNat c.arg1 .zero) t = getTenant u t := by
    rw [tested]
    rfl
  obtain ⟨ended, frame⟩ := commandDone_ends (w.of_tenant tenant) mine
  refine ⟨ended, ?_⟩
  rw [startSignal, frame.rest, tested]
  rfl

/-- The end of a launch under another sequence does not touch the entry. -/
theorem abort_running {l : Launch} (tenant : l.tenant.toNat = t) (other : l.seq.toNat ≠ c.jseq) (hl : getLaunch u l.id = some l)
    (running : l.phase = .running) :
    Ended s (pollWindow (commandDone (abortLaunch u l) t c) t) t b 3 0 ∧
      getLaunch (pollWindow (commandDone (abortLaunch u l) t c) t) l.id = some (endingWith abortedState 0 l) ∧
      .worldRetire l.id ∈ (pollWindow (commandDone (abortLaunch u l) t c) t).agenda := by
  obtain ⟨v, ends, -, only, -⟩ := endLaunch_running abortedState 0 hl running
  rw [tenant] at ends
  have before : UnderWay s v t b := w.of_tenant (by rw [only]; rfl)
  rw [mine] at other
  have after : UnderWay s (abortLaunch u l) t b := by
    rw [abortLaunch, ends]
    exact (before.finish_ne (Ne.symm other) abortedState 0).of_tenant (getTenant_post ..)
  obtain ⟨ended, frame⟩ := commandDone_ends after mine
  refine ⟨ended, ?_, ?_⟩
  · rw [frame.rest]
    exact getLaunch_endLaunch hl running abortedState 0
  · refine frame.due _ ?_
    rw [abortLaunch, ends]
    exact List.mem_append_right _ (List.mem_singleton_self _)

end Starts

section Commands

variable {t : Nat} {b : List Byte} {s : State} (at' : EntryAt s t b) (plain : Plain b)

include at' plain

/-! ### FENCE -/

theorem hostFence_done (kind : (b.getD 8 0).toNat = 4) (a0 : arg b 0 = 0) (a1 : arg b 1 = 0) (a2 : arg b 2 = 0) :
    ∃ u, exec (.hostFence t) s = .next u ∧ Ended s u t b 3 0 ∧
      u = { s with tenants := u.tenants, views := u.views, lineKeys := u.lineKeys, harts := u.harts, agenda := u.agenda } := by
  have command : PlainCommand b (commandAt s t b) 4 := plainCommand_parseCommand plain kind ..
  have reserved : commandReserved b (commandAt s t b) = true := by
    have e0 : (commandAt s t b).arg0 = 0 := a0
    have e1 : (commandAt s t b).arg1 = 0 := a1
    have e2 : (commandAt s t b).arg2 = 0 := a2
    simp [commandReserved, command.reserved, command.tail, command.flags, command.kind, e0, e1, e2]
  have owned : commandOwned (taken s t b (recordOf s t b)) t (commandAt s t b) = true := by
    simp [commandOwned, command.noWait, command.kind]
  obtain ⟨range, room⟩ := command.no_range (by decide) (taken s t b (recordOf s t b)) t
  have answers := takeKind_starts at' plain kind (command.failReason_zero (by decide) reserved owned range room)
  rw [startCommand, command.kind] at answers
  obtain ⟨ended, frame⟩ := commandDone_ends (underWay_taken at' (recordOf s t b)) (commandAt_jseq s t b)
  exact ⟨_, answers, ended, taken_ends t b _ frame⟩

/-! ### SIGNAL -/

theorem hostSignal_done (kind : (b.getD 8 0).toNat = 2) (a2 : arg b 2 = 0) (own : CounterOf s t (arg b 0).toNat)
    (quiet : NoNodeWaits s (arg b 0).toNat) :
    ∃ u, exec (.hostSignal t) s = .next u ∧ Ended s u t b 3 0 ∧ ∀ c, mapGet 0 u.counters c =
      if c = (arg b 0).toNat then mapGet 0 s.counters c + arg b 1 else mapGet 0 s.counters c := by
  have command : PlainCommand b (commandAt s t b) 2 := plainCommand_parseCommand plain kind ..
  have e2 : (commandAt s t b).arg2 = 0 := a2
  have reserved : commandReserved b (commandAt s t b) = true := by
    simp [commandReserved, command.reserved, command.tail, command.flags, command.kind, e2]
  have owned : commandOwned (taken s t b (recordOf s t b)) t (commandAt s t b) = true := by
    obtain ⟨small, mine⟩ := own
    have e0 : (commandAt s t b).arg0 = arg b 0 := rfl
    have tenant : (BitVec.ofNat 4 t).toNat = t := Nat.mod_eq_of_lt at'.1
    have low : ((arg b 0).setWidth 16).toNat = (arg b 0).toNat := Nat.mod_eq_of_lt (by omega)
    have owners : (taken s t b (recordOf s t b)).counterOwner = s.counterOwner := by rw [taken_frame]
    simp only [commandOwned, command.noWait, command.kind, e0, ownsCounter, counterId, counterOf, low, owners, mine, tenant]
    simp; omega
  obtain ⟨range, room⟩ := command.no_range (by decide) (taken s t b (recordOf s t b)) t
  have answers := takeKind_starts at' plain kind (command.failReason_zero (by decide) reserved owned range room)
  have still : NoNodeWaits (taken s t b (recordOf s t b)) (commandAt s t b).arg0.toNat := by
    unfold NoNodeWaits
    rw [taken_launches]
    exact quiet
  obtain ⟨ended, sum⟩ := startSignal_ends (underWay_taken at' (recordOf s t b)) (commandAt_jseq s t b) still
  rw [startCommand, command.kind] at answers
  refine ⟨_, answers, ended, fun c => ?_⟩
  have counters : (taken s t b (recordOf s t b)).counters = s.counters := by rw [taken_frame]
  have addend : (commandAt s t b).arg1 = arg b 1 := rfl
  have target : (commandAt s t b).arg0 = arg b 0 := rfl
  rw [counters, addend, target] at sum
  change mapGet 0 (pollWindow (startSignal (taken s t b (recordOf s t b)) t (commandAt s t b)) t).counters c = _
  rw [sum, mapGet_mapPut]
  split
  · next h => rw [h]
  · rfl

/-! ### ABORT -/

section Abort

variable (kind : (b.getD 8 0).toNat = 3) (a1 : arg b 1 = 0) (a2 : arg b 2 = 0) {l : Launch} (found : findLaunch s t (arg b 0) = some l)

include kind a1 a2 found

/-- An ABORT of a launch that its tenant has ends it. -/
theorem exec_hostAbort :
    exec (.hostAbort t) s = .next (pollWindow (commandDone (abortLaunch (taken s t b (recordOf s t b)) l) t (commandAt s t b)) t) := by
  have command : PlainCommand b (commandAt s t b) 3 := plainCommand_parseCommand plain kind ..
  have found' : findLaunch (taken s t b (recordOf s t b)) t (commandAt s t b).arg0 = some l :=
    (findLaunch_congr (taken_launches ..) ..).trans found
  have reserved : commandReserved b (commandAt s t b) = true := by
    have e1 : (commandAt s t b).arg1 = 0 := a1
    have e2 : (commandAt s t b).arg2 = 0 := a2
    simp [commandReserved, command.reserved, command.tail, command.flags, command.kind, e1, e2]
  have owned : commandOwned (taken s t b (recordOf s t b)) t (commandAt s t b) = true := by
    simp [commandOwned, command.noWait, command.kind, found']
  obtain ⟨range, room⟩ := command.no_range (by decide) (taken s t b (recordOf s t b)) t
  have answers := takeKind_starts at' plain kind (command.failReason_zero (by decide) reserved owned range room)
  rw [startCommand, command.kind, startAbort, found'] at answers
  exact answers

theorem hostAbort_ended (stopped : ∀ v, getLaunch s l.id = some v → v.phase ≠ .running) :
    ∃ u, exec (.hostAbort t) s = .next u ∧ Ended s u t b 3 0 ∧ u.launches = s.launches := by
  have answers := exec_hostAbort at' plain kind a1 a2 found
  have idle : abortLaunch (taken s t b (recordOf s t b)) l = taken s t b (recordOf s t b) := by
    refine endLaunch_idle _ _ fun v hv => stopped v ?_
    rwa [← getLaunch_congr (taken_launches s t b (recordOf s t b))]
  rw [idle] at answers
  obtain ⟨ended, frame⟩ := commandDone_ends (underWay_taken at' (recordOf s t b)) (commandAt_jseq s t b)
  exact ⟨_, answers, ended, by rw [frame.rest, taken_launches]⟩

theorem hostAbort_running (other : (arg b 0).toNat ≠ (getTenant s t).jhead + 1) (hl : getLaunch s l.id = some l) (running : l.phase = .running) :
    ∃ u v, exec (.hostAbort t) s = .next u ∧ Ended s u t b 3 0 ∧ getLaunch u l.id = some v ∧ v.phase = .ending ∧ v.final = 5 ∧
      .worldRetire l.id ∈ u.agenda := by
  have answers := exec_hostAbort at' plain kind a1 a2 found
  obtain ⟨tenant, seq⟩ := findLaunch_some found
  have hl' : getLaunch (taken s t b (recordOf s t b)) l.id = some l := (getLaunch_congr (taken_launches ..) l.id).trans hl
  obtain ⟨ended, after, retires⟩ := abort_running (underWay_taken at' (recordOf s t b)) (commandAt_jseq s t b) tenant
    (by rw [seq]; exact other) hl' running
  exact ⟨_, _, answers, ended, after, rfl, rfl, retires⟩

end Abort

end Commands

end Sys2Proof.Proofs
end

section
/-!
PROOFS. LAUNCH: a record that passes the checks of Table 3.4 enters the device, any other one fails (R38, R268).
-/

namespace Sys2Proof.Proofs

open Sys2Proof Sys2Proof.Machine Sys2Proof.Claims

/-! ### The checks of a record -/

/-- A record that fails has a reason that is not zero (Table 3.4). -/
theorem checkRecord_error {s : State} {t : Nat} {r : LaunchRec} {code : BitVec 8} (h : checkRecord s t r = .error code) : code ≠ 0 := by
  unfold checkRecord at h
  split at h
  · cases h; decide
  split at h
  · cases h; decide
  split at h
  · cases h; decide
  split at h
  · cases h; decide
  split at h
  · cases h; decide
  split at h
  · cases h; decide
  · cases h

theorem levelShape_levels {r : LaunchRec} {levels : List Level} (h : levelShape r = some levels) : recLevels r = some levels := by
  unfold levelShape at h
  split at h
  · cases h
  split at h
  · cases h
  · next l hl =>
    split at h
    · cases h
      exact hl
    · cases h

/-- A record that passes is its tenant's, and has its levels. -/
theorem checkRecord_ok {s : State} {t : Nat} {r : LaunchRec} {levels : List Level} (h : checkRecord s t r = .ok levels) :
    r.tenant = t ∧ recLevels r = some levels := by
  unfold checkRecord at h
  split at h
  · cases h
  split at h
  · cases h
  next owned =>
  have tenant : r.tenant = t := by
    simp only [recOwned, Bool.not_eq_true', Bool.not_eq_false, Bool.and_eq_true, decide_eq_true_eq] at owned
    exact owned.1.1
  split at h
  · cases h
  next l shape =>
  refine ⟨tenant, ?_⟩
  split at h
  · cases h
  split at h
  · cases h
  split at h
  · cases h
  · cases h
    exact levelShape_levels shape

section Reason

variable {b : List Byte} {c : HostCmd} (h : PlainCommand b c 1) (a1 : c.arg1 = 0) (a2 : c.arg2 = 0) {s : State} {t : Nat}

include h a1 a2

theorem commandReserved_launch : commandReserved b c = true := by
  simp [commandReserved, h.reserved, h.tail, h.flags, h.kind, a1, a2]

/-- The reason that a LAUNCH fails for is that of its record. -/
theorem failReason_launch_error {code : BitVec 8} (record : checkRecord s t (parseRecord c.record) = .error code) :
    failReason s t b c = code := by
  have kind : c.kind = 1#8 := BitVec.eq_of_toNat_eq h.kind
  have owned : commandOwned s t c = true := by simp [commandOwned, h.noWait, h.kind]
  simp [failReason, commandReserved_launch h a1 a2, owned, kind, record]

theorem failReason_launch_ok {levels : List Level} (record : checkRecord s t (parseRecord c.record) = .ok levels) :
    failReason s t b c = 0 := by
  have kind : c.kind = 1#8 := BitVec.eq_of_toNat_eq h.kind
  have owned : commandOwned s t c = true := by simp [commandOwned, h.noWait, h.kind]
  obtain ⟨range, room⟩ := h.no_range (by decide) s t
  simp [failReason, commandReserved_launch h a1 a2, owned, range, room, kind, record]

end Reason

/-! ### A launch enters the device -/

theorem onlyDevice_launches {s t : State} (h : OnlyDevice s t) : t.launches = s.launches := by rw [h.rest]

/-- A launch ends, or nothing of the tenants has changed; and no launch that has ended has. -/
structure Readies (l : Nat) (s t : State) : Prop where
  work : OnlyWork s t
  launches : KeepsLaunches s t
  stopped : KeepsStopped s t
  quiet : t.tenants = s.tenants ∨ ∃ v, getLaunch t l = some v ∧ v.phase = .ending

theorem Readies.refl (l : Nat) (s : State) : Readies l s s := ⟨.refl s, .refl s, keepsStopped_of_launches rfl, .inl rfl⟩

theorem Readies.trans {l : Nat} {s t u : State} (a : Readies l s t) (b : Readies l t u) : Readies l s u := by
  refine ⟨a.work.trans b.work, a.launches.trans b.launches, a.stopped.trans b.stopped, ?_⟩
  rcases b.quiet with hb | ended
  · rcases a.quiet with ha | ⟨v, hv, ended⟩
    · exact .inl (hb.trans ha)
    · exact .inr ⟨v, b.stopped l v hv (by rw [ended]; decide), ended⟩
  · exact .inr ended

theorem readies_readyNode (s : State) (l id : Nat) (isLocal : Bool) : Readies l s (readyNode s l id isLocal) := by
  refine ⟨onlyWork_readyNode .., keepsLaunches_readyNode s l id isLocal, keepsStopped_readyNode s l id isLocal, ?_⟩
  rcases readyNode_cases s l id isLocal with h | ⟨v, hv, running, h | ⟨n, b, h⟩⟩ <;> rw [h]
  · exact .inl rfl
  · exact .inr ⟨_, getLaunch_endLaunch hv running failedState 0x07, rfl⟩
  · exact .inl (by rw [onlyPools_enterPool, modNode_frame])

theorem readies_readyNodes (s : State) (l : Nat) : Readies l s (readyNodes s l) := by
  unfold readyNodes
  split
  · exact .refl l s
  · exact foldl_rel (Readies.refl l) Readies.trans _ (fun s id => readies_readyNode s l id false) _ s

/-- The launch of a record. -/
def recordLaunch (s : State) (r : LaunchRec) (levels : List Level) (j : Nat) : Launch :=
  { id := s.serial, tenant := BitVec.ofNat 4 r.tenant, seq := BitVec.ofNat 64 j, owner := r.owner, keyh := r.keyh.setWidth 12, prio := r.prio
    levels := levels, hctl := BitVec.ofNat 4 r.hctl, graph := r.graph, image := r.image, imageLen := r.imageLen
    endctr := r.endctr, endadd := r.endadd, measure := measureImage { s with serial := s.serial + 1 } r
    inst := if r.keyh.setWidth 12 = 0#12 then 0 else s.nextKey
    phase := .running, final := 0, reason := 0, nodes := readNodes { s with serial := s.serial + 1 } r, nodeCount := r.nodes, swept := none
    evec := Config.supervisorEntry s.firmware.loads, loaded := false }

/-- The launch of a record stands in the table, and its graph has been read. -/
def recordEntered (s : State) (r : LaunchRec) (levels : List Level) (j : Nat) : State :=
  let u := makeWorldKey { s with serial := s.serial + 1 } r.tenant (r.keyh.setWidth 12) s.serial
  chargeAgent (launchAgent (recordLaunch s r levels j) 0) r.graph (128 * r.nodes)
    { u with launches := mapPut none u.launches s.serial (some (recordLaunch s r levels j)) }

theorem acceptLaunch_eq (s : State) (r : LaunchRec) (levels : List Level) (j : Nat) :
    acceptLaunch s r levels j =
      readyNodes (post (journalSet (recordEntered s r levels j) r.tenant j runningState 0) (.launchEndSweep s.serial)) s.serial := rfl

theorem launchOf_recordLaunch (s : State) (r : LaunchRec) (levels : List Level) (j : Nat) :
    LaunchOf (recordLaunch s r levels j) r.tenant j r levels := ⟨rfl, rfl, rfl, rfl, rfl, rfl, rfl, rfl, rfl, rfl, rfl, rfl, rfl⟩

theorem launchOf_of_same {l v : Launch} {t j : Nat} {r : LaunchRec} {levels : List Level} (h : LaunchOf l t j r levels) (same : SameLaunch l v) :
    LaunchOf v t j r levels := by
  unfold LaunchOf
  rw [same.rest]
  exact h

theorem makeWorldKey_tenants (s : State) (t : Nat) (k : BitVec 12) (l : Nat) :
    (makeWorldKey s t k l).tenants = s.tenants := by
  unfold makeWorldKey
  split <;> rfl

theorem recordEntered_spec (s : State) (r : LaunchRec) (levels : List Level) (j : Nat) :
    (recordEntered s r levels j).tenants = s.tenants ∧
      getLaunch (recordEntered s r levels j) s.serial = some (recordLaunch s r levels j) := by
  unfold recordEntered
  simp only
  rw [chargeAgent_traffic]
  refine ⟨makeWorldKey_tenants .., ?_⟩
  exact mapGet_mapPut_same none (makeWorldKey _ _ _ _).launches s.serial (some (recordLaunch s r levels j))

/-! ### LAUNCH -/

/-- A launch whose record has passed is in the device; its entry is RUNNING, or the launch has begun to end. -/
theorem startLaunch_enters {s u : State} {t : Nat} {b : List Byte} {c : HostCmd} (w : UnderWay s u t b) (mine : c.jseq = (getTenant s t).jhead + 1)
    {levels : List Level} (ok : checkRecord u t (parseRecord c.record) = .ok levels) :
    ∃ n l, getLaunch (pollWindow (startLaunch u t c) t) n = some l ∧ LaunchOf l t c.jseq (parseRecord c.record) levels ∧
      (Taken s (pollWindow (startLaunch u t c) t) t b 2 0 ∨ l.phase = .ending) := by
  obtain ⟨tenant, shape⟩ := checkRecord_ok ok
  have accepts : startLaunch u t c = acceptLaunch u (parseRecord c.record) levels c.jseq := by
    rw [startLaunch, shape]
    rfl
  obtain ⟨tenants, entered⟩ := recordEntered_spec u (parseRecord c.record) levels c.jseq
  rw [accepts, acceptLaunch_eq, tenant]
  have ours := launchOf_recordLaunch u (parseRecord c.record) levels c.jseq
  rw [tenant] at ours
  have before : UnderWay s (recordEntered u (parseRecord c.record) levels c.jseq) t b := w.of_tenant (by unfold getTenant; rw [tenants])
  generalize recordLaunch u (parseRecord c.record) levels c.jseq = new at *
  generalize recordEntered u (parseRecord c.record) levels c.jseq = e at *
  rw [mine] at ours ⊢
  obtain ⟨under, running⟩ := before.restate runningState 0
  have stands : getLaunch (post (journalSet e t ((getTenant s t).jhead + 1) runningState 0) (.launchEndSweep u.serial)) u.serial = some new :=
    (getLaunch_congr (onlyDevice_launches (onlyDevice_journalSet ..)) _).trans entered
  have ready := readies_readyNodes (post (journalSet e t ((getTenant s t).jhead + 1) runningState 0) (.launchEndSweep u.serial)) u.serial
  generalize journalSet e t ((getTenant s t).jhead + 1) runningState 0 = q at *
  generalize readyNodes (post q (.launchEndSweep u.serial)) u.serial = v at *
  obtain ⟨l, hl, same⟩ := ready.launches u.serial new stands
  have polled : getLaunch (pollWindow v t) u.serial = some l := (getLaunch_congr (pollWindow_window ..).launches _).trans hl
  refine ⟨u.serial, l, polled, launchOf_of_same ours same, ?_⟩
  rcases ready.quiet with quiet | ⟨l', hl', ending⟩
  · have tenant' : getTenant v t = getTenant q t := by unfold getTenant; rw [quiet]; rfl
    have closed : (getTenant v t).closed = [] := by rw [tenant']; exact under.closed
    left
    unfold Taken Journalled
    rw [(onlyAgenda_pollWindow closed).getTenant, tenant']
    exact running
  · rw [hl] at hl'
    cases hl'
    exact .inr ending

/-- A LAUNCH whose record fails is FAILED with the reason of its record, and no launch enters the device. -/
theorem commandFailed_ends {s u : State} {t : Nat} {b : List Byte} {c : HostCmd} (w : UnderWay s u t b) (mine : c.jseq = (getTenant s t).jhead + 1)
    (code : BitVec 8) : Ended s (pollWindow (commandFailed u t c code) t) t b 4 code ∧
      OnlyDevice u (pollWindow (commandFailed u t c code) t) := by
  rw [commandFailed, mine]
  exact w.ends failedState code

section HostLaunch

variable {t : Nat} {b : List Byte} {s : State} (at' : EntryAt s t b) (plain : Plain b) (kind : (b.getD 8 0).toNat = 1) (a1 : arg b 1 = 0)
  (a2 : arg b 2 = 0)

include at' plain kind a1 a2

theorem hostLaunch_fails {code : BitVec 8}
    (checked : checkRecord (taken s t b (recordOf s t b)) t (parseRecord (recordOf s t b)) = .error code) :
    ∃ v, exec (.hostLaunch t) s = .next v ∧ Ended s v t b 4 code ∧ v.launches = s.launches := by
  have command : PlainCommand b (commandAt s t b) 1 := plainCommand_parseCommand plain kind ..
  have answers := takeKind_plain at' plain (mine := fun k => k = 1 || k = 0 || 8 ≤ k) (by rw [kind]; rfl)
  rw [served, failReason_launch_error command a1 a2 checked, if_pos (checkRecord_error checked)] at answers
  obtain ⟨ended, frame⟩ := commandFailed_ends (underWay_taken at' (recordOf s t b)) (commandAt_jseq s t b) code
  exact ⟨_, answers, ended, (onlyDevice_launches frame).trans (taken_launches ..)⟩

theorem hostLaunch_enters {levels : List Level}
    (checked : checkRecord (taken s t b (recordOf s t b)) t (parseRecord (recordOf s t b)) = .ok levels) :
    ∃ v, exec (.hostLaunch t) s = .next v ∧ ∃ n l, getLaunch v n = some l ∧
      LaunchOf l t ((getTenant s t).jhead + 1) (parseRecord (recordOf s t b)) levels ∧ (Taken s v t b 2 0 ∨ l.phase = .ending) := by
  have command : PlainCommand b (commandAt s t b) 1 := plainCommand_parseCommand plain kind ..
  have answers := takeKind_plain at' plain (mine := fun k => k = 1 || k = 0 || 8 ≤ k) (by rw [kind]; rfl)
  rw [served, failReason_launch_ok command a1 a2 checked, if_neg (by decide), startCommand, command.kind] at answers
  exact ⟨_, answers, startLaunch_enters (c := commandAt s t b) (underWay_taken at' (recordOf s t b)) rfl checked⟩

end HostLaunch

end Sys2Proof.Proofs
end

section
/-!
PROOFS. HOSTMAP and HOSTUNMAP, and what the commands of the host do (R226, R268, Table 17.3).
-/

namespace Sys2Proof.Proofs

open Sys2Proof Sys2Proof.Machine Sys2Proof.Claims

/-! ### HOSTMAP -/

theorem overlap_false_of_apart {a n b m : Nat} (h : Apart a n b m) : overlap a n b m = false := by
  unfold Apart at h
  simp only [overlap, Bool.and_eq_false_iff, decide_eq_false_iff_not]
  omega

theorem stretchTaken_false {s : State} {lo n : Nat} (h : ∀ r, r ∈ s.ranges ∨ r ∈ s.withdrawn → Apart r.base r.len lo n) :
    stretchTaken s lo n = false := by
  unfold stretchTaken
  rw [Bool.or_eq_false_iff, List.any_eq_false, List.any_eq_false]
  exact ⟨fun r hr => by simp [overlap_false_of_apart (h r (.inl hr))], fun r hr => by simp [overlap_false_of_apart (h r (.inr hr))]⟩

/-- The range of a HOSTMAP is in the table, and its grant in its owner's rights. -/
def mapped (u : State) (t : Nat) (c : HostCmd) : State :=
  { u with
    ranges := u.ranges ++ [⟨mapBase c, c.arg1.toNat, 0, 0, t, true⟩]
    rights := mapPut [] u.rights (mapOwner c).toNat
      (rightsOf u (mapOwner c) ++ [⟨mapBase c, 0, c.arg1.toNat / 64, mapRights c, mapOwner c, 0xFFFF, 1⟩]) }

theorem mapped_tenant (u : State) (t : Nat) (c : HostCmd) (k : Nat) : getTenant (mapped u t c) k = getTenant u k := rfl

theorem mapped_congr {s u : State} (ranges : u.ranges = s.ranges) (rights : u.rights = s.rights) (t : Nat) (c : HostCmd) :
    (mapped u t c).ranges = (mapped s t c).ranges ∧ (mapped u t c).rights = (mapped s t c).rights := by
  unfold mapped rightsOf
  rw [ranges, rights]
  exact ⟨rfl, rfl⟩

theorem startMap_ends {s u : State} {t : Nat} {b : List Byte} {c : HostCmd} (w : UnderWay s u t b) (mine : c.jseq = (getTenant s t).jhead + 1) :
    Ended s (pollWindow (startMap u t c) t) t b 3 0 ∧ (pollWindow (startMap u t c) t).ranges = (mapped u t c).ranges ∧
      (pollWindow (startMap u t c) t).rights = (mapped u t c).rights := by
  change Ended s (pollWindow (commandDone (mapped u t c) t c) t) t b 3 0 ∧ (pollWindow (commandDone (mapped u t c) t c) t).ranges = _ ∧
    (pollWindow (commandDone (mapped u t c) t c) t).rights = _
  obtain ⟨ended, after⟩ := commandDone_ends (w.of_tenant (mapped_tenant u t c t)) mine
  exact ⟨ended, by rw [after.rest], by rw [after.rest]⟩

/-- The arguments of a HOSTMAP that is not refused. -/
structure MapAsked (s : State) (t : Nat) (c : HostCmd) : Prop where
  owner : mapGet 0 s.owners (mapOwner c).toNat = t + 1
  start : c.arg0.toNat % 0x10000 = 0
  size : c.arg1.toNat % 0x10000 = 0
  some' : c.arg1.toNat ≠ 0
  high : c.arg2.toNat < 0x1000000
  rights : mapRights c ≠ 0
  few : (mapRights c).toNat < 4
  apart : ∀ r, r ∈ s.ranges ∨ r ∈ s.withdrawn → Apart r.base r.len (mapBase c) c.arg1.toNat
  ranges : s.ranges.length < Config.rangeCapacity
  entries : (mapGet [] s.rights (mapOwner c).toNat).length < 4096

theorem MapAsked.congr {s u : State} {t : Nat} {c : HostCmd} (h : MapAsked s t c) (owners : u.owners = s.owners) (ranges : u.ranges = s.ranges)
    (withdrawn : u.withdrawn = s.withdrawn) (rights : u.rights = s.rights) : MapAsked u t c := by
  obtain ⟨h0, h1, h2, h3, h4, h5, h6, h7, h8, h9⟩ := h
  exact ⟨owners ▸ h0, h1, h2, h3, h4, h5, h6, by rw [ranges, withdrawn]; exact h7, ranges ▸ h8, rights ▸ h9⟩

theorem MapAsked.failReason {s : State} {t : Nat} {b : List Byte} {c : HostCmd} (asked : MapAsked s t c) (h : PlainCommand b c 5) :
    failReason s t b c = 0 := by
  have owner : mapGet 0 s.owners (c.arg2.extractLsb' 0 16).toNat = t + 1 := asked.owner
  have entries : (rightsOf s (mapOwner c)).length < 4096 := asked.entries
  have some' : mapRights c ≠ 0#8 := asked.rights
  refine h.failReason_zero (by decide) ?_ ?_ ?_ ?_
  · simp [commandReserved, h.reserved, h.tail, h.flags, h.kind]
  · simpa [commandOwned, h.noWait, h.kind] using owner
  · simp [mapArgsOk, h.kind, asked.start, asked.size, asked.some', asked.high, some', asked.few, stretchTaken_false asked.apart]
  · simp [mapRoom, asked.ranges, entries]

theorem hostMap_done {t : Nat} {b : List Byte} {s : State} (at' : EntryAt s t b) (plain : Plain b) (kind : (b.getD 8 0).toNat = 5)
    (asked : MapAsked s t (commandAt s t b)) :
    ∃ u, exec (.hostMap t) s = .next u ∧ Ended s u t b 3 0 ∧ u.ranges = (mapped s t (commandAt s t b)).ranges ∧
      u.rights = (mapped s t (commandAt s t b)).rights := by
  have command : PlainCommand b (commandAt s t b) 5 := plainCommand_parseCommand plain kind ..
  have w := underWay_taken at' (recordOf s t b)
  have frame := taken_frame s t b (recordOf s t b)
  have answers := takeKind_starts at' plain kind
    ((asked.congr (u := taken s t b (recordOf s t b)) (by rw [frame]) (by rw [frame]) (by rw [frame]) (by rw [frame])).failReason command)
  rw [startCommand, command.kind] at answers
  obtain ⟨ended, ranges, rights⟩ := startMap_ends w (commandAt_jseq s t b)
  obtain ⟨sameRanges, sameRights⟩ :=
    mapped_congr (u := taken s t b (recordOf s t b)) (s := s) (by rw [frame]) (by rw [frame]) t (commandAt s t b)
  exact ⟨_, answers, ended, ranges.trans sameRanges, rights.trans sameRights⟩

/-! ### HOSTUNMAP -/

theorem unmapRange_congr {s u : State} (h : u.ranges = s.ranges) (t : Nat) (c : HostCmd) : unmapRange u t c = unmapRange s t c := by
  unfold unmapRange
  rw [h]

theorem dropRange_ranges (s : State) (r : Machine.Range) : (dropRange s r).ranges = s.ranges.filter (· ≠ r) := by
  unfold dropRange
  simp only
  split
  · rfl
  · split <;> rfl

/-- The last acknowledgement of a range's shootdown takes the range from the table. -/
theorem endFree_range {s : State} {r : Machine.Range} (hr : r ∈ s.ranges) (alone : ∀ x ∈ s.ranges, x.base = r.base → x = r) :
    endFree s (.range r.base r.len) = dropRange s r := by
  unfold endFree
  simp only
  split
  · next x hx =>
    have base : x.base = r.base := by
      have same := List.find?_some hx
      simp only [Bool.and_eq_true, decide_eq_true_eq] at same
      exact same.1
    rw [alone x (List.mem_of_find?_eq_some hx) base]
  · next none' =>
    exact absurd (List.find?_eq_none.1 none' r hr) (by simp)

/-- Where no core holds state, a freed range leaves the table at once. -/
theorem freeRange_at_once {s : State} {r : Machine.Range} (none' : s.cores = []) (hr : r ∈ s.ranges)
    (alone : ∀ x ∈ s.ranges, x.base = r.base → x = r) (t j : Nat) :
    freeRange s r (.command t j) = finishEntry (dropRange (stripGrants s r.base r.len) r) t j doneState 0 := by
  have gone : endFree (stripGrants s r.base r.len) (.range r.base r.len) = dropRange (stripGrants s r.base r.len) r := endFree_range hr alone
  have keys : mapKeys (stripGrants s r.base r.len).cores = [] := congrArg mapKeys none'
  rw [freeRange, startShoot]
  simp only [keys, if_true]
  rw [endShoot, List.foldl_cons, List.foldl_nil, gone]
  rfl

/-- Otherwise its shootdown goes out, and the range stays in the table until the last acknowledgement. -/
theorem freeRange_shoots {s : State} (r : Machine.Range) (next : ShootThen) (some' : s.cores ≠ []) :
    (freeRange s r next).tenants = s.tenants ∧ (freeRange s r next).ranges = s.ranges ∧
      ∃ d ∈ (freeRange s r next).shootdowns, d.next = next ∧ d.what = [.range r.base r.len] := by
  have keys : mapKeys (stripGrants s r.base r.len).cores ≠ [] := fun h => some' (List.map_eq_nil_iff.1 h)
  rw [freeRange, startShoot]
  simp only [keys, if_false]
  exact ⟨rfl, rfl, _, List.mem_append_right _ (List.mem_singleton_self _), rfl, rfl⟩

theorem dropRange_tenant (s : State) (r : Machine.Range) (k : Nat) : getTenant (dropRange s r) k = getTenant s k := by
  rw [onlyVaults_dropRange]
  rfl

section Unmap

variable {s u : State} {t : Nat} {b : List Byte} {c : HostCmd} (w : UnderWay s u t b) (mine : c.jseq = (getTenant s t).jhead + 1)
  {r : Machine.Range} (found : unmapRange u t c = some r)

include w mine found

/-- Where no core holds state, the range goes at once. -/
theorem startUnmap_at_once (none' : u.cores = []) (alone : ∀ x ∈ u.ranges, x.base = r.base → x = r) :
    Ended s (pollWindow (startUnmap u t c) t) t b 3 0 ∧ (pollWindow (startUnmap u t c) t).ranges = u.ranges.filter (· ≠ r) := by
  have running := (w.restate runningState 0).1
  have frame := (onlyDevice_journalSet u t ((getTenant s t).jhead + 1) runningState 0).rest
  rw [startUnmap, found, mine]
  simp only
  generalize journalSet u t ((getTenant s t).jhead + 1) runningState 0 = q at *
  have ranges : q.ranges = u.ranges := by rw [frame]
  rw [freeRange_at_once (by rw [frame]; exact none') (by rw [ranges]; exact List.mem_of_find?_eq_some found) (by rw [ranges]; exact alone)]
  obtain ⟨ended, after⟩ := (running.of_tenant (dropRange_tenant (stripGrants q r.base r.len) r t)).ends doneState 0
  refine ⟨ended, ?_⟩
  rw [after.rest, ← ranges]
  exact dropRange_ranges ..

/-- Otherwise the shootdown goes out, and the command is RUNNING. -/
theorem startUnmap_shoots (some' : u.cores ≠ []) :
    Taken s (pollWindow (startUnmap u t c) t) t b 2 0 ∧ (pollWindow (startUnmap u t c) t).ranges = u.ranges ∧
      ∃ d ∈ (pollWindow (startUnmap u t c) t).shootdowns, d.next = .command t c.jseq ∧ d.what = [.range r.base r.len] := by
  obtain ⟨under, running⟩ := w.restate runningState 0
  have frame := (onlyDevice_journalSet u t ((getTenant s t).jhead + 1) runningState 0).rest
  rw [startUnmap, found, mine]
  simp only
  generalize journalSet u t ((getTenant s t).jhead + 1) runningState 0 = q at *
  obtain ⟨tenants, ranges, shoots⟩ := freeRange_shoots (s := q) r (.command t ((getTenant s t).jhead + 1)) (by rw [frame]; exact some')
  generalize freeRange q r (.command t ((getTenant s t).jhead + 1)) = v at *
  have tenant : getTenant v t = getTenant q t := by
    unfold getTenant
    rw [tenants]
  have polled := onlyAgenda_pollWindow (under.of_tenant tenant).closed
  refine ⟨?_, ?_, ?_⟩
  · unfold Taken Journalled
    rw [polled.getTenant, tenant]
    exact running
  · rw [polled]
    exact ranges.trans (by rw [frame])
  · rw [polled]
    exact shoots

end Unmap

theorem hostUnmap_frees {t : Nat} {b : List Byte} {s : State} (at' : EntryAt s t b) (plain : Plain b) (kind : (b.getD 8 0).toNat = 6)
    (a2 : arg b 2 = 0) {r : Machine.Range} (found : unmapRange s t (commandAt s t b) = some r) (alone : ∀ x ∈ s.ranges, x.base = r.base → x = r) :
    ∃ u, exec (.hostUnmap t) s = .next u ∧ (s.cores = [] → u.ranges = s.ranges.filter (· ≠ r) ∧ Ended s u t b 3 0) ∧
      (s.cores ≠ [] → u.ranges = s.ranges ∧ Taken s u t b 2 0 ∧
        ∃ d ∈ u.shootdowns, d.next = .command t ((getTenant s t).jhead + 1) ∧ d.what = [.range r.base r.len]) := by
  have command : PlainCommand b (commandAt s t b) 6 := plainCommand_parseCommand plain kind ..
  have w := underWay_taken at' (recordOf s t b)
  have frame := taken_frame s t b (recordOf s t b)
  have ranges : (taken s t b (recordOf s t b)).ranges = s.ranges := by rw [frame]
  have cores : (taken s t b (recordOf s t b)).cores = s.cores := by rw [frame]
  have found' := (unmapRange_congr ranges t (commandAt s t b)).trans found
  have accepted' : failReason (taken s t b (recordOf s t b)) t b (commandAt s t b) = 0 := by
    have e2 : (commandAt s t b).arg2 = 0 := a2
    have other : (commandAt s t b).kind ≠ 5#8 := command.kind_ne (by decide)
    refine command.failReason_zero (by decide) ?_ ?_ ?_ ?_
    · simp [commandReserved, command.reserved, command.tail, command.flags, command.kind, e2]
    · simp [commandOwned, command.noWait, command.kind]
    · simp [mapArgsOk, command.kind, found']
    · simp [mapRoom, other]
  have answers := takeKind_starts at' plain kind accepted'
  rw [startCommand, command.kind] at answers
  refine ⟨_, answers, fun none' => ?_, fun some' => ?_⟩
  · obtain ⟨ended, gone⟩ := startUnmap_at_once w (commandAt_jseq s t b) found' (cores.trans none') (by rw [ranges]; exact alone)
    exact ⟨gone.trans (by rw [ranges]), ended⟩
  · obtain ⟨running, stays, shoots⟩ := startUnmap_shoots w (commandAt_jseq s t b) found' (by rw [cores]; exact some')
    exact ⟨stays.trans ranges, running, shoots⟩

/-! ### The obligation -/

theorem launchCommands : LaunchCommands := by
  intro t b s at' plain k j
  refine ⟨fun kind a1 a2 => ?_, fun kind a2 own quiet => hostSignal_done at' plain kind a2 own quiet, fun kind a1 a2 other l found hl => ?_,
    fun kind a0 a1 a2 => hostFence_done at' plain kind a0 a1 a2⟩
  · have took := taken_taken s t b (recordOf s t b)
    have frame := taken_frame s t b (recordOf s t b)
    cases checked : checkRecord (taken s t b (recordOf s t b)) t (parseRecord (recordOf s t b)) with
    | error code =>
      obtain ⟨v, answers, fails⟩ := hostLaunch_fails at' plain kind a1 a2 checked
      refine ⟨_, v, answers, took, frame, ?_⟩
      rw [checked]
      exact fails
    | ok levels =>
      obtain ⟨v, answers, enters⟩ := hostLaunch_enters at' plain kind a1 a2 checked
      refine ⟨_, v, answers, took, frame, ?_⟩
      rw [checked]
      exact enters
  · refine ⟨hostAbort_running at' plain kind a1 a2 found other hl, fun stopped => hostAbort_ended at' plain kind a1 a2 found fun v hv => ?_⟩
    rw [hl] at hv
    cases hv
    exact stopped

theorem hostRanges : HostRanges := by
  intro t b s at' plain k j base n own rights
  refine ⟨fun kind owner start size some' high right few apart ranges entries => ?_, fun kind a2 r found alone =>
    hostUnmap_frees at' plain kind a2 found alone⟩
  have asked : MapAsked s t (commandAt s t b) := ⟨owner, start, size, some', high, right, few, apart, ranges, entries⟩
  obtain ⟨u, answers, ended, hr, hg⟩ := hostMap_done at' plain kind asked
  refine ⟨u, answers, ended, hr, ?_, fun o ho => ?_⟩
  · rw [hg]
    exact mapGet_mapPut_same [] s.rights _ _
  · rw [hg]
    exact mapGet_mapPut_ne [] s.rights _ ho

/-- Settles O52: an entry that is taken is under way until its command ends it, whatever the command does to the rest of the device. -/
theorem hostCommands : Obligations.HostCommands := ⟨launchCommands, hostRanges⟩

end Sys2Proof.Proofs
end

section
/-!
PROOFS. LAYOUT_SET and completion records (R263, R269) for a logical device whose partition starts at 2^64. Neither statement bounds where a
partition starts, and the device writes under addresses of 64 bits, so the bytes do not stand where the statements look for them.
-/

namespace Sys2Proof.Proofs

open Sys2Proof Sys2Proof.Machine Sys2Proof.Claims

/-- A reading of the state that an instruction or event leaves, `other` where it leaves none. -/
def readAfter {α : Type} (other : α) (f : State → α) : Result → α
  | .next s => f s
  | _ => other

theorem readAfter_next {α : Type} {other v : α} {f : State → α} {r : Result} {t : State} (read : readAfter other f r = v) (answers : r = .next t) :
    f t = v := by
  rw [answers] at read
  exact read

/-- Nothing runs and nothing is due. -/
def quietState : State := { State.reset with harts := [], cores := [], agenda := [] }

/-! ### LAYOUT_SET -/

/-- LDBASE of a partition that starts at 2^64 does not reach byte 0x18 of it (R263). -/
theorem layoutSet_beyond :
    readAfter 1 (fun t => viewByte t 0 (dramBase + 2 ^ 64 + 0x18 + 0)) (exec (.layoutSet 0 (2 ^ 64) 0x20 1) quietState) = 0 := by decide +kernel

/-- Refutes O57: its clause on LAYOUT_SET takes any number for the start of a partition. From 2^64 up the address of the control region wraps, and
LDBASE is written elsewhere. -/
theorem not_settings : ¬ Obligations.Settings := by
  unfold Obligations.Settings
  rintro ⟨-, -, -, -, -, -, layoutSet⟩
  obtain ⟨t, answers, -, -, ldbase⟩ := layoutSet 0 (2 ^ 64) 0x20 1 quietState (by decide) (by decide) rfl
  have written : viewByte t 0 (dramBase + 2 ^ 64 + 0x18 + 0) = 1 := ldbase 0 (by decide) 0 (by decide)
  rw [readAfter_next layoutSet_beyond answers] at written
  exact absurd written (by decide)

/-! ### Completion records -/

/-- Tenant 0 is owed the record of its first command, and its partition starts at 2^64. -/
def owedBeyond : State :=
  { quietState with tenants := [(0, { Tenant.reset with partBase := 2 ^ 64, partSize := 0x20000, completions := [(1, 0, 1, 3, 0)] })] }

/-- CPROD of that partition does not reach byte 8 of it (R269). -/
theorem completionRecord_beyond :
    readAfter 1 (fun t => viewByte t 0 (dramBase + 2 ^ 64 + 8 + 0)) (exec (.completionRecord 0) owedBeyond) = 0 := by decide +kernel

/-- Refutes O54: its clause on completion records takes a partition that starts anywhere. From 2^64 up the addresses of its bytes wrap, and record
and CPROD are written elsewhere. -/
theorem not_commandsInFlight : ¬ Obligations.CommandsInFlight := by
  unfold Obligations.CommandsInFlight CompletionRecords
  rintro ⟨-, records⟩
  obtain ⟨-, written⟩ := records 0 owedBeyond 1 0 1 3 0 [] rfl (by decide) rfl
  obtain ⟨t, answers, -, -, -, -, bytes⟩ := written (by decide +kernel)
  obtain ⟨-, cprod⟩ := bytes 0 (by decide)
  have one : viewByte t 0 (dramBase + 2 ^ 64 + 8 + 0) = 1 := cprod 0 (by decide)
  rw [readAfter_next completionRecord_beyond answers] at one
  exact absurd one (by decide)

end Sys2Proof.Proofs
end

section
/-!
PROOFS. SIGC and the handover (R70, R288) on tables that are not in canonical form. Both send every entry of a table through a function and drop
what becomes the default; where a number is listed twice, first with the default, its second entry then comes to light. Neither statement asks for
the canonical form, `mapWf`.
-/

namespace Sys2Proof.Proofs

open Sys2Proof Sys2Proof.Machine Sys2Proof.Claims

/-! ### SIGC -/

/-- A context of generation 1. -/
def secondEntry : Hart := { Hart.reset with gen := 1 }

/-- Context 0 of core 0 executes, its tenant 0 owns counter 0, and context 5 is listed twice. -/
def listedTwice : State :=
  { quietState with harts := [(0, { Hart.reset with tenure := .running }), (5, .reset), (5, secondEntry)], counterOwner := [(0, 1)] }

theorem counterReady_listedTwice : CounterReady listedTwice (readX (me listedTwice) 0) .hart := by
  unfold CounterReady
  decide +kernel

/-- The test of the counter's waiters drops the first entry of context 5. -/
theorem sigc_listedTwice : readAfter .reset (fun t => getHart t 5) (exec (.sigc 0 0 0 .hart) listedTwice) = secondEntry := by decide +kernel

/-- Refutes O27: its clause that SIGC leaves alone whoever does not wait for the counter fails where the table of the harts lists a context twice. -/
theorem not_counters : ¬ Obligations.Counters := by
  unfold Obligations.Counters SignalCounter
  rintro ⟨signal, -⟩
  obtain ⟨ready, -⟩ := signal 0 0 0 .hart listedTwice
  obtain ⟨performed, -⟩ := ready counterReady_listedTwice
  obtain ⟨t, answers, -, -, -, others, -⟩ := performed (by decide +kernel) fun _ he => absurd he List.not_mem_nil
  have kept : getHart t 5 = .reset := others 5 (by decide) fun _ h => nomatch h
  rw [readAfter_next sigc_listedTwice answers] at kept
  exact absurd kept (by decide +kernel)

/-! ### The handover -/

/-- A slice that has been held for 7 ns. -/
def heldSlice : SliceState := { SliceState.reset with held := true, used := 7 }

/-- A firmware update is under way, and cluster 0 is listed twice. -/
def updatingTwice : State :=
  { quietState with
    clusters := [(0, .reset), (0, { Cluster.reset with slices := [(0, heldSlice)] })], firmware := { Firmware.reset with updating := true } }

/-- The standstill of the slices' time drops the first entry of cluster 0. -/
theorem quiesce_updatingTwice : readAfter .reset (fun t => sliceAt t 0 0) (exec (.handover .quiesce) updatingTwice) = heldSlice := by decide +kernel

/-- Refutes O58: its clause that the slices keep all but their time at the quiesce step fails where the table of the clusters lists one twice. -/
theorem not_deviceManagement : ¬ Obligations.DeviceManagement := by
  unfold Obligations.DeviceManagement FirmwareUpdate
  rintro ⟨⟨-, -, handover⟩, -⟩
  obtain ⟨quiesce, -⟩ := handover updatingTwice rfl
  obtain ⟨t, answers, -, slices⟩ := quiesce rfl
  have still : sliceAt t 0 0 = .reset := slices 0 0
  rw [readAfter_next quiesce_updatingTwice answers] at still
  exact absurd still (by decide)

end Sys2Proof.Proofs
end

section
/-!
PROOFS. Services on counters, keys and launches (R68, R270, Tables 16.1 and 18.6), what can be said of O49.

Its clauses on COUNTER_ALLOC, COUNTER_FREE and LAUNCH_ABORT hold: `counterAlloc_spec`, `counterFree_spec`, `launchAbort_spec`. Its clauses on
KEY_DESTROY and LAUNCH_SUBMIT read the request by `Config.requestBytes` and `Config.requestField`, which the model leaves open, and O49 hangs on what
they are. It holds where KEY_DESTROY reads no bytes and every record pointer lies outside Table 2.6 (`resourceServices_of_nowhere`). It fails where
LAUNCH_SUBMIT reads its record pointer from the first 8 bytes (`not_resourceServices_of_layout`): a PROXY_CLOSED entry that waits for room in the
journal is written behind the submitted launch's entry when that launch fails at once, and the journal's head has moved on by 2. So O49 has neither
a proof nor a refutation that leaves these two open.
-/

namespace Sys2Proof.Proofs

open Sys2Proof Sys2Proof.Machine Sys2Proof.Claims

/-! ### Slots that are served -/

theorem mem_allSlots_modSlot {s : State} {id : Nat} {f : SvcSlot → SvcSlot} {x : SvcSlot} (h : x ∈ allSlots (modSlot s id f)) :
    ∃ y ∈ allSlots s, x = if y.id = id then f y else y := by
  obtain ⟨e, he, hx⟩ := List.mem_flatMap.1 h
  obtain ⟨a, ha, rfl⟩ := mem_mapVals
    (f := fun _ (d : Die) => { d with ring := d.ring.map fun v => if v.id = id then f v else v }) he
  obtain ⟨y, hy, rfl⟩ := List.mem_map.1 hx
  exact ⟨y, List.mem_flatMap.2 ⟨_, ha, hy⟩, rfl⟩

/-- An answer stands in the caller's slot and starts the way back to it. -/
theorem served_answer (s : State) (v : SvcSlot) (st : Word) : Served (answer s v st) v st := by
  refine ⟨fun x hx same => ?_, List.mem_append_right _ (List.mem_singleton_self _)⟩
  obtain ⟨y, -, rfl⟩ := mem_allSlots_modSlot (s := s) hx
  split at same
  · next h => rw [if_pos h]
  · next h => exact absurd same h

/-- The service of a call that stands in its ring, once it has begun. -/
def begun (v : SvcSlot) : SvcSlot := { v with begun := true }

theorem called_number {s : State} {n id : Nat} {v : SvcSlot} (call : Called s n id v) : (begun v).n = n := by
  obtain ⟨-, number, -⟩ := call
  exact number

/-- A service that is called, and whose turn it is, begins and does its work. -/
theorem serve_called {s : State} {n id : Nat} {v : SvcSlot} (call : Called s n id v) (k : State → SvcSlot → State) :
    serve n id s k = .next (k (beginSlot s v) (begun v)) := by
  obtain ⟨found, number, open', turn⟩ := call
  unfold serve
  simp only [found]
  rw [if_pos (by simp [number, open']), if_pos turn]
  rfl

theorem mapGet_mapVals_ne {β : Type} [DecidableEq β] {d : β} {f : Nat → β → β} {m : SMap β} {k : Nat}
    (kept : f k (mapGet d m k) ≠ d) (listed : mapGet d m k ≠ d) : mapGet d (mapVals d f m) k = f k (mapGet d m k) := by
  induction m with
  | nil => exact absurd rfl listed
  | cons e m ih =>
    obtain ⟨a, b⟩ := e
    by_cases hk : a = k
    · subst hk
      simp only [mapGet, if_true] at kept ⊢
      simp [mapVals, kept, mapGet]
    · simp only [mapGet, if_neg hk] at kept listed ⊢
      rw [← ih kept listed]
      by_cases drop : f a b = d
      · simp [mapVals, drop]
      · simp [mapVals, drop, mapGet, hk]

/-! ### What an owner reads while only the rings change -/

/-- Only the dies differ, and the translations of host pages that their caches have given are still there. -/
structure KeepsAtc (s t : State) : Prop where
  rest : t = { s with dies := t.dies }
  cached : ∀ d p e, (getDie s d).atc.find? p = some e → (getDie t d).atc.find? p = some e

theorem keepsAtc_beginSlot (s : State) (v : SvcSlot) : KeepsAtc s (beginSlot s v) := by
  refine ⟨rfl, fun d p e found => ?_⟩
  have some' : (getDie s d).atc ≠ [] := fun none' => by simp [none'] at found
  have listed : getDie s d ≠ .reset := fun h => some' (by rw [h]; rfl)
  have kept : getDie (beginSlot s v) d =
      { getDie s d with ring := (getDie s d).ring.map fun x => if x.id = v.id then { x with begun := true } else x } :=
    mapGet_mapVals_ne (f := fun _ (x : Die) => { x with ring := x.ring.map fun y => if y.id = v.id then { y with begun := true } else y })
      (fun h => some' (congrArg Die.atc h)) listed
  rw [kept]
  exact found

/-- The state with other dies. -/
def withDies (ds : SMap Die) (s : State) : State := { s with dies := ds }

theorem plbRange_withDies (ds : SMap Die) (s : State) (core : Nat) (own : BitVec 16) (va : Nat) :
    plbRange (withDies ds s) core own va = Prod.map (withDies ds) id (plbRange s core own va) := by
  have cores : getCore (withDies ds s) core = getCore s core := rfl
  have ranges : rangeAt (withDies ds s) va = rangeAt s va := rfl
  unfold plbRange
  simp only [cores, ranges]
  split
  · rfl
  · split <;> rfl

theorem plbRight_withDies (ds : SMap Die) (s : State) (core : Nat) (own : BitVec 16) (va : Nat) (tag need : BitVec 8) :
    plbRight (withDies ds s) core own va tag need = Prod.map (withDies ds) id (plbRight s core own va tag need) := by
  have cores : getCore (withDies ds s) core = getCore s core := rfl
  have rights : rightsOf (withDies ds s) own = rightsOf s own := rfl
  unfold plbRight
  simp only [cores, rights]
  generalize List.any _ _ = b
  cases b
  · cases List.find? (rightAdmits va tag need) (rightsOf s own) <;> rfl
  · rfl

/-- What a check says, with other dies in the state that it leaves. -/
def checkedWith (ds : SMap Die) : EngineCheck → EngineCheck
  | .ok s t => .ok (withDies ds s) t
  | .code c => .code c
  | .needAts p => .needAts p

/-- The check of a translated or host line reads no die. -/
theorem engineRights_withDies (ds : SMap Die) (s : State) (a : Agent) (p : Word) (need : BitVec 8) (write : Bool) (len : Nat) (x : Target)
    (keyh : BitVec 12) (window : Bool) :
    engineRights (withDies ds s) a p need write len x keyh window = checkedWith ds (engineRights s a p need write len x keyh window) := by
  unfold engineRights
  rw [plbRange_withDies]
  generalize plbRange s a.core a.own x.va = q
  obtain ⟨q, r⟩ := q
  cases r with
  | none => rfl
  | some rg =>
    simp only [Prod.map, id]
    rw [plbRight_withDies]
    generalize plbRight q a.core a.own x.va rg.tag need = z
    obtain ⟨z, b⟩ := z
    have keys : keyBelongs (withDies ds z) a.tenant (worldHandle (withDies ds z) a.launch) keyh = keyBelongs z a.tenant (worldHandle z a.launch) keyh := rfl
    have tensors : tensorAt (withDies ds z) x.va len = tensorAt z x.va len := rfl
    have peers : ∀ t, peerCode (withDies ds z) a.own a.tenant p need t = peerCode z a.own a.tenant p need t := fun _ => rfl
    cases b
    · simp only [Prod.map, id]
      split <;> rfl
    · simp only [Prod.map, id, keys, tensors, peers]
      repeat' split
      all_goals rfl

theorem walkFrom_withDies (ds : SMap Die) (s : State) (die va level table : Nat) :
    walkFrom (withDies ds s) die va level table = walkFrom s die va level table := by
  induction level generalizing table with
  | zero => rfl
  | succ n ih =>
    simp only [walkFrom, ih]
    rfl

theorem walk_withDies (ds : SMap Die) (s : State) (kind : WalkKind) (die va : Nat) : walk (withDies ds s) kind die va = walk s kind die va := by
  unfold walk walkUnder
  simp only [walkFrom_withDies]
  rfl

theorem engineLeaf_withDies (ds : SMap Die) (s : State) (core va : Nat) (kind : WalkKind) :
    engineLeaf (withDies ds s) core va kind = engineLeaf s core va kind := by
  unfold engineLeaf
  rw [walk_withDies]
  rfl

/-- A check that admits a line does so in a state where only the rings differ. -/
theorem engineCheck_keepsAtc {s t u : State} (keeps : KeepsAtc s t) {a : Agent} {p : Word} {need : BitVec 8} {write : Bool} {len : Nat} {x : Target}
    (e : engineCheck s a p need write len = .ok u x) : ∃ w, engineCheck t a p need write len = .ok w x := by
  obtain ⟨rest, cached⟩ := keeps
  have t' : t = withDies t.dies s := rest
  generalize t.dies = ds at *
  subst t'
  have rights : ∀ y k b, engineRights s a p need write len y k b = .ok u x → ∃ w, engineRights (withDies ds s) a p need write len y k b = .ok w x :=
    fun y k b h => ⟨_, by rw [engineRights_withDies, h]; rfl⟩
  unfold engineCheck at e ⊢
  simp only [engineLeaf_withDies]
  cases region : regionOf (addrOf p) with
  | nowhere => simp [region] at e
  | control => simp [region] at e
  | self =>
    simp only [region] at e ⊢
    split at e
    · cases e
    · next tag => cases e; exact ⟨_, if_neg tag⟩
  | localMem =>
    simp only [region] at e ⊢
    split at e
    · cases e
    · next tag =>
      split at e
      · next serves => cases e; exact ⟨_, (if_neg tag).trans (if_pos serves)⟩
      · cases e
  | vault =>
    simp only [region] at e ⊢
    exact rights _ _ _ e
  | host =>
    simp only [region] at e ⊢
    split at e
    · cases e
    · next found =>
      rw [show atcFind (withDies ds s) _ _ _ _ = _ from cached _ _ _ found]
      exact rights _ _ _ e
  | translated =>
    simp only [region] at e ⊢
    split at e
    · cases e
    · cases e
    · next leaf =>
      split at e
      · cases e
      · next mine =>
        simp only [mine]
        exact rights _ _ _ e

/-- One piece of what an owner reads (R276). -/
def readPiece (s : State) (a : Agent) (acc : Option (List Byte)) (e : Word × Nat) : Option (List Byte) :=
  match acc, engineCheck s a e.1 rightR false e.2 with
  | some bs, .ok _ x => (readTarget s (dieOf a.core) a.hart x e.2).map (bs ++ ·)
  | _, _ => none

theorem agentRead_eq (s : State) (a : Agent) (p : Word) (n : Nat) : agentRead s a p n = (pieces p n).foldl (readPiece s a) (some []) := by
  unfold agentRead agentReadFor
  congr 1

theorem readPieces_none (s : State) (a : Agent) (l : List (Word × Nat)) : l.foldl (readPiece s a) none = none := foldl_fixed fun _ _ => rfl

theorem readTarget_keepsAtc {s t : State} (keeps : KeepsAtc s t) (die hart : Nat) (x : Target) (n : Nat) :
    readTarget t die hart x n = readTarget s die hart x n := by
  obtain ⟨rest, -⟩ := keeps
  generalize t.dies = ds at rest
  subst rest
  unfold readTarget readStored
  rfl

theorem readPiece_code {s : State} {a : Agent} {bs : List Byte} {e : Word × Nat} {c : BitVec 8} (check : engineCheck s a e.1 rightR false e.2 = .code c) :
    readPiece s a (some bs) e = none := by
  unfold readPiece
  rw [check]

theorem readPiece_needAts {s : State} {a : Agent} {bs : List Byte} {e : Word × Nat} {c : Nat} (check : engineCheck s a e.1 rightR false e.2 = .needAts c) :
    readPiece s a (some bs) e = none := by
  unfold readPiece
  rw [check]

theorem readPiece_ok {s u : State} {a : Agent} {bs : List Byte} {e : Word × Nat} {x : Target} (check : engineCheck s a e.1 rightR false e.2 = .ok u x) :
    readPiece s a (some bs) e = (readTarget s (dieOf a.core) a.hart x e.2).map (bs ++ ·) := by
  unfold readPiece
  rw [check]

/-- A piece that an owner reads, it reads in a state where only the rings differ. -/
theorem readPiece_keepsAtc {s t : State} (keeps : KeepsAtc s t) (a : Agent) (acc : Option (List Byte)) (e : Word × Nat) :
    readPiece t a acc e = readPiece s a acc e ∨ readPiece s a acc e = none := by
  cases acc with
  | none => exact .inr rfl
  | some bs =>
    cases check : engineCheck s a e.1 rightR false e.2 with
    | ok u x =>
      obtain ⟨w, check'⟩ := engineCheck_keepsAtc keeps check
      exact .inl (by rw [readPiece_ok check, readPiece_ok check', readTarget_keepsAtc keeps])
    | code c => exact .inr (readPiece_code check)
    | needAts q => exact .inr (readPiece_needAts check)

theorem readPieces_keepsAtc {s t : State} (keeps : KeepsAtc s t) (a : Agent) (l : List (Word × Nat)) (acc : Option (List Byte)) :
    l.foldl (readPiece t a) acc = l.foldl (readPiece s a) acc ∨ l.foldl (readPiece s a) acc = none := by
  induction l generalizing acc with
  | nil => exact .inl (Eq.trans (List.foldl_nil ..) (List.foldl_nil ..).symm)
  | cons e l ih =>
    have one := readPiece_keepsAtc keeps a acc e
    have now : List.foldl (readPiece s a) acc (e :: l) = List.foldl (readPiece s a) (readPiece s a acc e) l := List.foldl_cons ..
    have then' : List.foldl (readPiece t a) acc (e :: l) = List.foldl (readPiece t a) (readPiece t a acc e) l := List.foldl_cons ..
    rw [now, then']
    generalize readPiece s a acc e = r at *
    generalize readPiece t a acc e = q at *
    rcases one with same | none'
    · rw [same]
      exact ih r
    · rw [none']
      exact .inr (readPieces_none ..)

/-- What an owner reads, it reads in a state where only the rings differ. -/
theorem agentRead_keepsAtc {s t : State} (keeps : KeepsAtc s t) {a : Agent} {p : Word} {n : Nat} {b : List Byte} (h : agentRead s a p n = some b) :
    agentRead t a p n = some b := by
  rw [agentRead_eq] at h ⊢
  rcases readPieces_keepsAtc keeps a (pieces p n) (some []) with same | none'
  · rw [same, h]
  · rw [none'] at h
    cases h

/-! ### What a service writes to a request in SELF -/

theorem engineCheck_self (s : State) (a : Agent) {p : Word} (hp : p.toNat < 0x20000) (need : BitVec 8) (write : Bool) (len : Nat) :
    engineCheck s a p need write len = .ok s (selfTarget a.core p) := by
  have addr : addrOf p = p.toNat := by rw [addrOf_eq]; omega
  have tag : tagOf p = 0 := by
    apply BitVec.eq_of_toNat_eq
    rw [tagOf, BitVec.extractLsb'_toNat, Nat.shiftRight_eq_div_pow]
    change p.toNat / 2 ^ 56 % 2 ^ 8 = 0
    omega
  unfold engineCheck
  simp only [addr, show regionOf p.toNat = .self from if_pos hp]
  exact if_neg (not_not_intro tag)

theorem pieces_within {p : Word} {n : Nat} (some' : n ≠ 0) (line : p.toNat % 64 + n ≤ 64) : pieces p n = [(p, n)] := by
  have whole : min n (64 - p.toNat % 64) = n := by omega
  unfold pieces
  simp [lineRuns, some', whole]

theorem agentWrite_self (s : State) (a : Agent) {p : Word} {bs : List Byte} (hp : p.toNat < 0x20000) (some' : bs.length ≠ 0)
    (line : p.toNat % 64 + bs.length ≤ 64) : agentWrite s a p bs = some (engineWrite s a.core a.hart (selfTarget a.core p) bs) := by
  have one := pieces_within some' line
  have may : agentMay s a p bs.length rightW = true := by
    unfold agentMay
    simp [one, engineCheck_self s a hp]
  unfold agentWrite
  simp only [may, one, List.foldl_cons, List.foldl_nil, engineCheck_self s a hp, Bool.not_true, Bool.false_eq_true, if_false, sub_self]
  simp [applyPad, selfTarget, Target.plain]

/-- The counters and their owners are as they were. -/
def KeepsCounters (s t : State) : Prop := t.counters = s.counters ∧ t.counterOwner = s.counterOwner

theorem keepsCounters_sendFlights (s : State) (src key : Nat) (bs : List Byte) (p : PageProp) (u : LineKey) (q : Nat) (st : Stamp) :
    KeepsCounters s (sendFlights s src key bs p u q st) :=
  foldl_rel (R := KeepsCounters) (fun _ => ⟨rfl, rfl⟩) (fun a b => ⟨b.1.trans a.1, b.2.trans a.2⟩) _
    (fun s d => by unfold sendFlight; split <;> exact ⟨rfl, rfl⟩) _ s

/-- A write to SELF stands in the view of the core's die. -/
theorem engineWrite_self (s : State) {core h : Nat} {p : Word} {bs : List Byte} (hc : core < 0x4000) (hp : p.toNat < 0x20000)
    (good : (localOf core + p.toNat) / 64 ∉ s.badLines) :
    (∀ i < bs.length, viewByte (engineWrite s core h (selfTarget core p) bs) (dieOf core) (localOf core + p.toNat + i) = bs.getD i 0) ∧
      KeepsCounters s (engineWrite s core h (selfTarget core p) bs) := by
  have below := self_belowDram (core := core) hc hp
  have onChip : isDram (localOf core + p.toNat) = false := self_notDram hc hp
  have inside : isOuter (localOf core + p.toNat) = false := by
    change localOf core + p.toNat < dramBase at below
    unfold dramBase at below
    unfold isOuter outerBase
    simp only [decide_eq_false_iff_not]
    omega
  have written : applyUnder s (dieOf core) (localOf core + p.toNat) bs .plain = applyView s (dieOf core) (localOf core + p.toNat) bs := by
    rw [applyUnder, onChip]
    rfl
  let d := dieOf core
  let n := (stampOf s d).get d + 1
  have stored : writeStored s d h (selfTarget core p) bs false =
      sendFlights (setStamp (applyView s d (localOf core + p.toNat) bs) d ((stampOf s d).set d n)) d (localOf core + p.toNat) bs .na .plain n
        (stampOf s d) := by
    rw [writeStored, if_neg (by simpa [selfTarget, Target.plain] using good), performUnder, ← written]
    simp only [selfTarget, Target.plain, inside]
    rfl
  unfold engineWrite
  rw [stored]
  refine ⟨fun i hi => ?_, ?_⟩
  · rw [viewByte, dropL1, viewOf_modCore, viewOf, sendFlights_views, ← viewOf, viewOf_setStamp, applyView, viewOf_setView_same]
    exact (mapGet_putBytes_inside _ _ _ _ hi).trans (List.getD_eq_getElem _ _ hi).symm
  · have sent := keepsCounters_sendFlights (setStamp (applyView s d (localOf core + p.toNat) bs) d ((stampOf s d).set d n)) d
      (localOf core + p.toNat) bs .na .plain n (stampOf s d)
    exact sent

/-! ### COUNTER_ALLOC -/

theorem counterAlloc_full {s : State} {id : Nat} {v : SvcSlot} (call : Called s 12 id v)
    (full : ∀ i < 4096, mapGet 0 s.counterOwner (v.hart / 16 / 4096 * 4096 + i) ≠ 0) :
    exec (.counterAlloc id) s = .next (answer (beginSlot s v) (begun v) stNoResource) := by
  change execCounterAlloc id s = _
  unfold execCounterAlloc
  rw [serve_called call]
  have owned : ∀ i < 4096, mapGet 0 (beginSlot s v).counterOwner (dieOfHart (begun v).hart * 4096 + i) ≠ 0 := full
  have first := owned _ (Nat.mod_lt (Config.choose (beginSlot s v).tick 61) (by decide : 0 < 4096))
  have rest : (List.range 4096).find? (fun i => decide (mapGet 0 (beginSlot s v).counterOwner (dieOfHart (begun v).hart * 4096 + i) = 0)) = none :=
    List.find?_eq_none.2 fun i hi => by simpa using owned i (List.mem_range.1 hi)
  simp only [first, if_false, rest]

theorem counterAlloc_free {s : State} {id : Nat} {v : SvcSlot} (call : Called s 12 id v)
    (free : ∃ i < 4096, mapGet 0 s.counterOwner (v.hart / 16 / 4096 * 4096 + i) = 0) :
    ∃ i < 4096, mapGet 0 s.counterOwner (v.hart / 16 / 4096 * 4096 + i) = 0 ∧
      exec (.counterAlloc id) s = .next (answerWith (beginSlot s v)
        (giveCounter (beginSlot s v) (v.hart / 16 / 4096 * 4096 + i) v.tenant.toNat 0) (begun v) 0 (leBytes 8 (v.hart / 16 / 4096 * 4096 + i))) := by
  change ∃ i < 4096, _ ∧ execCounterAlloc id s = _
  unfold execCounterAlloc
  rw [serve_called call]
  let open' := fun i => decide (mapGet 0 s.counterOwner (v.hart / 16 / 4096 * 4096 + i) = 0)
  have pick : ∃ i < 4096, open' i = true ∧
      (if open' (Config.choose s.tick 61 % 4096) then some (Config.choose s.tick 61 % 4096) else (List.range 4096).find? open') = some i := by
    by_cases first : open' (Config.choose s.tick 61 % 4096) = true
    · exact ⟨_, Nat.mod_lt _ (by decide), first, if_pos first⟩
    · cases found : (List.range 4096).find? open' with
      | none =>
        obtain ⟨i, hi, none'⟩ := free
        exact absurd (decide_eq_true none') (List.find?_eq_none.1 found i (List.mem_range.2 hi))
      | some i => exact ⟨i, List.mem_range.1 (List.mem_of_find?_eq_some found), List.find?_some found, if_neg first⟩
  obtain ⟨i, hi, is, picked⟩ := pick
  refine ⟨i, hi, of_decide_eq_true is, ?_⟩
  have picked' : (if mapGet 0 (beginSlot s v).counterOwner (dieOfHart (begun v).hart * 4096 + Config.choose (beginSlot s v).tick 61 % 4096) = 0 then
      some (Config.choose (beginSlot s v).tick 61 % 4096)
      else (List.range 4096).find? fun i => decide (mapGet 0 (beginSlot s v).counterOwner (dieOfHart (begun v).hart * 4096 + i) = 0)) = some i := by
    rw [← picked]
    simp only [open', decide_eq_true_eq]
    rfl
  simp only [picked']
  rfl

/-- A counter that has been given to a tenant is its own, and reads 0; where the request lies, the error lines are as before. -/
theorem giveCounter_spec (s : State) (id tenant : Nat) :
    mapGet 0 (giveCounter s id tenant 0).counterOwner id = tenant + 1 ∧ mapGet 0 (giveCounter s id tenant 0).counters id = 0 ∧
      (giveCounter s id tenant 0).badLines = s.badLines := by
  let given := { s with
    counterOwner := mapPut 0 s.counterOwner id (tenant + 1), counters := mapPut 0 s.counters id (0 : Word)
    counterStamp := mapErase s.counterStamp id }
  have work : OnlyWork given (giveCounter s id tenant 0) := (worksOn_retestCounter given id).work
  refine ⟨?_, ?_, ?_⟩
  · rw [show (giveCounter s id tenant 0).counterOwner = given.counterOwner by rw [work]]
    exact mapGet_mapPut_same 0 s.counterOwner id (tenant + 1)
  · rw [work.counters]
    exact mapGet_mapPut_same (0 : Word) s.counters id 0
  · rw [work]

/-- COUNTER_ALLOC (service 12, R68). -/
theorem counterAlloc_spec {s : State} {id : Nat} {v : SvcSlot} (call : Called s 12 id v) :
    let base := v.hart / 16 / 4096 * 4096
    ((∀ i < 4096, mapGet 0 s.counterOwner (base + i) ≠ 0) →
      ∃ t, exec (.counterAlloc id) s = .next t ∧ Served t v 2 ∧ t = { s with dies := t.dies, agenda := t.agenda }) ∧
    ((∃ i < 4096, mapGet 0 s.counterOwner (base + i) = 0) → InSelf s v 0 8 →
      ∃ t, exec (.counterAlloc id) s = .next t ∧ Served t v 0 ∧ ∃ i < 4096, mapGet 0 s.counterOwner (base + i) = 0 ∧
        mapGet 0 t.counterOwner (base + i) = v.tenant.toNat + 1 ∧ mapGet 0 t.counters (base + i) = 0 ∧
        RequestHolds t v 0 (leBytes 8 (base + i))) := by
  refine ⟨fun full => ⟨_, counterAlloc_full call full, served_answer .., rfl⟩, fun free inSelf => ?_⟩
  obtain ⟨i, hi, open', answers⟩ := counterAlloc_free call free
  obtain ⟨device, low, line, good⟩ := inSelf
  obtain ⟨owner, zero, bad⟩ := giveCounter_spec (beginSlot s v) (v.hart / 16 / 4096 * 4096 + i) v.tenant.toNat
  generalize giveCounter (beginSlot s v) (v.hart / 16 / 4096 * 4096 + i) v.tenant.toNat 0 = g at *
  generalize bytes : leBytes 8 (v.hart / 16 / 4096 * 4096 + i) = bs at *
  have len : bs.length = 8 := by rw [← bytes, leBytes_length]
  have lines : g.badLines = s.badLines := bad
  have core : coreOf v.hart < 0x4000 := by unfold coreOf; omega
  have hp : v.req.toNat < 0x20000 := by omega
  have wrote := agentWrite_self g (slotAgent v) (bs := bs) hp (by omega) (by omega)
  have key : localOf (coreOf v.hart) + v.req.toNat = requestKey v 0 := by unfold localOf localBase coreOf requestKey; omega
  have good' : (localOf (coreOf v.hart) + v.req.toNat) / 64 ∉ g.badLines := by rw [key, lines]; exact good
  obtain ⟨holds, kept⟩ := engineWrite_self g (h := serviceAgent (coreOf v.hart)) (bs := bs) core hp good'
  have whole : answerWith (beginSlot s v) g (begun v) 0 bs =
      answer (engineWrite g (coreOf v.hart) (serviceAgent (coreOf v.hart)) (selfTarget (coreOf v.hart) v.req) bs) (begun v) 0 := by
    unfold answerWith
    rw [show (begun v).req + BitVec.ofNat 64 0 = v.req from BitVec.add_zero v.req, show agentWrite g (slotAgent (begun v)) v.req bs = _ from wrote]
    rfl
  generalize engineWrite g (coreOf v.hart) (serviceAgent (coreOf v.hart)) (selfTarget (coreOf v.hart) v.req) bs = w at *
  rw [whole] at answers
  refine ⟨_, answers, served_answer .., i, hi, open', ?_, ?_, fun j hj => ?_⟩
  · rw [show (answer w (begun v) 0).counterOwner = g.counterOwner from kept.2]
    exact owner
  · rw [show (answer w (begun v) 0).counters = g.counters from kept.1]
    exact zero
  · rw [bytes] at hj ⊢
    have stands := holds j hj
    rw [key] at stands
    rw [← stands, Nat.zero_add]
    rfl

/-! ### COUNTER_FREE -/

/-- A request that its caller may read is what the service takes. -/
theorem withRequest_request {s : State} {v : SvcSlot} {n : Nat} {b : List Byte} (request : Request s v n b) (k : List Byte → State) :
    withRequest (beginSlot s v) (begun v) n k = k b := by
  have read : agentRead (beginSlot s v) (slotAgent (begun v)) (begun v).req n = some b := agentRead_keepsAtc (keepsAtc_beginSlot s v) request
  unfold withRequest
  rw [read]

theorem counterOf_iff (s : State) (id tenant : Nat) : counterOf s id = some tenant ↔ mapGet 0 s.counterOwner id = tenant + 1 := by
  unfold counterOf
  simp only
  split
  · next h => simp [h]
  · next h => simp only [Option.some.injEq]; omega

/-- COUNTER_FREE (service 13, R68). -/
theorem counterFree_spec {s : State} {id : Nat} {v : SvcSlot} {b : List Byte} (call : Called s 13 id v) (request : Request s v 8 b) :
    let c := numAt b 0 8
    (0x4000 ≤ c → ∃ t, exec (.counterFree id) s = .next t ∧ Served t v 3 ∧ t = { s with dies := t.dies, agenda := t.agenda }) ∧
    (c < 0x4000 → mapGet 0 s.counterOwner c ≠ v.tenant.toNat + 1 →
      ∃ t, exec (.counterFree id) s = .next t ∧ Served t v 5 ∧ t = { s with dies := t.dies, agenda := t.agenda }) ∧
    (c < 0x4000 → mapGet 0 s.counterOwner c = v.tenant.toNat + 1 →
      ∃ t, exec (.counterFree id) s = .next t ∧ Served t v 0 ∧ mapGet 0 t.counterOwner c = 0 ∧ t.counters = s.counters) := by
  have answers : exec (.counterFree id) s = .next
      (if 0x4000 ≤ numAt b 0 8 then answer (beginSlot s v) (begun v) stInvalid
       else if counterOf (beginSlot s v) (numAt b 0 8) ≠ some v.tenant.toNat then answer (beginSlot s v) (begun v) stNotFound
       else answer (takeCounter (beginSlot s v) (numAt b 0 8)) (begun v) 0) := by
    change execCounterFree id s = _
    unfold execCounterFree
    rw [serve_called call, withRequest_request request]
    rfl
  have owner := counterOf_iff (beginSlot s v) (numAt b 0 8) v.tenant.toNat
  refine ⟨fun high => ?_, fun low other => ?_, fun low mine => ?_⟩
  · rw [if_pos high] at answers
    exact ⟨_, answers, served_answer .., rfl⟩
  · rw [if_neg (by omega), if_pos (fun h => other (owner.1 h))] at answers
    exact ⟨_, answers, served_answer .., rfl⟩
  · rw [if_neg (by omega), if_neg (not_not_intro (owner.2 mine))] at answers
    let taken := { beginSlot s v with counterOwner := mapErase (beginSlot s v).counterOwner (numAt b 0 8) }
    have work : OnlyWork taken (takeCounter (beginSlot s v) (numAt b 0 8)) := (worksOn_retestCounter taken _).work
    refine ⟨_, answers, served_answer .., ?_, work.counters⟩
    change mapGet 0 (takeCounter (beginSlot s v) (numAt b 0 8)).counterOwner _ = 0
    rw [work]
    exact mapGet_mapErase_same 0 s.counterOwner _

/-! ### LAUNCH_ABORT -/

/-- LAUNCH_ABORT (service 20, Table 18.6). -/
theorem launchAbort_spec {s : State} {id : Nat} {v : SvcSlot} {b : List Byte} (call : Called s 20 id v) (request : Request s v 8 b) :
    (findLaunch s v.tenant.toNat (leWord (slice b 0 8)) = none →
      ∃ t, exec (.launchAbort id) s = .next t ∧ Served t v 5 ∧ t = { s with dies := t.dies, agenda := t.agenda }) ∧
    (∀ l, findLaunch s v.tenant.toNat (leWord (slice b 0 8)) = some l → getLaunch s l.id = some l → l.phase = .running →
      ∃ t u, exec (.launchAbort id) s = .next t ∧ Served t v 0 ∧ getLaunch t l.id = some u ∧ u.phase = .ending ∧ u.final = 5 ∧
        .worldRetire l.id ∈ t.agenda) := by
  have answers : exec (.launchAbort id) s = .next
      (match findLaunch (beginSlot s v) v.tenant.toNat (leWord (slice b 0 8)) with
       | none => answer (beginSlot s v) (begun v) stNotFound
       | some l => answer (abortLaunch (beginSlot s v) l) (begun v) 0) := by
    change execLaunchAbort id s = _
    unfold execLaunchAbort
    rw [serve_called call, withRequest_request request]
    rfl
  have same : findLaunch (beginSlot s v) v.tenant.toNat (leWord (slice b 0 8)) = findLaunch s v.tenant.toNat (leWord (slice b 0 8)) :=
    findLaunch_congr rfl ..
  rw [same] at answers
  refine ⟨fun none' => ?_, fun l found hl running => ?_⟩
  · rw [none'] at answers
    exact ⟨_, answers, served_answer .., rfl⟩
  · rw [found] at answers
    have hl' : getLaunch (beginSlot s v) l.id = some l := hl
    obtain ⟨u, ends, -⟩ := endLaunch_running abortedState 0 hl' running
    refine ⟨_, _, answers, served_answer .., getLaunch_endLaunch hl' running abortedState 0, rfl, rfl, ?_⟩
    refine List.mem_append_left _ ?_
    change Event.worldRetire l.id ∈ (endLaunch (beginSlot s v) l.id abortedState 0).agenda
    rw [ends]
    exact List.mem_append_right _ (List.mem_singleton_self _)


/-! ### KEY_DESTROY -/

/-- KEY_DESTROY (service 14, Table 16.1) of a request that its caller may read. -/
theorem keyDestroy_spec {s : State} {id : Nat} {v : SvcSlot} {b : List Byte} (call : Called s 14 id v)
    (request : Request s v (Config.requestBytes 14) b) :
    ∃ t, exec (.keyDestroy id) s = .next t ∧
      let k := Config.requestField 14 0 b
      match mapGet none s.keys (k % 4096) with
      | none => Served t v 5 ∧ t.keys = s.keys
      | some x =>
        if 0x800 ≤ k ∧ k < 0x1000 ∧ x.tenant = v.tenant then Served t v 0 ∧ mapGet none t.keys k = none
        else Served t v 5 ∧ t.keys = s.keys := by
  have number : (begun v).n = 14 := called_number call
  have answers : exec (.keyDestroy id) s = .next
      (match mapGet none s.keys (Config.requestField 14 0 b % 4096) with
       | none => answer (beginSlot s v) (begun v) stNotFound
       | some x =>
         if Config.requestField 14 0 b < 0x800 || 0x1000 ≤ Config.requestField 14 0 b || x.tenant ≠ v.tenant then
           answer (beginSlot s v) (begun v) stNotFound
         else answer { beginSlot s v with keys := mapErase (beginSlot s v).keys (Config.requestField 14 0 b) } (begun v) 0) := by
    change execKeyDestroy id s = _
    unfold execKeyDestroy
    rw [serve_called call, withRequest_request request]
    simp only [requestField, number, getKey, BitVec.toNat_ofNat]
    rfl
  refine ⟨_, answers, ?_⟩
  simp only
  cases mapGet none s.keys (Config.requestField 14 0 b % 4096) with
  | none => exact ⟨served_answer .., rfl⟩
  | some x =>
    simp only
    split
    · next shared =>
      obtain ⟨low, high, mine⟩ := shared
      rw [if_neg (by simp [mine]; omega)]
      exact ⟨served_answer .., mapGet_mapErase_same none s.keys _⟩
    · next other =>
      rw [if_pos (by simp only [Bool.or_eq_true, decide_eq_true_eq, ne_eq]; by_contra h; push Not at h; exact other ⟨h.1.1, h.1.2, h.2⟩)]
      exact ⟨served_answer .., rfl⟩

/-! ### LAUNCH_SUBMIT -/

/-- What lies in no range of Table 2.6 cannot be read. -/
theorem agentRead_nowhere (s : State) (a : Agent) {p : Word} {n : Nat} (some' : n ≠ 0) (region : regionOf (addrOf p) = .nowhere) :
    agentRead s a p n = none := by
  have first : ∃ k l, pieces p n = (p, k) :: l := by
    unfold pieces
    rw [lineRuns, if_neg some']
    exact ⟨_, _, rfl⟩
  obtain ⟨k, l, pieces'⟩ := first
  have refused : engineCheck s a p rightR false k = .code 0x21 := by
    unfold engineCheck
    simp only [region]
  rw [agentRead_eq, pieces', List.foldl_cons, readPiece_code refused, readPieces_none]

/-- What LAUNCH_SUBMIT does with a record that it has read (R38, R270). -/
def submitted (s : State) (v : SvcSlot) (record : List Byte) : State :=
  let p := journalAdd s v.tenant.toNat 0 1 accepted 0 0 (journalDigest record)
  match checkRecord p.2 v.tenant.toNat (parseRecord record) with
  | .error code => answer (sendOut (journalSet p.2 v.tenant.toNat p.1 failedState code) (.msix v.tenant.toNat 1)) v stInvalid
  | .ok levels => answer (sendOut (acceptLaunch p.2 (parseRecord record) levels p.1) (.msix v.tenant.toNat 1)) v 0

section Submit

variable {s : State} {id : Nat} {v : SvcSlot} (call : Called s 19 id v) (free : journalFree s v.tenant.toNat = true)

include call free

/-- A record that can be read is checked and its entry journalled. -/
theorem launchSubmit_record {b record : List Byte} (request : Request s v (Config.requestBytes 19) b)
    (reads : agentRead s (slotAgent v) (BitVec.ofNat 64 (Config.requestField 19 0 b)) 256 = some record) :
    exec (.launchSubmit id) s = .next (submitted (beginSlot s v) (begun v) record) := by
  have number : (begun v).n = 19 := called_number call
  have room : journalFree (beginSlot s v) (begun v).tenant.toNat = true := free
  have reads' : agentRead (beginSlot s v) (slotAgent (begun v)) (BitVec.ofNat 64 (Config.requestField 19 0 b)) 256 = some record :=
    agentRead_keepsAtc (keepsAtc_beginSlot s v) reads
  change execLaunchSubmit id s = _
  unfold execLaunchSubmit
  rw [serve_called call, withRequest_request request]
  simp only [requestField, number, room, reads', Bool.not_true, Bool.false_eq_true, if_false]
  rfl

/-- Where no record can be read the request is at fault (R276). -/
theorem launchSubmit_nowhere (nowhere : ∀ b, regionOf (addrOf (BitVec.ofNat 64 (Config.requestField 19 0 b))) = .nowhere) :
    exec (.launchSubmit id) s = .next (answer (beginSlot s v) (begun v) stRequestFault) := by
  have number : (begun v).n = 19 := called_number call
  have room : journalFree (beginSlot s v) (begun v).tenant.toNat = true := free
  change execLaunchSubmit id s = _
  unfold execLaunchSubmit
  rw [serve_called call]
  unfold withRequest
  split
  · simp only [requestField, number, room, Bool.not_true, Bool.false_eq_true, if_false, agentRead_nowhere _ _ (by decide : 256 ≠ 0) (nowhere _)]
  · rfl

end Submit

/-- O49 under one value of what the model leaves open. -/
theorem resourceServices_of_nowhere (none' : Config.requestBytes 14 = 0)
    (nowhere : ∀ b, regionOf (addrOf (BitVec.ofNat 64 (Config.requestField 19 0 b))) = .nowhere) : Obligations.ResourceServices := by
  unfold Obligations.ResourceServices
  refine ⟨fun id s v call => counterAlloc_spec call, fun id s v b call request => counterFree_spec call request, fun id s v call => ?_,
    fun id s v call free => ?_, fun id s v b call request => launchAbort_spec call request⟩
  · have request : Request s v (Config.requestBytes 14) [] := by unfold Request; rw [none']; rfl
    obtain ⟨t, answers, spec⟩ := keyDestroy_spec call request
    refine ⟨t, answers, ?_⟩
    rw [show agentRead s (slotAgent v) v.req (Config.requestBytes 14) = some [] from request]
    exact spec
  · refine ⟨_, launchSubmit_nowhere call free nowhere, ?_⟩
    split
    · exact served_answer ..
    · rw [agentRead_nowhere _ _ (by decide : 256 ≠ 0) (nowhere _)]
      exact served_answer ..

/-! ### A submitted launch that fails at once -/

/-- Core 0 has called LAUNCH_SUBMIT; its request, at SELF + 0x1000, points to a record at SELF + 0 whose one node is all zeros. -/
def submitCall : SvcSlot := ⟨5, 0, 0, 19, 0x1000, 0, 0, 0, false, 7, none, none, 0, false⟩

/-- The launch's record stands in SELF, and a PROXY_CLOSED entry of tenant 0 waits for its place in the journal. -/
def submitting : State :=
  { quietState with
    views := [(0, [(0x100000000, 1), (0x100000009, 1), (0x10000000C, 1), (0x100000014, 2), (0x10000001C, 2), (0x100000020, 0x40),
      (0x100000028, 0xFF), (0x100000029, 0xFF), (0x100000044, 1)])]
    dies := [(0, { Die.reset with ring := [submitCall] })], owners := [(0, 1)], ranges := [⟨0x200000000, 0x400000, 0, 0, 0, false⟩]
    rights := [(0, [⟨0x200000000, 0, 0x10000, 0x3F, 0, 0xFFFF, 1⟩])], tenants := [(0, { Tenant.reset with closed := [3] })] }

/-- The record of that launch. -/
def submitRecord : List Byte := mapBytes (viewOf submitting 0) 0x100000000 256

/-- The entry of the launch and the PROXY_CLOSED entry that waited have both been written. -/
theorem submitted_submitting : (getTenant (submitted (beginSlot submitting submitCall) (begun submitCall) submitRecord) 0).jhead = 2 := by
  decide +kernel

/-- The negation of O49 under another: its clause on LAUNCH_SUBMIT says that the head moves on by 1. -/
theorem not_resourceServices_of_layout (bytes : Config.requestBytes 19 = 8) (field : ∀ b, Config.requestField 19 0 b = numAt b 0 8) :
    ¬ Obligations.ResourceServices := by
  unfold Obligations.ResourceServices
  rintro ⟨-, -, -, submit, -⟩
  have call : Called submitting 19 5 submitCall := by unfold Called; decide +kernel
  have free : journalFree submitting submitCall.tenant.toNat = true := by decide +kernel
  have request : Request submitting submitCall (Config.requestBytes 19) (List.replicate 8 0) := by
    rw [bytes]
    unfold Request
    decide +kernel
  have reads : agentRead submitting (slotAgent submitCall) (BitVec.ofNat 64 (Config.requestField 19 0 (List.replicate 8 0))) 256 =
      some submitRecord := by
    rw [field]
    decide +kernel
  obtain ⟨t, answers, told⟩ := submit 5 submitting submitCall call free
  rw [launchSubmit_record call free request reads, Host.Outcome.next.injEq] at answers
  subst answers
  rw [show agentRead submitting (slotAgent submitCall) submitCall.req (Config.requestBytes 19) = _ from request] at told
  simp only [reads] at told
  obtain ⟨head, -⟩ := told
  have two : (getTenant (submitted (beginSlot submitting submitCall) (begun submitCall) submitRecord) 0).jhead = 1 := head
  rw [submitted_submitting] at two
  exact absurd two (by decide)

end Sys2Proof.Proofs
end

section
/-!
PROOFS. MEMORY_RESPONSE (R89): what a load or store in flight does when its response comes.
-/

namespace Sys2Proof.Proofs

open Sys2Proof Sys2Proof.Machine Sys2Proof.Claims

/-- A search by a key that the entries keep when they are changed finds the changed entry. -/
theorem find?_map_at {α : Type} {key : α → Nat} {k : Nat} {f : α → α} (kept : ∀ a, key (f a) = key a) (l : List α) :
    (l.map fun a => if key a = k then f a else a).find? (fun a => decide (key a = k)) =
      (l.find? fun a => decide (key a = k)).map f := by
  induction l with
  | nil => rfl
  | cons a l ih =>
    by_cases ha : key a = k
    · simp [ha, kept]
    · simp [ha, ih]

/-- Whether the response of an operation is yet to come: a DRAM request of it has still to be issued, or its write to be performed. -/
def ResponseHeld (s : State) (o : Op) : Prop := lineWaits s o.id = true ∨ (o.kind = .store ∧ storeUnderWay s o = true)

theorem exec_memoryResponse {s : State} {o : Op} (found : findOp s o.id = some o) (kind : o.kind = .load ∨ o.kind = .store) :
    exec (.memoryResponse o.id) s =
      if lineWaits s o.id || (decide (o.kind = .store) && storeUnderWay s o) then .next (post s (.memoryResponse o.id))
      else if 1 < o.slots then .next (post (modOp s o.id fun o => { o with slots := o.slots - 1 }) (.memoryResponse o.id))
      else .next (modHart (dropOp s o.id) o.hart (clearPending o.id)) := by
  change execMemoryResponse o.id s = _
  unfold execMemoryResponse
  rw [found]
  rcases kind with kind | kind <;> simp only [kind]

theorem responseHeld_iff (s : State) (o : Op) :
    (lineWaits s o.id || (decide (o.kind = .store) && storeUnderWay s o)) = true ↔ ResponseHeld s o := by
  simp [ResponseHeld]

theorem findOp_modOp {s : State} {o : Op} (found : findOp s o.id = some o) (f : Op → Op) (kept : ∀ p, (f p).id = p.id) :
    findOp (modOp s o.id f) o.id = some (f o) := by
  have mapped := find?_map_at (key := Op.id) (k := o.id) kept s.ops
  rw [show s.ops.find? (fun p => decide (p.id = o.id)) = some o from found] at mapped
  exact mapped

theorem readX_clearPending (id : Nat) (h : Hart) (r : Reg) : readX (clearPending id h) r = readX h r := rfl

/-- Settles O13: the response is held back, or it frees one of several slots, or it ends the operation. -/
theorem memoryResponse : Obligations.MemoryResponse := by
  unfold Obligations.MemoryResponse
  intro s o found kind
  have answer := exec_memoryResponse found kind
  refine ⟨fun early => ?_, fun late => ?_⟩
  · rw [if_pos ((responseHeld_iff s o).mpr early)] at answer
    exact ⟨_, answer, rfl⟩
  · rw [if_neg (mt (responseHeld_iff s o).mp late)] at answer
    by_cases more : 1 < o.slots
    · rw [if_pos more] at answer
      exact ⟨_, answer, fun last => absurd more (by omega), fun _ => ⟨findOp_modOp found _ fun _ => rfl, rfl⟩, fun _ _ => rfl, rfl⟩
    · rw [if_neg more] at answer
      refine ⟨_, answer, fun _ => ⟨rfl, rfl, ?_⟩, fun several => absurd several more, fun k r => ?_, rfl⟩
      · rw [getHart_modHart_same, getHart_dropOp]
        rfl
      · by_cases own : k = o.hart
        · rw [own, getHart_modHart_same, readX_clearPending, getHart_dropOp]
        · rw [getHart_modHart_ne _ _ own, getHart_dropOp]

end Sys2Proof.Proofs
end

section
/-!
PROOFS. Two changes of one part of the state are one, and what a change of the executing core and hart leaves alone.
-/

namespace Sys2Proof.Proofs

open Sys2Proof Sys2Proof.Machine Sys2Proof.Claims

theorem mapErase_mapErase_same {β : Type} (m : SMap β) (k : Nat) : mapErase (mapErase m k) k = mapErase m k := by
  rw [mapErase_eq_filter, mapErase_eq_filter, List.filter_filter]
  simp only [Bool.and_self]

theorem mapErase_mapInsert_same {β : Type} (m : SMap β) (k : Nat) (v : β) : mapErase (mapInsert m k v) k = mapErase m k := by
  induction m with
  | nil => simp [mapInsert, mapErase]
  | cons e m ih =>
    obtain ⟨a, b⟩ := e
    rw [mapInsert]
    split
    · rw [mapErase, if_pos rfl]
    · rw [mapErase, mapErase, ih]

/-- Of two writes to one key the second stands. -/
theorem mapPut_mapPut_same {β : Type} [DecidableEq β] (d : β) (m : SMap β) (k : Nat) (v w : β) :
    mapPut d (mapPut d m k v) k w = mapPut d m k w := by
  have erased : mapErase (mapPut d m k v) k = mapErase m k := by
    unfold mapPut
    split
    · exact mapErase_mapErase_same m k
    · rw [mapErase_mapInsert_same, mapErase_mapErase_same]
  rw [mapPut, erased, mapPut]

theorem modCore_modCore (s : State) (c : Nat) (f g : Core → Core) : modCore (modCore s c f) c g = modCore s c fun x => g (f x) := by
  rw [modCore, getCore_modCore_same]
  unfold modCore setCore
  rw [mapPut_mapPut_same]

theorem modHart_modHart (s : State) (h : Nat) (f g : Hart → Hart) : modHart (modHart s h f) h g = modHart s h fun x => g (f x) := by
  rw [modHart, getHart_modHart_same]
  unfold modHart setHart
  rw [mapPut_mapPut_same]

theorem modMe_modMe (s : State) (f g : Hart → Hart) : modMe (modMe s f) g = modMe s fun x => g (f x) := modHart_modHart s s.cur f g

/-- A change of a core is its effect on the core as it stands. -/
theorem modCore_congr {s : State} {c : Nat} {f g : Core → Core} (same : f (getCore s c) = g (getCore s c)) : modCore s c f = modCore s c g := by
  rw [modCore, same, modCore]

/-- A change of the executing core and then of the executing hart leaves every other core and hart alone. -/
theorem coreFrame_modMe_modCore (s : State) (f : Core → Core) (g : Hart → Hart) :
    CoreFrame s (modMe (modCore s (coreOf s.cur) f) g) :=
  ⟨rfl, fun _ hg => getCore_modCore_ne s f hg, fun _ hk => getHart_modMe_ne (modCore s (coreOf s.cur) f) g hk⟩

theorem me_modMe_modCore (s : State) (c : Nat) (f : Core → Core) (g : Hart → Hart) : me (modMe (modCore s c f) g) = g (me s) := by
  rw [me_modMe, me_modCore]

theorem getCore_modMe_modCore (s : State) (c : Nat) (f : Core → Core) (g : Hart → Hart) :
    getCore (modMe (modCore s c f) g) c = f (getCore s c) := by
  rw [getCore_modMe, getCore_modCore_same]

/-- The instruction at hand is no handler's. -/
theorem not_isHandler {s : State} (hart : isHandler s.cur = false) : ¬ isHandler s.cur = true := by rw [hart]; decide

end Sys2Proof.Proofs
end

section
/-!
PROOFS. Queue registers: QPUSH, QPOP, QPEEK and QCNT (R104, R105, R260).
-/

namespace Sys2Proof.Proofs

open Sys2Proof Sys2Proof.Machine Sys2Proof.Claims

/-! ### Places in line -/

section Line

variable {l : List (Nat × Nat)} {q : Nat} (free : ∀ e ∈ l, e.1 ≠ q)

include free

theorem firstInLine_free (ctx : Nat) : firstInLine l q ctx = true := by
  have none' : l.find? (fun e => decide (e.1 = q)) = none := List.find?_eq_none.mpr fun e he => by simpa using free e he
  rw [firstInLine, none']

theorem joinLine_free (ctx : Nat) : joinLine l q ctx = l ++ [(q, ctx)] := by
  have absent : ¬ l.contains (q, ctx) = true := fun h => free _ (List.contains_iff_mem.mp h) rfl
  rw [joinLine, if_neg absent]

theorem leaveLine_free (ctx : Nat) : l.filter (fun e => decide (e ≠ (q, ctx))) = l :=
  List.filter_eq_self.mpr fun e he => decide_eq_true fun h => free e he (by rw [h])

end Line

/-- A core after a context has left the line of those that push, or of those that pop. -/
def leavePushers (q ctx : Nat) (c : Core) : Core := { c with pushers := c.pushers.filter fun e => decide (e ≠ (q, ctx)) }
def leavePoppers (q ctx : Nat) (c : Core) : Core := { c with poppers := c.poppers.filter fun e => decide (e ≠ (q, ctx)) }

theorem leavePushers_free {c : Core} {q : Nat} (free : ∀ e ∈ c.pushers, e.1 ≠ q) (ctx : Nat) : leavePushers q ctx c = c :=
  congrArg (fun l => { c with pushers := l }) (leaveLine_free free ctx)

theorem leavePoppers_free {c : Core} {q : Nat} (free : ∀ e ∈ c.poppers, e.1 ≠ q) (ctx : Nat) : leavePoppers q ctx c = c :=
  congrArg (fun l => { c with poppers := l }) (leaveLine_free free ctx)

/-! ### Queues of the executing core -/

/-- A core with a queue register written. -/
def withQueue (q : Nat) (l : List QEntry) (c : Core) : Core := { c with queues := mapPut [] c.queues q l }

theorem onlyQueues_withQueue {c d : Core} {q : Nat} {l : List QEntry} (written : d = withQueue q l c) : d = { c with queues := d.queues } := by
  rw [written]
  rfl

theorem setQueue_eq (s : State) (core q : Nat) (l : List QEntry) : setQueue s core q l = modCore s core (withQueue q l) := rfl

theorem queue_withQueue_same (s : State) (q : Nat) (l : List QEntry) (g : Hart → Hart) :
    queue (modMe (modCore s (coreOf s.cur) (withQueue q l)) g) q = l := by
  change mapGet [] (getCore (modMe (modCore s (coreOf s.cur) (withQueue q l)) g) (coreOf s.cur)).queues q = l
  rw [getCore_modMe_modCore]
  exact mapGet_mapPut_same _ _ _ _

theorem queue_withQueue_ne (s : State) {q n : Nat} (l : List QEntry) (g : Hart → Hart) (hn : n ≠ q) :
    queue (modMe (modCore s (coreOf s.cur) (withQueue q l)) g) n = queue s n := by
  change mapGet [] (getCore (modMe (modCore s (coreOf s.cur) (withQueue q l)) g) (coreOf s.cur)).queues n = _
  rw [getCore_modMe_modCore]
  exact mapGet_mapPut_ne _ _ _ hn

/-! ### QPUSH -/

section Push

variable {s : State} {q b : Reg} (hart : isHandler s.cur = false)
  (free : ∀ e ∈ (getCore s (s.cur / 16)).pushers, e.1 ≠ q.toNat)

include hart free

/-- With room the value becomes the newest entry, once what the hart has to release has been performed. -/
theorem exec_qpush_room (room : (queue s q.toNat).length < 16) (released : releaseReady s s.cur .core = true) :
    exec (.qpush q b) s = .next
      (modMe (modCore s (coreOf s.cur) (withQueue q.toNat (queue s q.toNat ++ [⟨readX (me s) b, (me s).launch⟩]))) (retireHart 4)) := by
  have turn : (decide ((queue s q.toNat).length < 16) && firstInLine (getCore s (s.cur / 16)).pushers q.toNat (ctxOf s.cur)) = true := by
    rw [firstInLine_free free, decide_eq_true room]; rfl
  change execQpush q b s = _
  unfold execQpush
  rw [if_neg (not_isHandler hart)]
  refine (if_pos turn).trans ?_
  rw [afterRelease, if_pos released]
  let appended := setQueue s (coreOf s.cur) q.toNat (Machine.queueOf (getCore s (coreOf s.cur)) q.toNat ++ [⟨readX (me s) b, worldOf (me s)⟩])
  change done4 (modCore appended (coreOf s.cur) (leavePushers q.toNat (ctxOf appended.cur))) = _
  refine congrArg done4 ((modCore_modCore s _ _ _).trans (modCore_congr (g := withQueue _ _) ?_))
  exact leavePushers_free (c := withQueue _ _ (getCore s (coreOf s.cur))) free _

/-- With sixteen entries held the context waits in line. -/
theorem exec_qpush_full (full : 16 ≤ (queue s q.toNat).length) :
    exec (.qpush q b) s = .next
      (modMe (modCore s (coreOf s.cur) fun c => { c with pushers := (getCore s (s.cur / 16)).pushers ++ [(q.toNat, s.cur % 16)] })
        fun h => { h with wait := some (.queuePush q.toNat) }) := by
  have turn : ¬(decide ((queue s q.toNat).length < 16) && firstInLine (getCore s (s.cur / 16)).pushers q.toNat (ctxOf s.cur)) = true := by
    rw [decide_eq_false (Nat.not_lt.mpr full), Bool.false_and]; decide
  change execQpush q b s = _
  unfold execQpush
  rw [if_neg (not_isHandler hart)]
  refine (if_neg turn).trans ?_
  refine congrArg (fun u => Host.Outcome.next (modMe u fun h => { h with wait := some (.queuePush q.toNat) })) (modCore_congr ?_)
  rw [← joinLine_free free]
  rfl

end Push

theorem queuePush : QueuePush := by
  intro q b s hart free
  refine ⟨fun room released => ?_, fun full => ?_⟩
  · refine ⟨_, exec_qpush_room hart free room released, coreFrame_modMe_modCore s _ _, ?_, queue_withQueue_same s _ _ _,
      fun n hn => queue_withQueue_ne s _ _ hn, ?_⟩
    · exact me_modMe_modCore s _ _ _
    · exact onlyQueues_withQueue (getCore_modMe_modCore s (coreOf s.cur) _ _)
  · exact ⟨_, exec_qpush_full hart free full, coreFrame_modMe_modCore s _ _, me_modMe_modCore s _ _ _, getCore_modMe_modCore s _ _ _⟩

/-! ### QPOP, QPEEK and QCNT -/

theorem dropFirst_append {α : Type} {p : α → Bool} {older newer : List α} {e : α} (passed : ∀ x ∈ older, p x = false) (he : p e = true) :
    dropFirst p (older ++ e :: newer) = older ++ newer := by
  induction older with
  | nil => rw [List.nil_append, dropFirst, if_pos he, List.nil_append]
  | cons x older ih =>
    have hx : ¬ p x = true := by rw [passed x List.mem_cons_self]; decide
    rw [List.cons_append, dropFirst, if_neg hx, ih fun y hy => passed y (List.mem_cons_of_mem _ hy), List.cons_append]

/-- An acquire at core scope leaves the L1 as it is (R92). -/
theorem acquireAt_core (s : State) (g : Nat) : acquireAt s g .core = s := rfl

section Read

variable {s : State} {q : Reg}

/-- The oldest entry of the caller's world, where none of its calls waits. -/
theorem withOldest_some {e : QEntry} (free : ∀ x ∈ (getCore s (coreOf s.cur)).poppers, x.1 ≠ q.toNat)
    (oldest : (Machine.queueOf (getCore s (coreOf s.cur)) q.toNat).find? (fun x => decide (x.world = worldOf (me s))) = some e)
    (k : State → QEntry → Result) : withOldest s q k = k (modCore s (coreOf s.cur) id) e := by
  have turn : firstInLine (sameWorld s (coreOf s.cur) (worldOf (me s)) (getCore s (coreOf s.cur)).poppers) q.toNat (ctxOf s.cur) = true :=
    firstInLine_free (fun x hx => free x (List.mem_of_mem_filter hx)) _
  simp only [withOldest, oldest, turn]
  exact congrArg (fun u => k u e) (modCore_congr (leavePoppers_free free _))

/-- Without one the context waits in line. -/
theorem withOldest_none
    (none' : (Machine.queueOf (getCore s (coreOf s.cur)) q.toNat).find? (fun x => decide (x.world = worldOf (me s))) = none)
    (k : State → QEntry → Result) :
    withOldest s q k = .next
      (modMe (modCore s (coreOf s.cur) fun c => { c with poppers := joinLine c.poppers q.toNat (ctxOf s.cur) })
        fun h => { h with wait := some (.queuePop q.toNat) }) := by
  simp only [withOldest, none']
  rfl

theorem oldest_found {older newer : List QEntry} {e : QEntry} (entries : queue s q.toNat = older ++ e :: newer)
    (others : ∀ x ∈ older, x.world ≠ (me s).launch) (mine : e.world = (me s).launch) :
    (Machine.queueOf (getCore s (coreOf s.cur)) q.toNat).find? (fun x => decide (x.world = worldOf (me s))) = some e :=
  List.find?_eq_some_iff_append.mpr
    ⟨decide_eq_true mine, older, newer, entries, fun x hx => congrArg not (decide_eq_false (others x hx))⟩

variable (d : Reg) (hart : isHandler s.cur = false)

include hart

theorem exec_qpop : exec (.qpop d q) s = withOldest s q fun s e =>
    done4With
      (acquireAt
        (setQueue s (coreOf s.cur) q.toNat
          (dropFirst (fun x => decide (x.world = worldOf (me s))) (Machine.queueOf (getCore s (coreOf s.cur)) q.toNat)))
        (coreOf s.cur) .core) d e.value :=
  if_neg (not_isHandler hart)

theorem exec_qpeek : exec (.qpeek d q) s = withOldest s q fun s e => done4With (acquireAt s (coreOf s.cur) .core) d e.value :=
  if_neg (not_isHandler hart)

theorem exec_qcnt : exec (.qcnt d q) s =
    done4With s d (BitVec.ofNat 64 ((queue s q.toNat).filter fun x => decide (x.world = (me s).launch)).length) :=
  if_neg (not_isHandler hart)

theorem qcnt_counts : ∃ t, exec (.qcnt d q) s = .next t ∧
    WritesX s t d (BitVec.ofNat 64 ((queue s q.toNat).countP fun e => decide (e.world = (me s).launch))) ((me s).pc + 4) := by
  rw [exec_qcnt d hart, ← List.countP_eq_length_filter]
  exact ⟨_, rfl, writesX_modMe s d _⟩

/-- With no entry of the caller's world QPOP and QPEEK block. -/
theorem queue_blocks (none' : ∀ x ∈ queue s q.toNat, x.world ≠ (me s).launch) {i : Instr} (hi : i = .qpop d q ∨ i = .qpeek d q) :
    ∃ t, exec i s = .next t ∧ CoreFrame s t ∧ me t = { me s with wait := some (.queuePop q.toNat) } := by
  have notFound : (Machine.queueOf (getCore s (coreOf s.cur)) q.toNat).find? (fun x => decide (x.world = worldOf (me s))) = none :=
    List.find?_eq_none.mpr fun x hx found => none' x hx (of_decide_eq_true found)
  have blocked : ∀ k, withOldest s q k = _ := withOldest_none notFound
  rcases hi with rfl | rfl
  · exact ⟨_, (exec_qpop d hart).trans (blocked _), coreFrame_modMe_modCore s _ _, me_modMe_modCore s _ _ _⟩
  · exact ⟨_, (exec_qpeek d hart).trans (blocked _), coreFrame_modMe_modCore s _ _, me_modMe_modCore s _ _ _⟩

variable {older newer : List QEntry} {e : QEntry} (free : ∀ x ∈ (getCore s (s.cur / 16)).poppers, x.1 ≠ q.toNat)
  (entries : queue s q.toNat = older ++ e :: newer) (others : ∀ x ∈ older, x.world ≠ (me s).launch) (mine : e.world = (me s).launch)

include free entries others mine

/-- QPOP takes the oldest entry. -/
theorem qpop_takes : ∃ t, exec (.qpop d q) s = .next t ∧ CoreFrame s t ∧ DoneWith s t d e.value ∧
    queue t q.toNat = older ++ newer ∧ ∀ n, n ≠ q.toNat → queue t n = queue s n := by
  have rest : dropFirst (fun x => decide (x.world = worldOf (me s))) (queue s q.toNat) = older ++ newer := by
    rw [entries]
    exact dropFirst_append (fun x hx => decide_eq_false (others x hx)) (decide_eq_true mine)
  have answer : exec (.qpop d q) s = done4With (modCore s (coreOf s.cur) (withQueue q.toNat (older ++ newer))) d e.value := by
    rw [exec_qpop d hart, withOldest_some free (oldest_found entries others mine), acquireAt_core, setQueue_eq, ← rest]
    refine congrArg (fun u => done4With u d e.value) ((modCore_modCore s _ id _).trans (modCore_congr ?_))
    simp only [id_eq, getCore_modCore_same, modCore_cur, me_modCore]
    rfl
  exact ⟨_, answer, coreFrame_modMe_modCore s _ _, doneWith_modMe (modCore s (coreOf s.cur) _) d e.value, queue_withQueue_same s _ _ _,
    fun n hn => queue_withQueue_ne s _ _ hn⟩

/-- QPEEK copies it. -/
theorem qpeek_copies : ∃ t, exec (.qpeek d q) s = .next t ∧ CoreFrame s t ∧ DoneWith s t d e.value ∧ ∀ n, queue t n = queue s n := by
  have answer : exec (.qpeek d q) s = done4With (modCore s (coreOf s.cur) id) d e.value := by
    rw [exec_qpeek d hart, withOldest_some free (oldest_found entries others mine), acquireAt_core]
  refine ⟨_, answer, coreFrame_modMe_modCore s _ _, doneWith_modMe (modCore s (coreOf s.cur) id) d e.value, fun n => ?_⟩
  exact congrArg (fun c => mapGet [] c.queues n) (getCore_modMe_modCore s (coreOf s.cur) id _)

end Read

theorem queueRead : QueueRead := by
  intro d q s hart
  refine ⟨qcnt_counts d hart, fun free => ⟨fun older e newer entries others mine => ⟨?_, ?_⟩, fun none' => ⟨?_, ?_⟩⟩⟩
  · exact qpop_takes d hart free entries others mine
  · exact qpeek_copies d hart free entries others mine
  · exact queue_blocks d hart none' (.inl rfl)
  · exact queue_blocks d hart none' (.inr rfl)

/-- Settles O17: QPUSH appends or waits in line; QPOP and QPEEK find the oldest entry of the caller's world or wait; QCNT counts. -/
theorem queues : Obligations.Queues := ⟨queuePush, queueRead⟩

end Sys2Proof.Proofs
end

section
/-!
PROOFS. Engine commands at their issue: CPCMD, BKCMD and COLCMD (R93 to R95, R101, R114, R343, R344).
-/

namespace Sys2Proof.Proofs

open Sys2Proof Sys2Proof.Machine Sys2Proof.Claims

/-! ### Tags -/

/-- The tags in the order in which a core tries them (R95). -/
theorem triedTags_nodup (last : Nat) : ((List.range 256).map fun i => (last + 1 + i) % 256).Nodup := by
  refine List.Nodup.map_on (fun i hi j hj same => ?_) List.nodup_range
  have hi := List.mem_range.mp hi
  have hj := List.mem_range.mp hj
  omega

/-- A core with fewer than 256 commands has a tag left, and gives the first one that is free. -/
theorem nextTag_next {c : Core} (room : c.cmds.length < 256) : NextTag c (nextTag c) := by
  unfold nextTag
  split
  · next t found =>
    obtain ⟨free, i, hi, rfl, before⟩ := List.find?_eq_some_iff_getElem.mp found
    rw [List.length_map, List.length_range] at hi
    simp only [List.getElem_map, List.getElem_range, Bool.not_eq_true', Bool.not_not] at free before ⊢
    refine ⟨i, hi, rfl, fun m hm => ?_, fun j hj => ?_⟩
    · simpa using List.any_eq_false.mp free m hm
    · simpa using before j hj
  · next none' =>
    have busy : ((List.range 256).map fun i => (c.lastTag + 1 + i) % 256) ⊆ c.cmds.map Cmd.tag := by
      intro t ht
      have taken : c.cmds.any (fun m => decide (m.tag = t)) = true := by simpa using List.find?_eq_none.mp none' t ht
      obtain ⟨m, hm, tag⟩ := List.any_eq_true.mp taken
      exact List.mem_map.mpr ⟨m, hm, of_decide_eq_true tag⟩
    have many := ((triedTags_nodup c.lastTag).subperm busy).length_le
    rw [List.length_map, List.length_range, List.length_map] at many
    omega

/-! ### What holds a command back -/

theorem stillLate_false {s : State} {l : List Nat} (done : ∀ n ∈ l, (∀ o ∈ s.ops, o.id ≠ n) ∧ ∀ w ∈ s.mca, w.id ≠ n) :
    stillLate s l = false := by
  refine List.any_eq_false.mpr fun n hn late => ?_
  obtain ⟨ops, mca⟩ := done n hn
  rcases Bool.or_eq_true _ _ ▸ late with late | late
  · obtain ⟨o, ho, same⟩ := List.any_eq_true.mp late
    exact ops o ho (of_decide_eq_true same)
  · obtain ⟨w, hw, same⟩ := List.any_eq_true.mp late
    exact mca w hw (of_decide_eq_true same)

/-- No FENCE holds back an access of a hart for which all that a FENCE put before it has been performed. -/
theorem afterFences_unfenced {s : State} (unfenced : Unfenced s) (load store : Bool) (k : Result) : afterFences s load store k = k := by
  have loads : stillLate s (me s).beforeLoads = false := stillLate_false fun n hn => unfenced n (.inl hn)
  have stores : stillLate s (me s).beforeStores = false := stillLate_false fun n hn => unfenced n (.inr hn)
  rw [afterFences, fenceHolds, loads, stores, Bool.and_false, Bool.and_false, Bool.or_false, if_neg Bool.false_ne_true]

/-- What an engine command that is not refused does: with its queue full, or every tag out, the hart waits; otherwise it is taken. -/
def takenOrWaits (s : State) (full : Prop) [Decidable full] (w : Wait) (taken : State) : Result :=
  if full then waitFor s w
  else if 256 ≤ (getCore s (coreOf s.cur)).cmds.length then waitFor s .tagFree
  else afterFences s false true (.next taken)

section Taken

variable {s t : State} {r : Result} {full : Prop} [Decidable full] {w : Wait} (answer : r = takenOrWaits s full w t)

include answer

theorem waits_full (h : full) : ∃ u, r = .next u ∧ Waits s u w := by
  rw [answer, takenOrWaits, if_pos h]
  exact waits_waitFor s w

theorem waits_tags (room : ¬full) (tags : 256 ≤ (getCore s (s.cur / 16)).cmds.length) : ∃ u, r = .next u ∧ Waits s u .tagFree := by
  have waiting : r = waitFor s .tagFree := answer.trans ((if_neg room).trans (if_pos tags))
  rw [waiting]
  exact waits_waitFor s .tagFree

theorem taken_free (room : ¬full) (tags : (getCore s (s.cur / 16)).cmds.length < 256) (unfenced : Unfenced s) : r = .next t :=
  answer.trans ((if_neg room).trans ((if_neg (Nat.not_le.mpr tags)).trans (afterFences_unfenced unfenced false true _)))

end Taken

/-! ### A command taken -/

/-- Whether x[d] has been written is seen at the executing hart alone. -/
theorem doneWith_of_me {s s' t t' : State} {d : Reg} {v : Word} (h : DoneWith s t d v) (before : me s' = me s) (after : me t' = me t) :
    DoneWith s' t' d v := by
  unfold DoneWith
  rw [before, after]
  exact h

/-- The core with a command taken. -/
def withCmd (m : Cmd) (c : Core) : Core :=
  { c with cmds := c.cmds ++ [m], lastTag := m.tag, copyQ := if m.kind = .copy then c.copyQ ++ [m.tag] else c.copyQ }

/-- The state with a command of the executing hart taken, what an earlier command of its tag has asked of the host forgotten. -/
def withTaken (s : State) (m : Cmd) : State :=
  modCore { dropAsked s (coreOf s.cur) m.tag with serial := s.serial + 1 } (coreOf s.cur) (withCmd m)

theorem getDie_dropAsked (s : State) (core tag g : Nat) :
    getDie (dropAsked s core tag) g =
      if g = core / 4096 then
        { getDie s g with
          atsPending := (getDie s g).atsPending.filter fun r => decide ¬(r.core = core ∧ r.tag = tag)
          atsDenied := (getDie s g).atsDenied.filter fun r => decide ¬(r.core = core ∧ r.tag = tag) }
      else getDie s g := by
  have others : (fun r : AtsRequest => !(decide (r.core = core) && decide (r.tag = tag))) = fun r => decide ¬(r.core = core ∧ r.tag = tag) := by
    funext r
    rw [decide_not, Bool.decide_and]
  split
  · next own =>
    subst own
    rw [← others]
    exact getDie_modDie_same _ _ _
  · next other => exact getDie_modDie_ne _ _ other

section Issue

variable (s : State) (kind : EngineKind) (d : Reg) (dst src : Word) (len : Nat) (acq : Option Scope) (rel : Scope) (q : Option Nat)
  (coll : Option CollDesc)

theorem issueCmd_eq :
    issueCmd s kind d dst src len acq rel q coll =
      let tag := nextTag (getCore s (coreOf s.cur))
      post (modMe (withTaken s (cmdOf s kind tag dst src len acq rel q coll)) fun h => retireHart 4 (writeX h d (BitVec.ofNat 64 tag)))
        (.engineCommandStart (coreOf s.cur) tag) :=
  congrArg (fun u => post u _) (modMe_modMe _ _ _)

theorem issueCmd_issues (room : (getCore s (s.cur / 16)).cmds.length < 256) :
    let tag := nextTag (getCore s (s.cur / 16))
    Issues s (issueCmd s kind d dst src len acq rel q coll) d tag (cmdOf s kind tag dst src len acq rel q coll) ∧
      (getCore (issueCmd s kind d dst src len acq rel q coll) (s.cur / 16)).copyQ =
        if kind = .copy then (getCore s (s.cur / 16)).copyQ ++ [tag] else (getCore s (s.cur / 16)).copyQ := by
  intro tag
  let m := cmdOf s kind tag dst src len acq rel q coll
  have core : getCore (withTaken s m) (s.cur / 16) = withCmd m (getCore s (s.cur / 16)) := getCore_modCore_same _ _ _
  have done := doneWith_modMe (withTaken s m) d (BitVec.ofNat 64 tag)
  rw [issueCmd_eq]
  refine ⟨⟨nextTag_next room, ?_, ?_, ?_, fun g => ?_, ?_⟩, ?_⟩
  · exact doneWith_of_me done rfl rfl
  · exact congrArg Core.cmds core
  · exact congrArg Core.lastTag core
  · exact getDie_dropAsked s (s.cur / 16) tag g
  · rfl
  · exact congrArg Core.copyQ core

end Issue

end Sys2Proof.Proofs
end

section
/-!
PROOFS. CPCMD, BKCMD and COLCMD: when they are refused, when they wait, and what they queue (R93, R94, R101, R114, R343).
-/

namespace Sys2Proof.Proofs

open Sys2Proof Sys2Proof.Machine Sys2Proof.Claims

/-! ### Operands -/

theorem field_top (x : Word) (lo : Nat) {n : Nat} (h : lo + n = 64) : field x.toNat lo n = x.toNat / 2 ^ lo :=
  Nat.mod_eq_of_lt (Nat.div_lt_of_lt_mul (by rw [← Nat.pow_add, h]; exact x.isLt))

theorem field_low (v n : Nat) : field v 0 n = v % 2 ^ n := by rw [field, pow_zero, Nat.div_one]

/-- The queue that x[d] names for the post of the tag, by its bits 63 to 60. -/
theorem postQueue_eq (x : Word) : postQueue x = if x.toNat / 2 ^ 63 = 1 then some (x.toNat / 2 ^ 60 % 8) else none := by
  have bit : x.getLsbD 63 = decide (x.toNat / 2 ^ 63 = 1) := by
    have small : x.toNat / 2 ^ 63 < 2 := Nat.div_lt_of_lt_mul x.isLt
    rw [BitVec.getLsbD, Nat.testBit_eq_decide_div_mod_eq, Nat.mod_eq_of_lt small]
  rw [postQueue, bit]
  by_cases h : x.toNat / 2 ^ 63 = 1
  · rw [if_pos (decide_eq_true h), if_pos h]
    rfl
  · rw [if_neg (by simpa using h), if_neg h]

/-- Source and destination of a bulk command do not meet (R101). -/
def BulkApart (dst src : Word) (len : Nat) : Prop :=
  len = 0 ∨ src.toNat % 2 ^ 56 + len ≤ dst.toNat % 2 ^ 56 ∨ dst.toNat % 2 ^ 56 + len ≤ src.toNat % 2 ^ 56

theorem bulkOverlap_iff (dst src : Word) (len : Nat) : bulkOverlap dst src len = true ↔ ¬BulkApart dst src len := by
  rw [bulkOverlap, overlap, addrOf_eq, addrOf_eq]
  simp only [Bool.and_eq_true, decide_eq_true_eq, BulkApart]
  omega

/-! ### Scopes -/

theorem engineScope_iff (s : State) (sc : Option Scope) :
    engineScope s (me s) sc = true ↔ ∀ x, sc = some x → x ≠ .hart ∧ bindsScope s (me s) x = true := by
  cases sc <;> simp [engineScope]

/-- What refuses an engine command before its operands are looked at: the handler context, and scopes that it may not use. -/
theorem scopes_refused (s : State) (acq rel : Option Scope) :
    (isHandler s.cur || !engineScope s (me s) acq || !engineScope s (me s) rel) = true ↔
      isHandler s.cur = true ∨ ¬EngineScopes s acq rel := by
  have both : EngineScopes s acq rel ↔ engineScope s (me s) acq = true ∧ engineScope s (me s) rel = true := by
    rw [engineScope_iff, engineScope_iff]
    exact ⟨fun h => ⟨fun x hx => h x (.inl hx), fun x hx => h x (.inr hx)⟩, fun h x hx => hx.elim (h.1 x) (h.2 x)⟩
  rw [both, Bool.or_eq_true, Bool.or_eq_true, Bool.not_eq_true', Bool.not_eq_true', not_and_or, Bool.not_eq_true, Bool.not_eq_true, or_assoc]

/-- The acquire that a command gets from its flags and from an ORD before it. -/
theorem acquires_eq (s : State) (acq : Option Scope) : widerScope acq (prefixAcquire (me s)) = acquires s acq := by
  unfold acquires prefixAcquire orderNow
  refine congrArg (widerScope acq) ?_
  generalize (me s).unit = unit
  rcases unit with _ | ⟨pc, o, sc⟩ | ⟨pc, n⟩
  · rfl
  · cases o <;> rfl
  · rfl

/-! ### CPCMD and BKCMD -/

section Moves

variable {d a b : Reg} {acq rel : Option Scope} {s : State}

theorem cpcmd_illegal (h : isHandler s.cur = true ∨ ¬EngineScopes s acq rel ∨ field (readX (me s) d).toNat 32 28 ≠ 0) :
    Illegal s (.cpcmd d a b acq rel) := by
  have refused : (isHandler s.cur || !engineScope s (me s) acq || !engineScope s (me s) rel ||
      decide (field (readX (me s) d).toNat 32 28 ≠ 0)) = true := by
    rw [Bool.or_eq_true, scopes_refused, decide_eq_true_eq, or_assoc]
    exact h
  exact illegal_of_eq (if_pos refused)

theorem bkcmd_illegal (h : isHandler s.cur = true ∨ ¬EngineScopes s acq rel ∨ field (readX (me s) d).toNat 40 20 ≠ 0 ∨
    ¬BulkApart (readX (me s) a) (readX (me s) b) (field (readX (me s) d).toNat 0 40)) : Illegal s (.bkcmd d a b acq rel) := by
  have refused : (isHandler s.cur || !engineScope s (me s) acq || !engineScope s (me s) rel ||
      decide (field (readX (me s) d).toNat 40 20 ≠ 0) ||
      bulkOverlap (readX (me s) a) (readX (me s) b) (field (readX (me s) d).toNat 0 40)) = true := by
    rw [Bool.or_eq_true, Bool.or_eq_true, scopes_refused, decide_eq_true_eq, bulkOverlap_iff, or_assoc, or_assoc]
    exact h
  exact illegal_of_eq (if_pos refused)

variable (hart : isHandler s.cur = false) (scopes : EngineScopes s acq rel)

include hart scopes

theorem cpcmd_taken (zero : field (readX (me s) d).toNat 32 28 = 0) :
    exec (.cpcmd d a b acq rel) s =
      takenOrWaits s (2 ≤ (getCore s (coreOf s.cur)).copyQ.length) .copyQueue
        (issueCmd s .copy d (readX (me s) a) (readX (me s) b) (field (readX (me s) d).toNat 0 32) (widerScope acq (prefixAcquire (me s)))
          (rel.getD .core) (postQueue (readX (me s) d)) none) := by
  have accepted : ¬(isHandler s.cur || !engineScope s (me s) acq || !engineScope s (me s) rel ||
      decide (field (readX (me s) d).toNat 32 28 ≠ 0)) = true := by
    rw [Bool.or_eq_true, scopes_refused, hart]
    simp [scopes, zero]
  exact if_neg accepted

theorem bkcmd_taken (zero : field (readX (me s) d).toNat 40 20 = 0)
    (apart : BulkApart (readX (me s) a) (readX (me s) b) (field (readX (me s) d).toNat 0 40)) :
    exec (.bkcmd d a b acq rel) s =
      takenOrWaits s (4 ≤ bulkCount (getCore s (coreOf s.cur))) .bulkQueue
        (issueCmd s .bulk d (readX (me s) a) (readX (me s) b) (field (readX (me s) d).toNat 0 40) (widerScope acq (prefixAcquire (me s)))
          (rel.getD .core) (postQueue (readX (me s) d)) none) := by
  have accepted : ¬(isHandler s.cur || !engineScope s (me s) acq || !engineScope s (me s) rel ||
      decide (field (readX (me s) d).toNat 40 20 ≠ 0) ||
      bulkOverlap (readX (me s) a) (readX (me s) b) (field (readX (me s) d).toNat 0 40)) = true := by
    rw [Bool.or_eq_true, Bool.or_eq_true, scopes_refused, bulkOverlap_iff, hart]
    simp [scopes, zero, apart]
  exact if_neg accepted

end Moves

/-! ### COLCMD -/

theorem collectiveScope_iff (sc : Scope) : collectiveScope sc = true ↔ sc = .clus ∨ sc = .dist ∨ sc = .die ∨ sc = .pkg := by
  cases sc <;> decide

/-- The descriptor at a pointer into SELF, as COLCMD copies it. -/
def collAt (s : State) (sc : Scope) (p : Word) : CollDesc := parseColl (rawBytes s (myDie s) s.cur (selfKey s p) 32) sc

section Collective

variable {d a : Reg} {sc : Scope} {s : State}

theorem colcmd_refused :
    (isHandler s.cur || !collectiveScope sc || !bindsScope s (me s) sc) = true ↔
      isHandler s.cur = true ∨ ¬(sc = .clus ∨ sc = .dist ∨ sc = .die ∨ sc = .pkg) ∨ bindsScope s (me s) sc = false := by
  rw [← collectiveScope_iff, Bool.or_eq_true, Bool.or_eq_true, Bool.not_eq_true', Bool.not_eq_true', Bool.not_eq_true, or_assoc]

theorem colcmd_illegal (h : isHandler s.cur = true ∨ ¬(sc = .clus ∨ sc = .dist ∨ sc = .die ∨ sc = .pkg) ∨ bindsScope s (me s) sc = false) :
    Illegal s (.colcmd d a sc) := illegal_of_eq (if_pos (colcmd_refused.mpr h))

variable (hart : isHandler s.cur = false) (collective : sc = .clus ∨ sc = .dist ∨ sc = .die ∨ sc = .pkg)
  (bound : bindsScope s (me s) sc = true)

include hart collective bound

theorem colcmd_accepted : ¬(isHandler s.cur || !collectiveScope sc || !bindsScope s (me s) sc) = true := by
  rw [colcmd_refused]
  simp [hart, collective, bound]

theorem colcmd_misaligned (bad : (readX (me s) a).toNat % 32 ≠ 0 ∨ 0x20000 ≤ (readX (me s) a).toNat) :
    Traps s (exec (.colcmd d a sc) s) 0x04 (readX (me s) a) 0 := by
  have misaligned : (decide ((readX (me s) a).toNat % 32 ≠ 0) || decide (0x20000 ≤ (readX (me s) a).toNat)) = true := by
    rw [Bool.or_eq_true, decide_eq_true_eq, decide_eq_true_eq]
    exact bad
  have trap : exec (.colcmd d a sc) s = trapR s ⟨0x04, readX (me s) a, 0⟩ :=
    (if_neg (colcmd_accepted hart collective bound)).trans (if_pos misaligned)
  rw [trap]
  exact traps_trapR s _

/-- No queue bounds the collective commands: only the tags do. -/
theorem colcmd_taken (aligned : (readX (me s) a).toNat % 32 = 0) (inSelf : (readX (me s) a).toNat < 0x20000) :
    exec (.colcmd d a sc) s =
      takenOrWaits s False .tagFree
        (issueCmd s .coll d (collAt s sc (readX (me s) a)).dst (collAt s sc (readX (me s) a)).src
          ((collAt s sc (readX (me s) a)).count * 4) (widerScope none (prefixAcquire (me s))) .core none
          (some (collAt s sc (readX (me s) a)))) := by
  have wellPlaced : ¬(decide ((readX (me s) a).toNat % 32 ≠ 0) || decide (0x20000 ≤ (readX (me s) a).toNat)) = true := by
    simp [aligned, inSelf]
  exact (if_neg (colcmd_accepted hart collective bound)).trans (if_neg wellPlaced)

end Collective

/-! ### The statement -/

theorem engineIssue : EngineIssue := by
  refine ⟨fun d a b acq rel s refused => ⟨?_, ?_⟩, fun d a b acq rel s hart scopes => ?_, fun d a sc s => ?_⟩
  · exact cpcmd_illegal (refused.imp_right .inl)
  · exact bkcmd_illegal (refused.imp_right .inl)
  · intro c x q dst src apart
    have apart_iff : BulkApart dst src (field x 0 40) ↔ apart := by rw [field_low]; rfl
    refine ⟨fun reserved => cpcmd_illegal (.inr (.inr reserved)), fun zero => ?_, fun bad => ?_, fun zero separate => ?_⟩
    · have answer := cpcmd_taken (d := d) (a := a) (b := b) hart scopes zero
      refine ⟨waits_full answer, fun room => waits_tags answer (Nat.not_le.mpr room), fun room free unfenced => ?_⟩
      have taken := taken_free answer (Nat.not_le.mpr room) free unfenced
      rw [acquires_eq, postQueue_eq, field_low] at taken
      exact ⟨_, _, taken, issueCmd_issues s .copy d dst src (x % 2 ^ 32) (acquires s acq) (rel.getD .core) q none free⟩
    · exact bkcmd_illegal (.inr (.inr (bad.imp_right (mt apart_iff.mp))))
    · have answer := bkcmd_taken (d := d) (a := a) (b := b) hart scopes zero (apart_iff.mpr separate)
      refine ⟨waits_full answer, fun room => waits_tags answer (Nat.not_le.mpr room), fun room free unfenced => ?_⟩
      have taken := taken_free answer (Nat.not_le.mpr room) free unfenced
      rw [acquires_eq, postQueue_eq, field_low] at taken
      exact ⟨_, _, taken, (issueCmd_issues s .bulk d dst src (x % 2 ^ 40) (acquires s acq) (rel.getD .core) q none free).1⟩
  · intro collective p
    refine ⟨colcmd_illegal, fun hart isCollective bound => ⟨colcmd_misaligned hart isCollective bound, fun aligned inSelf => ?_⟩⟩
    have answer := colcmd_taken (d := d) hart isCollective bound aligned inSelf
    refine ⟨waits_tags answer id, fun free unfenced => ?_⟩
    have taken := taken_free answer id free unfenced
    rw [acquires_eq] at taken
    exact ⟨_, _, taken, (issueCmd_issues s .coll d _ _ _ (acquires s none) .core none (some (collAt s sc p)) free).1⟩

end Sys2Proof.Proofs
end

section
/-!
PROOFS. The resume forms of CPCMD and BKCMD (R98, R99, R236).
-/

namespace Sys2Proof.Proofs

open Sys2Proof Sys2Proof.Machine Sys2Proof.Claims

/-! ### Fault records dropped -/

/-- The records that stay in a queue when the record of a tag leaves it. -/
def withoutTag (tag : Nat) (l : List FaultRec) : List FaultRec := l.filter fun r => decide (r.kind = 4 ∨ r.tag ≠ BitVec.ofNat 8 tag)

theorem dropFault_present {s : State} {h : Nat} {gen : BitVec 8} (present : Present s h gen) (tag : Nat) :
    dropFault s h gen tag = modHart s h fun v => { v with faults := withoutTag tag v.faults } := by
  have here : (decide ((getHart s h).tenure = .running) && decide ((getHart s h).gen = gen)) = true := by
    rw [decide_eq_true present.2, decide_eq_true present.1]; rfl
  have same : (fun r : FaultRec => decide (r.kind = 4) || decide (r.tag ≠ BitVec.ofNat 8 tag)) =
      fun r => decide (r.kind = 4 ∨ r.tag ≠ BitVec.ofNat 8 tag) := by
    funext r
    rw [Bool.decide_or]
  unfold withoutTag
  rw [← same]
  exact if_pos here

/-- Only fault queues, of harts or of saves, change. -/
theorem dropFault_cases (s : State) (h : Nat) (gen : BitVec 8) (tag : Nat) :
    (∃ l, dropFault s h gen tag = modHart s h fun v => { v with faults := l }) ∨ ∃ saves, dropFault s h gen tag = { s with saves := saves } := by
  unfold dropFault
  split
  · exact .inl ⟨_, rfl⟩
  · exact .inr ⟨_, rfl⟩

theorem dropFault_frame (s : State) (h : Nat) (gen : BitVec 8) (tag : Nat) :
    dropFault s h gen tag = { s with harts := (dropFault s h gen tag).harts, saves := (dropFault s h gen tag).saves } := by
  rcases dropFault_cases s h gen tag with ⟨l, e⟩ | ⟨saves, e⟩
  · rw [e]; rfl
  · rw [e]

theorem getHart_dropFault (s : State) (h : Nat) (gen : BitVec 8) (tag k : Nat) :
    getHart (dropFault s h gen tag) k = { getHart s k with faults := (getHart (dropFault s h gen tag) k).faults } := by
  rcases dropFault_cases s h gen tag with ⟨l, e⟩ | ⟨saves, e⟩
  · rw [e]
    by_cases own : k = h
    · rw [own, getHart_modHart_same]
    · rw [getHart_modHart_ne _ _ own]
  · rw [e]
    rfl

/-! ### Refusals -/

/-- The resume forms, each with its engine. -/
def ResumeForm (i : Instr) (d a b : Reg) (kind : EngineKind) : Prop :=
  i = .cpcmdResume d a b ∧ kind = .copy ∨ i = .bkcmdResume d a b ∧ kind = .bulk

theorem resumable_iff (s : State) (core tag : Nat) (kind : EngineKind) :
    resumable s core tag kind = true ↔ ∃ m c, HasCmd s core tag m ∧ m.kind = kind ∧ m.state = .faulted c := by
  unfold resumable HasCmd
  change (match (getCore s core).cmds.find? (fun x => decide (x.tag = tag)) with | some m => _ | none => _) = true ↔ _
  cases (getCore s core).cmds.find? fun x => decide (x.tag = tag) with
  | none => simp
  | some m => cases hs : m.state <;> simp [hs]

/-- Only the stretches of a bulk command must not meet (R101). -/
theorem resume_meets {kind : EngineKind} {dst src : Word} {len : Nat} :
    (decide (kind = .bulk) && bulkOverlap dst src len) = true ↔ kind = .bulk ∧ ¬BulkApart dst src len := by
  rw [Bool.and_eq_true, decide_eq_true_eq, bulkOverlap_iff]

/-- The length and the tag in x[d] of a resume; the bits between them are reserved. -/
def resumeLen (s : State) (d : Reg) : Nat := field (readX (me s) d).toNat 32 32
def resumeTag (s : State) (d : Reg) : Nat := field (readX (me s) d).toNat 0 8

section Resume

variable {i : Instr} {d a b : Reg} {kind : EngineKind} {s : State} (form : ResumeForm i d a b kind)

include form

theorem exec_resume :
    exec i s =
      if isHandler s.cur || decide (field (readX (me s) d).toNat 8 24 ≠ 0) || !resumable s (coreOf s.cur) (resumeTag s d) kind ||
          (decide (kind = .bulk) && bulkOverlap (readX (me s) a) (readX (me s) b) (resumeLen s d)) then illegal s i
      else if decide (kind = .copy) && (decide (resumeLen s d ≠ 0) && decide (2 ≤ (getCore s (coreOf s.cur)).copyQ.length)) then
        waitFor s .copyQueue
      else afterFences s false true (.next (resumeCmd s d (resumeTag s d) (readX (me s) a) (readX (me s) b) (resumeLen s d))) := by
  rcases form with ⟨rfl, rfl⟩ | ⟨rfl, rfl⟩
  · change execCpcmdResume d a b s = _
    rw [show decide (EngineKind.copy = .bulk) = false from rfl, Bool.false_and, Bool.or_false]
    rfl
  · rfl

theorem resume_illegal
    (refused : isHandler s.cur = true ∨ field (readX (me s) d).toNat 8 24 ≠ 0 ∨
      (kind = .bulk ∧ ¬BulkApart (readX (me s) a) (readX (me s) b) (resumeLen s d)) ∨
      ¬resumable s (coreOf s.cur) (resumeTag s d) kind = true) : Illegal s i := by
  refine illegal_of_eq ((exec_resume form).trans (if_pos ?_))
  rw [Bool.or_eq_true, Bool.or_eq_true, Bool.or_eq_true, resume_meets, decide_eq_true_eq, Bool.not_eq_true', ← Bool.not_eq_true]
  tauto

theorem resume_accepted (hart : isHandler s.cur = false) (zero : field (readX (me s) d).toNat 8 24 = 0)
    (apart : kind = .bulk → BulkApart (readX (me s) a) (readX (me s) b) (resumeLen s d))
    (faulted : resumable s (coreOf s.cur) (resumeTag s d) kind = true) :
    exec i s =
      if decide (kind = .copy) && (decide (resumeLen s d ≠ 0) && decide (2 ≤ (getCore s (coreOf s.cur)).copyQ.length)) then
        waitFor s .copyQueue
      else afterFences s false true (.next (resumeCmd s d (resumeTag s d) (readX (me s) a) (readX (me s) b) (resumeLen s d))) := by
  refine (exec_resume form).trans (if_neg ?_)
  rw [Bool.or_eq_true, Bool.or_eq_true, Bool.or_eq_true, resume_meets, hart, faulted]
  simpa [zero] using apart

end Resume

/-! ### A command that goes on -/

/-- A command as a resume with a remainder leaves it; `n` numbers the resume. -/
def resumedCmd (dst src : Word) (len n : Nat) (m : Cmd) : Cmd :=
  { m with
    dst := dst, src := src, len := len, base := m.base + m.moved, moved := 0, acq := none, issue := n, asked := false
    state := if len = 0 then .moved else .queued, abandoned := decide (len = 0) }

/-- The core after the resume: a copy with bytes left enters the engine's queue again. -/
def withResumed (tag : Nat) (dst src : Word) (len n : Nat) (c : Core) : Core :=
  let cmds := c.cmds.map fun m => if m.tag = tag then resumedCmd dst src len n m else m
  { c with
    cmds := cmds
    copyQ := if decide (len ≠ 0) && (cmds.any fun m => decide (m.tag = tag) && decide (m.kind = .copy)) then c.copyQ ++ [tag] else c.copyQ }

/-- The state with its fault record dropped and the command going on. -/
def withGoing (s : State) (tag : Nat) (m : Cmd) (dst src : Word) (len : Nat) : State :=
  modCore (dropFault { s with serial := s.serial + 1 } m.hart m.gen tag) (coreOf s.cur) (withResumed tag dst src len s.serial)

theorem resumeCmd_eq {s : State} {tag : Nat} {m : Cmd} (has : HasCmd s (s.cur / 16) tag m) (d : Reg) (dst src : Word) (len : Nat) :
    resumeCmd s d tag dst src len =
      post (modMe (withGoing s tag m dst src len) fun h => retireHart 4 (writeX h d (BitVec.ofNat 64 tag)))
        (if len = 0 then .engineCommandComplete (coreOf s.cur) tag else .engineCommandStart (coreOf s.cur) tag) := by
  have found : findCmd { s with serial := s.serial + 1 } (coreOf s.cur) tag = some m := has
  simp only [resumeCmd, fresh, found, modCmd, modCore_modCore]
  exact congrArg (fun u => post u _) (modMe_modMe _ _ _)

/-- A command that is the only one of its tag, changed by a function that keeps the tag. -/
theorem cmdNow_map {s t : State} {core tag : Nat} {m : Cmd} {f : Cmd → Cmd} (alone : ∀ y ∈ (getCore s core).cmds, y.tag = tag → y = m)
    (kept : ∀ x, (f x).tag = x.tag)
    (mapped : (getCore t core).cmds = (getCore s core).cmds.map fun x => if x.tag = tag then f x else x) : CmdNow s t core tag (f m) := by
  refine mapped.trans (List.map_congr_left fun x hx => ?_)
  by_cases same : x.tag = tag
  · rw [if_pos same, if_pos same, alone x hx same, ← kept m]
  · rw [if_neg same, if_neg same]

section Going

variable {s : State} {tag : Nat} {m : Cmd} (dst src : Word) (len : Nat)

theorem getHart_withGoing (k : Nat) :
    getHart (withGoing s tag m dst src len) k = { getHart s k with faults := (getHart (withGoing s tag m dst src len) k).faults } :=
  getHart_dropFault { s with serial := s.serial + 1 } m.hart m.gen tag k

theorem faults_withGoing (present : Present s m.hart m.gen) :
    (getHart (withGoing s tag m dst src len) m.hart).faults = withoutTag tag (getHart s m.hart).faults := by
  have dropped := dropFault_present (s := { s with serial := s.serial + 1 }) present tag
  change (getHart (dropFault { s with serial := s.serial + 1 } m.hart m.gen tag) m.hart).faults = _
  rw [dropped, getHart_modHart_same]
  rfl

theorem getCore_withGoing :
    getCore (withGoing s tag m dst src len) (s.cur / 16) = withResumed tag dst src len s.serial (getCore s (s.cur / 16)) := by
  have core : getCore (dropFault { s with serial := s.serial + 1 } m.hart m.gen tag) (s.cur / 16) = getCore s (s.cur / 16) := by
    rw [dropFault_frame]; rfl
  exact (getCore_modCore_same _ _ _).trans (congrArg _ core)

theorem withGoing_frame :
    withGoing s tag m dst src len =
      { s with
        harts := (withGoing s tag m dst src len).harts, cores := (withGoing s tag m dst src len).cores
        saves := (withGoing s tag m dst src len).saves, serial := s.serial + 1 } := by
  unfold withGoing
  rw [dropFault_frame]
  rfl

theorem withGoing_cur : (withGoing s tag m dst src len).cur = s.cur := by rw [withGoing_frame]

theorem me_withGoing : me (withGoing s tag m dst src len) = { me s with faults := (me (withGoing s tag m dst src len)).faults } := by
  unfold me
  rw [withGoing_cur]
  exact getHart_withGoing dst src len s.cur

variable (has : HasCmd s (s.cur / 16) tag m) (d : Reg)

include has

theorem me_resumeCmd :
    me (resumeCmd s d tag dst src len) = retireHart 4 (writeX (me (withGoing s tag m dst src len)) d (BitVec.ofNat 64 tag)) := by
  rw [resumeCmd_eq has, me_post, me_modMe]

/-- x[d] takes the tag, and nothing else of the executing hart changes but its fault queue. -/
theorem resumeCmd_writes :
    (∀ r, readX (me (resumeCmd s d tag dst src len)) r = if r = 0 then 0 else if r = d then BitVec.ofNat 64 tag else readX (me s) r) ∧
      me (resumeCmd s d tag dst src len) = { me s with
        pc := (me s).pc + 4, unit := none, wait := none, met := none, walk := none, x := (me (resumeCmd s d tag dst src len)).x
        xpend := (me (resumeCmd s d tag dst src len)).xpend, poison := (me (resumeCmd s d tag dst src len)).poison
        faults := (me (resumeCmd s d tag dst src len)).faults } := by
  rw [me_resumeCmd dst src len has d, me_withGoing]
  refine ⟨fun r => ?_, ?_⟩
  · rw [readX_retireHart, readX_writeX]
    rfl
  · rw [retireHart_writeX]

theorem getHart_resumeCmd {k : Nat} (other : k ≠ s.cur) :
    getHart (resumeCmd s d tag dst src len) k = getHart (withGoing s tag m dst src len) k := by
  rw [resumeCmd_eq has, getHart_post]
  exact getHart_modMe_ne _ _ (by rwa [withGoing_cur])

theorem faults_resumeCmd (k : Nat) :
    (getHart (resumeCmd s d tag dst src len) k).faults = (getHart (withGoing s tag m dst src len) k).faults := by
  by_cases own : k = s.cur
  · have mine := congrArg Hart.faults (me_resumeCmd dst src len has d)
    rw [retireHart_faults, writeX_faults] at mine
    unfold me at mine
    rwa [withGoing_cur, show (resumeCmd s d tag dst src len).cur = s.cur by rw [resumeCmd_eq has]; exact withGoing_cur dst src len,
      ← own] at mine
  · rw [getHart_resumeCmd dst src len has d own]

/-- No other hart changes but for its fault queue, and the record of the command leaves the queue of the hart that gave it. -/
theorem resumeCmd_faults :
    (∀ k, k ≠ s.cur → getHart (resumeCmd s d tag dst src len) k =
      { getHart s k with faults := (getHart (resumeCmd s d tag dst src len) k).faults }) ∧
      (Present s m.hart m.gen → (getHart (resumeCmd s d tag dst src len) m.hart).faults = withoutTag tag (getHart s m.hart).faults) := by
  refine ⟨fun k other => ?_, fun present => ?_⟩
  · rw [getHart_resumeCmd dst src len has d other]
    exact getHart_withGoing dst src len k
  · rw [faults_resumeCmd dst src len has d, faults_withGoing dst src len present]

theorem resumeCmd_cmdNow (alone : ∀ y ∈ (getCore s (s.cur / 16)).cmds, y.tag = tag → y = m) :
    CmdNow s (resumeCmd s d tag dst src len) (s.cur / 16) tag (resumedCmd dst src len s.serial m) := by
  refine cmdNow_map alone (fun _ => rfl) ?_
  rw [resumeCmd_eq has, getCore_post, getCore_modMe, getCore_withGoing]
  rfl

theorem resumeCmd_frame :
    resumeCmd s d tag dst src len = { s with
      harts := (resumeCmd s d tag dst src len).harts, cores := (resumeCmd s d tag dst src len).cores
      saves := (resumeCmd s d tag dst src len).saves, serial := s.serial + 1
      agenda := s.agenda ++ [if len = 0 then .engineCommandComplete (s.cur / 16) tag else .engineCommandStart (s.cur / 16) tag] } := by
  rw [resumeCmd_eq has, withGoing_frame]
  rfl

end Going

/-! ### The statement -/

theorem engineResume : EngineResume := by
  intro i d a b kind s form core x tag dst src len apart full
  have tagIs : resumeTag s d = tag := field_low x 8
  have lenIs : resumeLen s d = len := field_top (readX (me s) d) 32 rfl
  have apart_iff : apart ↔ (kind = .bulk → BulkApart dst src len) := by
    rcases form with ⟨-, rfl⟩ | ⟨-, rfl⟩
    · simp [apart]
    · simp [apart, BulkApart]
  have full_iff : (decide (kind = .copy) && (decide (len ≠ 0) && decide (2 ≤ (getCore s core).copyQ.length))) = true ↔ full := by
    rw [Bool.and_eq_true, Bool.and_eq_true, decide_eq_true_eq, decide_eq_true_eq, decide_eq_true_eq]
  have faulted_iff := resumable_iff s core tag kind
  refine ⟨fun refused => resume_illegal form ?_, fun m c hart zero separate has kindIs faulted => ?_⟩
  · rw [tagIs, lenIs]
    refine refused.imp_right (.imp_right (.imp (fun meets => ?_) fun none' => ?_))
    · rwa [apart_iff, Classical.not_imp] at meets
    · rintro ok
      obtain ⟨m, c, has, kindIs, faulted⟩ := faulted_iff.mp ok
      exact (none' m has).elim (fun h => h kindIs) fun h => h c faulted
  · have answer := resume_accepted form hart zero (by rw [lenIs]; exact apart_iff.mp separate)
      (by rw [tagIs]; exact faulted_iff.mpr ⟨m, c, has, kindIs, faulted⟩)
    rw [tagIs, lenIs] at answer
    refine ⟨fun isFull => ?_, fun room unfenced alone => ?_⟩
    · have waiting : exec i s = waitFor s .copyQueue := answer.trans (if_pos (full_iff.mpr isFull))
      rw [waiting]
      exact waits_waitFor s .copyQueue
    · have taken := answer.trans ((if_neg (mt full_iff.mp room)).trans (afterFences_unfenced unfenced false true _))
      obtain ⟨reads, mine⟩ := resumeCmd_writes dst src len has d
      obtain ⟨others, dropped⟩ := resumeCmd_faults dst src len has d
      exact ⟨_, taken, reads, mine, others, dropped, resumeCmd_cmdNow dst src len has d alone, resumeCmd_frame dst src len has d⟩

end Sys2Proof.Proofs
end

section
/-!
PROOFS. CPSTAT and TWAIT (R97, R100, R406).
-/

namespace Sys2Proof.Proofs

open Sys2Proof Sys2Proof.Machine Sys2Proof.Claims

/-! ### The state word of a tag -/

/-- State and fault code of a command, as bits 15 to 0 of its state word. -/
def statusOf : CmdState → Nat
  | .queued => 1
  | .running | .moved | .flushing => 2
  | .faulted c => 3 + 256 * c.toNat
  | .suspended => 4

theorem cmdStatus_some {s : State} {core tag : Nat} {m : Cmd} (has : HasCmd s core tag m) :
    cmdStatus (getCore s core) tag = BitVec.ofNat 64 (statusOf m.state + 2 ^ 24 * ((m.base + m.moved) % 2 ^ 40)) := by
  unfold cmdStatus
  rw [show (getCore s core).cmds.find? (fun x => decide (x.tag = tag)) = some m from has]
  cases hs : m.state <;> simp only [hs, statusOf]

theorem find_tag_none {c : Core} {tag : Nat} (free : ∀ m ∈ c.cmds, m.tag ≠ tag) : c.cmds.find? (fun x => decide (x.tag = tag)) = none :=
  List.find?_eq_none.mpr fun m hm found => free m hm (of_decide_eq_true found)

theorem cmdStatus_none {c : Core} {tag : Nat} (free : ∀ m ∈ c.cmds, m.tag ≠ tag) : cmdStatus c tag = 0 := by
  rw [cmdStatus, find_tag_none free]

theorem statusOf_lt (st : CmdState) : statusOf st < 2 ^ 16 := by
  cases st with
  | faulted c => have := c.isLt; simp only [statusOf]; omega
  | _ => decide

/-- The fields of a state word. -/
theorem status_fields {st n : Nat} (small : st < 2 ^ 16) :
    (BitVec.ofNat 64 (st + 2 ^ 24 * (n % 2 ^ 40))).toNat % 8 = st % 8 ∧
      (BitVec.ofNat 64 (st + 2 ^ 24 * (n % 2 ^ 40))).toNat / 2 ^ 8 % 2 ^ 8 = st / 256 ∧
      (BitVec.ofNat 64 (st + 2 ^ 24 * (n % 2 ^ 40))).toNat / 2 ^ 24 = n % 2 ^ 40 ∧
      (BitVec.ofNat 64 (st + 2 ^ 24 * (n % 2 ^ 40))).toNat / 8 % 32 = st / 8 % 32 ∧
      (BitVec.ofNat 64 (st + 2 ^ 24 * (n % 2 ^ 40))).toNat / 2 ^ 16 % 2 ^ 8 = 0 := by
  have moved : n % 2 ^ 40 < 2 ^ 40 := Nat.mod_lt _ (by decide)
  have whole : (BitVec.ofNat 64 (st + 2 ^ 24 * (n % 2 ^ 40))).toNat = st + 2 ^ 24 * (n % 2 ^ 40) := by
    rw [BitVec.toNat_ofNat]
    exact Nat.mod_eq_of_lt (by omega)
  rw [whole]
  omega

theorem statusOf_state (st : CmdState) :
    statusOf st % 8 = (match st with | .queued => 1 | .faulted _ => 3 | .suspended => 4 | _ => 2) ∧
      statusOf st / 256 = (match st with | .faulted f => f.toNat | _ => 0) ∧ statusOf st / 8 % 32 = 0 := by
  cases st with
  | faulted c => have := c.isLt; simp only [statusOf]; omega
  | _ => exact ⟨rfl, rfl, rfl⟩

/-! ### What TWAIT has waited for -/

/-- The hart with the release scope of the command that it waits for noted. -/
def meeting (c : Core) (tag : Nat) (h : Hart) : Hart :=
  { h with met := some (.tag tag (((c.cmds.find? fun x => decide (x.tag = tag)).map (·.rel)).getD .core)) }

theorem meeting_has {s : State} {core tag : Nat} {m : Cmd} (has : HasCmd s core tag m) :
    meeting (getCore s core) tag = fun h => { h with met := some (.tag tag m.rel) } := by
  unfold meeting
  rw [show (getCore s core).cmds.find? (fun x => decide (x.tag = tag)) = some m from has]
  rfl

/-- The scope at which TWAIT acquires once its tag is complete: that of the command it waited for, otherwise core. -/
def metScope (h : Hart) (tag : Nat) : Scope :=
  match h.met with
  | some (.tag t sc) => if t = tag then sc else .core
  | _ => .core

theorem metScope_met {h : Hart} {tag : Nat} {sc : Scope} (met : h.met = some (.tag tag sc)) : metScope h tag = sc := by
  simp only [metScope, met, if_true]

theorem acquireAt_wide (s : State) (g : Nat) {sc : Scope} (wide : 2 ≤ sc.code.toNat) :
    acquireAt s g sc = modCore s g fun c => { c with l1 := [] } := if_pos (decide_eq_true wide)

theorem coreFrame_acquire (s : State) (sc : Scope) (f : Hart → Hart) : CoreFrame s (modMe (acquireAt s (coreOf s.cur) sc) f) := by
  unfold acquireAt
  split
  · exact coreFrame_modMe_modCore s _ f
  · exact ⟨rfl, fun _ _ => rfl, fun _ hk => getHart_modMe_ne s f hk⟩

theorem done_acquire (s : State) (sc : Scope) : Done s (modMe (acquireAt s (coreOf s.cur) sc) (retireHart 4)) := by
  unfold Done
  rw [me_modMe, acquireAt_frame]
  rfl

theorem getCore_acquire (s : State) (f : Hart → Hart) {sc : Scope} (wide : 2 ≤ sc.code.toNat) :
    getCore (modMe (acquireAt s (coreOf s.cur) sc) f) (s.cur / 16) = { getCore s (s.cur / 16) with l1 := [] } := by
  rw [acquireAt_wide s _ wide]
  exact getCore_modMe_modCore s _ _ _

/-! ### CPSTAT -/

section Status

variable {s : State} {a : Reg} (hart : isHandler s.cur = false) (small : (readX (me s) a).toNat < 256)

/-- More than a tag, and the handler context, are refused. -/
theorem status_illegal {i : Instr} {d : Reg} (hi : i = .cpstat d a ∨ i = .twait a)
    (bad : isHandler s.cur = true ∨ 256 ≤ (readX (me s) a).toNat) : Illegal s i := by
  have refused : (isHandler s.cur || decide (256 ≤ (readX (me s) a).toNat)) = true := by
    rw [Bool.or_eq_true, decide_eq_true_eq]
    exact bad
  rcases hi with rfl | rfl
  · exact illegal_of_eq (if_pos refused)
  · exact illegal_of_eq (if_pos refused)

include hart small

theorem status_accepted : ¬(isHandler s.cur || decide (256 ≤ (readX (me s) a).toNat)) = true := by
  simp [hart, small]

theorem cpstat_reads (d : Reg) {v : Word} (status : cmdStatus (getCore s (s.cur / 16)) (readX (me s) a).toNat = v) :
    ∃ t, exec (.cpstat d a) s = .next t ∧ DoneWith s t d v ∧ t = { s with harts := t.harts } := by
  subst status
  exact ⟨_, if_neg (status_accepted hart small), doneWith_modMe s d _, rfl⟩

/-! ### TWAIT -/

theorem exec_twait :
    exec (.twait a) s =
      if tagBusy (getCore s (coreOf s.cur)) (readX (me s) a).toNat then
        waitFor (modMe s (meeting (getCore s (coreOf s.cur)) (readX (me s) a).toNat)) (.tag (readX (me s) a).toNat)
      else done4 (acquireAt s (coreOf s.cur) (metScope (me s) (readX (me s) a).toNat)) := if_neg (status_accepted hart small)

theorem twait_free (free : ∀ m ∈ (getCore s (s.cur / 16)).cmds, m.tag ≠ (readX (me s) a).toNat) :
    ∃ t, exec (.twait a) s = .next t ∧ Done s t ∧ CoreFrame s t ∧
      ∀ sc, (me s).met = some (.tag (readX (me s) a).toNat sc) → 2 ≤ sc.code.toNat → (getCore t (s.cur / 16)).l1 = [] := by
  have idle : ¬tagBusy (getCore s (coreOf s.cur)) (readX (me s) a).toNat = true := by
    rw [Bool.not_eq_true]
    exact List.any_eq_false.mpr fun m hm busy => free m hm (of_decide_eq_true busy)
  refine ⟨_, (exec_twait hart small).trans (if_neg idle), ?_, coreFrame_acquire s _ _, fun sc met wide => ?_⟩
  · exact done_acquire s _
  · rw [metScope_met met]
    exact congrArg Core.l1 (getCore_acquire s (retireHart 4) wide)

theorem twait_busy {m : Cmd} (has : HasCmd s (s.cur / 16) (readX (me s) a).toNat m) :
    ∃ t, exec (.twait a) s = .next t ∧ OnlyMe s t ∧
      me t = { me s with met := some (.tag (readX (me s) a).toNat m.rel), wait := some (.tag (readX (me s) a).toNat) } := by
  have tagged := List.find?_some (p := fun x : Cmd => decide (x.tag = (readX (me s) a).toNat)) has
  have busy : tagBusy (getCore s (coreOf s.cur)) (readX (me s) a).toNat = true :=
    List.any_eq_true.mpr ⟨m, List.mem_of_find?_eq_some has, tagged⟩
  have met : meeting (getCore s (coreOf s.cur)) (readX (me s) a).toNat = _ := meeting_has has
  have answer := (exec_twait hart small).trans (if_pos busy)
  rw [met, waitFor, modMe_modMe] at answer
  exact ⟨_, answer, onlyMe_modMe s _, me_modMe s _⟩

end Status

/-! ### The statement -/

theorem engineStatus : EngineStatus := by
  refine ⟨fun s i d a hi bad => status_illegal hi bad, fun s hart => ⟨fun d a small => ⟨fun free => ?_, fun m has => ?_⟩, fun a small => ?_⟩⟩
  · exact cpstat_reads hart small d (cmdStatus_none free)
  · obtain ⟨t, answer, done, frame⟩ := cpstat_reads hart small d (cmdStatus_some has)
    obtain ⟨low, code, moved, middle, high⟩ := status_fields (n := m.base + m.moved) (statusOf_lt m.state)
    obtain ⟨state, fault, clear⟩ := statusOf_state m.state
    exact ⟨t, _, answer, done, frame, low.trans state, code.trans fault, moved, middle.trans clear, high⟩
  · exact ⟨fun free => twait_free hart small free, fun m has => twait_busy hart small has⟩

/-- Settles O36: every form is refused, waits, or is taken, and the state of a tag is what its command says. -/
theorem engineInstructions : Obligations.EngineInstructions := ⟨engineIssue, engineResume, engineStatus⟩

end Sys2Proof.Proofs
end

section
/-!
PROOFS. Commands that the host does not answer (R274), against what O37 says of them. A command that stops with a fault asks for its next piece
again when it is resumed, so the mark that the DRAM requests of that piece have been made goes with its state (R98, R99, R278).
-/

namespace Sys2Proof.Proofs

open Sys2Proof Sys2Proof.Machine Sys2Proof.Claims

/-- The copy under way reads device memory, so what has not come in time is its source. -/
theorem completionTimeout_copyUnderWay :
    exec (.completionTimeout 0 5) copyUnderWay = .next (faultCmd copyUnderWay 0 5 0x26 0x10000000080) := rfl

/-- Refutes O37: its clause on COMPLETION_TIMEOUT lets the stopped command keep everything but its state, so also the mark that its DRAM
requests have been made, which every fault clears. -/
theorem not_engineRuns : ¬ Obligations.EngineRuns := by
  unfold Obligations.EngineRuns Claims.EngineFaults
  rintro ⟨-, -, timeout, -⟩
  have alone : ∀ y ∈ (getCore copyUnderWay 0).cmds, y.tag = 5 → y = copyAsked := fun y hy _ => List.mem_singleton.mp hy
  obtain ⟨t, side, ht, -, -, now, -⟩ := timeout 0 5 copyUnderWay copyAsked rfl (.inl rfl) ⟨rfl, rfl⟩ alone
  rw [completionTimeout_copyUnderWay, Host.Outcome.next.injEq] at ht
  subst ht
  have kept : [{ copyAsked with state := .faulted 0x26, asked := false }] = [{ copyAsked with state := .faulted 0x26 }] :=
    faultCmd_copyUnderWay.symm.trans now
  exact absurd kept (by decide)

end Sys2Proof.Proofs
end

section
/-!
PROOFS. How a write reaches the views (R108, R109, R121 to R125): what one write leaves in each view, and what O9 and O43 say of the writes
that a die's agents perform, that travel, that become visible in all views at once, and that settle a unit.
-/

namespace Sys2Proof.Proofs

open Sys2Proof Sys2Proof.Machine Sys2Proof.Claims

/-! ### A write in one view -/

theorem mapGet_putBytes (m : SMap Byte) (key : Nat) (bs : List Byte) (k : Nat) :
    mapGet 0 (putBytes m key bs) k = if key ≤ k ∧ k < key + bs.length then bs.getD (k - key) 0 else mapGet 0 m k := by
  split
  · next within =>
    obtain ⟨i, rfl⟩ := Nat.exists_eq_add_of_le within.1
    have inside : i < bs.length := by omega
    rw [mapGet_putBytes_inside _ _ _ _ inside, Nat.add_sub_cancel_left, List.getD_eq_getElem _ _ inside]
  · next without => exact mapGet_putBytes_outside _ _ _ _ (by omega)

theorem storedIn_applyView (s : State) (die key : Nat) (bs : List Byte) : StoredIn s (applyView s die key bs) die key bs := by
  refine ⟨fun e k => ?_, rfl⟩
  by_cases own : e = die
  · subst own
    rw [viewByte, applyView, viewOf_setView_same, mapGet_putBytes]
    simp only [true_and]
    rfl
  · rw [if_neg fun within => own within.1]
    exact viewByte_applyView_other s key bs k own

/-- A write that needs no other key for its line is a plain write of its bytes (R109). -/
theorem applyUnder_sameKey {s : State} {die key : Nat} {u : LineKey} (bs : List Byte) (h : isDram key = false ∨ lineKeyOf s die key = u) :
    applyUnder s die key bs u = applyView s die key bs := by
  unfold applyUnder
  rw [if_pos (by rcases h with h | h <;> simp [h])]

theorem storedIn_applyUnder {s : State} {die key : Nat} {u : LineKey} (bs : List Byte) (h : isDram key = false ∨ lineKeyOf s die key = u) :
    StoredIn s (applyUnder s die key bs u) die key bs := by
  rw [applyUnder_sameKey bs h]
  exact storedIn_applyView s die key bs

/-- What stands in the views depends on the views and on the memory outside alone. -/
theorem storedIn_congr {s t s' t' : State} {die key : Nat} {bs : List Byte} (stored : StoredIn s t die key bs) (before : s'.views = s.views)
    (after : t'.views = t.views) (outBefore : s'.outer = s.outer) (outAfter : t'.outer = t.outer) : StoredIn s' t' die key bs := by
  unfold StoredIn viewByte viewOf
  rw [before, after, outBefore, outAfter]
  exact stored

/-! ### A write that an agent performs -/

/-- A key of on-chip memory, or of a DRAM line that holds plaintext, is not outside the device and needs no other key (R109). -/
theorem plainKey_inside {s : State} {die key : Nat} (h : key < 0x100000000000000 ∨ (key < 0x10000000000000000 ∧ lineKeyOf s die key = .plain)) :
    isOuter key = false ∧ (isDram key = false ∨ lineKeyOf s die key = .plain) := by
  unfold isOuter isDram dramBase outerBase
  rcases h with chip | ⟨dram, plain⟩
  · exact ⟨by simp; omega, .inl (by simp; omega)⟩
  · exact ⟨by simp; omega, .inr plain⟩

/-- Settles O9: the bytes are put in the view of the writer's die, and the three flights sent leave the views alone. -/
theorem writeThenRead : Obligations.WriteThenRead := by
  intro s die h key bs place
  obtain ⟨inside, plain⟩ := plainKey_inside place
  unfold performWrite performUnder
  rw [if_neg (by simp [inside]), if_neg (by simp)]
  exact storedIn_congr (storedIn_applyUnder bs plain) rfl (by simp) rfl (by simp)

/-! ### The flights of a write -/

/-- A write of one die to another: its flight and the event that lands it. -/
theorem sendFlight_sends (src key : Nat) (bs : List Byte) (p : PageProp) (u : LineKey) (seq : Nat) (st : Stamp) (s : State) {dst : Nat}
    (h : dst ≠ src) : sendFlight src key bs p u seq st s dst =
      { s with
        serial := s.serial + 1, flights := s.flights ++ [⟨s.serial, src, dst, seq, st, key, bs, p, u⟩]
        agenda := s.agenda ++ [.remoteWriteApply s.serial] } := by
  unfold sendFlight
  rw [if_neg h]
  rfl

/-- A die to which a flight of a write is on its way, and the event that lands it. -/
def OnItsWay (f : Flight) (src key : Nat) (bs : List Byte) (p : PageProp) (t : State) (d : Nat) : Prop :=
  f.src = src ∧ f.dst = d ∧ f.key = key ∧ f.bytes = bs ∧ f.prop = p ∧ .remoteWriteApply f.id ∈ t.agenda

/-- The flights of a write to some dies follow those under way, and one of them goes to each die but the writer's. -/
theorem foldl_sendFlight_sent (src key : Nat) (bs : List Byte) (p : PageProp) (u : LineKey) (seq : Nat) (st : Stamp) (ds : List Nat) (s : State) :
    ∃ sent, (ds.foldl (sendFlight src key bs p u seq st) s).flights = s.flights ++ sent ∧
      (∀ e ∈ s.agenda, e ∈ (ds.foldl (sendFlight src key bs p u seq st) s).agenda) ∧
      ∀ d ∈ ds, d ≠ src → ∃ f ∈ sent, OnItsWay f src key bs p (ds.foldl (sendFlight src key bs p u seq st) s) d := by
  induction ds generalizing s with
  | nil => exact ⟨[], (List.append_nil _).symm, fun _ h => h, fun _ h => absurd h List.not_mem_nil⟩
  | cons dst ds ih =>
    rw [List.foldl_cons]
    by_cases own : dst = src
    · have same : sendFlight src key bs p u seq st s dst = s := if_pos own
      obtain ⟨sent, flights, kept, each⟩ := ih s
      rw [same]
      refine ⟨sent, flights, kept, fun d hd away => ?_⟩
      rcases List.mem_cons.mp hd with rfl | hd
      · exact absurd own away
      · exact each d hd away
    · rw [sendFlight_sends _ _ _ _ _ _ _ _ own]
      obtain ⟨sent, flights, kept, each⟩ := ih
        { s with
          serial := s.serial + 1, flights := s.flights ++ [⟨s.serial, src, dst, seq, st, key, bs, p, u⟩]
          agenda := s.agenda ++ [.remoteWriteApply s.serial] }
      refine ⟨⟨s.serial, src, dst, seq, st, key, bs, p, u⟩ :: sent, by rw [flights, List.append_assoc]; rfl,
        fun e he => kept e (List.mem_append_left _ he), fun d hd away => ?_⟩
      rcases List.mem_cons.mp hd with rfl | hd
      · exact ⟨_, List.mem_cons_self, rfl, rfl, rfl, rfl, rfl, kept _ (List.mem_append_right _ (List.mem_singleton.mpr rfl))⟩
      · obtain ⟨f, hf, way⟩ := each d hd away
        exact ⟨f, List.mem_cons_of_mem _ hf, way⟩

/-! ### What follows a write that has landed -/

/-- Barriers that complete and dies that are sent the home's value change these parts of the state alone (R123, R339). -/
def OnlyAftermath (s t : State) : Prop :=
  t = { s with agenda := t.agenda, harts := t.harts, cores := t.cores, barriers := t.barriers }

theorem OnlyAftermath.refl (s : State) : OnlyAftermath s s := rfl

theorem OnlyAftermath.trans {s t u : State} (a : OnlyAftermath s t) (b : OnlyAftermath t u) : OnlyAftermath s u := by
  unfold OnlyAftermath at *
  rw [b, a]

theorem OnlyAftermath.foldl {α : Type} (f : State → α → State) (hf : ∀ s a, OnlyAftermath s (f s a)) (l : List α) (s : State) :
    OnlyAftermath s (l.foldl f s) := by
  induction l generalizing s with
  | nil => exact .refl s
  | cons a l ih => exact (hf s a).trans (ih _)

theorem onlyAftermath_settleUnit (s : State) (key : Nat) : OnlyAftermath s (settleUnit s key) :=
  .foldl _ (fun s d => (rfl : OnlyAftermath s (post s (.settleWrite d key)))) _ s

theorem onlyAftermath_of_onlyCores {s t : State} (h : OnlyCores s t) : OnlyAftermath s t := by
  unfold OnlyCores at h
  unfold OnlyAftermath
  rw [h]

theorem onlyAftermath_depart (sc : Scope) (s : State) (h : Nat) : OnlyAftermath s (depart sc s h) :=
  (onlyAftermath_of_onlyCores (acquireAt_frame s (coreOf h) sc)).trans rfl

theorem onlyAftermath_settleBarriers (s : State) : OnlyAftermath s (settleBarriers s) := by
  unfold settleBarriers
  refine OnlyAftermath.trans (t := { s with barriers := s.barriers.filter (·.arrived ≠ []) }) rfl (.foldl _ (fun s b => ?_) _ _)
  split
  · exact OnlyAftermath.trans (t := { s with barriers := s.barriers.filter (· ≠ b) }) rfl (.foldl _ (onlyAftermath_depart b.scope) _ _)
  · exact .refl s

/-- A flight that has been applied: its write has landed, it is counted unless its page is REPL, and no view changes beyond that. -/
theorem applyFlight_frame (s : State) (f : Flight) :
    let landed := landWrite { s with flights := s.flights.filter (·.id ≠ f.id) } f.dst f.key f.bytes f.under
    OnlyAftermath (if f.prop = .repl then landed else setStamp landed f.dst ((stampOf landed f.dst).set f.src f.seq)) (applyFlight s f) :=
  (OnlyAftermath.foldl settleUnit onlyAftermath_settleUnit _ _).trans (onlyAftermath_settleBarriers _)

/-! ### A flight that arrives -/

/-- The write of a flight, applied where it arrives. -/
def flightApplied (s : State) (f : Flight) : State := applyView { s with flights := s.flights.filter (·.id ≠ f.id) } f.dst f.key f.bytes

theorem landWrite_memory {s : State} {f : Flight} (memory : f.key ≠ ptrootKey) (sameKey : isDram f.key = false ∨ lineKeyOf s f.dst f.key = f.under) :
    landWrite { s with flights := s.flights.filter (·.id ≠ f.id) } f.dst f.key f.bytes f.under = flightApplied s f := by
  unfold landWrite
  rw [if_neg memory]
  exact applyUnder_sameKey f.bytes sameKey

section Arrival
variable {n : Nat} {s : State} {f : Flight} (found : s.flights.find? (fun x => x.id = n) = some f)
include found

theorem exec_arrival : exec (.remoteWriteApply n) s =
    .next (if flightDue s f then applyFlight s f else post s (.remoteWriteApply n)) := by
  change execRemoteWriteApply n s = _
  unfold execRemoteWriteApply
  rw [found]

theorem arrival_id : f.id = n := by simpa using List.find?_some found

theorem arrival_waits (held : flightDue s f = false) :
    ∃ t, exec (.remoteWriteApply n) s = .next t ∧ t = { s with agenda := s.agenda ++ [.remoteWriteApply n] } :=
  ⟨_, by rw [exec_arrival found, held]; rfl, rfl⟩

theorem arrival_applied (due : flightDue s f = true) : exec (.remoteWriteApply n) s = .next (applyFlight s f) := by
  rw [exec_arrival found, due]
  rfl

theorem arrival_counted (notRepl : f.prop ≠ .repl) (due : f.stamp.le (stampOf s f.dst) = true) (memory : f.key ≠ ptrootKey)
    (sameKey : isDram f.key = false ∨ lineKeyOf s f.dst f.key = f.under) :
    ∃ t, exec (.remoteWriteApply n) s = .next t ∧ StoredIn s t f.dst f.key f.bytes ∧ t.ptroot = s.ptroot ∧
      t.flights = s.flights.filter (fun x => x.id ≠ n) ∧ stampOf t f.dst = (stampOf s f.dst).set f.src f.seq ∧
      ∀ d, d ≠ f.dst → stampOf t d = stampOf s d := by
  have after := applyFlight_frame s f
  simp only [landWrite_memory memory sameKey, if_neg notRepl] at after
  have stored : StoredIn s (flightApplied s f) f.dst f.key f.bytes := storedIn_congr (storedIn_applyView _ _ _ _) rfl rfl rfl rfl
  refine ⟨_, arrival_applied found (by unfold flightDue; rw [if_neg notRepl]; exact due), ?_⟩
  rw [after]
  refine ⟨storedIn_congr stored rfl rfl rfl rfl, rfl, by rw [← arrival_id found]; rfl, ?_, fun d away => ?_⟩
  · exact stampOf_setStamp_same (flightApplied s f) _ _
  · exact mapGet_mapPut_ne _ _ _ away

theorem arrival_ptroot (notRepl : f.prop ≠ .repl) (due : f.stamp.le (stampOf s f.dst) = true) (root : f.key = ptrootKey) :
    ∃ t, exec (.remoteWriteApply n) s = .next t ∧ t.views = s.views ∧
      (∀ d, ptrootOf t d = if d = f.dst then BitVec.ofNat 64 (leNat f.bytes) else ptrootOf s d) ∧
      t.flights = s.flights.filter (fun x => x.id ≠ n) ∧ stampOf t f.dst = (stampOf s f.dst).set f.src f.seq := by
  have after := applyFlight_frame s f
  have landed : landWrite { s with flights := s.flights.filter (·.id ≠ f.id) } f.dst f.key f.bytes f.under =
      setPtroot { s with flights := s.flights.filter (·.id ≠ f.id) } f.dst (leWord f.bytes) := if_pos root
  simp only [landed, if_neg notRepl] at after
  refine ⟨_, arrival_applied found (by unfold flightDue; rw [if_neg notRepl]; exact due), ?_⟩
  rw [after]
  refine ⟨rfl, fun d => mapGet_mapPut _ _ _ _ _, by rw [← arrival_id found]; rfl, ?_⟩
  exact stampOf_setStamp_same (setPtroot { s with flights := s.flights.filter (·.id ≠ f.id) } f.dst (leWord f.bytes)) _ _

theorem arrival_uncounted (repl : f.prop = .repl) (due : flightDue s f = true) (memory : f.key ≠ ptrootKey)
    (sameKey : isDram f.key = false ∨ lineKeyOf s f.dst f.key = f.under) :
    ∃ t, exec (.remoteWriteApply n) s = .next t ∧ StoredIn s t f.dst f.key f.bytes ∧
      t.flights = s.flights.filter (fun x => x.id ≠ n) ∧ ∀ d, stampOf t d = stampOf s d := by
  have after := applyFlight_frame s f
  simp only [landWrite_memory memory sameKey, if_pos repl] at after
  have stored : StoredIn s (flightApplied s f) f.dst f.key f.bytes := storedIn_congr (storedIn_applyView _ _ _ _) rfl rfl rfl rfl
  refine ⟨_, arrival_applied found due, ?_⟩
  rw [after]
  exact ⟨storedIn_congr stored rfl rfl rfl rfl, by rw [← arrival_id found]; rfl, fun _ => rfl⟩

end Arrival

/-- A write to a REPL page waits for the earlier writes of its sender to the same bytes (R125). -/
theorem flightDue_repl {s : State} {f : Flight} (repl : f.prop = .repl) :
    flightDue s f = false ↔ ∃ g ∈ s.flights, g.src = f.src ∧ g.dst = f.dst ∧ g.prop = .repl ∧ g.id < f.id ∧
      g.key < f.key + f.bytes.length ∧ f.key < g.key + g.bytes.length := by
  unfold flightDue
  rw [if_pos repl]
  simp [overlap, and_assoc]

/-! ### A write to a REPL page -/

theorem performWrite_repl {s : State} {die h key : Nat} {bs : List Byte}
    (place : key < 0x100000000000000 ∨ (key < 0x10000000000000000 ∧ lineKeyOf s die key = .plain)) :
    performWrite s die h key bs .repl false = sendFlights (applyView s die key bs) die key bs .repl .plain 0 (stampOf s die) := by
  obtain ⟨inside, plain⟩ := plainKey_inside place
  unfold performWrite performUnder
  rw [if_neg (by simp [inside]), if_neg (by simp)]
  exact congrArg (sendFlights · die key bs .repl .plain 0 (stampOf s die)) (applyUnder_sameKey bs plain)

theorem sendFlight_counts (src key : Nat) (bs : List Byte) (p : PageProp) (u : LineKey) (seq : Nat) (st : Stamp) (s : State) (d : Nat) :
    (sendFlight src key bs p u seq st s d).stamps = s.stamps ∧ (sendFlight src key bs p u seq st s d).mca = s.mca := by
  unfold sendFlight
  split <;> exact ⟨rfl, rfl⟩

theorem sendFlights_counts (s : State) (src key : Nat) (bs : List Byte) (p : PageProp) (u : LineKey) (seq : Nat) (st : Stamp) :
    (sendFlights s src key bs p u seq st).stamps = s.stamps ∧ (sendFlights s src key bs p u seq st).mca = s.mca := by
  simp [sendFlights, sendFlight_counts]

theorem replWrite_sent {s : State} {die : Nat} (h key : Nat) (bs : List Byte)
    (place : key < 0x100000000000000 ∨ (key < 0x10000000000000000 ∧ lineKeyOf s die key = .plain)) :
    let t := performWrite s die h key bs .repl false
    StoredIn s t die key bs ∧ t.stamps = s.stamps ∧ t.mca = s.mca ∧ ∃ sent, t.flights = s.flights ++ sent ∧
      ∀ d < 4, d ≠ die → ∃ f ∈ sent, OnItsWay f die key bs .repl t d := by
  rw [performWrite_repl place]
  obtain ⟨sent, flights, -, each⟩ := foldl_sendFlight_sent die key bs .repl .plain 0 (stampOf s die) [0, 1, 2, 3] (applyView s die key bs)
  obtain ⟨stamps, mca⟩ := sendFlights_counts (applyView s die key bs) die key bs .repl .plain 0 (stampOf s die)
  refine ⟨storedIn_congr (storedIn_applyView s die key bs) rfl (by simp) rfl (by simp), stamps, mca, sent, flights, fun d hd => each d ?_⟩
  simp only [List.mem_cons, List.not_mem_nil, or_false]
  omega

/-! ### An MCA write that becomes visible -/

theorem applyEverywhere_sameKey {s : State} {key : Nat} {u : LineKey} (bs : List Byte)
    (h : isDram key = false ∨ ∀ d < 4, lineKeyOf s d key = u) : applyEverywhere s key bs u = applyAll s key bs := by
  have same (t : State) {d : Nat} (hd : d < 4) (keys : t.lineKeys = s.lineKeys) : applyUnder t d key bs u = applyView t d key bs :=
    applyUnder_sameKey bs (h.imp_right fun all => by unfold lineKeyOf; rw [keys]; exact all d hd)
  unfold applyEverywhere applyAll
  rw [same s (d := 0) (by decide) rfl, same (applyView s 0 key bs) (d := 1) (by decide) rfl,
    same (applyView (applyView s 0 key bs) 1 key bs) (d := 2) (by decide) rfl]
  exact same _ (by decide) rfl

theorem viewByte_applyAll {d : Nat} (hd : d < 4) (s : State) (key : Nat) (bs : List Byte) (k : Nat) :
    viewByte (applyAll s key bs) d k = if key ≤ k ∧ k < key + bs.length then bs.getD (k - key) 0 else viewByte s d k := by
  rw [viewByte, viewOf_applyAll hd, mapGet_putBytes]
  rfl

/-- The one MCA write under way waits only for what the view of its die held (R124). -/
theorem mcaDue_alone {s : State} {w : McaWrite} (alone : s.mca = [w]) : mcaDue s w = viewSettled s (w.stamp.join (stampOf s w.die)) := by
  unfold mcaDue
  rw [alone]
  simp

theorem exec_mcaWrite {n : Nat} {s : State} {w : McaWrite} (noFlight : ∀ f ∈ s.flights, f.id ≠ n) (alone : s.mca = [w]) (named : w.id = n) :
    exec (.remoteWriteApply n) s =
      .next (if viewSettled s (w.stamp.join (stampOf s w.die)) then applyMca s w else post s (.remoteWriteApply n)) := by
  have absent : s.flights.find? (fun x => x.id = n) = none := List.find?_eq_none.mpr fun f hf => by simpa using noFlight f hf
  change execRemoteWriteApply n s = _
  unfold execRemoteWriteApply
  rw [absent, alone, ← mcaDue_alone alone]
  simp [named]

theorem applyMca_visible {s : State} {w : McaWrite} (alone : s.mca = [w])
    (sameKey : isDram w.key = false ∨ ∀ d < 4, lineKeyOf s d w.key = w.under) :
    (applyMca s w).mca = [] ∧ (applyMca s w).outer = s.outer ∧ ∀ d < 4, ∀ k, viewByte (applyMca s w) d k =
      if w.key ≤ k ∧ k < w.key + w.bytes.length then w.bytes.getD (k - w.key) 0 else viewByte s d k := by
  have gone : s.mca.filter (·.id ≠ w.id) = [] := by simp [alone]
  have visible := applyEverywhere_sameKey (s := { s with mca := [] }) w.bytes sameKey
  have after := (onlyAftermath_of_onlyCores (afterMca_frame (applyAll { s with mca := [] } w.key w.bytes) w)).trans
    (onlyAftermath_settleBarriers _)
  unfold applyMca
  rw [gone, visible, after]
  exact ⟨rfl, rfl, fun d hd k => viewByte_applyAll hd { s with mca := [] } w.key w.bytes k⟩

/-! ### A unit that settles -/

theorem mapBytes_eq_map (m : SMap Byte) (key n : Nat) : mapBytes m key n = (List.range n).map fun i => mapGet 0 m (key + i) := by
  induction n generalizing key with
  | zero => rfl
  | succ n ih =>
    rw [mapBytes, ih, List.range_succ_eq_map, List.map_cons, List.map_map]
    simp [Function.comp_def, Nat.add_assoc, Nat.add_comm 1]

section Settle
variable {die key : Nat} {s : State} (inside : isOuter key = false) (memory : key ≠ ptrootKey) (landed : s.flights = [])
  (differs : ∃ i < 8, viewByte s die (key + i) ≠ viewByte s (homeDie key) (key + i))
include inside memory landed differs

theorem exec_settleWrite : exec (.settleWrite die key) s =
    if (stampOf s (homeDie key)).le (stampOf s die) then
      .next (applyUnder s die key (mapBytes (viewOf s (homeDie key)) key 8) (lineKeyOf s (homeDie key) key))
    else .next (post s (.settleWrite die key)) := by
  have unsettled : unitSettled s die key = false := by
    obtain ⟨i, hi, byte⟩ := differs
    have apart : mapBytes (viewOf s die) key 8 ≠ mapBytes (viewOf s (homeDie key)) key 8 := by
      intro same
      rw [mapBytes_eq_map, mapBytes_eq_map] at same
      exact byte (List.map_inj_left.mp same i (List.mem_range.mpr hi))
    unfold unitSettled
    simp [memory, apart]
  change execSettleWrite die key s = _
  unfold execSettleWrite
  simp only [inside, landed, unsettled, List.any_nil, Bool.or_self, Bool.false_eq_true, if_false, if_neg memory]
  cases (stampOf s (homeDie key)).le (stampOf s die) <;> rfl

theorem settleWrite_takes (reached : (stampOf s (homeDie key)).le (stampOf s die) = true)
    (sameKey : isDram key = false ∨ lineKeyOf s die key = lineKeyOf s (homeDie key) key) :
    ∃ t, exec (.settleWrite die key) s = .next t ∧
      StoredIn s t die key ((List.range 8).map fun i => viewByte s (homeDie key) (key + i)) ∧ t = { s with views := t.views } := by
  refine ⟨_, (exec_settleWrite inside memory landed differs).trans (if_pos reached), ?_⟩
  rw [applyUnder_sameKey _ sameKey, mapBytes_eq_map]
  exact ⟨storedIn_applyView s die key _, rfl⟩

theorem settleWrite_waits (early : (stampOf s (homeDie key)).le (stampOf s die) = false) :
    ∃ t, exec (.settleWrite die key) s = .next t ∧ t = { s with agenda := s.agenda ++ [.settleWrite die key] } :=
  ⟨_, (exec_settleWrite inside memory landed differs).trans (if_neg (by simp [early])), rfl⟩

end Settle

/-! ### The statement -/

/-- Settles O43: a flight lands or waits, a REPL write is sent, an MCA write becomes visible or waits, and a unit settles or waits. -/
theorem propagation : Obligations.Propagation := by
  refine ⟨fun n s f found notRepl => ⟨?_, ?_, ?_⟩, fun n s f found repl memory sameKey => ⟨?_, ?_⟩, fun s die h key bs _ place => ?_,
    fun n s w noFlight alone named => ⟨?_, ?_⟩, fun die key s inside memory landed differs => ⟨?_, ?_⟩⟩
  · exact arrival_counted found notRepl
  · exact fun due root _ => arrival_ptroot found notRepl due root
  · exact fun held => arrival_waits found ((if_neg notRepl).trans held)
  · exact fun earlier => arrival_waits found ((flightDue_repl repl).mpr earlier)
  · exact fun first => arrival_uncounted found repl (by simpa using mt (flightDue_repl repl).mp first) memory sameKey
  · exact replWrite_sent h key bs place
  · exact fun settled sameKey =>
      ⟨_, (exec_mcaWrite noFlight alone named).trans (congrArg _ (if_pos settled)), applyMca_visible alone sameKey⟩
  · exact fun early => ⟨_, (exec_mcaWrite noFlight alone named).trans (congrArg _ (if_neg (by simp [early]))), rfl⟩
  · exact settleWrite_takes inside memory landed differs
  · exact settleWrite_waits inside memory landed differs

end Sys2Proof.Proofs
end

section
/-!
PROOFS. Every step keeps the canonical form of memory (R108, R121), part 1 of 7: what the proof is put together from, and the operations on
the state, on memory, on its translation and its keys, and on the journal. There is one rule for each function of the model that answers a
state: `wf_f` for a state, `nextWf_f` for an outcome, `wf_of_f` for a state among other things. Memory changes only through the operations
that the laws of memory are about; `wf_mk` covers a change of any other part.
-/

namespace Sys2Proof.Proofs

open Sys2Proof Sys2Proof.Machine Sys2Proof.Claims

/-! ### What a step keeps, and how it is put together -/

/-- The state that an outcome goes on with holds memory in its canonical form. -/
def NextWf (r : Result) : Prop :=
  match r with
  | .next t => Memory.wf t = true
  | .fault _ => True
  | .refused _ => True

theorem wf_ite {c : Prop} {_ : Decidable c} {s t : State} (hs : Memory.wf s = true) (ht : Memory.wf t = true) :
    Memory.wf (if c then s else t) = true := by
  split
  · exact hs
  · exact ht

theorem nextWf_ite {c : Prop} {_ : Decidable c} {r q : Result} (hr : NextWf r) (hq : NextWf q) : NextWf (if c then r else q) := by
  split
  · exact hr
  · exact hq

/-- A change of the parts other than the views and the memory outside. -/
theorem wf_mk {s : State}
    {cur agenda tick serial time cycles harts cores clusters dies lineKeys badLines stamps flights mca ops counters counterOwner
    counterStamp barriers ranges freed withdrawn rights owners handleTenants shootdowns ptroot tensors keptVersion tidWithdrawn
    tensorQ launches saves tenants keys nextKey spdm spdmLog spdmSigned layoutEpoch firmware windows groupTenants isolation dev
    grouped ports linkReqs channels charges debts budgetAt sensors errors power invalidations migrations sentOut}
    (wf : Memory.wf s = true) :
    Memory.wf
      ⟨cur, agenda, tick, serial, time, cycles, harts, cores, clusters, dies, s.views, s.outer, lineKeys, badLines, stamps, flights,
      mca, ops, counters, counterOwner, counterStamp, barriers, ranges, freed, withdrawn, rights, owners, handleTenants, shootdowns,
      ptroot, tensors, keptVersion, tidWithdrawn, tensorQ, launches, saves, tenants, keys, nextKey, spdm, spdmLog, spdmSigned,
      layoutEpoch, firmware, windows, groupTenants, isolation, dev, grouped, ports, linkReqs, channels, charges, debts, budgetAt,
      sensors, errors, power, invalidations, migrations, sentOut⟩ = true := wf

theorem wf_foldl {α : Type} {f : State → α → State} {l : List α} {s : State}
    (each : ∀ u a, Memory.wf u = true → Memory.wf (f u a) = true) (wf : Memory.wf s = true) :
    Memory.wf (l.foldl f s) = true := Memory.wf_foldl f each l wf

theorem wf_fst {α : Type} {p : State × α} {u : State} {a : α} (e : p = (u, a)) (wf : Memory.wf p.1 = true) : Memory.wf u = true := by
  rw [e] at wf
  exact wf

theorem wf_snd {α : Type} {p : α × State} {u : State} {a : α} (e : p = (a, u)) (wf : Memory.wf p.2 = true) : Memory.wf u = true := by
  rw [e] at wf
  exact wf

section

variable {s u : State}

/-! ### The parts of the state -/

theorem wf_setHart {h v} (wf : Memory.wf s = true) : Memory.wf (setHart s h v) = true := wf_mk wf

theorem wf_modHart {h f} (wf : Memory.wf s = true) : Memory.wf (modHart s h f) = true := wf_setHart wf

theorem wf_setCore {g v} (wf : Memory.wf s = true) : Memory.wf (setCore s g v) = true := wf_mk wf

theorem wf_modCore {g f} (wf : Memory.wf s = true) : Memory.wf (modCore s g f) = true := wf_setCore wf

theorem wf_modCluster {c f} (wf : Memory.wf s = true) : Memory.wf (modCluster s c f) = true := wf_mk wf

theorem wf_modDie {d f} (wf : Memory.wf s = true) : Memory.wf (modDie s d f) = true := wf_mk wf

theorem wf_modTenant {t f} (wf : Memory.wf s = true) : Memory.wf (modTenant s t f) = true := wf_mk wf

theorem wf_modLaunch {l f} (wf : Memory.wf s = true) : Memory.wf (modLaunch s l f) = true := by
  unfold modLaunch
  split
  · exact wf
  · exact wf_mk wf

theorem wf_modNode {l n f} (wf : Memory.wf s = true) : Memory.wf (modNode s l n f) = true := wf_modLaunch wf

theorem wf_modMe {f} (wf : Memory.wf s = true) : Memory.wf (modMe s f) = true := wf_modHart wf

theorem wf_post {e} (wf : Memory.wf s = true) : Memory.wf (post s e) = true := wf_mk wf

theorem wf_postOnce {e} (wf : Memory.wf s = true) : Memory.wf (postOnce s e) = true := wf_ite wf (wf_post wf)

theorem wf_postAll {es} (wf : Memory.wf s = true) : Memory.wf (postAll s es) = true := wf_mk wf

theorem wf_retire {len} (wf : Memory.wf s = true) : Memory.wf (retire s len) = true := wf_modMe wf

theorem nextWf_done4 (wf : Memory.wf s = true) : NextWf (done4 s) := wf_retire wf

theorem nextWf_done4With {d v} (wf : Memory.wf s = true) : NextWf (done4With s d v) := wf_modMe wf

theorem nextWf_waitFor {w} (wf : Memory.wf s = true) : NextWf (waitFor s w) := wf_modMe wf

theorem nextWf_idleEvent (wf : Memory.wf s = true) : NextWf (idleEvent s) := wf

theorem wf_modOp {id f} (wf : Memory.wf s = true) : Memory.wf (modOp s id f) = true := wf_mk wf

theorem wf_dropOp {id} (wf : Memory.wf s = true) : Memory.wf (dropOp s id) = true := wf_mk wf

theorem wf_sendReply {id r stamp} (wf : Memory.wf s = true) : Memory.wf (sendReply s id r stamp) = true := wf_post (wf_modOp wf)

theorem wf_noteEmpty {clus} (wf : Memory.wf s = true) : Memory.wf (noteEmpty s clus) = true := wf_ite (wf_post (wf_modCluster wf)) wf

theorem wf_freeHandler {core} (wf : Memory.wf s = true) : Memory.wf (freeHandler s core) = true := wf_noteEmpty (wf_setHart wf)

theorem wf_endHandler {core status} (wf : Memory.wf s = true) : Memory.wf (endHandler s core status) = true := by
  unfold endHandler
  split
  · exact wf_freeHandler wf
  · exact wf_sendReply (wf_freeHandler wf)

theorem wf_takeTrap {h t} (wf : Memory.wf s = true) : Memory.wf (takeTrap s h t) = true := wf_ite (wf_endHandler wf) (wf_modHart wf)

theorem nextWf_trapR {t} (wf : Memory.wf s = true) : NextWf (trapR s t) := wf_takeTrap wf

theorem nextWf_illegal {i} (wf : Memory.wf s = true) : NextWf (illegal s i) := nextWf_trapR wf

theorem nextWf_privilege {i} (wf : Memory.wf s = true) : NextWf (privilege s i) := nextWf_trapR wf

theorem wf_acquireAt {core sc} (wf : Memory.wf s = true) : Memory.wf (acquireAt s core sc) = true := wf_ite (wf_modCore wf) wf

theorem nextWf_afterOverlap {key n : Nat} {k : Result} (wf : Memory.wf s = true) (cont : NextWf k) : NextWf (afterOverlap s key n k) :=
  nextWf_ite (nextWf_waitFor wf) cont

theorem nextWf_afterFences {load store : Bool} {k : Result} (wf : Memory.wf s = true) (cont : NextWf k) :
    NextWf (afterFences s load store k) := nextWf_ite (nextWf_waitFor wf) cont

theorem nextWf_afterRelease {sc : Scope} {k : Result} (wf : Memory.wf s = true) (cont : NextWf k) : NextWf (afterRelease s sc k) :=
  nextWf_ite cont (nextWf_waitFor wf)

theorem nextWf_orderedBefore {k : Result} (wf : Memory.wf s = true) (cont : NextWf k) : NextWf (orderedBefore s k) :=
  nextWf_ite (nextWf_afterRelease wf cont) cont

theorem wf_orderedAfter (wf : Memory.wf s = true) : Memory.wf (orderedAfter s) = true := wf_ite (wf_acquireAt wf) wf

/-! ### Operands -/

theorem nextWf_withVector {i : Instr} {k : Result} (wf : Memory.wf s = true) (cont : NextWf k) : NextWf (withVector s i k) := by
  unfold withVector
  refine nextWf_ite (nextWf_illegal wf) ?_
  split
  · exact nextWf_trapR wf
  · exact cont

/-! ### Memory -/

theorem wf_setPtroot {die w} (wf : Memory.wf s = true) : Memory.wf (setPtroot s die w) = true := wf_mk wf

theorem wf_setStamp {die t} (wf : Memory.wf s = true) : Memory.wf (setStamp s die t) = true := wf_mk wf

theorem wf_sendFlight {src key bytes prop u seq stamp dst} (wf : Memory.wf s = true) :
    Memory.wf (sendFlight src key bytes prop u seq stamp s dst) = true := wf_ite wf (wf_post (wf_mk (wf_mk wf)))

theorem wf_sendFlights {src key bytes prop u seq stamp} (wf : Memory.wf s = true) :
    Memory.wf (sendFlights s src key bytes prop u seq stamp) = true := wf_foldl (fun _ _ h => wf_sendFlight h) wf

theorem wf_countError {die} (wf : Memory.wf s = true) : Memory.wf (countError s die) = true := wf_mk wf

theorem wf_dropL1 {core key} (wf : Memory.wf s = true) : Memory.wf (dropL1 s core key) = true := wf_modCore wf

theorem wf_updateL1 {core key bytes u pad} (wf : Memory.wf s = true) : Memory.wf (updateL1 s core key bytes u pad) = true := wf_modCore wf

theorem wf_of_loadBytes {h t n r} (wf : Memory.wf s = true) (e : loadBytes s h t n = (u, r)) : Memory.wf u = true :=
  wf_fst e (Memory.wf_loadBytes wf h t n)

theorem wf_of_fetchLine {g t r} (wf : Memory.wf s = true) (e : fetchLine s g t = (u, r)) : Memory.wf u = true :=
  wf_fst e (Memory.wf_fetchLine wf g t)

/-! ### Translation -/

theorem wf_startWalk {kind va} (wf : Memory.wf s = true) : Memory.wf (startWalk s kind va) = true := wf_post (wf_modDie wf)

theorem wf_fillSlice {die va l} (wf : Memory.wf s = true) : Memory.wf (fillSlice s die va l) = true := wf_ite wf (wf_modCore wf)

/-! ### Accesses -/

theorem wf_setRights {owner l} (wf : Memory.wf s = true) : Memory.wf (setRights s owner l) = true := wf_mk wf

theorem wf_of_plbRange {g own va r} (wf : Memory.wf s = true) (e : plbRange s g own va = (u, r)) : Memory.wf u = true :=
  wf_fst e ((plbRange_frame s g own va).memoryWf.trans wf)

theorem wf_of_plbRight {g own va tag need r} (wf : Memory.wf s = true) (e : plbRight s g own va tag need = (u, r)) : Memory.wf u = true :=
  wf_fst e ((plbRight_frame s g own va tag need).memoryWf.trans wf)

theorem wf_of_findLeaf {h va l} (wf : Memory.wf s = true) (e : findLeaf s h va = .leaf u l) : Memory.wf u = true :=
  (findLeaf_frame e).memoryWf.trans wf

theorem wf_of_checkAccess {h p w t} (wf : Memory.wf s = true) (e : checkAccess s h p w = .ok u t) : Memory.wf u = true :=
  (checkAccess_frame e).memoryWf.trans wf

theorem nextWf_waitWalk {kind va} (wf : Memory.wf s = true) : NextWf (waitWalk s kind va) := nextWf_waitFor (wf_startWalk wf)

theorem nextWf_withAccess {p : Word} {w : Want} {k : State → Target → Result} (wf : Memory.wf s = true)
    (cont : ∀ u x, Memory.wf u = true → NextWf (k u x)) : NextWf (withAccess s p w k) := by
  unfold withAccess
  split
  · next e1 => exact cont _ _ (wf_of_checkAccess wf e1)
  · exact nextWf_trapR wf
  · exact nextWf_waitWalk wf

theorem nextWf_withLines {p : Word} {w : Want} {n : Nat} {q : Word} {acc : List Target} {k : State → List Target → Result}
    (wf : Memory.wf s = true) (cont : ∀ u a, Memory.wf u = true → NextWf (k u a)) : NextWf (withLines p w n q s acc k) := by
  induction n generalizing s q acc with
  | zero => exact cont _ _ wf
  | succ n ih =>
    unfold withLines
    split
    · next e => exact ih (wf_of_checkAccess wf e)
    · exact nextWf_trapR wf
    · exact nextWf_waitWalk wf

theorem wf_of_engineCheck {a p need write n t} (wf : Memory.wf s = true) (e : engineCheck s a p need write n = .ok u t) :
    Memory.wf u = true := (engineCheck_frame e).memoryWf.trans wf

/-! ### Accesses of agents -/

theorem wf_of_agentWrite {a p bs} (wf : Memory.wf s = true) (e : agentWrite s a p bs = some u) : Memory.wf u = true := by
  unfold agentWrite at e
  split at e
  · cases e
  · cases e
    refine wf_foldl (fun _ _ h => ?_) wf
    split
    · exact Memory.wf_engineWrite h _ _ _ _
    · exact h

/-! ### The journal and the window -/

theorem wf_hdmWrite {t off bytes} (wf : Memory.wf s = true) : Memory.wf (hdmWrite s t off bytes) = true :=
  wf_ite (Memory.wf_plainWrite wf _ _) wf

theorem wf_setControl {t off v} (wf : Memory.wf s = true) : Memory.wf (setControl s t off v) = true := wf_hdmWrite wf

theorem wf_writeEntry {t e} (wf : Memory.wf s = true) : Memory.wf (writeEntry s t e) = true := wf_hdmWrite wf

theorem wf_journalAdd {t cseq kind state reason detail tail} (wf : Memory.wf s = true) :
    Memory.wf (journalAdd s t cseq kind state reason detail tail).2 = true := by
  unfold journalAdd
  dsimp only
  exact wf_setControl (wf_writeEntry (wf_modTenant wf))

theorem wf_of_journalAdd {t cseq kind state reason detail tail j} (wf : Memory.wf s = true)
    (e : journalAdd s t cseq kind state reason detail tail = (j, u)) : Memory.wf u = true := wf_snd e (wf_journalAdd wf)

theorem wf_journalSet {t j state reason} (wf : Memory.wf s = true) : Memory.wf (journalSet s t j state reason) = true := by
  unfold journalSet
  split
  · exact wf
  · exact wf_writeEntry (wf_modTenant wf)

theorem wf_sendOut {m} (wf : Memory.wf s = true) : Memory.wf (sendOut s m) = true := wf_mk wf

theorem wf_noteClosed {t h} (wf : Memory.wf s = true) : Memory.wf (noteClosed t s h) = true :=
  wf_ite (wf_sendOut (wf_journalAdd wf)) (wf_modTenant wf)

theorem wf_flushClosed {t} (wf : Memory.wf s = true) : Memory.wf (flushClosed s t) = true :=
  wf_foldl (fun _ _ h => wf_noteClosed h) (wf_modTenant wf)

theorem wf_pollWindow {t} (wf : Memory.wf s = true) : Memory.wf (pollWindow s t) = true :=
  wf_ite (wf_post (wf_ite wf (wf_flushClosed wf))) (wf_ite wf (wf_flushClosed wf))

theorem wf_finishEntry {t j state reason} (wf : Memory.wf s = true) : Memory.wf (finishEntry s t j state reason) = true := by
  unfold finishEntry
  dsimp only
  split
  · exact wf_pollWindow (wf_journalSet wf)
  · exact wf_post (wf_modTenant (wf_journalSet wf))

/-! ### Traffic -/

theorem wf_refreshBudgets (wf : Memory.wf s = true) : Memory.wf (refreshBudgets s) = true := wf_ite wf (wf_postAll (wf_mk wf))

theorem wf_chargeRequest {req} (wf : Memory.wf s = true) : Memory.wf (chargeRequest s req) = true := by
  unfold chargeRequest
  dsimp only
  split
  · exact wf_mk (wf_refreshBudgets wf)
  · exact wf_ite (wf_mk (wf_refreshBudgets wf)) (wf_post (wf_mk (wf_refreshBudgets wf)))

theorem wf_askLine {launch waiter write key} (wf : Memory.wf s = true) : Memory.wf (askLine launch waiter write s key) = true :=
  wf_ite (wf_post wf) wf

theorem wf_chargeLine {launch write key} (wf : Memory.wf s = true) : Memory.wf (chargeLine launch write s key) = true :=
  wf_ite (wf_chargeRequest wf) wf

theorem wf_askLines {launch waiter ks} (wf : Memory.wf s = true) : Memory.wf (askLines launch waiter ks s) = true :=
  wf_foldl (fun _ _ h => wf_askLine h) wf

theorem wf_sendFlit {port slots} (wf : Memory.wf s = true) : Memory.wf (sendFlit s port slots) = true := wf_mk wf

theorem wf_sendAnswer {port number status data} (wf : Memory.wf s = true) : Memory.wf (sendAnswer s port number status data) = true :=
  wf_sendFlit (wf_mk wf)

theorem wf_sendPeer {a q t} (wf : Memory.wf s = true) : Memory.wf (sendPeer a q s t) = true := wf_ite (wf_sendFlit wf) wf

theorem wf_sendLine {a q write t} (wf : Memory.wf s = true) : Memory.wf (sendLine a q write s t) = true := wf_sendPeer (wf_chargeLine wf)

theorem wf_sendAccess {waiter a write qs} (wf : Memory.wf s = true) : Memory.wf (sendAccess waiter a write qs s) = true :=
  wf_foldl (fun _ _ h => wf_sendPeer h) (wf_foldl (fun _ _ h => wf_askLine h) wf)

theorem wf_sendReads {a ts} (wf : Memory.wf s = true) : Memory.wf (sendReads a s ts) = true := wf_foldl (fun _ _ h => wf_sendLine h) wf

theorem wf_chargeWalk {launch die va} (wf : Memory.wf s = true) : Memory.wf (chargeWalk launch die va s) = true :=
  wf_foldl (fun _ _ h => wf_chargeLine h) wf

theorem wf_chargeMiss {a p} (wf : Memory.wf s = true) : Memory.wf (chargeMiss a p s) = true := wf_ite (wf_chargeWalk wf) wf

theorem wf_sendUnit {a q write t} (wf : Memory.wf s = true) : Memory.wf (sendUnit a q write s t) = true := wf_sendLine (wf_chargeMiss wf)

theorem wf_chargeAgent {a p n} (wf : Memory.wf s = true) : Memory.wf (chargeAgent a p n s) = true := by
  unfold chargeAgent
  refine wf_foldl (fun _ _ h => ?_) wf
  split
  · exact wf_sendUnit h
  · exact h

end

end Sys2Proof.Proofs
end

section
/-!
PROOFS. Every step keeps the canonical form of memory, part 2 of 7: launches, stops, control instructions, operations in flight, queues, and
engine commands.
-/

namespace Sys2Proof.Proofs

open Sys2Proof Sys2Proof.Machine Sys2Proof.Claims

section

variable {s u : State}

/-! ### Launches and nodes -/

theorem wf_raiseOs {bits dies} (wf : Memory.wf s = true) : Memory.wf (raiseOs bits dies s) = true := wf_mk wf

theorem wf_raiseExternal (wf : Memory.wf s = true) : Memory.wf (raiseExternal s) = true := wf_raiseOs wf

theorem wf_offerContext {core ctx} (wf : Memory.wf s = true) : Memory.wf (offerContext s core ctx) = true := wf_postAll wf

theorem wf_offerCluster {clus} (wf : Memory.wf s = true) : Memory.wf (offerCluster s clus) = true :=
  wf_foldl (fun _ _ h => wf_ite (wf_offerContext h) h) wf

theorem wf_powerDown {core j} (wf : Memory.wf s = true) : Memory.wf (powerDown s core j) = true := wf_modCore (Memory.wf_zeroKeys wf _ _)

theorem wf_endLoan {core j} (wf : Memory.wf s = true) : Memory.wf (endLoan s core j) = true :=
  wf_offerContext (wf_setHart (wf_powerDown wf))

theorem wf_abandonCmd {core tag} (wf : Memory.wf s = true) : Memory.wf (abandonCmd s core tag) = true := wf_post (wf_modCore wf)

theorem wf_leaveWaits {h} (wf : Memory.wf s = true) : Memory.wf (leaveWaits s h) = true := wf_mk (wf_modCore wf)

theorem wf_depart {sc h} (wf : Memory.wf s = true) : Memory.wf (depart sc s h) = true := wf_modHart (wf_acquireAt wf)

theorem wf_settleBarriers (wf : Memory.wf s = true) : Memory.wf (settleBarriers s) = true :=
  wf_foldl (fun _ _ h => wf_ite (wf_foldl (fun _ _ h' => wf_depart h') (wf_mk h)) h) (wf_mk wf)

theorem wf_cancelGatherings {h w} (wf : Memory.wf s = true) : Memory.wf (cancelGatherings s h w) = true :=
  wf_foldl (fun _ _ h => wf_modHart h) (wf_foldl (fun _ _ h => wf_modHart h) (wf_modCluster wf))

theorem wf_setSlice {clus key v} (wf : Memory.wf s = true) : Memory.wf (setSlice s clus key v) = true := wf_modCluster wf

theorem wf_pauseSlice {clus key} (wf : Memory.wf s = true) : Memory.wf (pauseSlice s clus key) = true := wf_ite (wf_setSlice wf) wf

theorem wf_pauseSlices (wf : Memory.wf s = true) : Memory.wf (pauseSlices s) = true := wf_mk wf

theorem wf_resumeSlices (wf : Memory.wf s = true) : Memory.wf (resumeSlices s) = true := wf_mk wf

theorem wf_setPreempt {p h} (wf : Memory.wf s = true) : Memory.wf (setPreempt p s h) = true := wf_modHart wf

theorem wf_takeSlice {core tenant} (wf : Memory.wf s = true) : Memory.wf (takeSlice s core tenant) = true :=
  wf_postOnce (wf_setSlice (wf_ite (wf_foldl (fun _ _ h => wf_setPreempt h) wf) wf))

theorem wf_enterSlice {h} (wf : Memory.wf s = true) : Memory.wf (enterSlice s h) = true :=
  wf_ite (wf_postOnce (wf_setSlice wf)) (wf_ite (wf_ite (wf_setPreempt wf) wf) (wf_ite (wf_setSlice wf) wf))

theorem wf_leaveSlice {clus key} (wf : Memory.wf s = true) : Memory.wf (leaveSlice s clus key) = true := wf_ite (wf_pauseSlice wf) wf

theorem wf_keepSlices {core} (wf : Memory.wf s = true) : Memory.wf (keepSlices s core) = true :=
  wf_foldl (fun _ _ h => wf_ite h (wf_leaveSlice (wf_leaveSlice (wf_enterSlice h)))) wf

theorem wf_freeContext {h borrower keepLoans} (wf : Memory.wf s = true) : Memory.wf (freeContext s h borrower keepLoans) = true := by
  unfold freeContext
  extract_lets v core ctx s₁ fresh gone s₂ s₃ s₄
  have wf₁ : Memory.wf s₁ = true := wf_leaveWaits (wf_cancelGatherings wf)
  have wf₂ : Memory.wf s₂ = true := wf_offerContext (wf_setHart (wf_powerDown wf₁))
  have wf₃ : Memory.wf s₃ = true := by
    unfold s₃
    split
    · exact wf_modHart (wf_setHart wf₁)
    · exact wf_ite wf₂ (wf_foldl (fun _ _ kept => wf_endLoan kept) wf₂)
  exact wf_noteEmpty (wf_settleBarriers (wf_ite wf₃ (wf_pauseSlice wf₃)))

theorem wf_killHart {h} (wf : Memory.wf s = true) : Memory.wf (killHart s h) = true :=
  wf_settleBarriers (wf_pauseSlice (wf_setHart (wf_leaveWaits (wf_cancelGatherings (wf_foldl (fun _ _ h => wf_abandonCmd h) wf)))))

theorem wf_endLaunch {l final reason} (wf : Memory.wf s = true) : Memory.wf (endLaunch s l final reason) = true := by
  unfold endLaunch
  split
  · exact wf
  · exact wf_ite wf (wf_post (wf_finishEntry (wf_foldl (fun _ _ h => wf_cancelGatherings h) (wf_mk (wf_mk (wf_modLaunch wf))))))

theorem wf_enterPool {l id n isLocal} (wf : Memory.wf s = true) : Memory.wf (enterPool s l id n isLocal) = true :=
  wf_postAll (wf_foldl (fun _ _ h => wf_ite h (wf_post (wf_modDie h))) wf)

theorem wf_readyNode {l id isLocal} (wf : Memory.wf s = true) : Memory.wf (readyNode s l id isLocal) = true := by
  unfold readyNode
  split
  · exact wf
  · split
    · exact wf
    · exact wf_ite wf (wf_ite (wf_endLaunch wf) (wf_enterPool (wf_modNode wf)))

theorem wf_readyNodes {l} (wf : Memory.wf s = true) : Memory.wf (readyNodes s l) = true := by
  unfold readyNodes
  split
  · exact wf
  · exact wf_foldl (fun _ _ h => wf_readyNode h) wf

theorem wf_retestCounter {id} (wf : Memory.wf s = true) : Memory.wf (retestCounter s id) = true := by
  unfold retestCounter
  refine wf_foldl (fun _ _ h => wf_ite h (wf_post h)) (wf_foldl (fun _ _ h => ?_) (wf_mk wf))
  split
  · exact h
  · exact wf_foldl (fun _ _ h' => wf_readyNode h') h

theorem wf_setCounter {id v} (wf : Memory.wf s = true) : Memory.wf (setCounter s id v) = true := wf_retestCounter (wf_mk wf)

theorem wf_addCounter {id v stamp} (wf : Memory.wf s = true) : Memory.wf (addCounter s id v stamp) = true := wf_setCounter (wf_mk wf)

theorem wf_chargeSuccessors {l n die} (wf : Memory.wf s = true) : Memory.wf (chargeSuccessors s l n die) = true := wf_chargeAgent wf

theorem wf_postRecord {clus r} (wf : Memory.wf s = true) : Memory.wf (postRecord s clus r) = true :=
  wf_ite (wf_post (wf_modCluster wf)) (wf_modCluster wf)

theorem wf_completeTile {h} (wf : Memory.wf s = true) : Memory.wf (completeTile s h) = true := by
  unfold completeTile
  dsimp only
  split
  · exact wf
  · split
    · exact wf_modNode (wf_modHart wf)
    · split
      · exact wf_modNode (wf_modHart wf)
      · exact wf_ite (wf_postRecord (wf_modNode (wf_modNode (wf_modHart wf)))) (wf_modNode (wf_modHart wf))

theorem wf_dispatchComplete {l id die} (wf : Memory.wf s = true) : Memory.wf (dispatchComplete s l id die) = true := by
  unfold dispatchComplete
  split
  · exact wf
  · split
    · exact wf
    · exact wf_foldl (fun _ _ h => wf_readyNode (wf_modNode h)) (wf_chargeSuccessors wf)

/-! ### Traps and stops -/

theorem wf_stopHart {h kind epc map} (wf : Memory.wf s = true) : Memory.wf (stopHart s h kind epc map) = true := by
  unfold stopHart
  exact wf_modHart (wf_settleBarriers (wf_leaveWaits (wf_cancelGatherings wf)))

theorem wf_waitStop {h} (wf : Memory.wf s = true) : Memory.wf (waitStop s h) = true := wf_stopHart wf

theorem wf_writeRecord {h r} (wf : Memory.wf s = true) : Memory.wf (writeRecord s h r) = true := Memory.wf_performWrite wf _ _ _ _ _ _

theorem wf_queueFault {h gen r} (wf : Memory.wf s = true) : Memory.wf (queueFault s h gen r) = true := wf_ite (wf_modHart wf) (wf_mk wf)

theorem wf_dropFault {h gen tag} (wf : Memory.wf s = true) : Memory.wf (dropFault s h gen tag) = true := wf_ite (wf_modHart wf) (wf_mk wf)

/-! ### Control instructions -/

theorem nextWf_execWfi (wf : Memory.wf s = true) : NextWf (execWfi s) :=
  nextWf_ite (nextWf_illegal wf) (nextWf_ite (nextWf_done4 wf) (nextWf_ite (wf_waitStop wf) (nextWf_waitFor wf)))

theorem nextWf_execEret (wf : Memory.wf s = true) : NextWf (execEret s) := by
  unfold execEret
  refine nextWf_ite (nextWf_privilege wf) ?_
  split
  · exact nextWf_ite (wf_modMe wf) (nextWf_privilege wf)
  · exact wf_modMe wf
  · exact wf_modMe wf

theorem nextWf_execFence {kinds sc} (wf : Memory.wf s = true) : NextWf (execFence kinds sc s) :=
  nextWf_ite (nextWf_illegal wf) (nextWf_ite (wf_modMe wf) (nextWf_ite (nextWf_waitFor wf)
    (nextWf_ite (nextWf_waitFor wf) (wf_retire (wf_ite (wf_acquireAt wf) wf)))))

/-! ### Operations in flight -/

theorem wf_of_startOp {kind t p size slots dest acq rel n} (wf : Memory.wf s = true)
    (e : startOp s kind t p size slots dest acq rel = (n, u)) : Memory.wf u = true := wf_snd e (wf_mk (wf_mk wf))

theorem nextWf_withSlots {n : Nat} {k : Result} (wf : Memory.wf s = true) (cont : NextWf k) : NextWf (withSlots s n k) :=
  nextWf_ite cont (nextWf_waitFor wf)

theorem nextWf_inOrder {key n : Nat} {load store : Bool} {k : Result} (wf : Memory.wf s = true) (cont : NextWf k) :
    NextWf (inOrder s key n load store k) := nextWf_afterOverlap wf (nextWf_afterFences wf (nextWf_orderedBefore wf cont))

theorem nextWf_afterSettle {prop : PageProp} {k : Result} (wf : Memory.wf s = true) (cont : NextWf k) : NextWf (afterSettle s prop k) :=
  nextWf_ite (nextWf_waitFor wf) cont

theorem nextWf_withServed {ts : List Target} {k : State → Result} (wf : Memory.wf s = true)
    (cont : ∀ u, Memory.wf u = true → NextWf (k u)) : NextWf (withServed s ts k) := by
  unfold withServed
  dsimp only
  split
  · exact nextWf_waitFor wf
  · exact cont _ (wf_sendReads wf)

theorem wf_orderedLoad {t n} (wf : Memory.wf s = true) : Memory.wf (orderedLoad s t n).1 = true :=
  Memory.wf_loadBytes (wf_ite (wf_dropL1 wf) wf) _ _ _

theorem wf_orderedStore {t bytes} (wf : Memory.wf s = true) : Memory.wf (orderedStore s t bytes) = true := Memory.wf_storeBytes wf _ _ _ _

theorem wf_issued {id len} (wf : Memory.wf s = true) : Memory.wf (issued s id len) = true := wf_post (wf_retire (wf_orderedAfter wf))

/-! ### Queue registers -/

theorem wf_setQueue {core q l} (wf : Memory.wf s = true) : Memory.wf (setQueue s core q l) = true := wf_modCore wf

theorem nextWf_execQpush {q b} (wf : Memory.wf s = true) : NextWf (execQpush q b s) :=
  nextWf_ite (nextWf_illegal wf) (nextWf_ite (nextWf_afterRelease wf (nextWf_done4 (wf_modCore (wf_setQueue wf))))
    (nextWf_waitFor (wf_modCore wf)))

theorem nextWf_withOldest {q : Reg} {k : State → QEntry → Result} (wf : Memory.wf s = true)
    (cont : ∀ u x, Memory.wf u = true → NextWf (k u x)) : NextWf (withOldest s q k) := by
  unfold withOldest
  dsimp only
  split
  · exact cont _ _ (wf_modCore wf)
  · exact nextWf_waitFor (wf_modCore wf)

theorem nextWf_execQpop {d q} (wf : Memory.wf s = true) : NextWf (execQpop d q s) :=
  nextWf_ite (nextWf_illegal wf) (nextWf_withOldest wf (fun _ _ h => nextWf_done4With (wf_acquireAt (wf_setQueue h))))

theorem nextWf_execQpeek {d q} (wf : Memory.wf s = true) : NextWf (execQpeek d q s) :=
  nextWf_ite (nextWf_illegal wf) (nextWf_withOldest wf (fun _ _ h => nextWf_done4With (wf_acquireAt h)))

/-! ### Engine commands -/

theorem wf_modCmd {core tag f} (wf : Memory.wf s = true) : Memory.wf (modCmd s core tag f) = true := wf_modCore wf

theorem wf_dropAsked {core tag} (wf : Memory.wf s = true) : Memory.wf (dropAsked s core tag) = true := wf_modDie wf

theorem wf_issueCmd {kind d dst src len acq rel post' coll} (wf : Memory.wf s = true) :
    Memory.wf (issueCmd s kind d dst src len acq rel post' coll) = true :=
  wf_post (wf_retire (wf_modMe (wf_modCore (wf_mk (wf_dropAsked wf)))))

theorem nextWf_execCpcmd {d a b acq rel} (wf : Memory.wf s = true) : NextWf (execCpcmd d a b acq rel s) :=
  nextWf_ite (nextWf_illegal wf) (nextWf_ite (nextWf_waitFor wf) (nextWf_ite (nextWf_waitFor wf)
    (nextWf_afterFences wf (wf_issueCmd wf))))

theorem nextWf_execBkcmd {d a b acq rel} (wf : Memory.wf s = true) : NextWf (execBkcmd d a b acq rel s) :=
  nextWf_ite (nextWf_illegal wf) (nextWf_ite (nextWf_waitFor wf) (nextWf_ite (nextWf_waitFor wf)
    (nextWf_afterFences wf (wf_issueCmd wf))))

theorem wf_resumeCmd {d tag dst src len} (wf : Memory.wf s = true) : Memory.wf (resumeCmd s d tag dst src len) = true := by
  unfold resumeCmd
  refine wf_post (wf_retire (wf_modMe (wf_modCore (wf_modCmd ?_))))
  split
  · exact wf_dropFault (wf_mk wf)
  · exact wf_mk wf

theorem nextWf_execCpcmdResume {d a b} (wf : Memory.wf s = true) : NextWf (execCpcmdResume d a b s) :=
  nextWf_ite (nextWf_illegal wf) (nextWf_ite (nextWf_waitFor wf) (nextWf_afterFences wf (wf_resumeCmd wf)))

theorem nextWf_execTwait {a} (wf : Memory.wf s = true) : NextWf (execTwait a s) :=
  nextWf_ite (nextWf_illegal wf) (nextWf_ite (nextWf_waitFor (wf_modMe wf)) (nextWf_done4 (wf_acquireAt wf)))

theorem nextWf_execColcmd {d a sc} (wf : Memory.wf s = true) : NextWf (execColcmd d a sc s) :=
  nextWf_ite (nextWf_illegal wf) (nextWf_ite (nextWf_trapR wf) (nextWf_ite (nextWf_waitFor wf) (nextWf_afterFences wf (wf_issueCmd wf))))

theorem wf_startNext {core} (wf : Memory.wf s = true) : Memory.wf (startNext s core) = true := by
  unfold startNext
  split
  · exact wf_post wf
  · exact wf

theorem wf_freeBulk {die serial} (wf : Memory.wf s = true) : Memory.wf (freeBulk s die serial) = true := wf_post (wf_modDie wf)

theorem wf_faultCmd {core tag code addr} (wf : Memory.wf s = true) : Memory.wf (faultCmd s core tag code addr) = true := by
  unfold faultCmd
  split
  · exact wf
  · extract_lets s₁ s₂ s₃ done
    have wf₂ : Memory.wf s₂ = true := wf_modCore (wf_modCmd (wf_dropAsked wf))
    have wf₃ : Memory.wf s₃ = true := wf_ite (wf_startNext wf₂) (wf_freeBulk wf₂)
    exact wf_ite (wf_abandonCmd wf₃) (wf_queueFault wf₃)

theorem wf_askHost {core m page write} (wf : Memory.wf s = true) : Memory.wf (askHost s core m page write) = true :=
  wf_ite wf (wf_sendOut (wf_modDie wf))

/-- The state that the check of a line of a command goes on with, or waits in, holds memory in its canonical form. -/
def LineWf (r : LineOutcome) : Prop :=
  match r with
  | .ok t _ => Memory.wf t = true
  | .failed _ => True
  | .waits t => Memory.wf t = true

theorem lineWf_engineLine {core m p write n} (wf : Memory.wf s = true) : LineWf (engineLine s core m p write n) := by
  unfold engineLine
  split
  · next e => exact wf_of_engineCheck wf e
  · trivial
  · split
    · trivial
    · exact wf_askHost wf

theorem wf_of_engineLine {core m p write n t} (wf : Memory.wf s = true) (e : engineLine s core m p write n = .ok u t) :
    Memory.wf u = true := by
  have line := lineWf_engineLine (core := core) (m := m) (p := p) (write := write) (n := n) wf
  rw [e] at line
  exact line

theorem wf_of_engineLine_waits {core m p write n} (wf : Memory.wf s = true) (e : engineLine s core m p write n = .waits u) :
    Memory.wf u = true := by
  have line := lineWf_engineLine (core := core) (m := m) (p := p) (write := write) (n := n) wf
  rw [e] at line
  exact line

theorem nextWf_execEngineCommandStart {core tag} (wf : Memory.wf s = true) : NextWf (execEngineCommandStart core tag s) := by
  unfold execEngineCommandStart
  split
  · exact nextWf_idleEvent wf
  · refine nextWf_ite (nextWf_idleEvent wf) (nextWf_ite (nextWf_idleEvent wf) (nextWf_ite (wf_post wf) ?_))
    split <;> exact wf_post (wf_modCmd wf)

theorem wf_movedCmd {core tag} (wf : Memory.wf s = true) : Memory.wf (movedCmd s core tag) = true := wf_post (wf_modCmd wf)

theorem wf_noteMoved {core tag n host} (wf : Memory.wf s = true) : Memory.wf (noteMoved s core tag n host) = true := wf_modCmd wf

theorem nextWf_withLinesAsked {core : Nat} {m : Cmd} {src dst : Target} {k : State → Result} (wf : Memory.wf s = true)
    (cont : ∀ u, Memory.wf u = true → NextWf (k u)) : NextWf (withLinesAsked s core m src dst k) :=
  nextWf_ite (cont _ wf) (nextWf_ite (wf_post (wf_askLine (wf_askLine (wf_modCmd wf)))) (nextWf_ite (wf_post wf) (cont _ wf)))

theorem nextWf_copyPiece {core m} (wf : Memory.wf s = true) : NextWf (copyPiece s core m) := by
  unfold copyPiece
  refine nextWf_ite (wf_movedCmd wf) ?_
  split
  · exact wf_faultCmd wf
  · next e2 => exact wf_post (wf_of_engineLine_waits wf e2)
  · next e2 =>
      split
      · exact wf_faultCmd (wf_of_engineLine wf e2)
      · next e3 => exact wf_post (wf_of_engineLine_waits (wf_of_engineLine wf e2) e3)
      · next e3 =>
          refine nextWf_ite (wf_post (wf_of_engineLine (wf_of_engineLine wf e2) e3))
            (nextWf_withLinesAsked (wf_of_engineLine (wf_of_engineLine wf e2) e3) (fun _ h' => ?_))
          split
          · exact wf_faultCmd h'
          · exact wf_post (wf_noteMoved (Memory.wf_engineWrite (wf_sendPeer (wf_sendPeer (wf_chargeMiss (wf_chargeMiss h')))) _ _ _ _))

/-- The same of the lines of a chunk, checked in order. -/
def ChunkWf {β : Type} (r : Except LineOutcome (State × β)) : Prop :=
  match r with
  | .ok p => Memory.wf p.1 = true
  | .error q => LineWf q

theorem chunkWf_chunkLines {core m write l acc} (wf : Memory.wf s = true) : ChunkWf (chunkLines core m write l s acc) := by
  induction l generalizing s acc with
  | nil => exact wf
  | cons p l ih =>
    have line := lineWf_engineLine (core := core) (m := m) (p := p.1) (write := write) (n := p.2) wf
    unfold chunkLines
    split
    · next e => exact ih (wf_of_engineLine wf e)
    · exact line

theorem wf_of_chunkLines {core m write l acc r} (wf : Memory.wf s = true) (e : chunkLines core m write l s acc = .ok (u, r)) :
    Memory.wf u = true := by
  have chunk := chunkWf_chunkLines (core := core) (m := m) (write := write) (l := l) (acc := acc) wf
  rw [e] at chunk
  exact chunk

theorem lineWf_of_chunkLines {core m write l acc r} (wf : Memory.wf s = true) (e : chunkLines core m write l s acc = .error r) :
    LineWf r := by
  have chunk := chunkWf_chunkLines (core := core) (m := m) (write := write) (l := l) (acc := acc) wf
  rw [e] at chunk
  exact chunk

theorem wf_writeChunk {core m l bs} (wf : Memory.wf s = true) : Memory.wf (writeChunk core m l bs s) = true := by
  induction l generalizing s bs with
  | nil => exact wf
  | cons p l ih => exact ih (Memory.wf_engineWrite (wf_sendUnit wf) _ _ _ _)

theorem wf_sendLines {core m l} (wf : Memory.wf s = true) : Memory.wf (sendLines core m s l) = true :=
  wf_foldl (fun _ _ h => wf_sendUnit h) wf

theorem nextWf_chunkStop {core m start r} (wf : Memory.wf s = true) (line : LineWf r) : NextWf (chunkStop s core m start r) := by
  cases r with
  | ok t x => exact line
  | failed c => exact wf_faultCmd wf
  | waits t => exact wf_post line

theorem nextWf_bulkPiece {core m} (wf : Memory.wf s = true) : NextWf (bulkPiece s core m) := by
  unfold bulkPiece
  refine nextWf_ite (nextWf_idleEvent wf) (nextWf_ite (wf_movedCmd wf) ?_)
  split
  · next e => exact nextWf_chunkStop wf (lineWf_of_chunkLines wf e)
  · next e =>
    have read := wf_of_chunkLines wf e
    split
    · next e => exact nextWf_chunkStop read (lineWf_of_chunkLines read e)
    · next e =>
      have checked := wf_of_chunkLines read e
      refine nextWf_ite (wf_post checked) (nextWf_ite (wf_post (wf_modCmd checked)) ?_)
      split
      · exact wf_faultCmd checked
      · exact wf_ite (wf_movedCmd (wf_noteMoved (wf_writeChunk (wf_sendLines checked))))
          (wf_freeBulk (wf_noteMoved (wf_writeChunk (wf_sendLines checked))))

theorem chunkWf_collSource {core m count} (wf : Memory.wf s = true) : ChunkWf (collSource s core m count) := by
  unfold collSource
  split
  · next e => exact lineWf_of_chunkLines wf e
  · next e =>
    have checked := wf_of_chunkLines wf e
    split
    · exact checked
    · split
      · trivial
      · exact wf_sendLines checked

theorem lineWf_destHeld {n l r} (wf : Memory.wf s = true) (e : destHeld n l s = some r) : LineWf r := by
  induction l generalizing s with
  | nil => cases e
  | cons c l ih =>
    unfold destHeld at e
    split at e
    · next e' =>
      cases e
      exact lineWf_of_chunkLines wf e'
    · exact ih wf e
    · next e' => exact ih (wf_of_chunkLines wf e') e

theorem wf_collDeliver {res e} (wf : Memory.wf s = true) : Memory.wf (collDeliver res s e) = true := by
  unfold collDeliver
  dsimp only
  split
  · exact wf_faultCmd wf
  · exact wf_faultCmd wf
  · next e2 => exact wf_movedCmd (wf_noteMoved (wf_writeChunk (wf_of_chunkLines wf e2)))

theorem wf_of_collSources {count l acc r} (wf : Memory.wf s = true) (e : collSources count l s acc = .ok (u, r)) :
    Memory.wf u = true := by
  induction l generalizing s acc with
  | nil =>
    cases e
    exact wf
  | cons c l ih =>
    have source := chunkWf_collSource (core := c.1) (m := c.2) (count := count) wf
    unfold collSources at e
    split at e
    · next e' =>
      rw [e'] at source
      exact ih source e
    · cases e

theorem lineWf_of_collSources {count l acc c r} (wf : Memory.wf s = true) (e : collSources count l s acc = .error (c, r)) : LineWf r := by
  induction l generalizing s acc with
  | nil => cases e
  | cons c l ih =>
    have source := chunkWf_collSource (core := c.1) (m := c.2) (count := count) wf
    unfold collSources at e
    split at e
    · next e' =>
      rw [e'] at source
      exact ih source e
    · next e' =>
      rw [e'] at source
      cases e
      exact source

theorem wf_failRound {ms own} (wf : Memory.wf s = true) : Memory.wf (failRound s ms own) = true := by
  unfold failRound
  refine wf_foldl (fun _ _ h => ?_) wf
  split <;> exact wf_faultCmd h

theorem nextWf_runRound {ms c} (wf : Memory.wf s = true) : NextWf (runRound s ms c) := by
  unfold runRound
  refine nextWf_ite (wf_failRound wf) ?_
  dsimp only
  split
  · exact wf_failRound wf
  · next e => exact wf_post (lineWf_of_collSources wf e :)
  · next e => exact (lineWf_of_collSources wf e :)
  · next e =>
    have read := wf_of_collSources wf e
    split
    · next e => exact wf_foldl (fun _ _ h => wf_post h) (lineWf_destHeld read e :)
    · exact wf_foldl (fun _ _ h => wf_collDeliver h) read

theorem nextWf_collPiece {core m c} (wf : Memory.wf s = true) : NextWf (collPiece s core m c) :=
  nextWf_ite (wf_faultCmd wf) (nextWf_ite (wf_movedCmd wf) (nextWf_ite (wf_post wf) (nextWf_runRound wf)))

theorem nextWf_execEnginePiece {core tag} (wf : Memory.wf s = true) : NextWf (execEnginePiece core tag s) := by
  unfold execEnginePiece
  split
  · exact nextWf_idleEvent wf
  · refine nextWf_ite (nextWf_idleEvent wf) ?_
    split
    · exact nextWf_copyPiece wf
    · exact nextWf_bulkPiece wf
    · exact nextWf_collPiece wf
    · exact nextWf_idleEvent wf

theorem nextWf_execBulkChunkSelect {die} (wf : Memory.wf s = true) : NextWf (execBulkChunkSelect die s) := by
  unfold execBulkChunkSelect
  refine nextWf_ite (wf_foldl (fun _ _ h => wf_modCmd h) wf) ?_
  dsimp only
  split
  · exact wf_foldl (fun _ _ h' => wf_modCmd h') wf
  · exact wf_post (wf_modDie (wf_foldl (fun _ _ h' => wf_modCmd h') wf))

theorem wf_dropCmd {core tag} (wf : Memory.wf s = true) : Memory.wf (dropCmd s core tag) = true := wf_noteEmpty (wf_modCore wf)

theorem wf_engineGoesOn {core kind serial} (wf : Memory.wf s = true) : Memory.wf (engineGoesOn s core kind serial) = true := by
  unfold engineGoesOn
  split
  · exact wf_startNext wf
  · exact wf_freeBulk wf
  · exact wf

theorem wf_completeCmd {core m} (wf : Memory.wf s = true) : Memory.wf (completeCmd s core m) = true := by
  unfold completeCmd
  dsimp only
  split
  · exact wf_engineGoesOn (wf_dropCmd (wf_postRecord wf))
  · exact wf_post (wf_modCore (wf_dropCmd (wf_postRecord wf)))

theorem wf_makePost {core tag} (wf : Memory.wf s = true) : Memory.wf (makePost s core tag) = true := by
  unfold makePost
  dsimp only
  split
  · exact wf
  · exact wf_ite (wf_post wf) (wf_engineGoesOn (wf_noteEmpty (wf_modCore (wf_setQueue wf))))

theorem nextWf_execEngineCommandComplete {core tag} (wf : Memory.wf s = true) : NextWf (execEngineCommandComplete core tag s) := by
  unfold execEngineCommandComplete
  dsimp only
  split
  · exact wf_makePost wf
  · split
    · exact nextWf_ite (wf_post (wf_makePost wf)) (nextWf_ite (wf_post (wf_modCmd (wf_sendOut (wf_makePost wf))))
        (nextWf_ite (wf_post (wf_makePost wf)) (wf_completeCmd (wf_makePost wf))))
    · exact wf_post (wf_modCmd (wf_makePost wf))
    · exact wf_makePost wf

theorem nextWf_execCompletionTimeout {core tag} (wf : Memory.wf s = true) : NextWf (execCompletionTimeout core tag s) := by
  unfold execCompletionTimeout
  split
  · exact nextWf_idleEvent wf
  · exact nextWf_ite (nextWf_idleEvent wf) (wf_faultCmd wf)

end

end Sys2Proof.Proofs
end

section
/-!
PROOFS. Every step keeps the canonical form of memory, part 3 of 7: homes, propagation, ranges, rights, the work of a launch, the supervisor,
and window accumulators.
-/

namespace Sys2Proof.Proofs

open Sys2Proof Sys2Proof.Machine Sys2Proof.Claims

section

variable {s u : State}

/-! ### Homes -/

theorem wf_sendHome {core id e} (wf : Memory.wf s = true) : Memory.wf (sendHome s core id e) = true := wf_post (wf_modCore wf)

theorem nextWf_awaitReply {id} (wf : Memory.wf s = true) : NextWf (awaitReply s id) := nextWf_waitFor wf

theorem wf_amoApply {die o a} (wf : Memory.wf s = true) : Memory.wf (amoApply s die o a).1 = true := by
  unfold amoApply
  dsimp only
  split
  · exact wf_ite (wf_countError wf) wf
  · dsimp only
    split
    · exact Memory.wf_writeStored wf _ _ _ _ _
    · exact wf

theorem nextWf_execAmo {op sz d a b} (wf : Memory.wf s = true) : NextWf (execAmo op sz d a b s) := by
  unfold execAmo
  refine nextWf_ite (nextWf_illegal wf) (nextWf_withAccess wf fun v t wfV => nextWf_withSlots wfV
    (nextWf_afterFences wfV (nextWf_orderedBefore wfV (nextWf_afterSettle wfV ?_))))
  extract_lets args s₁
  split
  next s₂ started =>
  have wf₂ : Memory.wf s₂ = true := wf_of_startOp (wf_dropL1 wfV) started
  extract_lets s₃
  have wf₃ : Memory.wf s₃ = true := by
    refine wf_ite ?_ (wf_sendHome wf₂)
    split
    · exact wf_sendReply (wf_amoApply (wf_sendPeer wf₂))
    · exact wf₂
  exact nextWf_ite (nextWf_awaitReply wf₃) (wf_retire (wf_ite (wf_orderedAfter wf₃) (wf_modMe (wf_orderedAfter wf₃))))

theorem wf_leaveHome {core id} (wf : Memory.wf s = true) : Memory.wf (leaveHome s core id) = true := wf_modCore wf

theorem nextWf_atHome {core : Nat} {sel : Op → Bool} {again : Event} {k : Op → Result} (wf : Memory.wf s = true)
    (cont : ∀ x, NextWf (k x)) : NextWf (atHome s core sel again k) := by
  unfold atHome
  refine nextWf_ite (nextWf_idleEvent wf) (nextWf_ite (wf_postAll wf) (nextWf_ite (wf_post wf) ?_))
  split
  · exact cont _
  · exact wf_post wf

theorem nextWf_execAmoHomeExecute {core} (wf : Memory.wf s = true) : NextWf (execAmoHomeExecute core s) := by
  unfold execAmoHomeExecute
  refine nextWf_atHome wf (fun _ => ?_)
  split
  · exact wf_sendReply (wf_amoApply (wf_askLines (wf_leaveHome wf)))
  · exact nextWf_idleEvent wf

theorem nextWf_execMsend {d a b n} (wf : Memory.wf s = true) : NextWf (execMsend d a b n s) := by
  unfold execMsend
  refine nextWf_ite (nextWf_illegal wf) (nextWf_withSlots wf (nextWf_afterFences wf (nextWf_orderedBefore wf ?_)))
  extract_lets hid mine s₁
  split
  next s₂ started =>
  have wf₂ : Memory.wf s₂ = true := wf_of_startOp (wf_modCore wf) started
  extract_lets s₃
  have wf₃ : Memory.wf s₃ = true := wf_ite (wf_sendHome wf₂) (wf_ite (wf_sendPeer (wf_mk wf₂)) (wf_sendReply wf₂))
  exact nextWf_ite (nextWf_awaitReply wf₃) (wf_retire (wf_ite wf₃ (wf_modMe wf₃)))

theorem wf_chargeHandler {h n} (wf : Memory.wf s = true) : Memory.wf (chargeHandler s h n) = true := wf_ite wf (wf_chargeAgent wf)

theorem nextWf_execMessageArrival {core} (wf : Memory.wf s = true) : NextWf (execMessageArrival core s) := by
  refine nextWf_atHome wf fun o => ?_
  dsimp only
  split
  · split
    · exact wf_sendReply (wf_ite (wf_chargeHandler (wf_leaveHome wf)) (wf_leaveHome wf))
    · dsimp only [NextWf]
      split
      · exact wf_acquireAt (wf_setHart (wf_chargeHandler (wf_leaveHome wf)))
      · exact wf_setHart (wf_chargeHandler (wf_leaveHome wf))
  · exact nextWf_idleEvent wf

theorem nextWf_execMret (wf : Memory.wf s = true) : NextWf (execMret s) := by
  unfold execMret
  refine nextWf_ite (nextWf_illegal wf) (nextWf_ite (nextWf_waitFor wf) ?_)
  dsimp only
  split
  · exact wf_freeHandler wf
  · exact wf_endHandler (wf_modCore (wf_ite (wf_modHart wf) wf))

theorem nextWf_execHandlerBudgetExhausted {core} (wf : Memory.wf s = true) : NextWf (execHandlerBudgetExhausted core s) :=
  nextWf_ite (wf_endHandler wf) (nextWf_idleEvent wf)

theorem nextWf_takeMpend {d} (wf : Memory.wf s = true) : NextWf (takeMpend s d) := wf_modMe (wf_acquireAt wf)

theorem wf_completeReply {o r} (wf : Memory.wf s = true) : Memory.wf (completeReply s o r) = true := by
  unfold completeReply
  extract_lets finish
  have wfFinish (f : Hart → Hart) : Memory.wf (finish f) = true := by
    unfold finish
    dsimp only
    split
    · exact wf_acquireAt (wf_modHart wf)
    · exact wf_modHart wf
  cases r with
  | value v bad => exact wfFinish _
  | pair lo hi => exact wfFinish _
  | latched lo hi pr l => exact wfFinish _
  | counts l => exact wfFinish _
  | ack => exact wfFinish _
  | misuse => exact wf_takeTrap wf
  | illegal w => exact wf_takeTrap wf
  | memoryError => exact wf_takeTrap wf

theorem wf_lateResult {o r} (wf : Memory.wf s = true) : Memory.wf (lateResult s o r) = true := by
  unfold lateResult
  split
  · exact wf_modHart wf
  · exact wf

theorem wf_countStatus {o r} (wf : Memory.wf s = true) : Memory.wf (countStatus s o r) = true := by
  unfold countStatus
  split
  · exact wf_ite wf (wf_modCore wf)
  · exact wf

theorem nextWf_execHomeReplyArrival {op} (wf : Memory.wf s = true) : NextWf (execHomeReplyArrival op s) := by
  unfold execHomeReplyArrival
  split
  · exact nextWf_idleEvent wf
  · split
    · exact nextWf_idleEvent wf
    · extract_lets st s₁ s₂ s₃ v
      have wf₃ : Memory.wf s₃ = true := wf_ite (wf_dropL1 (wf_countStatus (wf_dropOp wf))) (wf_countStatus (wf_dropOp wf))
      exact nextWf_ite (wf_sendAnswer (wf_dropOp wf)) (nextWf_ite (wf_post wf) (nextWf_ite (wf_post wf)
        (nextWf_ite wf₃ (nextWf_ite (wf_completeReply wf₃) (wf_lateResult wf₃)))))

/-! ### Propagation -/

theorem wf_applyFlight {f} (wf : Memory.wf s = true) : Memory.wf (applyFlight s f) = true :=
  wf_settleBarriers (wf_foldl (fun _ _ h => Memory.wf_settleUnit h _) (wf_ite (Memory.wf_landWrite (wf_mk wf) _ _ _ _)
    (wf_setStamp (Memory.wf_landWrite (wf_mk wf) _ _ _ _))))

theorem wf_afterMca {w} (wf : Memory.wf s = true) : Memory.wf (afterMca s w) = true := wf_ite (wf_dropL1 wf) (wf_ite wf (wf_updateL1 wf))

theorem wf_applyMca {w} (wf : Memory.wf s = true) : Memory.wf (applyMca s w) = true :=
  wf_settleBarriers (wf_afterMca (Memory.wf_applyEverywhere (wf_mk wf) _ _ _))

theorem nextWf_execRemoteWriteApply {flight} (wf : Memory.wf s = true) : NextWf (execRemoteWriteApply flight s) := by
  unfold execRemoteWriteApply
  split
  · exact wf_ite (wf_applyFlight wf) (wf_post wf)
  · split
    · exact wf_ite (wf_applyMca wf) (wf_post wf)
    · exact nextWf_idleEvent wf

theorem nextWf_execSettleWrite {die key} (wf : Memory.wf s = true) : NextWf (execSettleWrite die key s) :=
  nextWf_ite (nextWf_idleEvent wf) (nextWf_ite (nextWf_idleEvent wf) (nextWf_ite (wf_post wf)
    (nextWf_ite (wf_setPtroot wf) (Memory.wf_applyUnder wf _ _ _ _))))

/-! ### Ranges -/

theorem wf_stripGrants {lo n} (wf : Memory.wf s = true) : Memory.wf (stripGrants s lo n) = true := wf_mk wf

theorem wf_dropRange {r} (wf : Memory.wf s = true) : Memory.wf (dropRange s r) = true :=
  wf_ite (wf_mk (wf_mk wf)) (wf_ite (wf_mk (wf_mk wf)) (wf_mk (wf_mk wf)))

theorem wf_endFree {w} (wf : Memory.wf s = true) : Memory.wf (endFree s w) = true := by
  unfold endFree
  split
  · split
    · exact wf_dropRange wf
    · exact wf
  · exact wf

theorem wf_returnWithdrawn {launch} (wf : Memory.wf s = true) : Memory.wf (returnWithdrawn s launch) = true := wf_mk wf

/-! ### Rights -/

theorem wf_shootDone {t} (wf : Memory.wf s = true) : Memory.wf (shootDone s t) = true := by
  unfold shootDone
  split
  · exact wf
  · exact wf_finishEntry wf
  · dsimp only
    split
    · exact wf_mk wf
    · exact wf_post (wf_mk wf)
  · refine wf_ite wf (wf_modHart ?_)
    split
    · exact wf_acquireAt wf
    · exact wf

theorem wf_endShoot {what next} (wf : Memory.wf s = true) : Memory.wf (endShoot s what next) = true :=
  wf_shootDone (wf_foldl (fun _ _ h => wf_endFree h) wf)

theorem wf_startShoot {what next} (wf : Memory.wf s = true) : Memory.wf (startShoot s what next) = true :=
  wf_ite (wf_endShoot wf) (wf_postAll (wf_mk (wf_mk wf)))

theorem wf_freeRange {r next} (wf : Memory.wf s = true) : Memory.wf (freeRange s r next) = true := wf_startShoot (wf_stripGrants wf)

theorem nextWf_execPlbShootdown {core shoot} (wf : Memory.wf s = true) : NextWf (execPlbShootdown core shoot s) := by
  unfold execPlbShootdown
  split
  · exact nextWf_idleEvent wf
  · exact nextWf_ite (nextWf_idleEvent wf) (wf_post (wf_mk (wf_mk (wf_modCore wf))))

theorem nextWf_execPlbShootdownAck {core shoot} (wf : Memory.wf s = true) : NextWf (execPlbShootdownAck core shoot s) := by
  unfold execPlbShootdownAck
  split
  · exact nextWf_idleEvent wf
  · exact nextWf_ite (nextWf_idleEvent wf) (nextWf_ite (wf_post wf) (nextWf_ite (wf_mk wf)
      (nextWf_ite (wf_post wf) (wf_endShoot (wf_mk wf)))))

theorem wf_of_tagCheck {h p t} (wf : Memory.wf s = true) (e : tagCheck s h p = .ok u t) : Memory.wf u = true := by
  unfold tagCheck at e
  dsimp only at e
  split at e
  · cases e
  · next e' =>
    split at e
    · cases e
    · cases e
      exact wf_of_plbRange wf e'

theorem wf_of_pointerCheck {h p t} (wf : Memory.wf s = true) (e : pointerCheck s h p = .ok u t) : Memory.wf u = true := by
  unfold pointerCheck at e
  dsimp only at e
  split at e
  · cases e
  · split at e <;> cases e
    exact wf
  · split at e <;> cases e
    exact wf
  · split at e
    · cases e
    · split at e <;> cases e
      exact wf
  · cases e
  · exact wf_of_tagCheck wf e
  · split at e
    · cases e
    · cases e
    · next e' =>
      split at e
      · cases e
      · exact wf_of_tagCheck (wf_of_findLeaf wf e') e

theorem nextWf_withPointer {p : Word} {k : State → Result} (wf : Memory.wf s = true)
    (cont : ∀ u, Memory.wf u = true → NextWf (k u)) : NextWf (withPointer s p k) := by
  unfold withPointer
  split
  · next e1 => exact cont _ (wf_of_pointerCheck wf e1)
  · exact nextWf_trapR wf
  · exact nextWf_waitWalk wf

theorem nextWf_askRights {isGrant a b} (wf : Memory.wf s = true) : NextWf (askRights s isGrant a b) :=
  nextWf_waitFor (wf_post (wf_modDie wf))

theorem nextWf_execGrant {a b} (wf : Memory.wf s = true) : NextWf (execGrant a b s) :=
  nextWf_ite (nextWf_illegal wf) (nextWf_ite (nextWf_trapR wf) (nextWf_withPointer wf (fun _ h => nextWf_askRights h)))

theorem nextWf_execRevoke {a b} (wf : Memory.wf s = true) : NextWf (execRevoke a b s) :=
  nextWf_ite (nextWf_illegal wf) (nextWf_ite (nextWf_trapR wf) (nextWf_withPointer wf
    (fun _ h => nextWf_ite (nextWf_trapR h) (nextWf_afterRelease h (nextWf_askRights h)))))

theorem wf_of_grantAt {r} (wf : Memory.wf s = true) (e : grantAt s r = .ok u) : Memory.wf u = true := by
  unfold grantAt at e
  dsimp only at e
  split at e
  · cases e
  · split at e
    · cases e
    · split at e
      · cases e
        exact wf_setRights wf
      · split at e <;> cases e
        exact wf_setRights wf

theorem wf_foldl_fst {α β : Type} {f : State × β → α → State × β} {l : List α} {p : State × β}
    (each : ∀ q a, Memory.wf q.1 = true → Memory.wf (f q a).1 = true) (wf : Memory.wf p.1 = true) : Memory.wf (l.foldl f p).1 = true := by
  induction l generalizing p with
  | nil => exact wf
  | cons a l ih => exact ih (each p a wf)

theorem wf_revokeFrom {f who grantor lo hi gone acc} (wf : Memory.wf s = true) :
    Memory.wf (revokeFrom f s who grantor lo hi gone acc).1 = true := by
  induction f generalizing s who grantor lo hi gone acc with
  | zero => exact wf
  | succ f ih =>
    unfold revokeFrom
    dsimp only
    split
    · exact wf
    · exact wf_foldl_fst (fun _ _ h => wf_foldl_fst (fun _ _ h' => ih h') h) (wf_setRights wf)

theorem wf_revokeAt {r} (wf : Memory.wf s = true) : Memory.wf (revokeAt s r).1 = true := by
  unfold revokeAt
  dsimp only
  split
  · exact wf
  · exact wf_revokeFrom wf

theorem nextWf_execRightsRequestArrival {die} (wf : Memory.wf s = true) : NextWf (execRightsRequestArrival die s) := by
  unfold execRightsRequestArrival
  split
  · exact nextWf_idleEvent wf
  · dsimp only
    refine nextWf_ite ?_ (wf_startShoot (wf_revokeAt (wf_modDie wf)))
    split
    · exact wf_ite (wf_takeTrap (wf_modDie wf)) (wf_modDie wf)
    · next e4 => exact wf_ite (wf_modHart (wf_of_grantAt (wf_modDie wf) e4)) (wf_of_grantAt (wf_modDie wf) e4)

theorem nextWf_execPageWalkComplete {h} (wf : Memory.wf s = true) : NextWf (execPageWalkComplete h s) := by
  unfold execPageWalkComplete
  dsimp only
  split
  · exact nextWf_idleEvent wf
  · refine nextWf_ite (wf_post wf) (wf_ite (wf_modHart ?_) ?_)
    · split
      · exact wf_fillSlice (wf_chargeWalk (wf_modDie wf))
      · exact wf_chargeWalk (wf_modDie wf)
    · split
      · exact wf_fillSlice (wf_chargeWalk (wf_modDie wf))
      · exact wf_chargeWalk (wf_modDie wf)

theorem nextWf_execPgreq {d a b} (wf : Memory.wf s = true) : NextWf (execPgreq d a b s) := by
  unfold execPgreq
  refine nextWf_ite (nextWf_illegal wf) (nextWf_ite (nextWf_trapR wf) ?_)
  split
  · exact nextWf_trapR wf
  · next found =>
    have wfFound := wf_of_plbRange wf found
    refine nextWf_ite (nextWf_trapR wfFound) ?_
    split
    · exact nextWf_trapR wfFound
    · next granted =>
      have wfGranted := wf_of_plbRight wfFound granted
      exact nextWf_ite (nextWf_done4With wfGranted) (nextWf_ite (nextWf_waitFor (wf_postAll wfGranted))
        (nextWf_ite (nextWf_waitFor wfGranted) (nextWf_waitFor (wf_post (wf_sendOut (wf_modTenant wfGranted))))))

theorem wf_pageAnswer {h d v} (wf : Memory.wf s = true) : Memory.wf (pageAnswer s h d v) = true := wf_modHart wf

theorem nextWf_execPageRequestResponse {h code} (wf : Memory.wf s = true) : NextWf (execPageRequestResponse h code s) := by
  unfold execPageRequestResponse
  dsimp only
  split
  · exact nextWf_idleEvent wf
  · split
    · exact nextWf_ite (wf_modTenant (wf_raiseExternal wf)) (wf_pageAnswer (wf_ite (wf_modTenant (wf_modTenant (wf_raiseExternal wf)))
        (wf_modTenant (wf_raiseExternal wf))))
    · exact wf_modTenant (wf_raiseExternal wf)

theorem nextWf_execPgreqTimeout {h} (wf : Memory.wf s = true) : NextWf (execPgreqTimeout h s) := by
  unfold execPgreqTimeout
  split
  · exact wf_ite (wf_pageAnswer wf) (wf_post wf)
  · exact nextWf_idleEvent wf

theorem nextWf_execAtsTranslationCompletion {die tenant page reply} (wf : Memory.wf s = true) :
    NextWf (execAtsTranslationCompletion die tenant page reply s) := by
  unfold execAtsTranslationCompletion
  refine nextWf_ite (nextWf_idleEvent wf) ?_
  split
  · exact wf_modDie wf
  · exact wf_ite (wf_modDie wf) (wf_modDie (wf_modDie wf))

theorem nextWf_execAtsInvalidationRequest {tenant page len} (wf : Memory.wf s = true) :
    NextWf (execAtsInvalidationRequest tenant page len s) :=
  wf_post (wf_mk (wf_raiseExternal (wf_mk (wf_foldl (fun _ _ h => wf_ite (wf_faultCmd h) (wf_ite (wf_faultCmd h) h)) (wf_mk wf)))))

theorem nextWf_execAtsInvalidationCompletion {inval} (wf : Memory.wf s = true) : NextWf (execAtsInvalidationCompletion inval s) := by
  unfold execAtsInvalidationCompletion
  split
  · exact nextWf_idleEvent wf
  · exact wf_sendOut (wf_mk wf)

/-! ### The work of a launch -/

theorem wf_settleWork {clus} (wf : Memory.wf s = true) : Memory.wf (settleWork s clus) = true :=
  wf_ite (wf_post (wf_noteEmpty (wf_modCluster wf))) (wf_modCluster wf)

theorem wf_settleNode {launch node} (wf : Memory.wf s = true) : Memory.wf (settleNode s launch node) = true := by
  unfold settleNode
  split
  · exact wf_foldl (fun _ _ h => wf_settleWork h) wf
  · exact wf

theorem wf_tileDone {h} (wf : Memory.wf s = true) : Memory.wf (tileDone s h) = true :=
  wf_ite (wf_settleNode (wf_mk (wf_completeTile wf))) (wf_completeTile wf)

theorem nextWf_withTileDone {k : State → Result} (wf : Memory.wf s = true) (cont : ∀ u, Memory.wf u = true → NextWf (k u)) :
    NextWf (withTileDone s k) := nextWf_ite (cont _ wf) (nextWf_afterRelease wf (cont _ (wf_tileDone wf)))

theorem nextWf_handTile {d} (wf : Memory.wf s = true) : NextWf (handTile s d) := by
  unfold handTile
  dsimp only
  split
  · exact wf_modMe wf
  · exact nextWf_ite (wf_modMe (wf_modNode wf)) (wf_ite (wf_dispatchComplete (wf_modMe (wf_modNode wf))) (wf_modMe (wf_modNode wf)))

theorem nextWf_execTfetch {d} (wf : Memory.wf s = true) : NextWf (execTfetch d s) :=
  nextWf_ite (nextWf_illegal wf) (nextWf_withTileDone wf (fun _ h => nextWf_ite (nextWf_ite (nextWf_waitFor h) (wf_waitStop h))
    (nextWf_ite (nextWf_waitFor h) (nextWf_handTile h))))

theorem nextWf_haltHart {borrower} (wf : Memory.wf s = true) : NextWf (haltHart s borrower) :=
  nextWf_ite (nextWf_waitFor wf) (nextWf_withTileDone wf (fun _ h => nextWf_ite (nextWf_waitFor h)
    (wf_freeContext (wf_foldl (fun _ _ h' => wf_abandonCmd h') h))))

theorem wf_placeNode {clus l id n isLocal} (wf : Memory.wf s = true) : Memory.wf (placeNode s clus l id n isLocal) = true :=
  wf_offerCluster (wf_foldl (fun _ _ h => wf_ite (wf_post h) h) (wf_modNode (wf_modCluster wf)))

theorem wf_countSpawn {l} (wf : Memory.wf s = true) : Memory.wf (countSpawn s l) = true := wf_modCore wf

theorem wf_addNode {l n} (wf : Memory.wf s = true) : Memory.wf (addNode s l n) = true :=
  wf_ite (wf_placeNode (wf_modNode (wf_countSpawn (wf_modLaunch wf)))) (wf_readyNode (wf_countSpawn (wf_modLaunch wf)))

theorem nextWf_execTspawn {d a} (wf : Memory.wf s = true) : NextWf (execTspawn d a s) := by
  unfold execTspawn
  refine nextWf_ite (nextWf_illegal wf) (nextWf_ite (nextWf_trapR wf) ?_)
  refine nextWf_withLines wf fun u ts wfU => nextWf_withServed wfU fun v wfV => ?_
  have loaded : ∀ l : List Target, Memory.wf (l.foldl (fun acc t =>
        match acc with
        | (s, none) => (s, none)
        | (s, some bs) =>
          let r := loadBytes s s.cur t 64
          (r.1, r.2.map (bs ++ ·))) (v, some [])).1 = true := fun l => wf_foldl_fst (fun q t wfQ => by
      split
      · exact wfQ
      · exact Memory.wf_loadBytes wfQ _ _ _) wfV
  dsimp only
  split
  · next e => exact nextWf_trapR (wf_fst e (loaded ts))
  · next e =>
    have wfR := wf_fst e (loaded ts)
    split
    · exact nextWf_done4With wfR
    · exact nextWf_ite (nextWf_done4With (wf_countSpawn wfR)) (nextWf_afterRelease wfR (nextWf_done4With (wf_addNode wfR)))

/-! ### Submission -/

theorem wf_makeWorldKey {tenant keyh launch} (wf : Memory.wf s = true) : Memory.wf (makeWorldKey s tenant keyh launch) = true :=
  wf_ite wf (wf_mk wf)

theorem wf_acceptLaunch {r levels jseq} (wf : Memory.wf s = true) : Memory.wf (acceptLaunch s r levels jseq) = true :=
  wf_readyNodes (wf_post (wf_journalSet (wf_chargeAgent (wf_mk (wf_makeWorldKey (wf_mk wf))))))

theorem wf_abortLaunch {l} (wf : Memory.wf s = true) : Memory.wf (abortLaunch s l) = true := wf_endLaunch wf

theorem wf_giveCounter {id tenant v} (wf : Memory.wf s = true) : Memory.wf (giveCounter s id tenant v) = true :=
  wf_retestCounter (wf_mk wf)

theorem wf_takeCounter {id} (wf : Memory.wf s = true) : Memory.wf (takeCounter s id) = true := wf_retestCounter (wf_mk wf)

/-! ### The supervisor -/

theorem wf_reflect {h} (wf : Memory.wf s = true) : Memory.wf (reflect s h) = true := wf_modHart (wf_writeRecord wf)

theorem wf_reportTrap {h} (wf : Memory.wf s = true) : Memory.wf (reportTrap s h) = true := wf_sendOut (wf_journalAdd wf)

theorem wf_trapEndsLaunch {h} (wf : Memory.wf s = true) : Memory.wf (trapEndsLaunch s h) = true := wf_endLaunch (wf_reportTrap wf)

theorem wf_saveHart {h kind} (wf : Memory.wf s = true) : Memory.wf (saveHart s h kind) = true := by
  unfold saveHart
  exact wf_freeContext (wf_ite (wf_modCore (Memory.wf_writeSave (wf_mk wf) _)) (Memory.wf_writeSave (wf_mk wf) _))

theorem wf_releaseStopped {h kind} (wf : Memory.wf s = true) : Memory.wf (releaseStopped s h kind) = true :=
  wf_ite (wf_endLaunch wf) (wf_saveHart wf)

theorem wf_supervise {h t} (wf : Memory.wf s = true) : Memory.wf (supervise s h t) = true := by
  unfold supervise
  refine wf_ite ?_ wf
  split
  · exact wf_ite (wf_reflect wf) (wf_trapEndsLaunch wf)
  · exact wf_trapEndsLaunch wf
  · exact wf_releaseStopped wf

/-! ### Window accumulators -/

theorem wf_writeSlot {die t op i v} (wf : Memory.wf s = true) : Memory.wf (writeSlot s die t op i v) = true :=
  Memory.wf_writeStored wf _ _ _ _ _

theorem wf_writeHeader {die t old h} (wf : Memory.wf s = true) : Memory.wf (writeHeader s die t old h) = true :=
  Memory.wf_writeStored wf _ _ _ _ _

theorem wf_of_flip {die t h x} (wf : Memory.wf s = true) (e : Machine.flip s die t h = some (u, x)) : Memory.wf u = true := by
  obtain ⟨vs, -, e⟩ := Option.map_eq_some_iff.mp e
  exact wf_fst e (wf_foldl (fun _ _ h => wf_writeSlot h) wf)

theorem wf_waccInit {die t cfg} (wf : Memory.wf s = true) : Memory.wf (waccInit s die t cfg).1 = true := by
  unfold waccInit
  dsimp only
  split
  · exact wf
  · exact Memory.wf_writeStored (wf_writeHeader wf) _ _ _ _ _

theorem wf_waccOn {die t old h w flipped} (wf : Memory.wf s = true) : Memory.wf (waccOn s die t old h w flipped).1 = true := by
  unfold waccOn
  split
  · exact wf
  · exact wf_writeHeader (wf_writeSlot wf)
  · split <;> exact wf
  · exact wf_ite (wf_writeHeader wf) wf
  · exact wf_writeHeader wf
  · exact wf

theorem wf_waccApply {die t w} (wf : Memory.wf s = true) : Memory.wf (waccApply s die t w).1 = true := by
  unfold waccApply
  split
  · exact wf_waccInit wf
  · split
    · exact wf
    · dsimp only
      split
      · exact wf
      · split
        · exact wf
        · split
          · split
            · exact wf
            · next e => exact wf_waccOn (wf_of_flip wf e)
          · exact wf_waccOn wf

theorem nextWf_waccSend {w d p t} (wf : Memory.wf s = true) : NextWf (waccSend s w d p t) :=
  nextWf_withSlots wf (nextWf_afterFences wf (nextWf_orderedBefore wf (nextWf_afterSettle wf
    (nextWf_ite (nextWf_awaitReply (wf_sendReply (wf_waccApply (wf_sendPeer (wf_mk (wf_mk (wf_dropL1 wf)))))))
    (nextWf_awaitReply (wf_sendHome (wf_mk (wf_mk (wf_dropL1 wf)))))))))

theorem nextWf_waccChecked {p : Word} {k : State → Target → Result} (wf : Memory.wf s = true)
    (cont : ∀ u x, Memory.wf u = true → NextWf (k u x)) : NextWf (waccChecked s p k) := by
  unfold waccChecked
  split
  · exact nextWf_trapR wf
  · exact nextWf_withAccess wf (fun _ _ h => nextWf_ite (nextWf_trapR h) (cont _ _ h))

theorem nextWf_waccIssue {w d a} (wf : Memory.wf s = true) : NextWf (waccIssue s w d a) :=
  nextWf_waccChecked wf (fun _ _ h => nextWf_waccSend h)

theorem nextWf_execWinit {a b} (wf : Memory.wf s = true) : NextWf (execWinit a b s) := by
  unfold execWinit
  refine nextWf_ite (nextWf_illegal wf) ?_
  dsimp only
  split
  · exact nextWf_trapR wf
  · exact nextWf_withAccess wf (fun _ _ h' => nextWf_ite (nextWf_trapR h') (nextWf_waccSend h'))

theorem nextWf_execWpush {d a b} (wf : Memory.wf s = true) : NextWf (execWpush d a b s) := by
  unfold execWpush
  refine nextWf_ite (nextWf_illegal wf) (nextWf_waccChecked wf (fun _ _ h => nextWf_ite (nextWf_waitFor h) ?_))
  split
  · exact nextWf_trapR h
  · exact nextWf_waccSend h

theorem nextWf_execWstat {d a} (wf : Memory.wf s = true) : NextWf (execWstat d a s) :=
  nextWf_ite (nextWf_illegal wf) (nextWf_ite (nextWf_orderedBefore wf (wf_retire (wf_modMe (wf_orderedAfter wf)))) (nextWf_waccIssue wf))

theorem wf_waccFinish {core o w} (wf : Memory.wf s = true) : Memory.wf (waccFinish s core o w) = true :=
  wf_sendReply (wf_waccApply (wf_askLines (wf_leaveHome wf)))

theorem nextWf_execWaccHomeExecute {core} (wf : Memory.wf s = true) : NextWf (execWaccHomeExecute core s) := by
  unfold execWaccHomeExecute
  refine nextWf_atHome wf (fun _ => ?_)
  split
  · exact nextWf_idleEvent wf
  · exact nextWf_ite (wf_modCore wf) (nextWf_ite (wf_post wf) (nextWf_ite (wf_post (wf_modCore wf)) (wf_waccFinish wf)))

theorem nextWf_execWaccFlipComplete {core header} (wf : Memory.wf s = true) : NextWf (execWaccFlipComplete core header s) := by
  unfold execWaccFlipComplete
  split
  · exact nextWf_idleEvent wf
  · dsimp only
    split
    · exact wf_modCore wf
    · split
      · exact wf_modCore wf
      · exact wf_waccFinish (wf_modCore wf)

end

end Sys2Proof.Proofs
end

section
/-!
PROOFS. Every step keeps the canonical form of memory, part 4 of 7: services and proxies, the edges of the device, loads and stores, and the
management of the device.
-/

namespace Sys2Proof.Proofs

open Sys2Proof Sys2Proof.Machine Sys2Proof.Claims

section

variable {s u : State}

/-! ### Services -/

theorem wf_takeSlot {d req n} (wf : Memory.wf s = true) : Memory.wf (takeSlot s d req n) = true := by
  unfold takeSlot
  dsimp only
  split
  · exact wf_post (wf_raiseOs (wf_modMe (wf_modDie (wf_mk wf))))
  · exact wf_raiseOs (wf_modMe (wf_modDie (wf_mk wf)))

theorem nextWf_execSvc {d a n} (wf : Memory.wf s = true) : NextWf (execSvc d a n s) :=
  nextWf_ite (nextWf_illegal wf) (nextWf_ite (nextWf_trapR wf) (nextWf_ite (nextWf_trapR wf)
    (nextWf_withAccess wf (fun _ _ h => nextWf_afterRelease h (nextWf_ite (wf_takeSlot h) (nextWf_waitFor (wf_modDie h)))))))

theorem wf_modSlot {id f} (wf : Memory.wf s = true) : Memory.wf (modSlot s id f) = true := wf_mk wf

theorem wf_dropSlot {id} (wf : Memory.wf s = true) : Memory.wf (dropSlot s id) = true := wf_mk wf

theorem wf_answer {v st} (wf : Memory.wf s = true) : Memory.wf (answer s v st) = true := wf_post (wf_modSlot wf)

theorem nextWf_execSvcStatusReturn {h} (wf : Memory.wf s = true) : NextWf (execSvcStatusReturn h s) := by
  unfold execSvcStatusReturn
  split
  · exact nextWf_idleEvent wf
  · exact nextWf_ite (wf_post wf) (nextWf_ite (wf_modHart (wf_acquireAt (wf_dropSlot wf))) (wf_dropSlot wf))

theorem wf_again {v} (wf : Memory.wf s = true) : Memory.wf (again s v) = true := by
  unfold again
  split
  · exact wf_post wf
  · exact wf

theorem wf_beginSlot {v} (wf : Memory.wf s = true) : Memory.wf (beginSlot s v) = true := wf_modSlot wf

theorem nextWf_serve {n slot : Nat} {k : State → SvcSlot → State} (wf : Memory.wf s = true)
    (cont : ∀ u x, Memory.wf u = true → Memory.wf (k u x) = true) : NextWf (serve n slot s k) := by
  unfold serve
  split
  · exact nextWf_idleEvent wf
  · exact nextWf_ite (wf_ite (cont _ _ (wf_beginSlot wf)) (wf_again wf)) (nextWf_idleEvent wf)

theorem wf_withRequest {v : SvcSlot} {n : Nat} {k : List Byte → State} (wf : Memory.wf s = true) (cont : ∀ x, Memory.wf (k x) = true) :
    Memory.wf (withRequest s v n k) = true := by
  unfold withRequest
  split
  · exact cont _
  · exact wf_answer wf

theorem wf_answerWith {old v off bytes} (wf : Memory.wf old = true) (wf' : Memory.wf s = true) :
    Memory.wf (answerWith old s v off bytes) = true := by
  unfold answerWith
  split
  · next e1 => exact wf_answer (wf_of_agentWrite wf' e1)
  · exact wf_answer wf

theorem nextWf_execSvcNop {slot} (wf : Memory.wf s = true) : NextWf (execSvcNop slot s) := nextWf_serve wf (fun _ _ h => wf_answer h)

theorem wf_addRange {r own rights} (wf : Memory.wf s = true) : Memory.wf (addRange s r own rights) = true := wf_setRights (wf_mk wf)

theorem nextWf_execRangeAlloc {slot} (wf : Memory.wf s = true) : NextWf (execRangeAlloc slot s) := by
  unfold execRangeAlloc
  refine nextWf_serve wf (fun _ _ h => wf_withRequest h (fun _ => wf_ite (wf_answer h) ?_))
  split
  · exact wf_answer h
  · exact wf_ite (wf_answer h) (wf_answerWith h (wf_addRange h))

theorem nextWf_execRangeFree {slot} (wf : Memory.wf s = true) : NextWf (execRangeFree slot s) := by
  unfold execRangeFree
  refine nextWf_serve wf (fun _ _ h => wf_withRequest h (fun _ => ?_))
  dsimp only
  split
  · exact wf_answer h
  · exact wf_ite (wf_answer h) (wf_ite (wf_answer h) (wf_freeRange h))

theorem wf_writeEntryAt {pa w} (wf : Memory.wf s = true) : Memory.wf (writeEntryAt s pa w) = true := Memory.wf_plainWrite wf _ _

theorem wf_of_entryFor {va target n table x} (wf : Memory.wf s = true) (e : entryFor va target n table s = some (u, x)) :
    Memory.wf u = true := by
  induction n generalizing s table with
  | zero =>
    cases e
    exact wf
  | succ n ih =>
    unfold entryFor at e
    dsimp only at e
    split at e
    · split at e
      · exact ih wf e
      · cases e
    · exact ih (wf_writeEntryAt (Memory.wf_zeroKeys wf _ _)) e
    · cases e

theorem nextWf_execPageMap {slot} (wf : Memory.wf s = true) : NextWf (execPageMap slot s) := by
  unfold execPageMap
  refine nextWf_serve wf (fun _ _ h => wf_withRequest h (fun _ => wf_ite (wf_answer h) ?_))
  split
  · split
    · next e3 => exact wf_startShoot (wf_writeEntryAt (wf_of_entryFor h e3))
    · exact wf_answer h
  · exact wf_answer h

theorem nextWf_execPageUnmap {slot} (wf : Memory.wf s = true) : NextWf (execPageUnmap slot s) := by
  unfold execPageUnmap
  refine nextWf_serve wf (fun _ _ h => wf_withRequest h (fun _ => ?_))
  split
  · exact wf_answer h
  · exact wf_startShoot (wf_writeEntryAt h)

theorem nextWf_execResidency {h status} (wf : Memory.wf s = true) : NextWf (execResidency h status s) := by
  unfold execResidency
  dsimp only
  split
  · refine nextWf_ite (wf_pageAnswer (wf_ite (wf_modTenant wf) wf)) ?_
    split
    · split
      · exact wf_pageAnswer wf
      · next e5 => exact wf_startShoot (wf_writeEntryAt (wf_of_entryFor wf e5))
    · exact wf_startShoot (wf_ite wf (wf_writeEntryAt wf))
  · exact nextWf_idleEvent wf

theorem wf_rehome {src dst id e} (wf : Memory.wf s = true) : Memory.wf (rehome s src dst id e) = true := wf_sendHome (wf_leaveHome wf)

theorem wf_moveWacc {m o} (wf : Memory.wf s = true) : Memory.wf (moveWacc m s o) = true :=
  wf_ite (wf_modCore (wf_rehome (wf_mk wf))) (wf_rehome (wf_mk wf))

theorem wf_commitMigration {m} (wf : Memory.wf s = true) : Memory.wf (commitMigration s m) = true :=
  wf_foldl (fun _ _ h => wf_moveWacc h) (wf_startShoot wf)

theorem wf_migrateStep {slot m} (wf : Memory.wf s = true) : Memory.wf (migrateStep s slot m) = true := by
  unfold migrateStep
  refine wf_ite (wf_post wf) ?_
  split
  · exact wf_post (wf_mk (Memory.wf_moveLine wf _ _))
  · split
    · exact wf_commitMigration wf
    · exact wf_commitMigration (wf_writeEntryAt wf)

theorem nextWf_execMigrate {slot} (wf : Memory.wf s = true) : NextWf (execMigrate slot s) := by
  unfold execMigrate
  split
  · exact nextWf_ite (nextWf_idleEvent wf) (wf_migrateStep wf)
  · refine nextWf_serve wf (fun _ _ h => wf_withRequest h (fun _ => ?_))
    dsimp only
    split
    · exact wf_answer h
    · exact wf_ite (wf_answer h) (wf_post (wf_mk h))

theorem nextWf_execCounterAlloc {slot} (wf : Memory.wf s = true) : NextWf (execCounterAlloc slot s) := by
  unfold execCounterAlloc
  refine nextWf_serve wf (fun _ _ h => ?_)
  dsimp only
  split
  · exact wf_answer h
  · exact wf_answerWith h (wf_giveCounter h)

theorem nextWf_execCounterFree {slot} (wf : Memory.wf s = true) : NextWf (execCounterFree slot s) :=
  nextWf_serve wf (fun _ _ h => wf_withRequest h (fun _ => wf_ite (wf_answer h) (wf_ite (wf_answer h) (wf_answer (wf_takeCounter h)))))

theorem nextWf_execKeyDestroy {slot} (wf : Memory.wf s = true) : NextWf (execKeyDestroy slot s) := by
  unfold execKeyDestroy
  refine nextWf_serve wf (fun _ _ h => wf_withRequest h (fun _ => ?_))
  dsimp only
  split
  · exact wf_answer h
  · exact wf_ite (wf_answer h) (wf_answer (wf_mk h))

theorem nextWf_execLaunchSubmit {slot} (wf : Memory.wf s = true) : NextWf (execLaunchSubmit slot s) := by
  unfold execLaunchSubmit
  refine nextWf_serve wf fun _ _ served => wf_withRequest served fun _ => wf_ite (wf_post served) ?_
  split
  · exact wf_answer served
  · extract_lets r
    split
    next added =>
    have wfAdded := wf_of_journalAdd served added
    split
    · exact wf_answer (wf_sendOut (wf_journalSet wfAdded))
    · exact wf_answer (wf_sendOut (wf_acceptLaunch wfAdded))

theorem nextWf_execLaunchAbort {slot} (wf : Memory.wf s = true) : NextWf (execLaunchAbort slot s) := by
  unfold execLaunchAbort
  refine nextWf_serve wf (fun _ _ h => wf_withRequest h (fun _ => ?_))
  split
  · exact wf_answer h
  · exact wf_answer (wf_abortLaunch h)

theorem nextWf_execPerfRead {slot} (wf : Memory.wf s = true) : NextWf (execPerfRead slot s) :=
  nextWf_serve wf (fun _ _ h => wf_answerWith h h)

theorem nextWf_execTimeRead {slot} (wf : Memory.wf s = true) : NextWf (execTimeRead slot s) :=
  nextWf_serve wf (fun _ _ h => wf_answerWith h h)

theorem nextWf_execTrapReport {slot} (wf : Memory.wf s = true) : NextWf (execTrapReport slot s) :=
  nextWf_serve wf (fun _ _ h => wf_ite (wf_answer (wf_reportTrap h)) (wf_post h))

/-! ### Proxies -/

theorem wf_sendProxy {v c k data} (wf : Memory.wf s = true) : Memory.wf (sendProxy s v c k data) = true :=
  wf_post (wf_modSlot (wf_sendOut (wf_modTenant (wf_setControl (wf_writeEntry (wf_modTenant (wf_ite wf (wf_hdmWrite wf))))))))

theorem wf_waitBlock {v} (wf : Memory.wf s = true) : Memory.wf (waitBlock s v) = true := wf_ite (wf_answer wf) (wf_again wf)

theorem nextWf_proxied {n slot} (wf : Memory.wf s = true) : NextWf (proxied n slot s) := by
  unfold proxied
  refine nextWf_serve wf (fun _ _ h => wf_ite h (wf_withRequest h (fun _ => wf_ite (wf_answer h)
    (wf_ite (wf_answer h) (wf_ite (wf_answer h) ?_)))))
  split
  · exact wf_answer h
  · split
    · exact wf_waitBlock h
    · exact wf_ite (wf_sendProxy h) (wf_waitBlock h)

theorem wf_endProxy {v} (wf : Memory.wf s = true) : Memory.wf (endProxy s v) = true := by
  unfold endProxy
  split
  · exact wf_modSlot (wf_modTenant wf)
  · exact wf

theorem wf_closeHandle {t h} (wf : Memory.wf s = true) : Memory.wf (closeHandle t s h) = true := wf_noteClosed (wf_modTenant wf)

theorem wf_replyProxy {v j status result} (wf : Memory.wf s = true) : Memory.wf (replyProxy s v j status result) = true := by
  unfold replyProxy
  extract_lets t k s₀ a c moved written s₁ s₂
  have wf₀ : Memory.wf s₀ = true := wf_journalSet wf
  have wfMoved : ∀ u, moved = some u → Memory.wf u = true := by
    intro u e
    unfold moved at e
    split at e
    · exact wf_of_agentWrite wf₀ e
    · cases e
      exact wf₀
  have wfWritten : Memory.wf (written.getD s₀) = true := by
    cases e : written with
    | none => exact wf₀
    | some u =>
      obtain ⟨m, em, ew⟩ := Option.bind_eq_some_iff.mp e
      exact wf_of_agentWrite (wfMoved m em) ew
  exact wf_answer (wf_ite (wf_modTenant (wf_endProxy wfWritten)) (wf_ite (wf_closeHandle (wf_endProxy wfWritten))
    (wf_endProxy wfWritten)))

theorem nextWf_execProxyTimeout {tenant jseq} (wf : Memory.wf s = true) : NextWf (execProxyTimeout tenant jseq s) := by
  unfold execProxyTimeout
  split
  · exact nextWf_idleEvent wf
  · exact nextWf_ite (wf_post wf) (wf_pollWindow (wf_answer (wf_endProxy (wf_journalSet wf))))

/-! ### The edges of the device -/

theorem nextWf_execDramRequestIssue {req} (wf : Memory.wf s = true) : NextWf (execDramRequestIssue req s) :=
  nextWf_ite (wf_post wf) (wf_chargeRequest wf)

theorem nextWf_execBudgetRefresh (wf : Memory.wf s = true) : NextWf (execBudgetRefresh s) :=
  nextWf_ite (nextWf_idleEvent wf) (nextWf_ite (wf_post wf) (wf_ite (wf_refreshBudgets wf) (wf_postOnce (wf_refreshBudgets wf))))

theorem nextWf_execCxlMemRequest {req} (wf : Memory.wf s = true) : NextWf (execCxlMemRequest req s) := by
  unfold execCxlMemRequest
  refine nextWf_ite (wf_sendOut wf) ?_
  split
  · exact nextWf_ite (wf_sendOut wf) (wf_sendOut wf)
  · exact wf_foldl (fun _ _ h' => wf_pollWindow h') (wf_sendOut (Memory.wf_plainWrite wf _ _))

theorem wf_deliverSlots {port slots} (wf : Memory.wf s = true) : Memory.wf (deliverSlots s port slots) = true :=
  wf_foldl (fun _ _ h => wf_post (wf_mk (wf_mk h))) wf

theorem wf_replayFlits {port} (wf : Memory.wf s = true) : Memory.wf (replayFlits s port) = true := wf_ite (wf_mk wf) wf

theorem nextWf_execKrytukFlitReceive {port flit} (wf : Memory.wf s = true) : NextWf (execKrytukFlitReceive port flit s) :=
  nextWf_ite (wf_sendOut wf) (wf_deliverSlots (wf_replayFlits (wf_mk wf)))

theorem wf_dropReq {id} (wf : Memory.wf s = true) : Memory.wf (dropReq s id) = true := wf_mk wf

theorem wf_respond {r status data} (wf : Memory.wf s = true) : Memory.wf (respond s r status data) = true := wf_sendAnswer wf

theorem wf_of_remoteLine {r need write n t} (wf : Memory.wf s = true) (e : remoteLine s r need write n = .ok (u, t)) :
    Memory.wf u = true := by
  unfold remoteLine at e
  split at e
  · cases e
  · split at e
    · cases e
    · split at e
      · next e' =>
        split at e <;> cases e
        exact wf_chargeLine (wf_of_engineCheck wf e')
      · cases e
      · cases e

theorem wf_remoteMessage {r target n arg} (wf : Memory.wf s = true) : Memory.wf (remoteMessage s r target n arg) = true :=
  wf_ite (wf_respond (wf_dropReq wf)) (wf_ite (wf_respond (wf_dropReq wf)) (wf_ite (wf_post wf)
    (wf_setHart (wf_mk (wf_dropReq (wf_chargeHandler wf))))))

theorem wf_remoteAmo {r a} (wf : Memory.wf s = true) : Memory.wf (remoteAmo s r a) = true := by
  unfold remoteAmo
  dsimp only
  split
  · exact wf_respond (wf_dropReq wf)
  · next e2 =>
      refine wf_ite (wf_post wf) ?_
      split <;> exact wf_respond (wf_amoApply (wf_dropReq (wf_of_remoteLine wf e2)))

theorem nextWf_execRemoteRequestExecute {req} (wf : Memory.wf s = true) : NextWf (execRemoteRequestExecute req s) := by
  unfold execRemoteRequestExecute
  split
  · exact nextWf_idleEvent wf
  · split
    · split
      · exact wf_respond (wf_dropReq wf)
      · next e3 => split <;> exact wf_respond (wf_dropReq (wf_of_remoteLine wf e3))
    · split
      · exact wf_respond (wf_dropReq wf)
      · next e3 =>
          exact nextWf_ite (wf_post wf) (wf_respond (wf_dropReq (Memory.wf_writeStored (wf_dropL1 (wf_of_remoteLine wf e3)) _ _ _ _ _)))
    · exact wf_remoteAmo wf
    · exact wf_remoteMessage wf
    · exact wf_respond (wf_dropReq wf)
    · exact wf_respond (wf_dropReq wf)
    · dsimp only
      split
      · exact wf_sendReply (wf_dropReq wf)
      · exact wf_dropReq wf

theorem nextWf_execLinkTraining {dev grouped} (wf : Memory.wf s = true) : NextWf (execLinkTraining dev grouped s) := wf_mk wf

/-! ### The control space -/

theorem wf_writePtroot {die w} (wf : Memory.wf s = true) : Memory.wf (writePtroot s die w) = true :=
  wf_sendFlights (wf_setStamp (wf_setPtroot wf))

theorem wf_of_controlWrite {h va n x} (wf : Memory.wf s = true) (e : controlWrite s h va n x = some u) : Memory.wf u = true := by
  unfold controlWrite at e
  split at e
  · obtain ⟨i, -, rfl⟩ := Option.map_eq_some_iff.mp e
    exact wf_setCounter (wf_mk wf)
  · split at e <;> cases e
    exact wf_writePtroot wf

/-! ### Loads and stores -/

theorem wf_loadInto {d p id r} (wf : Memory.wf s = true) : Memory.wf (loadInto s d p id r) = true := wf_ite wf (wf_modMe wf)

theorem nextWf_execLd {sz d a off} (wf : Memory.wf s = true) : NextWf (execLd sz d a off s) := by
  unfold execLd
  dsimp only
  split
  · split
    · exact nextWf_waitFor wf
    · exact nextWf_afterFences wf (nextWf_orderedBefore wf (wf_retire (wf_modMe (wf_orderedAfter wf))))
  · exact nextWf_withAccess wf (fun _ _ h => nextWf_withSlots h (nextWf_inOrder h
      (wf_issued (wf_loadInto (wf_sendAccess (wf_mk (wf_mk (wf_orderedLoad h))))))))

theorem nextWf_execSt {sz r a off} (wf : Memory.wf s = true) : NextWf (execSt sz r a off s) := by
  unfold execSt
  dsimp only
  split
  · next e =>
    split at e
    · exact nextWf_afterFences wf (nextWf_orderedBefore wf (wf_retire (wf_orderedAfter (wf_of_controlWrite wf e))))
    · cases e
  · exact nextWf_withAccess wf fun u t wfU =>
      nextWf_withSlots wfU (nextWf_inOrder wfU (nextWf_afterSettle wfU
        (wf_issued (wf_sendAccess (wf_of_startOp (wf_orderedStore wfU) rfl)))))

theorem nextWf_execMemoryResponse {op} (wf : Memory.wf s = true) : NextWf (execMemoryResponse op s) := by
  unfold execMemoryResponse
  split
  · exact nextWf_idleEvent wf
  · split
    · exact nextWf_ite (wf_post wf) (nextWf_ite (wf_post (wf_modOp wf)) (wf_modHart (wf_dropOp wf)))
    · exact nextWf_ite (wf_post wf) (nextWf_ite (wf_post (wf_modOp wf)) (wf_modHart (wf_dropOp wf)))
    · exact nextWf_idleEvent wf

/-! ### Management -/

theorem wf_nextLayout (wf : Memory.wf s = true) : Memory.wf (nextLayout s) = true := wf_mk wf

theorem wf_arbitrateAll (wf : Memory.wf s = true) : Memory.wf (arbitrateAll s) = true := wf_postAll wf

theorem nextWf_execTenantConfig {tenant cfg} (wf : Memory.wf s = true) : NextWf (execTenantConfig tenant cfg s) := by
  unfold execTenantConfig
  refine nextWf_ite (nextWf_idleEvent wf) ?_
  split
  · exact nextWf_ite (nextWf_idleEvent wf) (wf_arbitrateAll (wf_nextLayout (wf_modTenant wf)))
  · exact wf_modTenant wf

theorem nextWf_execGroupConfig {cfg} (wf : Memory.wf s = true) : NextWf (execGroupConfig cfg s) := by
  unfold execGroupConfig
  split
  · exact nextWf_ite (nextWf_idleEvent wf) (wf_startShoot (wf_mk wf))
  · exact nextWf_ite (nextWf_idleEvent wf) (wf_mk wf)

theorem nextWf_execCounterAssign {ctr tenant} (wf : Memory.wf s = true) : NextWf (execCounterAssign ctr tenant s) :=
  nextWf_ite (nextWf_idleEvent wf) (wf_retestCounter (wf_mk wf))

theorem nextWf_execIsolationSet {entry cfg} (wf : Memory.wf s = true) : NextWf (execIsolationSet entry cfg s) :=
  nextWf_ite (nextWf_idleEvent wf) (wf_nextLayout (wf_mk wf))

theorem nextWf_execLayoutSet {tenant base size va} (wf : Memory.wf s = true) : NextWf (execLayoutSet tenant base size va s) :=
  nextWf_ite (nextWf_idleEvent wf) (wf_pollWindow (wf_setControl (wf_nextLayout (wf_modTenant wf))))

theorem wf_pldm {r} (wf : Memory.wf s = true) : Memory.wf (pldm s r) = true := wf_sendOut wf

theorem nextWf_execFirmwareImageReceive {image} (wf : Memory.wf s = true) : NextWf (execFirmwareImageReceive image s) :=
  nextWf_ite (wf_pldm wf) (nextWf_ite (wf_pldm wf) (wf_pldm (wf_mk wf)))

theorem nextWf_execFirmwareActivate (wf : Memory.wf s = true) : NextWf (execFirmwareActivate s) := by
  unfold execFirmwareActivate
  refine nextWf_ite (wf_pldm wf) ?_
  split
  · exact wf_pldm wf
  · exact nextWf_ite (wf_pldm wf) (wf_post (wf_pldm (wf_mk wf)))

theorem wf_loadBank {b} (wf : Memory.wf s = true) : Memory.wf (loadBank s b) = true := wf_mk wf

theorem nextWf_execHandover {step} (wf : Memory.wf s = true) : NextWf (execHandover step s) := by
  unfold execHandover
  dsimp only
  split
  · exact nextWf_ite (wf_post (wf_pauseSlices (wf_mk wf))) (nextWf_idleEvent wf)
  · exact nextWf_ite (nextWf_idleEvent wf) (nextWf_ite (wf_post wf) (wf_post (wf_loadBank (wf_mk wf))))
  · exact nextWf_ite (nextWf_idleEvent wf) (wf_resumeSlices (wf_mk wf))

theorem nextWf_execFirmwareSelftestFail (wf : Memory.wf s = true) : NextWf (execFirmwareSelftestFail s) :=
  nextWf_ite (wf_pldm (wf_resumeSlices (wf_loadBank (wf_mk wf)))) (nextWf_idleEvent wf)

theorem nextWf_execSensorRead {id inst} (wf : Memory.wf s = true) : NextWf (execSensorRead id inst s) :=
  nextWf_ite (wf_pldm wf) (nextWf_ite (wf_pldm wf) (wf_pldm wf))

theorem nextWf_execSensorUpdate {id inst} (wf : Memory.wf s = true) : NextWf (execSensorUpdate id inst s) :=
  nextWf_ite (nextWf_idleEvent wf) (wf_mk wf)

theorem nextWf_execThermalThrottle {steps} (wf : Memory.wf s = true) : NextWf (execThermalThrottle steps s) := wf_mk wf

theorem nextWf_execPowerCapSet {watts} (wf : Memory.wf s = true) : NextWf (execPowerCapSet watts s) :=
  nextWf_ite (wf_mk wf) (nextWf_idleEvent wf)

theorem nextWf_execClusterIdleEntry {clus} (wf : Memory.wf s = true) : NextWf (execClusterIdleEntry clus s) :=
  nextWf_ite (nextWf_idleEvent wf) (nextWf_ite (wf_post wf) (wf_foldl (fun _ _ h => wf_modCore h) (wf_modCluster wf)))

theorem nextWf_execClusterWake {clus} (wf : Memory.wf s = true) : NextWf (execClusterWake clus s) := wf_noteEmpty (wf_modCluster wf)

theorem wf_raiseSoftware (wf : Memory.wf s = true) : Memory.wf (raiseSoftware s) = true := by
  unfold raiseSoftware
  dsimp only
  split
  · exact wf_modHart wf
  · exact wf

theorem nextWf_execServiceTimerExpiry {h} (wf : Memory.wf s = true) : NextWf (execServiceTimerExpiry h s) :=
  nextWf_ite (wf_raiseSoftware (wf_modHart wf)) (nextWf_idleEvent wf)

end

end Sys2Proof.Proofs
end

section
/-!
PROOFS. Every step keeps the canonical form of memory, part 5 of 7: the matrix engine, dispatch and resumption, retirement, resets, and
attestation.
-/

namespace Sys2Proof.Proofs

open Sys2Proof Sys2Proof.Machine Sys2Proof.Claims

section

variable {s u : State}

/-! ### The matrix engine -/

theorem wf_modSlice {core f} (wf : Memory.wf s = true) : Memory.wf (modSlice s core f) = true := wf_modCore wf

theorem wf_ownSlice (wf : Memory.wf s = true) : Memory.wf (ownSlice s) = true := wf_modSlice wf

theorem nextWf_execMcfg {a b} (wf : Memory.wf s = true) : NextWf (execMcfg a b s) := by
  unfold execMcfg
  refine nextWf_ite (nextWf_illegal wf) (nextWf_ite (nextWf_waitFor wf) ?_)
  dsimp only
  split
  · exact nextWf_trapR wf
  · exact nextWf_ite (nextWf_trapR wf) (nextWf_ite (nextWf_illegal wf) (nextWf_done4 (wf_modSlice (wf_ownSlice wf))))

theorem nextWf_execMstat {d} (wf : Memory.wf s = true) : NextWf (execMstat d s) :=
  nextWf_ite (nextWf_illegal wf) (nextWf_done4With (wf_ite (wf_acquireAt (wf_ownSlice wf)) (wf_ownSlice wf)))

theorem nextWf_queueMatrix {op e} (wf : Memory.wf s = true) : NextWf (queueMatrix s op e) :=
  nextWf_ite (nextWf_waitFor wf) (nextWf_done4 (wf_post (wf_modCore wf)))

theorem wf_startOwn {core p} (wf : Memory.wf s = true) : Memory.wf (startOwn s core p) = true := wf_post (wf_modCore wf)

theorem wf_of_planeRights {a p n t keyh x} (wf : Memory.wf s = true) (e : planeRights s a p n t keyh = .ok u x) : Memory.wf u = true := by
  unfold planeRights at e
  split at e
  · cases e
  · next e1 =>
    have ranged := wf_of_plbRange wf e1
    split at e
    · cases e
    · split at e
      · cases e
      · next e2 =>
        have righted := wf_of_plbRight ranged e2
        dsimp only at e
        repeat' split at e
        all_goals cases e
        all_goals exact righted

theorem wf_of_planeCheck {a p n x} (wf : Memory.wf s = true) (e : planeCheck s a p n = .ok u x) : Memory.wf u = true := by
  unfold planeCheck at e
  dsimp only at e
  split at e
  · exact wf_of_planeRights wf e
  · split at e
    · cases e
    · cases e
    · split at e
      · cases e
      · split at e
        · cases e
        · exact wf_of_planeRights wf e
  · cases e

theorem wf_of_readPieces {a l acc r} (wf : Memory.wf s = true) (e : readPieces a l s acc = .ok (u, r)) : Memory.wf u = true := by
  induction l generalizing s acc with
  | nil =>
    cases e
    exact wf
  | cons p l ih =>
    unfold readPieces at e
    split at e
    · cases e
    · cases e
    · next e' =>
      split at e
      · cases e
      · split at e
        · cases e
        · exact ih (wf_sendUnit (wf_of_planeCheck wf e')) e

theorem wf_of_fillColumns {a r k0 cnt kp l pl iv x} (wf : Memory.wf s = true) (e : fillColumns a r k0 cnt kp l s pl iv = .ok (u, x)) :
    Memory.wf u = true := by
  induction l generalizing s pl iv with
  | nil =>
    cases e
    exact wf
  | cons p l ih =>
    unfold fillColumns at e
    split at e
    · exact ih wf e
    · dsimp only at e
      split at e
      · cases e
      · next e' => exact ih (wf_of_readPieces wf e') e

theorem wf_of_fillPlane {a tid k0 n0 x} (wf : Memory.wf s = true) (e : fillPlane s a tid k0 n0 = .ok (u, x)) : Memory.wf u = true := by
  unfold fillPlane at e
  dsimp only at e
  split at e
  · cases e
  · split at e
    · cases e
    · split at e
      · cases e
      · exact wf_of_fillColumns wf e

theorem nextWf_execMldwExecute {core} (wf : Memory.wf s = true) : NextWf (execMldwExecute core s) := by
  unfold execMldwExecute
  dsimp only
  split
  · exact nextWf_idleEvent wf
  · refine nextWf_ite (wf_post wf) ?_
    split
    · exact wf_post wf
    · exact wf_queueFault (wf_modSlice (wf_modSlice (wf_startOwn wf)))
    · next e4 => exact wf_modSlice (wf_of_fillPlane (wf_modSlice (wf_startOwn wf)) e4)

theorem nextWf_execMswapExecute {core} (wf : Memory.wf s = true) : NextWf (execMswapExecute core s) := by
  unfold execMswapExecute
  dsimp only
  split
  · exact nextWf_idleEvent wf
  · exact nextWf_ite (wf_post wf) (wf_modSlice (wf_startOwn wf))

theorem wf_mismatch {members} (wf : Memory.wf s = true) : Memory.wf (mismatch s members) = true :=
  wf_foldl (fun _ _ h => wf_takeTrap h) wf

theorem wf_dropGathering {clus id} (wf : Memory.wf s = true) : Memory.wf (dropGathering s clus id) = true := wf_modCluster wf

theorem wf_arrive {n kind a b} (wf : Memory.wf s = true) : Memory.wf (arrive s n kind a b) = true := by
  unfold arrive
  dsimp only
  split
  · exact wf_mismatch (wf_foldl (fun _ _ h => wf_dropGathering h) wf)
  · split
    · exact wf_ite (wf_post (wf_modCluster (wf_modMe wf))) (wf_modCluster (wf_modMe wf))
    · exact wf_modCluster (wf_mk (wf_modMe wf))

theorem nextWf_joint {i kind a b} (wf : Memory.wf s = true) : NextWf (joint i kind a b s) := by
  unfold joint
  split
  · exact nextWf_ite (wf_modMe wf) (nextWf_afterRelease wf (wf_arrive (wf_ownSlice wf)))
  · exact nextWf_illegal wf

theorem wf_departGang {id m} (wf : Memory.wf s = true) : Memory.wf (departGang id s m) = true := wf_modHart (wf_acquireAt (wf_modCore wf))

theorem nextWf_execGangGatherComplete {clus gather} (wf : Memory.wf s = true) : NextWf (execGangGatherComplete clus gather s) := by
  unfold execGangGatherComplete
  split
  · exact nextWf_idleEvent wf
  · split
    · exact nextWf_idleEvent wf
    · exact nextWf_ite (nextWf_idleEvent wf) (nextWf_ite (wf_post wf) (nextWf_ite (wf_mismatch (wf_dropGathering wf))
        (wf_post (wf_foldl (fun _ _ h => wf_departGang h) (wf_modCluster (wf_dropGathering wf))))))

theorem wf_startJoint {g} (wf : Memory.wf s = true) : Memory.wf (startJoint s g) = true := wf_foldl (fun _ _ h => wf_modCore h) wf

theorem wf_dropJoint {ops clus} (wf : Memory.wf s = true) : Memory.wf (dropJoint s ops clus) = true :=
  wf_modCluster (wf_foldl (fun _ _ h => wf_modCore h) wf)

theorem wf_stopJoint {g code addr} (wf : Memory.wf s = true) : Memory.wf (stopJoint s g code addr) = true :=
  wf_foldl (fun _ _ h => wf_queueFault (wf_modSlice h)) (wf_dropJoint wf)

theorem nextWf_withJoint {id : Nat} {retry : Event} {k : State → Gang → GangMember → Result} (wf : Memory.wf s = true)
    (cont : ∀ u x y, Memory.wf u = true → NextWf (k u x y)) : NextWf (withJoint s id retry k) := by
  unfold withJoint
  split
  · exact nextWf_idleEvent wf
  · split
    · exact nextWf_idleEvent wf
    · exact nextWf_ite (nextWf_idleEvent wf) (nextWf_ite (cont _ _ _ (wf_startJoint wf)) (wf_post wf))

theorem nextWf_jointRuns {l} (wf : Memory.wf s = true) : NextWf (jointRuns s l) := wf_post wf

theorem nextWf_execMzeroExecute {gang} (wf : Memory.wf s = true) : NextWf (execMzeroExecute gang s) :=
  nextWf_withJoint wf (fun _ _ _ h => nextWf_ite (wf_stopJoint h) (nextWf_jointRuns (wf_foldl (fun _ _ h' => wf_modSlice h') h)))

theorem wf_errorStop {g mode addr} (wf : Memory.wf s = true) : Memory.wf (errorStop s g mode addr) = true :=
  wf_stopJoint (wf_foldl (fun _ _ h => wf_modSlice h) wf)

theorem nextWf_execMstrExecute {gang} (wf : Memory.wf s = true) : NextWf (execMstrExecute gang s) := by
  unfold execMstrExecute
  refine nextWf_withJoint wf (fun _ _ _ h => ?_)
  dsimp only
  split
  · exact wf_stopJoint h
  · split
    · exact wf_errorStop h
    · exact nextWf_jointRuns (wf_foldl (fun _ _ h' => wf_modSlice h') h)

theorem wf_drainMember {flush m} (wf : Memory.wf s = true) : Memory.wf (drainMember flush s m) = true :=
  wf_foldl (fun _ _ h => Memory.wf_engineWrite h _ _ _ _) (wf_modSlice wf)

theorem nextWf_execMdrnExecute {gang} (wf : Memory.wf s = true) : NextWf (execMdrnExecute gang s) := by
  unfold execMdrnExecute
  refine nextWf_withJoint wf (fun _ _ _ h => ?_)
  dsimp only
  split
  · exact wf_stopJoint h
  · split
    · exact wf_errorStop h
    · exact nextWf_jointRuns (wf_foldl (fun _ _ h' => wf_drainMember h') h)

theorem nextWf_execMatrixCommandComplete {core} (wf : Memory.wf s = true) : NextWf (execMatrixCommandComplete core s) := by
  unfold execMatrixCommandComplete
  dsimp only
  split
  · exact nextWf_idleEvent wf
  · exact wf_dropJoint wf
  · exact wf_modCore wf

theorem wf_of_reloadPlane {a p x} (wf : Memory.wf s = true) (e : reloadPlane s a p = .ok (u, x)) : Memory.wf u = true := by
  unfold reloadPlane at e
  split at e
  · cases e
    exact wf
  · split at e
    · cases e
    · split at e
      · cases e
      · exact wf_of_fillPlane wf e

/-! ### Dispatch and resumption -/

theorem wf_endSlice {clus key cause} (wf : Memory.wf s = true) : Memory.wf (endSlice s clus key cause) = true :=
  wf_offerCluster (wf_post (wf_setSlice (wf_foldl (fun _ _ h => wf_setPreempt h) wf)))

theorem nextWf_execSliceEnd {clus tenant row} (wf : Memory.wf s = true) : NextWf (execSliceEnd clus tenant row s) := by
  unfold execSliceEnd
  refine nextWf_ite (nextWf_idleEvent wf) (nextWf_ite (wf_post wf) ?_)
  split
  · exact wf_endSlice wf
  · exact wf_post wf

theorem wf_endSlices {tenant} (wf : Memory.wf s = true) : Memory.wf (endSlices s tenant) = true :=
  wf_foldl (fun _ _ h => wf_foldl (fun _ _ h' => wf_endSlice h') h) wf

theorem nextWf_execDeadlineExpiry {clus tenant row} (wf : Memory.wf s = true) : NextWf (execDeadlineExpiry clus tenant row s) := by
  unfold execDeadlineExpiry
  dsimp only
  split
  · exact nextWf_idleEvent wf
  · exact nextWf_ite (nextWf_idleEvent wf) (nextWf_ite (wf_post wf) (wf_setSlice (wf_foldl (fun _ _ h => wf_setPreempt h) wf)))

theorem nextWf_execForcedStop {h} (wf : Memory.wf s = true) : NextWf (execForcedStop h s) :=
  nextWf_ite (wf_stopHart wf) (nextWf_idleEvent wf)

theorem nextWf_execContextRelease {h} (wf : Memory.wf s = true) : NextWf (execContextRelease h s) := by
  unfold execContextRelease
  split
  · exact nextWf_ite (wf_releaseStopped wf) (nextWf_idleEvent wf)
  · exact nextWf_idleEvent wf

theorem wf_powerUp {core ctx} (wf : Memory.wf s = true) : Memory.wf (powerUp s core ctx) = true := wf_modCore wf

theorem wf_countStart {clus launch node core} (wf : Memory.wf s = true) : Memory.wf (countStart s clus launch node core) = true :=
  wf_modCluster wf

theorem wf_forgetPlanes {core launch} (wf : Memory.wf s = true) : Memory.wf (forgetPlanes s core launch) = true := wf_mk wf

theorem nextWf_execHartStart {core ctx} (wf : Memory.wf s = true) : NextWf (execHartStart core ctx s) := by
  unfold execHartStart
  refine nextWf_ite (nextWf_idleEvent wf) ?_
  split
  · exact nextWf_ite (nextWf_idleEvent wf) (wf_postOnce wf)
  · exact wf_postOnce wf
  · split
    · exact nextWf_idleEvent wf
    · split
      · exact nextWf_idleEvent wf
      · extract_lets s₁ s₂ s₃ s₄ s₅
        have wf₃ : Memory.wf s₃ = true := wf_chargeAgent (wf_acquireAt (wf_countStart wf))
        have wf₅ : Memory.wf s₅ = true :=
          wf_forgetPlanes (wf_setHart (wf_takeSlice (wf_powerUp (Memory.wf_loadLocal wf₃ _))))
        exact nextWf_ite (wf_post wf) (wf_ite wf₅ (wf_offerCluster wf₅))

theorem wf_of_restorePlane {a h p put} (wf : Memory.wf s = true) (e : restorePlane s a h p put = some u) : Memory.wf u = true := by
  unfold restorePlane at e
  split at e
  · cases e
  · cases e
    exact wf_queueFault (wf_modSlice wf)
  · next e' =>
    cases e
    exact wf_modSlice (wf_of_reloadPlane wf e')

theorem wf_of_restoreSlice {r p} (wf : Memory.wf s = true) (e : restoreSlice s r p = some u) : Memory.wf u = true := by
  obtain ⟨t, first, second⟩ := Option.bind_eq_some_iff.mp e
  exact wf_of_restorePlane (wf_of_restorePlane (wf_modSlice wf) first) second

theorem wf_adoptCmds {h old new} (wf : Memory.wf s = true) : Memory.wf (adoptCmds s h old new) = true := wf_modCore wf

theorem nextWf_execHartResume {core ctx} (wf : Memory.wf s = true) : NextWf (execHartResume core ctx s) := by
  unfold execHartResume
  refine nextWf_ite (nextWf_idleEvent wf) ?_
  split
  · exact nextWf_ite (nextWf_idleEvent wf) (wf_postOnce wf)
  · exact wf_postOnce wf
  · next r _ =>
    refine nextWf_ite (wf_postAll wf) ?_
    extract_lets h again planes s₁ s₂ base s₃ s₄ s₅ s₆ s₇ restored
    have wfAgain : Memory.wf again = true := wf_post wf
    have wf₃ : Memory.wf s₃ = true := wf_foldl (fun _ _ h => Memory.wf_applyAll h _ _) (wf_takeSlice (wf_powerUp (wf_mk wf)))
    have wf₇ : Memory.wf s₇ = true := wf_foldl (fun _ _ h => wf_chargeLine h) (wf_forgetPlanes (wf_adoptCmds (wf_setHart wf₃)))
    clear_value planes
    have wfRestored : ∀ v, restored = some v → Memory.wf v = true := by
      intro v e
      unfold restored at e
      split at e
      · exact wf_of_restoreSlice wf₇ e
      · rw [← Option.some.inj e]
        exact wf₇
    clear_value restored
    generalize saveServed again r = served
    cases restored with
    | none => exact nextWf_ite wfAgain wfAgain
    | some v =>
      have wfV := wfRestored v rfl
      refine nextWf_ite wfAgain (wf_offerCluster (wf_settleNode ?_))
      split
      · exact wf_modSlice wfV
      · exact wfV

theorem nextWf_execInterruptTake {h} (wf : Memory.wf s = true) : NextWf (execInterruptTake h s) := by
  unfold execInterruptTake
  dsimp only
  split
  · exact nextWf_idleEvent wf
  · exact wf_setHart wf

theorem nextWf_execEngineFaultDelivery {h} (wf : Memory.wf s = true) : NextWf (execEngineFaultDelivery h s) := by
  unfold execEngineFaultDelivery
  dsimp only
  split
  · exact nextWf_idleEvent wf
  · exact nextWf_ite (wf_modHart (wf_modHart (wf_writeRecord (wf_leaveWaits wf))))
      (wf_modHart (wf_modHart (wf_writeRecord (wf_leaveWaits wf))))

/-! ### Retirement -/

theorem wf_of_selectAt {die cands level x} (wf : Memory.wf s = true) (e : selectAt s die cands level = some (u, x)) :
    Memory.wf u = true := by
  unfold selectAt at e
  split at e
  · cases e
    exact wf
  · split at e
    · cases e
    · dsimp only at e
      split at e
      · cases e
      · obtain ⟨y, -, e⟩ := Option.map_eq_some_iff.mp e
        exact wf_fst e (wf_modDie wf)

theorem wf_of_selectNode {die cands x} (wf : Memory.wf s = true) (e : selectNode s die cands = some (u, x)) : Memory.wf u = true := by
  obtain ⟨level, -, e⟩ := List.exists_of_findSome?_eq_some e
  exact wf_of_selectAt wf e

theorem wf_receiveEntry {clus e} (wf : Memory.wf s = true) : Memory.wf (receiveEntry s clus e) = true := wf_modDie wf

theorem nextWf_execDispatchArbitration {clus} (wf : Memory.wf s = true) : NextWf (execDispatchArbitration clus s) := by
  unfold execDispatchArbitration
  refine nextWf_ite (nextWf_idleEvent wf) ?_
  split
  · exact nextWf_idleEvent wf
  · next e2 =>
      refine nextWf_ite (wf_postAll wf) ?_
      dsimp only
      split
      · exact wf_receiveEntry (wf_of_selectNode wf e2)
      · split
        · exact wf_receiveEntry (wf_of_selectNode wf e2)
        · exact wf_post (wf_placeNode (wf_receiveEntry (wf_of_selectNode wf e2)))

theorem nextWf_execNodeAging {die} (wf : Memory.wf s = true) : NextWf (execNodeAging die s) := by
  unfold execNodeAging
  split
  · exact nextWf_idleEvent wf
  · exact wf_post (wf_modDie wf)

theorem wf_releaseSuccessor {l stamp sc id} (wf : Memory.wf s = true) : Memory.wf (releaseSuccessor l stamp sc s id) = true :=
  wf_readyNode (wf_modNode wf)

theorem wf_takeRecord {clus r} (wf : Memory.wf s = true) : Memory.wf (takeRecord s clus r) = true := by
  unfold takeRecord
  refine wf_ite wf ?_
  split
  · exact wf
  · split
    · exact wf
    · exact wf_foldl (fun _ _ h' => wf_releaseSuccessor h') (wf_chargeSuccessors wf)

theorem nextWf_execEventRecordTake {clus} (wf : Memory.wf s = true) : NextWf (execEventRecordTake clus s) := by
  unfold execEventRecordTake
  split
  · exact nextWf_idleEvent wf
  · refine wf_noteEmpty (wf_takeRecord ?_)
    split
    · exact wf_modCluster wf
    · exact wf_post (wf_modCluster (wf_modCluster wf))

theorem wf_launchDone {l} (wf : Memory.wf s = true) : Memory.wf (launchDone s l) = true :=
  wf_post (wf_ite (wf_addCounter (wf_finishEntry (wf_modLaunch wf))) (wf_finishEntry (wf_modLaunch wf)))

theorem nextWf_execLaunchEndSweep {launch} (wf : Memory.wf s = true) : NextWf (execLaunchEndSweep launch s) := by
  unfold execLaunchEndSweep
  split
  · exact nextWf_idleEvent wf
  · exact nextWf_ite (nextWf_idleEvent wf) (nextWf_ite (wf_post (wf_modLaunch wf))
      (nextWf_ite (wf_launchDone wf) (wf_post (wf_modLaunch wf))))

theorem wf_stopCmds {l} (wf : Memory.wf s = true) : Memory.wf (stopCmds s l) = true :=
  wf_foldl (fun _ _ h => wf_foldl (fun _ _ h' => wf_ite (wf_abandonCmd h') (wf_modCmd h')) h) wf

theorem wf_refuseHandle {l} (wf : Memory.wf s = true) : Memory.wf (refuseHandle s l) = true := by
  unfold refuseHandle
  split
  · exact wf_ite (wf_mk wf) wf
  · exact wf

theorem nextWf_execWorldRetire {launch} (wf : Memory.wf s = true) : NextWf (execWorldRetire launch s) := by
  unfold execWorldRetire
  split
  · exact nextWf_idleEvent wf
  · exact nextWf_ite (nextWf_idleEvent wf) (wf_post (wf_stopCmds (wf_refuseHandle wf)))

theorem wf_scrubVault {l} (wf : Memory.wf s = true) : Memory.wf (scrubVault s l) = true := by
  unfold scrubVault
  extract_lets mine kept s₁ s₂ s₃
  have wf₁ : Memory.wf s₁ = true := wf_foldl (fun _ _ h => Memory.wf_zeroKeys h _ _) wf
  have wf₂ : Memory.wf s₂ = true := wf_foldl (fun _ _ h => wf_stripGrants (Memory.wf_zeroKeys h _ _)) wf₁
  exact wf_returnWithdrawn (wf_ite wf₂ (wf_startShoot wf₂))

theorem wf_unloadLocal {l} (wf : Memory.wf s = true) : Memory.wf (unloadLocal s l) = true :=
  wf_ite wf (wf_foldl (fun _ _ h => wf_powerDown h) wf)

theorem wf_dropHandle {l} (wf : Memory.wf s = true) : Memory.wf (dropHandle s l) = true := by
  unfold dropHandle
  split
  · exact wf_ite (wf_mk wf) wf
  · exact wf

theorem nextWf_execWorldRetireScrub {launch} (wf : Memory.wf s = true) : NextWf (execWorldRetireScrub launch s) := by
  unfold execWorldRetireScrub
  split
  · exact nextWf_idleEvent wf
  · exact nextWf_ite (nextWf_idleEvent wf) (nextWf_ite (wf_post wf) (wf_foldl (fun _ _ h => wf_post (wf_noteEmpty h))
      (wf_foldl (fun _ _ h => wf_noteEmpty h) (wf_modLaunch (wf_dropHandle (wf_mk
      (wf_mk (wf_unloadLocal (wf_foldl (fun _ _ h => wf_endLoan h) (wf_scrubVault wf))))))))))

/-! ### Resets -/

theorem wf_renewTenant {t} (wf : Memory.wf s = true) : Memory.wf (renewTenant s t) = true :=
  wf_pollWindow (wf_ite (wf_modTenant wf) (wf_postOnce (wf_modTenant wf)))

theorem wf_supersede (wf : Memory.wf s = true) : Memory.wf (supersede s) = true :=
  wf_foldl (fun _ _ h => wf_ite (wf_renewTenant (wf_mk h)) h) wf

theorem wf_leaveAll {p} (wf : Memory.wf s = true) : Memory.wf (leaveAll s p) = true :=
  wf_foldl (fun _ _ h => wf_ite (wf_leaveWaits (wf_cancelGatherings h)) h) wf

theorem wf_stopGangs {p} (wf : Memory.wf s = true) : Memory.wf (stopGangs s p) = true :=
  wf_foldl (fun _ _ h => wf_ite (wf_stopJoint h) h) wf

theorem wf_leaveProxy {v} (wf : Memory.wf s = true) : Memory.wf (leaveProxy s v) = true := by
  unfold leaveProxy
  split
  · exact wf_endProxy (wf_journalSet wf)
  · exact wf

theorem wf_leaveCalls {p} (wf : Memory.wf s = true) : Memory.wf (leaveCalls s p) = true := wf_foldl (fun _ _ h => wf_leaveProxy h) wf

theorem wf_failHandlers {cores} (wf : Memory.wf s = true) : Memory.wf (failHandlers s cores) = true :=
  wf_foldl (fun _ _ h => wf_ite (wf_endHandler h) h) wf

theorem wf_forgetHarts {p full} (wf : Memory.wf s = true) : Memory.wf (forgetHarts s p full) = true := wf_mk wf

theorem wf_clearLocal {p} (wf : Memory.wf s = true) : Memory.wf (clearLocal s p) = true := Memory.wf_clearKeys wf _

theorem wf_restartShaten {cores} (wf : Memory.wf s = true) : Memory.wf (restartShaten s cores) = true :=
  wf_ite wf (wf_foldl (fun _ _ h => wf_setHart (wf_modCore h)) wf)

theorem wf_resumeHomes {cores} (wf : Memory.wf s = true) : Memory.wf (resumeHomes s cores) = true :=
  wf_foldl (fun _ _ h => wf_foldl (fun _ _ h' => wf_post h') h) wf

theorem wf_clearCores {cores full} (wf : Memory.wf s = true) : Memory.wf (clearCores s cores full) = true :=
  wf_restartShaten (wf_resumeHomes (wf_settleBarriers (wf_clearLocal (wf_foldl (fun _ _ h => wf_setCore h)
    (wf_forgetHarts (wf_mk (wf_mk (wf_leaveCalls (wf_failHandlers (wf_leaveAll (wf_stopGangs wf)))))))))))

theorem wf_endByReset {ls} (wf : Memory.wf s = true) : Memory.wf (endByReset s ls) = true := wf_foldl (fun _ _ h => wf_endLaunch h) wf

theorem nextWf_execCoreReset {core} (wf : Memory.wf s = true) : NextWf (execCoreReset core s) :=
  nextWf_ite (nextWf_idleEvent wf) (wf_noteEmpty (wf_foldl (fun _ _ h => wf_offerContext h) (wf_clearCores (wf_supersede wf))))

theorem wf_clearVaults {p} (wf : Memory.wf s = true) : Memory.wf (clearVaults s p) = true := Memory.wf_clearKeys wf _

theorem nextWf_execClusterReset {clus} (wf : Memory.wf s = true) : NextWf (execClusterReset clus s) :=
  nextWf_ite (nextWf_idleEvent wf) (wf_noteEmpty (wf_offerCluster (wf_modCluster (wf_clearVaults
    (wf_clearCores (wf_endByReset (wf_supersede wf)))))))

theorem nextWf_execEngineReset {core unit} (wf : Memory.wf s = true) : NextWf (execEngineReset core unit s) := by
  unfold execEngineReset
  dsimp only
  split
  · refine wf_foldl (fun _ _ h => ?_) (wf_supersede wf)
    split
    · exact wf_faultCmd h
    · exact h
  · exact wf_modCore (wf_foldl (fun _ _ h => wf_queueFault h) (wf_stopGangs (wf_supersede wf)))
  · exact nextWf_ite (wf_post (wf_supersede wf)) (nextWf_idleEvent (wf_supersede wf))

theorem nextWf_execBulkReset {die unit} (wf : Memory.wf s = true) : NextWf (execBulkReset die unit s) := by
  unfold execBulkReset
  split
  · exact nextWf_idleEvent wf
  · split
    · exact wf_faultCmd (wf_supersede wf)
    · exact nextWf_idleEvent wf

theorem nextWf_execWalkerReset {die unit} (wf : Memory.wf s = true) : NextWf (execWalkerReset die unit s) := by
  unfold execWalkerReset
  split
  · exact nextWf_idleEvent wf
  · exact wf_modDie (wf_supersede wf)

theorem wf_loseOp {o} (wf : Memory.wf s = true) : Memory.wf (loseOp s o) = true := wf_ite (wf_sendReply wf) (wf_modHart (wf_dropOp wf))

theorem nextWf_execLinkReset {port} (wf : Memory.wf s = true) : NextWf (execLinkReset port s) :=
  wf_foldl (fun _ _ h => wf_loseOp h) (wf_mk (wf_supersede wf))

theorem wf_clearCounters {die} (wf : Memory.wf s = true) : Memory.wf (clearCounters s die) = true :=
  wf_foldl (fun _ _ h => wf_retestCounter h) (wf_mk wf)

theorem nextWf_execDieReset {die} (wf : Memory.wf s = true) : NextWf (execDieReset die s) := by
  unfold execDieReset
  extract_lets s₁ s₂ s₃ s₄ s₅ s₆
  have wf₄ : Memory.wf s₄ = true := wf_clearVaults (wf_clearCores (wf_endByReset (wf_supersede wf)))
  have wf₆ : Memory.wf s₆ = true := wf_ite (wf_mk wf₄) (wf_resumeSlices (wf_mk wf₄))
  exact nextWf_ite (nextWf_idleEvent wf) (wf_foldl (fun _ _ h => wf_noteEmpty h) (Memory.wf_renewView (wf_clearCounters wf₆) _))

theorem wf_lostLaunch {l} (wf : Memory.wf s = true) : Memory.wf (lostLaunch s l) = true := by
  unfold lostLaunch
  split
  · exact wf
  · exact wf_modLaunch (wf_ite (wf_finishEntry wf) wf)

theorem wf_abortProxies {t} (wf : Memory.wf s = true) : Memory.wf (abortProxies s t) = true :=
  wf_foldl (fun _ _ h => wf_journalSet h) (wf_modTenant wf)

theorem wf_startUp {f} (wf : Memory.wf s = true) : Memory.wf (startUp f s) = true := wf_mk wf

theorem nextWf_execWarmReset (wf : Memory.wf s = true) : NextWf (execWarmReset s) := by
  unfold execWarmReset
  refine nextWf_ite (nextWf_idleEvent wf) ?_
  extract_lets s₁ s₂ cells keys start s₃ s₄ s₅
  have wf₂ : Memory.wf s₂ = true := wf_foldl (fun _ _ h => wf_abortProxies h) (wf_foldl (fun _ _ h => wf_lostLaunch h) wf)
  have wf₃ : Memory.wf s₃ = true := by
    rw [Memory.wf_iff] at wf₂ ⊢
    exact ⟨rfl, fun _ listed => (List.not_mem_nil listed).elim, wf₂.2.2⟩
  have wf₅ : Memory.wf s₅ = true := wf_foldl (fun _ _ h => Memory.wf_setView h _ (mapWf_homeCells _ _)) (wf_startUp wf₃)
  exact wf_foldl (fun _ _ h => wf_renewTenant h) wf₅

theorem nextWf_execColdReset (wf : Memory.wf s = true) : NextWf (execColdReset s) :=
  nextWf_ite (wf_mk (Memory.wf_coldState (wf_mk wf))) (nextWf_ite (wf_post wf) (wf_startUp (Memory.wf_coldState wf)))

theorem wf_abortCall {v} (wf : Memory.wf s = true) : Memory.wf (abortCall s v) = true := wf_ite wf (wf_answer (wf_leaveProxy wf))

theorem wf_tenantStop {t} (wf : Memory.wf s = true) : Memory.wf (tenantStop s t) = true :=
  wf_mk (wf_foldl (fun _ _ h => wf_closeHandle h) (wf_foldl (fun _ _ h => wf_abortCall h)
    (wf_foldl (fun _ _ h => wf_endLaunch h) (wf_foldl (fun _ _ h => wf_finishEntry h) (wf_modTenant (wf_endSlices wf))))))

theorem wf_tenantRestart {t} (wf : Memory.wf s = true) : Memory.wf (tenantRestart s t) = true := by
  unfold tenantRestart
  extract_lets ids s₁ mine s₂ s₃ s₄ s₅
  have wf₁ : Memory.wf s₁ = true := wf_foldl (fun _ _ h => wf_setCounter h) wf
  have wf₂ : Memory.wf s₂ = true := wf_mk wf₁
  have wf₄ : Memory.wf s₄ = true := wf_setControl (wf_setControl (wf_setControl (wf_modTenant wf₂)))
  have wf₅ : Memory.wf s₅ = true := wf_journalAdd wf₄
  exact wf_pollWindow (wf_sendOut wf₅)

theorem nextWf_execTenantReset {tenant} (wf : Memory.wf s = true) : NextWf (execTenantReset tenant s) := by
  unfold execTenantReset
  refine nextWf_ite (nextWf_idleEvent wf) (nextWf_ite (wf_postOnce (wf_tenantStop (wf_raiseExternal (wf_supersede wf)))) ?_)
  exact nextWf_ite (wf_postOnce (wf_flushClosed wf)) (wf_tenantRestart (wf_mk (wf_flushClosed wf)))

/-! ### Attestation and keys -/

theorem wf_hear {code body} (wf : Memory.wf s = true) : Memory.wf (hear s code body) = true := wf_mk wf

theorem wf_reply {r} (wf : Memory.wf s = true) : Memory.wf (reply s r) = true := wf_sendOut wf

theorem wf_plainReply {body} (wf : Memory.wf s = true) : Memory.wf (plainReply s body) = true := wf_reply (wf_mk wf)

theorem wf_signedReply {body} (wf : Memory.wf s = true) : Memory.wf (signedReply s body) = true := wf_reply (wf_mk (wf_mk wf))

theorem nextWf_execGetVersion (wf : Memory.wf s = true) : NextWf (execGetVersion s) := wf_plainReply (wf_hear (wf_mk wf))

theorem nextWf_execGetCapabilities (wf : Memory.wf s = true) : NextWf (execGetCapabilities s) := by
  unfold execGetCapabilities
  split
  · exact wf_plainReply (wf_hear (wf_mk wf))
  · exact wf_reply wf

theorem nextWf_execNegotiateAlgorithms {asym hash} (wf : Memory.wf s = true) : NextWf (execNegotiateAlgorithms asym hash s) := by
  unfold execNegotiateAlgorithms
  split
  · exact nextWf_ite (wf_plainReply (wf_hear (wf_mk wf))) (wf_reply wf)
  · exact wf_reply wf

theorem nextWf_execGetDigests (wf : Memory.wf s = true) : NextWf (execGetDigests s) :=
  nextWf_ite (wf_plainReply (wf_hear wf)) (wf_reply wf)

theorem nextWf_execGetCertificate {offset len} (wf : Memory.wf s = true) : NextWf (execGetCertificate offset len s) :=
  nextWf_ite (wf_plainReply (wf_hear wf)) (wf_reply wf)

theorem nextWf_execChallenge {nonce} (wf : Memory.wf s = true) : NextWf (execChallenge nonce s) :=
  nextWf_ite (wf_signedReply (wf_hear wf)) (wf_reply wf)

theorem nextWf_execGetMeasurements {index tenant jseq} (wf : Memory.wf s = true) : NextWf (execGetMeasurements index tenant jseq s) := by
  unfold execGetMeasurements
  refine nextWf_ite ?_ (wf_reply wf)
  dsimp only
  split
  · exact wf_signedReply (wf_hear wf)
  · exact wf_reply (wf_hear wf)

theorem nextWf_execKeyExchange {exch} (wf : Memory.wf s = true) : NextWf (execKeyExchange exch s) :=
  nextWf_ite (wf_signedReply (wf_hear (wf_mk wf))) (wf_reply wf)

theorem nextWf_execFinish {verify} (wf : Memory.wf s = true) : NextWf (execFinish verify s) := by
  unfold execFinish
  split
  · exact nextWf_ite (wf_plainReply (wf_hear (wf_mk wf))) (wf_reply wf)
  · exact wf_reply wf

theorem wf_keyReply {r} (wf : Memory.wf s = true) : Memory.wf (keyReply s r) = true := wf_sendOut wf

theorem nextWf_execKeyRelease {bytes} (wf : Memory.wf s = true) : NextWf (execKeyRelease bytes s) := by
  unfold execKeyRelease
  generalize parseKeyRequest bytes = req
  dsimp only
  split
  · split
    · exact wf_keyReply wf
    · split
      · exact wf_keyReply wf
      · split
        · exact wf_keyReply wf
        · exact wf_keyReply (wf_mk wf)
  · exact wf_keyReply wf

end

end Sys2Proof.Proofs
end

section
/-!
PROOFS. Every step keeps the canonical form of memory, part 6 of 7: counters and barriers, the tensor table, vector instructions, and the
host's commands.
-/

namespace Sys2Proof.Proofs

open Sys2Proof Sys2Proof.Machine Sys2Proof.Claims

section

variable {s u : State}

/-! ### Counters and barriers -/

theorem nextWf_execSigc {d a b sc} (wf : Memory.wf s = true) : NextWf (execSigc d a b sc s) :=
  nextWf_ite (nextWf_illegal wf) (nextWf_ite (nextWf_trapR wf) (nextWf_afterRelease wf (nextWf_done4With (wf_addCounter wf))))

theorem nextWf_execWaitc {d a b sc} (wf : Memory.wf s = true) : NextWf (execWaitc d a b sc s) := by
  unfold execWaitc
  refine nextWf_ite (nextWf_illegal wf) (nextWf_ite (nextWf_trapR wf) ?_)
  split
  · exact nextWf_ite (nextWf_done4With (wf_acquireAt wf)) (nextWf_waitFor (wf_modMe wf))
  · exact nextWf_waitFor wf

theorem wf_joinBarrier {sc} (wf : Memory.wf s = true) : Memory.wf (joinBarrier s sc) = true := wf_ite (wf_mk wf) (wf_mk wf)

theorem nextWf_execBar {sc} (wf : Memory.wf s = true) : NextWf (execBar sc s) :=
  nextWf_ite (nextWf_illegal wf) (nextWf_afterRelease wf (wf_settleBarriers (wf_joinBarrier (wf_modMe wf))))

theorem wf_rotate {ms} (wf : Memory.wf s = true) : Memory.wf (rotate s ms) = true := by
  unfold rotate
  refine wf_foldl (fun _ _ h => ?_) wf
  split
  · exact Memory.wf_performWrite h _ _ _ _ _ _
  · exact h

theorem wf_endRound {ms} (wf : Memory.wf s = true) : Memory.wf (endRound s ms) = true :=
  wf_ite (wf_foldl (fun _ _ h => wf_modHart (wf_acquireAt h)) (wf_rotate (wf_modCluster wf)))
    (wf_foldl (fun _ _ h => wf_takeTrap h) (wf_modCluster wf))

theorem wf_settleRound {h} (wf : Memory.wf s = true) : Memory.wf (settleRound s h) = true := wf_ite (wf_endRound wf) wf

theorem wf_settleRing {h} (wf : Memory.wf s = true) : Memory.wf (settleRing s h) = true :=
  wf_foldl (fun _ _ h => wf_settleRound h) (wf_settleRound wf)

theorem nextWf_execCrot {a b} (wf : Memory.wf s = true) : NextWf (execCrot a b s) :=
  nextWf_ite (nextWf_illegal wf) (nextWf_ite (nextWf_trapR wf) (nextWf_ite (nextWf_trapR wf)
    (nextWf_afterRelease wf (wf_settleRing (wf_modCluster (wf_modMe wf))))))

/-! ### The tensor table -/

theorem nextWf_askTable {r} (wf : Memory.wf s = true) : NextWf (askTable s r) := nextWf_waitFor (wf_post (wf_mk wf))

theorem nextWf_execTdef {d a} (wf : Memory.wf s = true) : NextWf (execTdef d a s) := by
  unfold execTdef
  refine nextWf_ite (nextWf_illegal wf) (nextWf_withAccess wf (fun _ _ h => nextWf_withServed h (fun _ h' => ?_)))
  split
  · next e2 => exact nextWf_trapR (wf_of_loadBytes h' e2)
  · next e2 => exact nextWf_askTable (wf_of_loadBytes h' e2)

theorem wf_setTensor {tid t} (wf : Memory.wf s = true) : Memory.wf (setTensor s tid t) = true := wf_mk wf

theorem wf_withdrawTid {tid} (wf : Memory.wf s = true) : Memory.wf (withdrawTid s tid) = true := wf_mk wf

theorem wf_settleTensor {t h gen d v} (wf : Memory.wf s = true) : Memory.wf (settleTensor s t h gen d v) = true := wf_startShoot wf

theorem wf_noteExtent {h b} (wf : Memory.wf s = true) : Memory.wf (noteExtent s h b) = true := wf_modHart wf

theorem wf_tableStep {r} (wf : Memory.wf s = true) : Memory.wf (tableStep s r) = true := by
  unfold tableStep
  split
  · refine wf_ite wf ?_
    split
    · exact wf_takeTrap (wf_noteExtent wf)
    · exact wf_modHart (wf_setTensor wf)
  · refine wf_ite wf ?_
    split
    · exact wf_takeTrap wf
    · exact wf_ite (wf_takeTrap (wf_withdrawTid wf)) (wf_settleTensor (wf_setTensor wf))
  · refine wf_ite wf ?_
    split
    · exact wf_takeTrap wf
    · exact wf_settleTensor (wf_ite (wf_withdrawTid (wf_mk (wf_setTensor wf))) (wf_mk (wf_setTensor wf)))

theorem nextWf_execTensorTableOperation (wf : Memory.wf s = true) : NextWf (execTensorTableOperation s) := by
  unfold execTensorTableOperation
  split
  · exact nextWf_idleEvent wf
  · exact nextWf_ite (wf_post wf) (wf_tableStep (wf_mk wf))

/-! ### Vector instructions -/

theorem nextWf_vFinish {f len v fl} (wf : Memory.wf s = true) : NextWf (vFinish f len v fl s) := wf_modMe wf

theorem nextWf_vFinishX {f v} (wf : Memory.wf s = true) : NextWf (vFinishX f v s) := wf_modMe wf

theorem nextWf_vLanes {i len f w n regs op} (wf : Memory.wf s = true) : NextWf (vLanes i len f w n regs op s) :=
  nextWf_withVector wf (nextWf_vFinish wf)

/-! ### Float vector instructions -/

theorem nextWf_vConvert {i f sw dw op} (wf : Memory.wf s = true) : NextWf (vConvert i f sw dw op s) := nextWf_vLanes wf

theorem nextWf_convertInt {i f unsgn} (wf : Memory.wf s = true) : NextWf (convertInt i f unsgn s) :=
  nextWf_ite (nextWf_vConvert wf) (nextWf_vConvert wf)

/-! ### Vector loads and stores -/

theorem nextWf_withElems {w : Want} {l : List (Nat × Word)} {acc : List (Nat × Word × Target)}
    {k : State → List (Nat × Word × Target) → Result} (wf : Memory.wf s = true) (cont : ∀ u a, Memory.wf u = true → NextWf (k u a)) :
    NextWf (withElems w l s acc k) := by
  induction l generalizing s acc with
  | nil => exact cont _ _ wf
  | cons p l ih =>
    unfold withElems
    split
    · next e => exact ih (wf_of_checkAccess wf e)
    · exact nextWf_trapR wf
    · exact nextWf_waitWalk wf

theorem wf_readElems {n l acc} (wf : Memory.wf s = true) : Memory.wf (readElems n l s acc).1 = true := by
  induction l generalizing s acc with
  | nil => exact wf
  | cons p l ih => exact ih (wf_orderedLoad wf)

theorem nextWf_elemsInOrder {n : Nat} {ts : List (Nat × Word × Target)} {load store : Bool} {k : Result} (wf : Memory.wf s = true)
    (cont : NextWf k) : NextWf (elemsInOrder s n ts load store k) := by
  unfold elemsInOrder
  split
  · exact nextWf_waitFor wf
  · exact nextWf_afterFences wf (nextWf_orderedBefore wf cont)

theorem nextWf_vLoad {f kill es} (wf : Memory.wf s = true) : NextWf (vLoad s f kill es) := by
  unfold vLoad
  refine nextWf_withElems wf (fun _ _ h => nextWf_withSlots h (nextWf_elemsInOrder h ?_))
  dsimp only
  split
  · exact wf_retire (wf_modMe (wf_orderedAfter h))
  · refine wf_issued ?_
    split
    · exact wf_modMe (wf_modMe (wf_sendAccess (wf_mk (wf_mk (wf_readElems h)))))
    · exact wf_modMe (wf_sendAccess (wf_mk (wf_mk (wf_readElems h))))

theorem nextWf_vStore {f kill es} (wf : Memory.wf s = true) : NextWf (vStore s f kill es) := by
  unfold vStore
  refine nextWf_withElems wf (fun _ _ h => nextWf_withSlots h (nextWf_elemsInOrder h (nextWf_afterSettle h ?_)))
  dsimp only
  split
  · exact wf_retire (wf_modMe (wf_orderedAfter (wf_foldl (fun _ _ h' => wf_orderedStore h') h)))
  · exact wf_issued (wf_modMe (wf_sendAccess (wf_mk (wf_mk (wf_foldl (fun _ _ h' => wf_orderedStore h') h)))))

/-! ### The window of the host -/

theorem wf_commandDone {t c} (wf : Memory.wf s = true) : Memory.wf (commandDone s t c) = true := wf_finishEntry wf

theorem wf_commandFailed {t c reason} (wf : Memory.wf s = true) : Memory.wf (commandFailed s t c reason) = true := wf_finishEntry wf

theorem wf_startLaunch {b1 c} (wf : Memory.wf s = true) : Memory.wf (startLaunch s b1 c) = true := by
  unfold startLaunch
  exact wf_acceptLaunch wf

theorem wf_startSignal {t c} (wf : Memory.wf s = true) : Memory.wf (startSignal s t c) = true := wf_commandDone (wf_addCounter wf)

theorem wf_startAbort {t c} (wf : Memory.wf s = true) : Memory.wf (startAbort s t c) = true := by
  unfold startAbort
  split
  · exact wf_commandDone (wf_abortLaunch wf)
  · exact wf_commandDone wf

theorem wf_startMap {t c} (wf : Memory.wf s = true) : Memory.wf (startMap s t c) = true := wf_commandDone (wf_setRights (wf_mk wf))

theorem wf_startUnmap {t c} (wf : Memory.wf s = true) : Memory.wf (startUnmap s t c) = true := by
  unfold startUnmap
  split
  · exact wf_freeRange (wf_journalSet wf)
  · exact wf_commandDone wf

theorem wf_startReply {t c} (wf : Memory.wf s = true) : Memory.wf (startReply s t c) = true := by
  unfold startReply
  split
  · exact wf_commandDone (wf_replyProxy wf)
  · exact wf_commandDone wf

theorem wf_startCommand {t c} (wf : Memory.wf s = true) : Memory.wf (startCommand s t c) = true := by
  unfold startCommand
  split
  · exact wf_startLaunch wf
  · exact wf_startSignal wf
  · exact wf_startAbort wf
  · exact wf_commandDone wf
  · exact wf_startMap wf
  · exact wf_startUnmap wf
  · exact wf_startReply wf

theorem wf_takeEntry {t} (wf : Memory.wf s = true) : Memory.wf (takeEntry s t) = true := by
  unfold takeEntry
  extract_lets b record seq s₁ s₂
  have wf₂ : Memory.wf s₂ = true := wf_raiseOs (wf_setControl (wf_modTenant wf))
  split
  next added =>
  extract_lets c s₃ reason
  have wf₃ : Memory.wf s₃ = true := wf_modTenant (wf_of_journalAdd wf₂ added)
  exact wf_ite (wf_pollWindow (wf_commandFailed wf₃)) (wf_ite (wf_pollWindow (wf_startCommand wf₃)) (wf_post (wf_modTenant wf₃)))

theorem nextWf_takeKind {t mine} (wf : Memory.wf s = true) : NextWf (takeKind t mine s) :=
  nextWf_ite (nextWf_ite (wf_takeEntry wf) (nextWf_idleEvent wf)) (nextWf_idleEvent wf)

theorem nextWf_execHostLaunch {tenant} (wf : Memory.wf s = true) : NextWf (execHostLaunch tenant s) := nextWf_takeKind wf

theorem nextWf_execHostSignal {tenant} (wf : Memory.wf s = true) : NextWf (execHostSignal tenant s) := nextWf_takeKind wf

theorem nextWf_execHostAbort {tenant} (wf : Memory.wf s = true) : NextWf (execHostAbort tenant s) := nextWf_takeKind wf

theorem nextWf_execHostFence {tenant} (wf : Memory.wf s = true) : NextWf (execHostFence tenant s) := nextWf_takeKind wf

theorem nextWf_execHostMap {tenant} (wf : Memory.wf s = true) : NextWf (execHostMap tenant s) := nextWf_takeKind wf

theorem nextWf_execHostUnmap {tenant} (wf : Memory.wf s = true) : NextWf (execHostUnmap tenant s) := nextWf_takeKind wf

theorem nextWf_execProxyReply {tenant} (wf : Memory.wf s = true) : NextWf (execProxyReply tenant s) := nextWf_takeKind wf

theorem nextWf_execCommandWaitRelease {tenant} (wf : Memory.wf s = true) : NextWf (execCommandWaitRelease tenant s) := by
  unfold execCommandWaitRelease
  split
  · exact nextWf_idleEvent wf
  · exact nextWf_ite (wf_pollWindow (wf_startCommand (wf_modTenant wf))) (nextWf_ite (wf_post wf) (nextWf_idleEvent wf))

theorem nextWf_execCompletionRecord {tenant} (wf : Memory.wf s = true) : NextWf (execCompletionRecord tenant s) := by
  unfold execCompletionRecord
  extract_lets v ccons
  clear_value ccons
  split
  · exact nextWf_idleEvent wf
  · extract_lets s₁ s₂ s₃ s₄
    have wf₁ : Memory.wf s₁ = true := wf_hdmWrite wf
    have wf₃ : Memory.wf s₃ = true := wf_setControl (wf_modTenant wf₁)
    have wf₄ : Memory.wf s₄ = true := wf_ite (wf_sendOut wf₃) wf₃
    split
    · exact wf_post wf
    · exact wf_pollWindow (wf_ite wf₄ (wf_post wf₄))

end

end Sys2Proof.Proofs
end

section
/-!
PROOFS. Every step keeps the canonical form of memory, part 7 of 7: instructions and events as they are dispatched, issue, and the step.
-/

namespace Sys2Proof.Proofs

open Sys2Proof Sys2Proof.Machine Sys2Proof.Claims

section

variable {s u : State}

/-! ### Dispatch of instructions -/

theorem nextWf_exec {i : Instr} (wf : Memory.wf s = true) : NextWf (exec i s) :=
  match i with
  | .add _ _ _ | .sub _ _ _ | .andR _ _ _ | .orR _ _ _ | .xorR _ _ _ | .shl _ _ _ | .shr _ _ _ | .sra _ _ _ | .slt _ _ _
  | .sltu _ _ _ | .minS _ _ _ | .maxS _ _ _ | .minu _ _ _ | .maxu _ _ _ | .mul _ _ _ | .mulh _ _ _ | .mulhu _ _ _ | .div _ _ _
  | .divu _ _ _ | .rem _ _ _ | .remu _ _ _ | .clz _ _ | .ctz _ _ | .popc _ _ | .bswap _ _ | .addi _ _ _ | .andi _ _ _ | .ori _ _ _
  | .xori _ _ _ | .shli _ _ _ | .shri _ _ _ | .srai _ _ _ | .slti _ _ _ | .sltui _ _ _ | .lui _ _ | .extu _ _ _ _ | .exts _ _ _ _
  | .ins _ _ _ _ | .addpc _ _ => nextWf_done4With wf
  | .bcond _ _ _ _ => nextWf_ite (wf_modMe wf) (nextWf_done4 wf)
  | .jal _ _ | .jalr _ _ _ => wf_modMe wf
  | .yield => nextWf_ite (nextWf_done4 wf) (wf_modMe wf)
  | .wfi => nextWf_execWfi wf
  | .eret => nextWf_execEret wf
  | .ebreak => nextWf_trapR wf
  | .mfsr _ _ => nextWf_ite (nextWf_illegal wf) (nextWf_ite (nextWf_privilege wf) (nextWf_done4With wf))
  | .mtsr _ _ => nextWf_ite (nextWf_illegal wf) (nextWf_ite (nextWf_privilege wf) (wf_modMe wf))
  | .safept _ => nextWf_ite (nextWf_done4 wf) (nextWf_ite (nextWf_waitFor wf) (wf_stopHart wf))
  | .halt | .haltRetain _ => nextWf_ite (nextWf_illegal wf) (nextWf_haltHart wf)
  | .ld _ _ _ _ => nextWf_execLd wf
  | .st _ _ _ _ => nextWf_execSt wf
  | .amo _ _ _ _ _ => nextWf_execAmo wf
  | .ord _ _ | .gang _ => nextWf_ite (nextWf_illegal wf) (wf_modMe wf)
  | .fence _ _ => nextWf_execFence wf
  | .msend _ _ _ _ => nextWf_execMsend wf
  | .mwait _ => nextWf_ite (nextWf_illegal wf) (nextWf_ite (nextWf_waitFor wf) (nextWf_takeMpend wf))
  | .mret => nextWf_execMret wf
  | .mpoll _ => nextWf_ite (nextWf_done4With wf) (nextWf_takeMpend wf)
  | .qpush _ _ => nextWf_execQpush wf
  | .qpop _ _ => nextWf_execQpop wf
  | .qpeek _ _ => nextWf_execQpeek wf
  | .qcnt _ _ | .cpstat _ _ => nextWf_ite (nextWf_illegal wf) (nextWf_done4With wf)
  | .tfetch _ => nextWf_execTfetch wf
  | .tspawn _ _ => nextWf_execTspawn wf
  | .tdone => nextWf_withTileDone wf (fun _ h => nextWf_done4 h)
  | .svc _ _ _ => nextWf_execSvc wf
  | .svcStatusReturn _ => nextWf_execSvcStatusReturn wf
  | .sigc _ _ _ _ => nextWf_execSigc wf
  | .waitc _ _ _ _ => nextWf_execWaitc wf
  | .bar _ => nextWf_execBar wf
  | .gangGatherComplete _ _ => nextWf_execGangGatherComplete wf
  | .grant _ _ => nextWf_execGrant wf
  | .revoke _ _ => nextWf_execRevoke wf
  | .pgreq _ _ _ => nextWf_execPgreq wf
  | .cpcmd _ _ _ _ _ => nextWf_execCpcmd wf
  | .cpcmdResume _ _ _ => nextWf_execCpcmdResume wf
  | .twait _ => nextWf_execTwait wf
  | .bkcmd _ _ _ _ _ => nextWf_execBkcmd wf
  | .bkcmdResume _ _ _ => nextWf_ite (nextWf_illegal wf) (nextWf_afterFences wf (wf_resumeCmd wf))
  | .colcmd _ _ _ => nextWf_execColcmd wf
  | .crot _ _ => nextWf_execCrot wf
  | .tdef _ _ => nextWf_execTdef wf
  | .tver _ _ | .tkill _ => nextWf_ite (nextWf_illegal wf) (nextWf_askTable wf)
  | .mcfg _ _ => nextWf_execMcfg wf
  | .mldw _ | .mswap => nextWf_ite (nextWf_illegal wf) (nextWf_queueMatrix (wf_ownSlice wf))
  | .mstr _ _ | .mdrn _ _ | .mzero => nextWf_joint wf
  | .mstat _ => nextWf_execMstat wf
  | .winit _ _ => nextWf_execWinit wf
  | .wpush _ _ _ => nextWf_execWpush wf
  | .wread _ _ | .wflip _ _ | .wreset _ _ => nextWf_ite (nextWf_illegal wf) (nextWf_waccIssue wf)
  | .wstat _ _ => nextWf_execWstat wf
  | .vadd _ | .vsub _ | .vmul _ | .vmulh _ | .vmin _ | .vmax _ | .vminu _ | .vmaxu _ | .vand _ | .vor _ | .vxor _ | .vshl _
  | .vshr _ | .vsra _ | .vsadd _ | .vssub _ | .vfadd _ | .vfsub _ | .vfmul _ | .vfma _ | .vfnma _ | .vfmin _ | .vfmax _ | .vfdiv _
  | .vabs _ | .vneg _ | .vfabs _ | .vfneg _ | .vfsqrt _ | .vrcp _ | .vrsq _ | .vexp2 _ | .vlog2 _ | .vsin _ | .vcos _ | .vcmpeq _
  | .vcmplt _ | .vcmpltu _ | .vfcmpeq _ | .vfcmplt _ | .vfcmple _ | .vfcmpun _ | .vcvt _ | .vperm _ | .vsel _ | .vredsum _
  | .vredmax _ | .vredmin _ | .vfredsum _ | .vfredmax _ | .vscan _ | .vdot _ | .vtdot _ | .vunpk3 _ | .vpack3 _ | .vhad _ | .vqnt _
  | .vbcast _ | .vins _ | .vslup _ | .vsldn _ | .vcprs _ | .kand _ | .kor _ | .kxor _ | .kandn _ | .knot _ | .vdeq _
  | .vadd16 _ _ _ | .vsub16 _ _ _ | .vmul16 _ _ _ | .vmin16 _ _ _ | .vmax16 _ _ _ | .vand16 _ _ | .vor16 _ _ | .vxor16 _ _
  | .vfadd16 _ _ _ | .vfsub16 _ _ _ | .vfmul16 _ _ _ | .vfmin16 _ _ _ | .vfmax16 _ _ _ | .vmv _ _ | .vsadd16 _ _ _ | .vfabs16 _ _ _ =>
    nextWf_withVector wf (nextWf_vFinish wf)
  | .vcvti _ | .vcvtiu _ => nextWf_convertInt wf
  | .vld _ => nextWf_withVector wf (nextWf_ite (nextWf_trapR wf) (nextWf_vLoad wf))
  | .vst _ => nextWf_withVector wf (nextWf_ite (nextWf_trapR wf) (nextWf_vStore wf))
  | .vlds _ | .vgth _ => nextWf_withVector wf (nextWf_vLoad wf)
  | .vsts _ | .vsct _ => nextWf_withVector wf (nextWf_vStore wf)
  | .vext _ | .kcnt _ | .kfst _ => nextWf_withVector wf (nextWf_vFinishX wf)
  | .memoryResponse _ => nextWf_execMemoryResponse wf
  | .homeReplyArrival _ => nextWf_execHomeReplyArrival wf
  | .amoHomeExecute _ => nextWf_execAmoHomeExecute wf
  | .messageArrival _ => nextWf_execMessageArrival wf
  | .handlerBudgetExhausted _ => nextWf_execHandlerBudgetExhausted wf
  | .waccHomeExecute _ => nextWf_execWaccHomeExecute wf
  | .waccFlipComplete _ _ => nextWf_execWaccFlipComplete wf
  | .remoteWriteApply _ => nextWf_execRemoteWriteApply wf
  | .settleWrite _ _ => nextWf_execSettleWrite wf
  | .hartStart _ _ => nextWf_execHartStart wf
  | .dispatchArbitration _ => nextWf_execDispatchArbitration wf
  | .nodeAging _ => nextWf_execNodeAging wf
  | .eventRecordTake _ => nextWf_execEventRecordTake wf
  | .launchEndSweep _ => nextWf_execLaunchEndSweep wf
  | .worldRetire _ => nextWf_execWorldRetire wf
  | .worldRetireScrub _ => nextWf_execWorldRetireScrub wf
  | .sliceEnd _ _ _ => nextWf_execSliceEnd wf
  | .deadlineExpiry _ _ _ => nextWf_execDeadlineExpiry wf
  | .forcedStop _ => nextWf_execForcedStop wf
  | .contextRelease _ => nextWf_execContextRelease wf
  | .hartResume _ _ => nextWf_execHartResume wf
  | .interruptTake _ => nextWf_execInterruptTake wf
  | .engineFaultDelivery _ => nextWf_execEngineFaultDelivery wf
  | .engineCommandStart _ _ => nextWf_execEngineCommandStart wf
  | .enginePiece _ _ => nextWf_execEnginePiece wf
  | .bulkChunkSelect _ => nextWf_execBulkChunkSelect wf
  | .engineCommandComplete _ _ => nextWf_execEngineCommandComplete wf
  | .mldwExecute _ => nextWf_execMldwExecute wf
  | .mswapExecute _ => nextWf_execMswapExecute wf
  | .mstrExecute _ => nextWf_execMstrExecute wf
  | .mzeroExecute _ => nextWf_execMzeroExecute wf
  | .mdrnExecute _ => nextWf_execMdrnExecute wf
  | .matrixCommandComplete _ => nextWf_execMatrixCommandComplete wf
  | .pageWalkComplete _ => nextWf_execPageWalkComplete wf
  | .plbShootdown _ _ => nextWf_execPlbShootdown wf
  | .plbShootdownAck _ _ => nextWf_execPlbShootdownAck wf
  | .atsTranslationCompletion _ _ _ _ => nextWf_execAtsTranslationCompletion wf
  | .atsInvalidationRequest _ _ _ => nextWf_execAtsInvalidationRequest wf
  | .atsInvalidationCompletion _ => nextWf_execAtsInvalidationCompletion wf
  | .pageRequestResponse _ _ => nextWf_execPageRequestResponse wf
  | .pgreqTimeout _ => nextWf_execPgreqTimeout wf
  | .completionTimeout _ _ => nextWf_execCompletionTimeout wf
  | .dramRequestIssue _ => nextWf_execDramRequestIssue wf
  | .budgetRefresh => nextWf_execBudgetRefresh wf
  | .krytukFlitReceive _ _ => nextWf_execKrytukFlitReceive wf
  | .remoteRequestExecute _ => nextWf_execRemoteRequestExecute wf
  | .cxlMemRequest _ => nextWf_execCxlMemRequest wf
  | .hostLaunch _ => nextWf_execHostLaunch wf
  | .hostSignal _ => nextWf_execHostSignal wf
  | .hostAbort _ => nextWf_execHostAbort wf
  | .hostFence _ => nextWf_execHostFence wf
  | .hostMap _ => nextWf_execHostMap wf
  | .hostUnmap _ => nextWf_execHostUnmap wf
  | .proxyReply _ => nextWf_execProxyReply wf
  | .commandWaitRelease _ => nextWf_execCommandWaitRelease wf
  | .completionRecord _ => nextWf_execCompletionRecord wf
  | .proxyTimeout _ _ => nextWf_execProxyTimeout wf
  | .svcNop _ => nextWf_execSvcNop wf
  | .console _ | .fileOpen _ | .fileRead _ | .fileWrite _ | .fileClose _ | .connOpen _ | .connSend _ | .connRecv _ | .connClose _ =>
    nextWf_proxied wf
  | .rangeAlloc _ => nextWf_execRangeAlloc wf
  | .rangeFree _ => nextWf_execRangeFree wf
  | .pageMap _ => nextWf_execPageMap wf
  | .pageUnmap _ => nextWf_execPageUnmap wf
  | .residency _ _ => nextWf_execResidency wf
  | .migrate _ => nextWf_execMigrate wf
  | .counterAlloc _ => nextWf_execCounterAlloc wf
  | .counterFree _ => nextWf_execCounterFree wf
  | .keyDestroy _ => nextWf_execKeyDestroy wf
  | .launchSubmit _ => nextWf_execLaunchSubmit wf
  | .launchAbort _ => nextWf_execLaunchAbort wf
  | .tenantConfig _ _ => nextWf_execTenantConfig wf
  | .groupConfig _ => nextWf_execGroupConfig wf
  | .perfRead _ => nextWf_execPerfRead wf
  | .timeRead _ => nextWf_execTimeRead wf
  | .trapReport _ => nextWf_execTrapReport wf
  | .counterAssign _ _ => nextWf_execCounterAssign wf
  | .isolationSet _ _ => nextWf_execIsolationSet wf
  | .layoutSet _ _ _ _ => nextWf_execLayoutSet wf
  | .handover _ => nextWf_execHandover wf
  | .getVersion => nextWf_execGetVersion wf
  | .getCapabilities => nextWf_execGetCapabilities wf
  | .negotiateAlgorithms _ _ => nextWf_execNegotiateAlgorithms wf
  | .getDigests => nextWf_execGetDigests wf
  | .getCertificate _ _ => nextWf_execGetCertificate wf
  | .challenge _ => nextWf_execChallenge wf
  | .getMeasurements _ _ _ => nextWf_execGetMeasurements wf
  | .keyExchange _ => nextWf_execKeyExchange wf
  | .finish _ => nextWf_execFinish wf
  | .keyRelease _ => nextWf_execKeyRelease wf
  | .firmwareImageReceive _ => nextWf_execFirmwareImageReceive wf
  | .firmwareActivate => nextWf_execFirmwareActivate wf
  | .firmwareSelftestFail => nextWf_execFirmwareSelftestFail wf
  | .sensorRead _ _ => nextWf_execSensorRead wf
  | .sensorUpdate _ _ => nextWf_execSensorUpdate wf
  | .coldReset => nextWf_execColdReset wf
  | .warmReset => nextWf_execWarmReset wf
  | .dieReset _ => nextWf_execDieReset wf
  | .clusterReset _ => nextWf_execClusterReset wf
  | .coreReset _ => nextWf_execCoreReset wf
  | .engineReset _ _ => nextWf_execEngineReset wf
  | .bulkReset _ _ => nextWf_execBulkReset wf
  | .walkerReset _ _ => nextWf_execWalkerReset wf
  | .linkReset _ => nextWf_execLinkReset wf
  | .tenantReset _ => nextWf_execTenantReset wf
  | .thermalThrottle _ => nextWf_execThermalThrottle wf
  | .powerCapSet _ => nextWf_execPowerCapSet wf
  | .clusterIdleEntry _ => nextWf_execClusterIdleEntry wf
  | .clusterWake _ => nextWf_execClusterWake wf
  | .rightsRequestArrival _ => nextWf_execRightsRequestArrival wf
  | .tensorTableOperation => nextWf_execTensorTableOperation wf
  | .serviceTimerExpiry _ => nextWf_execServiceTimerExpiry wf
  | .linkTraining _ _ => nextWf_execLinkTraining wf

/-! ### Issue -/

theorem wf_of_fetchPart {h pc at' n w len} (wf : Memory.wf s = true) (e : fetchPart s h pc at' n = .word u w len) :
    Memory.wf u = true := by
  unfold fetchPart at e
  split at e
  · next e1 =>
    have checked := wf_of_checkAccess wf e1
    dsimp only at e
    split at e
    · cases e
    · split at e
      · next e2 =>
        cases e
        exact wf_of_fetchLine (wf_ite checked (wf_sendReads checked)) e2
      · cases e
  · cases e
  · cases e

theorem wf_of_fetch {h pc w len} (wf : Memory.wf s = true) (e : fetch s h pc = .word u w len) : Memory.wf u = true := by
  unfold fetch at e
  split at e
  · split at e
    · next e1 =>
      have low := wf_of_fetchPart wf e1
      split at e
      · cases e
        exact low
      · split at e
        · next e2 =>
          cases e
          exact wf_of_fetchPart low e2
        · exact wf_of_fetchPart low e
    · exact wf_of_fetchPart wf e
  · split at e
    · next e1 => split at e <;> cases e <;> exact wf_of_fetchPart wf e1
    · exact wf_of_fetchPart wf e

theorem wf_enterTurn {h} (wf : Memory.wf s = true) : Memory.wf (enterTurn s h) = true := wf_modHart (wf_mk wf)

theorem wf_noteTurn {h} (wf : Memory.wf s = true) : Memory.wf (noteTurn s h) = true := by
  unfold noteTurn
  refine wf_ite (wf_ite wf (wf_modCore wf)) (wf_foldl (fun _ _ h => ?_) (wf_ite wf (wf_modCore wf)))
  dsimp only
  split
  · exact wf_ite h (wf_modHart h)
  · exact h

theorem wf_noteIssue {h} (wf : Memory.wf s = true) : Memory.wf (noteIssue s h) = true := wf_modHart (wf_noteTurn wf)

theorem wf_creditIssue {h} (wf : Memory.wf s = true) : Memory.wf (creditIssue s h) = true := wf_keepSlices (wf_ite wf (wf_noteIssue wf))

theorem wf_noteUnit {h len remain} (wf : Memory.wf s = true) : Memory.wf (noteUnit s h len remain) = true := wf_modHart wf

/-- What an issue slot comes to goes on with memory in its canonical form. -/
def IssuedWf (r : Issued) : Prop :=
  match r with
  | .done r => NextWf r
  | .run t _ => Memory.wf t = true

theorem issuedWf_issueInstr {h} (wf : Memory.wf s = true) : IssuedWf (issueInstr s h) := by
  unfold issueInstr
  dsimp only
  split
  · exact wf_noteIssue (wf_takeTrap (wf_noteUnit (wf_mk wf)))
  · exact nextWf_waitWalk (wf_mk wf)
  · exact nextWf_waitFor (wf_mk wf)
  · next e =>
    have fetched := wf_of_fetch wf e
    split
    · exact wf_noteIssue (wf_takeTrap (wf_mk fetched))
    · split
      · exact wf_noteIssue (wf_takeTrap (wf_mk fetched))
      · split
        · exact nextWf_waitFor (wf_mk fetched)
        · split
          · exact wf_noteIssue (wf_takeTrap (wf_mk fetched))
          · exact wf_noteUnit (wf_enterTurn fetched)

/-! ### Events -/

theorem nextWf_runEvent {e : Event} (wf : Memory.wf s = true) : NextWf (runEvent e s) :=
  match e with
  | .svcStatusReturn _ => nextWf_execSvcStatusReturn wf
  | .gangGatherComplete _ _ => nextWf_execGangGatherComplete wf
  | .memoryResponse _ => nextWf_execMemoryResponse wf
  | .homeReplyArrival _ => nextWf_execHomeReplyArrival wf
  | .amoHomeExecute _ => nextWf_execAmoHomeExecute wf
  | .messageArrival _ => nextWf_execMessageArrival wf
  | .handlerBudgetExhausted _ => nextWf_execHandlerBudgetExhausted wf
  | .waccHomeExecute _ => nextWf_execWaccHomeExecute wf
  | .waccFlipComplete _ _ => nextWf_execWaccFlipComplete wf
  | .remoteWriteApply _ => nextWf_execRemoteWriteApply wf
  | .settleWrite _ _ => nextWf_execSettleWrite wf
  | .hartStart _ _ => nextWf_execHartStart wf
  | .dispatchArbitration _ => nextWf_execDispatchArbitration wf
  | .nodeAging _ => nextWf_execNodeAging wf
  | .eventRecordTake _ => nextWf_execEventRecordTake wf
  | .launchEndSweep _ => nextWf_execLaunchEndSweep wf
  | .worldRetire _ => nextWf_execWorldRetire wf
  | .worldRetireScrub _ => nextWf_execWorldRetireScrub wf
  | .sliceEnd _ _ _ => nextWf_execSliceEnd wf
  | .deadlineExpiry _ _ _ => nextWf_execDeadlineExpiry wf
  | .forcedStop _ => nextWf_execForcedStop wf
  | .contextRelease _ => nextWf_execContextRelease wf
  | .hartResume _ _ => nextWf_execHartResume wf
  | .interruptTake _ => nextWf_execInterruptTake wf
  | .engineFaultDelivery _ => nextWf_execEngineFaultDelivery wf
  | .engineCommandStart _ _ => nextWf_execEngineCommandStart wf
  | .enginePiece _ _ => nextWf_execEnginePiece wf
  | .bulkChunkSelect _ => nextWf_execBulkChunkSelect wf
  | .engineCommandComplete _ _ => nextWf_execEngineCommandComplete wf
  | .mldwExecute _ => nextWf_execMldwExecute wf
  | .mswapExecute _ => nextWf_execMswapExecute wf
  | .mstrExecute _ => nextWf_execMstrExecute wf
  | .mzeroExecute _ => nextWf_execMzeroExecute wf
  | .mdrnExecute _ => nextWf_execMdrnExecute wf
  | .matrixCommandComplete _ => nextWf_execMatrixCommandComplete wf
  | .pageWalkComplete _ => nextWf_execPageWalkComplete wf
  | .plbShootdown _ _ => nextWf_execPlbShootdown wf
  | .plbShootdownAck _ _ => nextWf_execPlbShootdownAck wf
  | .atsTranslationCompletion _ _ _ _ => nextWf_execAtsTranslationCompletion wf
  | .atsInvalidationRequest _ _ _ => nextWf_execAtsInvalidationRequest wf
  | .atsInvalidationCompletion _ => nextWf_execAtsInvalidationCompletion wf
  | .pageRequestResponse _ _ => nextWf_execPageRequestResponse wf
  | .pgreqTimeout _ => nextWf_execPgreqTimeout wf
  | .completionTimeout _ _ => nextWf_execCompletionTimeout wf
  | .dramRequestIssue _ => nextWf_execDramRequestIssue wf
  | .budgetRefresh => nextWf_execBudgetRefresh wf
  | .krytukFlitReceive _ _ => nextWf_execKrytukFlitReceive wf
  | .remoteRequestExecute _ => nextWf_execRemoteRequestExecute wf
  | .cxlMemRequest _ => nextWf_execCxlMemRequest wf
  | .hostLaunch _ => nextWf_execHostLaunch wf
  | .hostSignal _ => nextWf_execHostSignal wf
  | .hostAbort _ => nextWf_execHostAbort wf
  | .hostFence _ => nextWf_execHostFence wf
  | .hostMap _ => nextWf_execHostMap wf
  | .hostUnmap _ => nextWf_execHostUnmap wf
  | .proxyReply _ => nextWf_execProxyReply wf
  | .commandWaitRelease _ => nextWf_execCommandWaitRelease wf
  | .completionRecord _ => nextWf_execCompletionRecord wf
  | .proxyTimeout _ _ => nextWf_execProxyTimeout wf
  | .svcNop _ => nextWf_execSvcNop wf
  | .console _ | .fileOpen _ | .fileRead _ | .fileWrite _ | .fileClose _ | .connOpen _ | .connSend _ | .connRecv _ | .connClose _ =>
    nextWf_proxied wf
  | .rangeAlloc _ => nextWf_execRangeAlloc wf
  | .rangeFree _ => nextWf_execRangeFree wf
  | .pageMap _ => nextWf_execPageMap wf
  | .pageUnmap _ => nextWf_execPageUnmap wf
  | .residency _ _ => nextWf_execResidency wf
  | .migrate _ => nextWf_execMigrate wf
  | .counterAlloc _ => nextWf_execCounterAlloc wf
  | .counterFree _ => nextWf_execCounterFree wf
  | .keyDestroy _ => nextWf_execKeyDestroy wf
  | .launchSubmit _ => nextWf_execLaunchSubmit wf
  | .launchAbort _ => nextWf_execLaunchAbort wf
  | .tenantConfig _ _ => nextWf_execTenantConfig wf
  | .groupConfig _ => nextWf_execGroupConfig wf
  | .perfRead _ => nextWf_execPerfRead wf
  | .timeRead _ => nextWf_execTimeRead wf
  | .trapReport _ => nextWf_execTrapReport wf
  | .counterAssign _ _ => nextWf_execCounterAssign wf
  | .isolationSet _ _ => nextWf_execIsolationSet wf
  | .layoutSet _ _ _ _ => nextWf_execLayoutSet wf
  | .handover _ => nextWf_execHandover wf
  | .getVersion => nextWf_execGetVersion wf
  | .getCapabilities => nextWf_execGetCapabilities wf
  | .negotiateAlgorithms _ _ => nextWf_execNegotiateAlgorithms wf
  | .getDigests => nextWf_execGetDigests wf
  | .getCertificate _ _ => nextWf_execGetCertificate wf
  | .challenge _ => nextWf_execChallenge wf
  | .getMeasurements _ _ _ => nextWf_execGetMeasurements wf
  | .keyExchange _ => nextWf_execKeyExchange wf
  | .finish _ => nextWf_execFinish wf
  | .keyRelease _ => nextWf_execKeyRelease wf
  | .firmwareImageReceive _ => nextWf_execFirmwareImageReceive wf
  | .firmwareActivate => nextWf_execFirmwareActivate wf
  | .firmwareSelftestFail => nextWf_execFirmwareSelftestFail wf
  | .sensorRead _ _ => nextWf_execSensorRead wf
  | .sensorUpdate _ _ => nextWf_execSensorUpdate wf
  | .coldReset => nextWf_execColdReset wf
  | .warmReset => nextWf_execWarmReset wf
  | .dieReset _ => nextWf_execDieReset wf
  | .clusterReset _ => nextWf_execClusterReset wf
  | .coreReset _ => nextWf_execCoreReset wf
  | .engineReset _ _ => nextWf_execEngineReset wf
  | .bulkReset _ _ => nextWf_execBulkReset wf
  | .walkerReset _ _ => nextWf_execWalkerReset wf
  | .linkReset _ => nextWf_execLinkReset wf
  | .tenantReset _ => nextWf_execTenantReset wf
  | .thermalThrottle _ => nextWf_execThermalThrottle wf
  | .powerCapSet _ => nextWf_execPowerCapSet wf
  | .clusterIdleEntry _ => nextWf_execClusterIdleEntry wf
  | .clusterWake _ => nextWf_execClusterWake wf
  | .rightsRequestArrival _ => nextWf_execRightsRequestArrival wf
  | .tensorTableOperation => nextWf_execTensorTableOperation wf
  | .serviceTimerExpiry _ => nextWf_execServiceTimerExpiry wf
  | .linkTraining _ _ => nextWf_execLinkTraining wf

theorem issuedWf_issue (wf : Memory.wf s = true) : IssuedWf (issue s) := by
  unfold issue
  split
  · exact wf
  · split
    · exact wf
    · exact wf_killHart wf
    · exact wf_supervise (wf_noteTurn (wf_mk wf))
    · exact nextWf_execHandlerBudgetExhausted wf
    · exact nextWf_execInterruptTake wf
    · exact nextWf_execEngineFaultDelivery wf
    · exact wf_waitStop wf
    · exact nextWf_execForcedStop wf
    · exact issuedWf_issueInstr wf

/-! ### The step -/

theorem nextWf_passed {r} (wf : NextWf r) : NextWf (passed r) := by
  cases r with
  | next t => exact wf_mk (s := t) wf
  | fault f => trivial
  | refused f => trivial

theorem nextWf_credited {h r} (wf : NextWf r) : NextWf (credited h r) := by
  cases r with
  | next t => exact wf_creditIssue (s := t) wf
  | fault f => trivial
  | refused f => trivial

theorem nextWf_issueStep (wf : Memory.wf s = true) : NextWf (issueStep s) := by
  have issued := issuedWf_issue wf
  unfold issueStep
  split
  · next e =>
    rw [e] at issued
    exact issued
  · next e =>
    rw [e] at issued
    exact nextWf_credited (nextWf_exec issued)

theorem nextWf_step (wf : Memory.wf s = true) : NextWf (step s) := by
  unfold step
  refine nextWf_passed ?_
  split
  · exact nextWf_issueStep wf
  · split
    · exact nextWf_runEvent (wf_mk wf)
    · exact wf

end

/-- Settles O25: every instruction, every event and every turn changes the views and the memory outside through operations that keep them in
canonical form. -/
theorem stepKeepsMemory : Obligations.StepKeepsMemory := by
  intro s t wf next
  have kept := nextWf_step wf
  rw [next] at kept
  exact kept

end Sys2Proof.Proofs
end
